-- ==== Sys2Proof/Word.lean ====
section
/-! DEFINITION. The machine's words and the plainest arithmetic on them (00_scope.md R8, 01_machine.md R22). -/
namespace Sys2Proof

/-- A 64-bit register or queue word. -/
abbrev Word := BitVec 64

/-- A byte of memory. -/
abbrev Byte := BitVec 8

/-- A 5-bit register field (R22). -/
abbrev Reg := BitVec 5

/-- A 4-bit field that names a tile register or an accumulator (R80). -/
abbrev TReg := BitVec 4

/-- A position of the module: core number times 16 plus slot. This is SLOTID (R43). -/
abbrev Pos := Nat

end Sys2Proof
end

