-- ==== Sys2Proof/Config.lean ====
section
/-! DEFINITION. What an implementation fixes and what the spec leaves open: constants without a value (log entries 6, 7). -/
namespace Sys2Proof.Config

/-- A free value: what the spec leaves open, applied to State's counter of such values (log entry 7). -/
opaque freeValue : Nat → Nat

/-- The features the hardware offers in FEAT0 to FEAT3 (21_module.md R488; log entry 6). -/
opaque offeredFeatures : Nat → Word

/-- What the boot configuration loads into the banker of a core: its entry point, its address space and its world
(20_containment_and_recovery.md R474; log entry 5). -/
opaque bankerEntry : Nat → Word
opaque bankerSpace : Nat → BitVec 12
opaque bankerWorld : Nat → Bool

/-- Do the signatures of an image verify over its signed bytes (21_module.md R483; log entry 5)? -/
opaque rsaVerifies : List (BitVec 8) → List (BitVec 8) → Bool
opaque slhVerifies : List (BitVec 8) → List (BitVec 8) → Bool

/-- What the signed boot configuration at an offset of a payload holds, whose layout the spec does not give: partitions, carve-outs,
pool ranges by partition, fabric ports with their partition and world (R450, R452, R496; log entry 5). -/
opaque bootParts : List (BitVec 8) → Nat
opaque bootCarves : List (BitVec 8) → List (Nat × Nat)
opaque bootPools : List (BitVec 8) → List (Nat × Nat × Nat)
opaque bootPorts : List (BitVec 8) → List (Nat × Nat × Bool)

/-- The world of a steward core under a boot configuration (R450; log entry 5). -/
opaque bootStewardWorld : List (BitVec 8) → Nat → Bool

/-- Bytes of the pool window that are populated (R487, R496; log entry 5). -/
opaque poolBytes : List (BitVec 8) → Nat

end Sys2Proof.Config
end

