-- ==== Sys2Proof/Machine/Bits.lean ====
section
/-! DEFINITION. Bit fields, sign extension and byte order (00_scope.md R7, R8). -/
namespace Sys2Proof.Machine

/-- Bits `lo` to `lo + n - 1` of `w`. -/
def bits (w lo n : Nat) : Nat := w / 2 ^ lo % 2 ^ n

/-- Bit `i` of `w`. -/
def bit (w i : Nat) : Bool := w / 2 ^ i % 2 == 1

/-- `w` with bits `lo` to `lo + n - 1` replaced by `v`. -/
def setBits (w lo n v : Nat) : Nat :=
  w % 2 ^ lo + (v % 2 ^ n) * 2 ^ lo + w / 2 ^ (lo + n) * 2 ^ (lo + n)

/-- A number as 64 bits. -/
def word (n : Nat) : Word := BitVec.ofNat 64 n

/-- An integer modulo 2^64. -/
def wordI (i : Int) : Word := BitVec.ofInt 64 i

/-- `n`'s low `k` bits read as two's complement. -/
def signed (k n : Nat) : Int :=
  let v := n % 2 ^ k
  if v < 2 ^ (k - 1) then (v : Int) else (v : Int) - (2 : Int) ^ k

/-- A bit list's number, first element least significant. -/
def ofBits : List Bool → Nat
  | [] => 0
  | b :: r => b.toNat + 2 * ofBits r

/-- The `n` low bits of `w`, least significant first. -/
def toBits : Nat → Nat → List Bool
  | 0, _ => []
  | n + 1, w => (w % 2 == 1) :: toBits n (w / 2)

/-- The `n` low bytes of `w` in memory order, least significant first (R8). -/
def toBytes : Nat → Nat → List Byte
  | 0, _ => []
  | n + 1, w => BitVec.ofNat 8 w :: toBytes n (w / 256)

/-- The number whose bytes stand in memory order (R8). -/
def ofBytes : List Byte → Nat
  | [] => 0
  | b :: r => b.toNat + 256 * ofBytes r

/-- Quotient rounded up. -/
def ceilDiv (a b : Nat) : Nat := (a + b - 1) / b

/-- Is `p` true of every number below `n`? -/
def allBelow (n : Nat) (p : Nat → Bool) : Bool := (List.range n).all p

/-- `f` applied to 0, 1, …, `n - 1` in turn. -/
def forUpto (n : Nat) (a : α) (f : Nat → α → α) : α := (List.range n).foldl (fun x i => f i x) a

/-- The number of one bits among the low `n`. -/
def popCount : Nat → Nat → Nat
  | 0, _ => 0
  | n + 1, w => w % 2 + popCount n (w / 2)

/-- The positions of the one bits among the low `n`, ascending. -/
def onesOf (n w : Nat) : List Nat := (List.range n).filter (bit w ·)

end Sys2Proof.Machine
end

