-- ==== Sys2Proof/Machine/Numbers.lean ====
section
/-! DEFINITION. Number formats, rounding, flags and numerical-event counts (04_number_formats.md R103-R124). -/
namespace Sys2Proof.Machine

/-- The element formats of Table 1-7. -/
inductive Format where
  | fp64 | fp32 | bf16 | fp16 | e4m3 | e5m2 | fp4 | vf8 | int8 | int32 | int64 | e5m3
  deriving DecidableEq, Repr

/-- The format of a code (R32); codes 0x0C to 0x1F are reserved. -/
def Format.ofCode : Nat → Option Format
  | 0 => some .fp64 | 1 => some .fp32 | 2 => some .bf16 | 3 => some .fp16 | 4 => some .e4m3
  | 5 => some .e5m2 | 6 => some .fp4 | 7 => some .vf8 | 8 => some .int8 | 9 => some .int32
  | 10 => some .int64 | 11 => some .e5m3 | _ => none

/-- The code of a format (R32). -/
def Format.code : Format → Nat
  | .fp64 => 0 | .fp32 => 1 | .bf16 => 2 | .fp16 => 3 | .e4m3 => 4 | .e5m2 => 5 | .fp4 => 6
  | .vf8 => 7 | .int8 => 8 | .int32 => 9 | .int64 => 10 | .e5m3 => 11

/-- Bits per element (R32); a coded VF8 element has no fixed width and counts as 0 here. -/
def Format.width : Format → Nat
  | .fp64 | .int64 => 64 | .fp32 | .int32 => 32 | .bf16 | .fp16 => 16
  | .e4m3 | .e5m2 | .int8 | .e5m3 => 8 | .fp4 => 4 | .vf8 => 0

/-- Is the format an integer format (R103)? -/
def Format.isInt : Format → Bool
  | .int8 | .int32 | .int64 => true
  | _ => false

/-- Is the format one of the binary floating formats (R104)? -/
def Format.isFloat : Format → Bool
  | .fp64 | .fp32 | .bf16 | .fp16 | .e4m3 | .e5m2 | .fp4 => true
  | _ => false

/-- Width of the exponent field (Table 4-2). -/
def Format.ebits : Format → Nat
  | .fp64 => 11 | .fp32 | .bf16 => 8 | .fp16 | .e5m2 => 5 | .e4m3 => 4 | .fp4 => 2 | _ => 0

/-- Width of the mantissa field, M (Table 4-2). -/
def Format.mant : Format → Nat
  | .fp64 => 52 | .fp32 => 23 | .bf16 => 7 | .fp16 => 10 | .e5m2 => 2 | .e4m3 => 3 | .fp4 => 1 | _ => 0

/-- Exponent bias (Table 4-2). -/
def Format.bias : Format → Int
  | .fp64 => 1023 | .fp32 | .bf16 => 127 | .fp16 | .e5m2 => 15 | .e4m3 => 7 | .fp4 => 1 | _ => 0

/-- Does the format have infinities (Table 4-2)? -/
def Format.hasInf : Format → Bool
  | .fp64 | .fp32 | .bf16 | .fp16 | .e5m2 => true
  | _ => false

/-- An exact value: NaN, a signed infinity, or (-1)^neg * m * 2^e. Zero has m = 0 and keeps its sign. -/
inductive Val where
  | nan
  | inf (neg : Bool)
  | fin (neg : Bool) (m : Nat) (e : Int)
  deriving DecidableEq, Repr

/-- The zero of a sign (signed_zero). -/
def Val.zero (neg : Bool) : Val := .fin neg 0 0

/-- The sign of a value; NaN counts as positive. -/
def Val.neg? : Val → Bool
  | .nan => false
  | .inf s => s
  | .fin s _ _ => s

def Val.isNan : Val → Bool
  | .nan => true
  | _ => false

def Val.isInf : Val → Bool
  | .inf _ => true
  | _ => false

def Val.isZero : Val → Bool
  | .fin _ m _ => m == 0
  | _ => false

/-- An integer as an exact value. -/
def Val.ofInt (i : Int) : Val := .fin (decide (i < 0)) i.natAbs 0

/-- floor(log2) of a non-zero finite magnitude. -/
def Val.ilog (m : Nat) (e : Int) : Int := (Nat.log2 m : Int) + e

/-- Signed mantissas of two finite values at their common exponent. -/
def alignPair (s₁ : Bool) (m₁ : Nat) (e₁ : Int) (s₂ : Bool) (m₂ : Nat) (e₂ : Int) : Int × Int × Int :=
  let e := min e₁ e₂
  let a : Int := ((m₁ * 2 ^ (e₁ - e).toNat : Nat) : Int)
  let b : Int := ((m₂ * 2 ^ (e₂ - e).toNat : Nat) : Int)
  (if s₁ then -a else a, if s₂ then -b else b, e)

/-- Order of two values that are not NaN: the sign of x - y. -/
def Val.cmp (x y : Val) : Ordering :=
  match x, y with
  | .inf s, .inf t => if s = t then .eq else if s then .lt else .gt
  | .inf s, _ => if s then .lt else .gt
  | _, .inf t => if t then .gt else .lt
  | .fin s m e, .fin t n f =>
    let (a, b, _) := alignPair s m e t n f
    compare a b
  | _, _ => .eq

/-- The five exception flags, in EXC's order (Table 4-10). -/
abbrev Flags := BitVec 5
def Flags.nx : Flags := 1
def Flags.uf : Flags := 2
def Flags.of : Flags := 4
def Flags.dz : Flags := 8
def Flags.nv : Flags := 16

/-- The rounding modes of Table 4-5. -/
inductive Mode where
  | rne | rtz | rup | rdn | rna
  deriving DecidableEq, Repr

/-- The mode of an RMODE value; values 5 to 7 never stand in RMODE (R40). -/
def Mode.ofRmode (n : Nat) : Mode :=
  match n with
  | 0 => .rne | 1 => .rtz | 2 => .rup | 3 => .rdn | _ => .rna

/-- eff_mode (R109): field 0 takes RMODE, field k the mode k - 1. -/
def effMode (field rmode : Nat) : Mode := if field = 0 then Mode.ofRmode rmode else Mode.ofRmode (field - 1)

/-- Numerical events of some elements: the union of their flags and the counts of R121 and R122. -/
structure Events where
  flags : Flags := 0
  nan   : Nat := 0   -- result elements written as NaN
  of    : Nat := 0
  uf    : Nat := 0
  flush : Nat := 0   -- PACKFLUSH
  corr  : Nat := 0   -- checksum corrections
  nx    : Nat := 0
  nv    : Nat := 0
  dz    : Nat := 0
  subIn : Nat := 0   -- subnormal inputs
  clamp : Nat := 0   -- clamped by .sat
  token : Nat := 0   -- VF8 tokens of offset 7 or more
  nanIn : Nat := 0   -- NaN inputs
  deriving DecidableEq, Repr

/-- Events of two groups of elements together. -/
def Events.add (a b : Events) : Events :=
  { flags := a.flags ||| b.flags, nan := a.nan + b.nan, of := a.of + b.of, uf := a.uf + b.uf,
    flush := a.flush + b.flush, corr := a.corr + b.corr, nx := a.nx + b.nx, nv := a.nv + b.nv,
    dz := a.dz + b.dz, subIn := a.subIn + b.subIn, clamp := a.clamp + b.clamp,
    token := a.token + b.token, nanIn := a.nanIn + b.nanIn }

/-- The events of one result element bearing flags `f` (note, R124). -/
def Events.ofFlags (f : Flags) : Events :=
  let one (k : Flags) : Nat := if f &&& k = 0 then 0 else 1
  { flags := f, of := one Flags.of, uf := one Flags.uf, nx := one Flags.nx, nv := one Flags.nv, dz := one Flags.dz }

/-- Is a 3-way rounding decision upwards in magnitude: `r` of `d` left over, quotient `n` (Table 4-5)? -/
def roundAway (mode : Mode) (neg : Bool) (n r d : Nat) : Bool :=
  if r = 0 then false else
  match mode with
  | .rne => decide (2 * r > d) || (decide (2 * r = d) && n % 2 == 1)
  | .rna => decide (2 * r ≥ d)
  | .rtz => false
  | .rup => !neg
  | .rdn => neg

/-- The multiple of 2^q that `mode` chooses for a finite magnitude, as a count of 2^q, and whether it is exact. -/
def quantize (mode : Mode) (neg : Bool) (m : Nat) (e q : Int) : Nat × Bool :=
  if q ≤ e then (m * 2 ^ (e - q).toNat, true)
  else
    let d := 2 ^ (q - e).toNat
    let n := m / d
    let r := m % d
    (if roundAway mode neg n r d then n + 1 else n, r == 0)

/-- choose, steps 1 and 2 of R110: the chosen candidate as (count, exponent of its unit, exact). -/
def choose (f : Format) (mode : Mode) (neg : Bool) (m : Nat) (e : Int) : Nat × Int × Bool :=
  let k := max (Val.ilog m e) (1 - f.bias)
  let q := k - f.mant
  let (n, ex) := quantize mode neg m e q
  (n, q, ex)

/-- The largest finite magnitude as (count, exponent of its unit) (Table 4-2). -/
def Format.maxFinite : Format → Nat × Int
  | .e4m3 => (14, 5)
  | .fp4 => (3, 1)
  | f => (2 ^ (f.mant + 1) - 1, f.bias - f.mant)

/-- Does m * 2^e exceed the largest finite magnitude? -/
def exceedsMax (f : Format) (m : Nat) (e : Int) : Bool :=
  let (n, q) := f.maxFinite
  Val.cmp (.fin false m e) (.fin false n q) == .gt

/-- Is m * 2^e below the smallest normal magnitude? -/
def belowNormal (f : Format) (m : Nat) (e : Int) : Bool :=
  Val.cmp (.fin false m e) (.fin false 1 (1 - f.bias)) == .lt

/-- canonical_nan (Table 4-2). FP4 has none. -/
def Format.nanBits : Format → Nat
  | .fp64 => 0x7FF8000000000000 | .fp32 => 0x7FC00000 | .bf16 => 0x7FC0 | .fp16 => 0x7E00
  | .e4m3 => 0x7F | .e5m2 => 0x7E | .e5m3 => 0xFF | _ => 0

/-- Sign bit of a pattern. -/
def signBits (f : Format) (neg : Bool) : Nat := if neg then 2 ^ (f.width - 1) else 0

/-- encode of a finite magnitude n * 2^q that the format represents. -/
def encodeFin (f : Format) (neg : Bool) (n : Nat) (q : Int) : Nat :=
  if n = 0 then signBits f neg else
  let k := max (Val.ilog n q) (1 - f.bias)
  -- count in units of 2^(k - M)
  let c := if q ≥ k - f.mant then n * 2 ^ (q - (k - f.mant)).toNat else n / 2 ^ ((k - f.mant) - q).toNat
  if c < 2 ^ f.mant then signBits f neg + c
  else signBits f neg + (k + f.bias).toNat * 2 ^ f.mant + (c - 2 ^ f.mant)

/-- The infinity pattern. -/
def infBits (f : Format) (neg : Bool) : Nat := signBits f neg + (2 ^ f.ebits - 1) * 2 ^ f.mant

/-- encode(f, v) of R124 for a representable v. -/
def encodeVal (f : Format) : Val → Nat
  | .nan => f.nanBits
  | .inf s => infBits f s
  | .fin s m e => encodeFin f s m e

/-- overflow_result (R111). -/
def overflowResult (f : Format) (neg sat : Bool) : Nat × Flags :=
  let (n, q) := f.maxFinite
  (if sat || f == .fp4 then encodeFin f neg n q
   else if f.hasInf then infBits f neg
   else f.nanBits, Flags.of ||| Flags.nx)

/-- round_to (R110, R112). -/
def roundTo (f : Format) (mode : Mode) (sat : Bool) : Val → Nat × Flags
  | .nan => if f == .fp4 then (0, Flags.nv) else (f.nanBits, 0)
  | .inf s => if sat || !f.hasInf then overflowResult f s sat else (infBits f s, 0)
  | .fin s m e =>
    if m = 0 then (signBits f s, 0) else
    let (n, q, ex) := choose f mode s m e
    if exceedsMax f n q then overflowResult f s sat else
    let fl : Flags := if ex then 0 else if belowNormal f n q then Flags.nx ||| Flags.uf else Flags.nx
    (encodeFin f s n q, fl)

/-- Is a pattern of format `f` a NaN (Table 4-2, R107)? -/
def isNanBits (f : Format) (b : Nat) : Bool :=
  let e := bits b f.mant f.ebits
  let m := bits b 0 f.mant
  match f with
  | .e4m3 => e == 15 && m == 7
  | .e5m3 => b % 256 == 255
  | .fp64 | .fp32 | .bf16 | .fp16 | .e5m2 => e == 2 ^ f.ebits - 1 && m != 0
  | _ => false

/-- e5m3_value (R107). -/
def e5m3Value (c : Nat) : Val :=
  let e := bits c 3 5
  let m := bits c 0 3
  if c % 256 = 255 then .nan
  else if e = 0 then .fin false m (-17) else .fin false (8 + m) ((e : Int) - 18)

/-- decode(f, bits) of R124; VF8 elements are decoded with their block. -/
def decodeVal (f : Format) (b : Nat) : Val :=
  match f with
  | .int8 => .ofInt (signed 8 b)
  | .int32 => .ofInt (signed 32 b)
  | .int64 => .ofInt (signed 64 b)
  | .e5m3 => e5m3Value b
  | .vf8 => .nan
  | _ =>
    let s := bit b (f.width - 1)
    let e := bits b f.mant f.ebits
    let m := bits b 0 f.mant
    if isNanBits f b then .nan
    else if f.hasInf && e == 2 ^ f.ebits - 1 then .inf s
    else if e = 0 then .fin s m (1 - f.bias - f.mant)
    else .fin s (2 ^ f.mant + m) ((e : Int) - f.bias - f.mant)

/-- Is a floating pattern a subnormal number (selector 4 of Table 4-12)? -/
def isSubnormal (f : Format) (b : Nat) : Bool := f.isFloat && bits b f.mant f.ebits == 0 && bits b 0 f.mant != 0

/-- The events of reading one input element (selectors 4 and 7 of Table 4-12). -/
def inputEvents (f : Format) (b : Nat) : Events :=
  { subIn := (isSubnormal f b).toNat, nanIn := (isNanBits f b).toNat }

/-- Input events of a value that has no bit pattern of its own (a VF8 element: it has no subnormals). -/
def inputEventsVal (v : Val) : Events := { nanIn := v.isNan.toNat }

/-- The sum of two values (R106, R119): NaN with NV for opposite infinities. -/
def Val.add (mode : Mode) (x y : Val) : Val × Flags :=
  match x, y with
  | .nan, _ => (.nan, 0)
  | _, .nan => (.nan, 0)
  | .inf s, .inf t => if s = t then (.inf s, 0) else (.nan, Flags.nv)
  | .inf s, _ => (.inf s, 0)
  | _, .inf t => (.inf t, 0)
  | .fin s m e, .fin t n f =>
    if m = 0 ∧ n = 0 then
      (.zero (if s = t then s else mode == .rdn), 0)
    else
      let (a, b, q) := alignPair s m e t n f
      let c := a + b
      if c = 0 then (.zero (mode == .rdn), 0) else (.fin (decide (c < 0)) c.natAbs q, 0)

/-- Sign change; NaN stays NaN. -/
def Val.negate : Val → Val
  | .nan => .nan
  | .inf s => .inf (!s)
  | .fin s m e => .fin (!s) m e

/-- The product of two values (R119): NaN with NV for zero times infinity. -/
def Val.mul (x y : Val) : Val × Flags :=
  match x, y with
  | .nan, _ => (.nan, 0)
  | _, .nan => (.nan, 0)
  | .inf s, .inf t => (.inf (s != t), 0)
  | .inf s, .fin t n _ => if n = 0 then (.nan, Flags.nv) else (.inf (s != t), 0)
  | .fin s m _, .inf t => if m = 0 then (.nan, Flags.nv) else (.inf (s != t), 0)
  | .fin s m e, .fin t n f => (.fin (s != t) (m * n) (e + f), 0)

/-- The product plus an addend, exact (R119). -/
def Val.fma (mode : Mode) (x y z : Val) : Val × Flags :=
  let (p, f₁) := Val.mul x y
  let (r, f₂) := Val.add mode p z
  (r, f₁ ||| f₂)

/-- A quotient or root with `extra` bits beyond what any format keeps: the last bit of the mantissa is made odd when
something is left over, so one later rounding decides as it would on the exact value. -/
def sticky (n : Nat) (left : Bool) : Nat := if left && n % 2 == 0 then 2 * n + 1 else 2 * n

/-- Bits kept by the sticky forms: more than twice the widest mantissa. -/
def guardBits : Nat := 160

/-- The quotient of two values (R119): DZ for a finite non-zero over zero, NV for 0/0 and ∞/∞. -/
def Val.div (x y : Val) : Val × Flags :=
  match x, y with
  | .nan, _ => (.nan, 0)
  | _, .nan => (.nan, 0)
  | .inf _, .inf _ => (.nan, Flags.nv)
  | .inf s, .fin t _ _ => (.inf (s != t), 0)
  | .fin s _ _, .inf t => (.zero (s != t), 0)
  | .fin s m e, .fin t n f =>
    if n = 0 then (if m = 0 then (.nan, Flags.nv) else (.inf (s != t), Flags.dz))
    else if m = 0 then (.zero (s != t), 0)
    else
      let k := guardBits + Nat.log2 n
      let w := m * 2 ^ k
      (.fin (s != t) (sticky (w / n) (w % n != 0)) (e - f - k - 1), 0)

/-- Integer square root by bisection on the bits from `k` down. -/
def isqrtFrom : Nat → Nat → Nat → Nat
  | 0, n, r => if (r + 1) * (r + 1) ≤ n then r + 1 else r
  | k + 1, n, r =>
    let c := r + 2 ^ (k + 1)
    isqrtFrom k n (if c * c ≤ n then c else r)

/-- floor of the square root. -/
def isqrt (n : Nat) : Nat := if n = 0 then 0 else isqrtFrom (Nat.log2 n / 2 + 1) n 0

/-- The square root (R119): NV below zero. -/
def Val.sqrt : Val → Val × Flags
  | .nan => (.nan, 0)
  | .inf s => if s then (.nan, Flags.nv) else (.inf false, 0)
  | .fin s m e =>
    if m = 0 then (.zero s, 0)
    else if s then (.nan, Flags.nv)
    else
      -- make the exponent even and the mantissa wide
      let k := 2 * guardBits + (if (e % 2 == 0) then 0 else 1)
      let w := m * 2 ^ k
      let r := isqrt w
      (.fin false (sticky r (r * r != w)) ((e - k) / 2 - 1), 0)

/-- sat_int (R124). -/
def satInt (w : Nat) (x : Int) : Int := max (-(2 : Int) ^ (w - 1)) (min ((2 : Int) ^ (w - 1) - 1) x)

/-- wrap (R124). -/
def wrapInt (w : Nat) (x : Int) : Int := signed w (BitVec.ofInt w x).toNat

/-- A value rounded to an integer, and whether it was one. -/
def roundInt (mode : Mode) (s : Bool) (m : Nat) (e : Int) : Int × Bool :=
  let (n, ex) := quantize mode s m e 0
  (if s then -(n : Int) else (n : Int), ex)

/-- to_int (R113). -/
def toInt (w : Nat) (mode : Mode) : Val → Int × Flags
  | .nan => (0, Flags.nv)
  | .inf s => (if s then -(2 : Int) ^ (w - 1) else (2 : Int) ^ (w - 1) - 1, Flags.nv)
  | .fin s m e =>
    let (i, ex) := roundInt mode s m e
    if satInt w i = i then (i, if ex then 0 else Flags.nx) else (satInt w i, Flags.nv)

/-- A rounded floating result with its events: NaN results are counted, and a clamp under `.sat` (R121, R122). -/
def finish (f : Format) (mode : Mode) (sat : Bool) (x : Val) (fl : Flags) : Nat × Events :=
  let (b, g) := roundTo f mode sat x
  let ev := Events.ofFlags (fl ||| g)
  (b, { ev with nan := (isNanBits f b).toNat,
                clamp := (sat && (g &&& Flags.of != 0)).toNat })

-- VF8 (R114-R117)

/-- One VF8 element of a coded block: zero of a sign, or offset and fraction. -/
inductive Code where
  | zero (neg : Bool)
  | num (neg : Bool) (d f : Nat)
  deriving DecidableEq, Repr

/-- `n` bits of `v`, most significant first (R115). -/
def msbBits (n v : Nat) : List Bool := (toBits n v).reverse

/-- The stream bits of an element code (Table 4-7). -/
def Code.bits : Code → List Bool
  | .zero s => [s, true, true, true, true, true]
  | .num s d f =>
    let tok :=
      if d = 0 then [false] else if d = 1 then [true, false] else if d = 2 then [true, true, false]
      else if d ≤ 6 then [true, true, true, false] ++ msbBits 2 (d - 3)
      else [true, true, true, true, false] ++ msbBits 4 (d - 7)
    s :: tok ++ msbBits 3 f

/-- The number of bits given most significant first. -/
def ofMsb (l : List Bool) : Nat := l.foldl (fun a b => 2 * a + b.toNat) 0

/-- Decode one element code from a stream: the code and how many bits it took; none when the stream is too short. -/
def Code.read (st : List Bool) : Option (Code × Nat) :=
  let num (s : Bool) (d : Nat) (used : Nat) (r : List Bool) : Option (Code × Nat) :=
    if r.length < 3 then none else some (.num s d (ofMsb (r.take 3)), used + 3)
  match st with
  | s :: false :: r => num s 0 2 r
  | s :: true :: false :: r => num s 1 3 r
  | s :: true :: true :: false :: r => num s 2 4 r
  | s :: true :: true :: true :: false :: a :: b :: r => num s (3 + ofMsb [a, b]) 7 r
  | s :: true :: true :: true :: true :: false :: a :: b :: c :: d :: r => num s (7 + ofMsb [a, b, c, d]) 10 r
  | s :: true :: true :: true :: true :: true :: _ => some (.zero s, 6)
  | _ => none

/-- The value of a code under base B (R114). -/
def Code.val (base : Nat) : Code → Val
  | .zero s => .zero s
  | .num s d f => .fin s (8 + f) ((base : Int) - 127 - d - 3)

/-- Decode `n` element codes; none when the bits run out. -/
def readCodes (base : Nat) : Nat → List Bool → Nat → Option (List Val × Nat)
  | 0, _, used => some ([], used)
  | n + 1, st, used =>
    match Code.read st with
    | none => none
    | some (c, k) =>
      match readCodes base n (st.drop k) (used + k) with
      | none => none
      | some (l, u) => some (c.val base :: l, u)

/-- vf8_decode_block: the `n` values, or none when the block runs past its row's bits (R116). -/
def vf8DecodeBlock (st : List Bool) (n : Nat) : Option (Nat × List Val) :=
  if st.length < 8 then none else
  let b := ofMsb (st.take 8)
  if b = 0 then some (0, List.replicate n (Val.zero false))
  else if b = 255 then some (255, List.replicate n .nan)
  else (readCodes b n (st.drop 8) 8).map fun r => (b, r.1)

/-- An encoded VF8 block: base, codes (none in a zero or NaN block) and events per element. -/
structure Vf8Block where
  base   : Nat
  codes  : List Code
  events : List Events
  deriving DecidableEq, Repr

/-- The stream bits of an encoded block. -/
def Vf8Block.bits (b : Vf8Block) : List Bool := msbBits 8 b.base ++ (b.codes.map Code.bits).flatten

/-- One element prepared by vf8_encode_block: its rounded value and flags, or an overflow without `.sat`. -/
structure Vf8Elem where
  val   : Val
  flags : Flags := 0
  flush : Bool := false
  clamp : Bool := false
  ovf   : Bool := false
  deriving DecidableEq, Repr

/-- choose_p4 and the range checks of vf8_encode_block for one element (R117). -/
def vf8Prepare (mode : Mode) (sat : Bool) (v : Val) : Vf8Elem :=
  let overflow (s : Bool) : Vf8Elem :=
    if sat then { val := .fin s 15 124, flags := Flags.of ||| Flags.nx, clamp := true }
    else { val := .nan, flags := Flags.of ||| Flags.nx, ovf := true }
  match v with
  | .nan => { val := .nan }
  | .inf s => overflow s
  | .fin s m e =>
    if m = 0 then { val := .zero s } else
    let q := Val.ilog m e - 3
    let (n, ex) := quantize mode s m e q
    let k := Val.ilog n q
    if k > 127 then overflow s
    else if k < -126 then
      { val := .zero s, flags := Flags.uf ||| Flags.nx, flush := true }
    else { val := .fin s n q, flags := if ex then 0 else Flags.nx }

/-- The events of one encoded element. -/
def Vf8Elem.events (e : Vf8Elem) : Events :=
  { Events.ofFlags e.flags with flush := e.flush.toNat, clamp := e.clamp.toNat }

/-- The exponent of a prepared non-zero element. -/
def Vf8Elem.exp? (e : Vf8Elem) : Option Int :=
  match e.val with
  | .fin _ m q => if m = 0 then none else some (Val.ilog m q)
  | _ => none

/-- The largest exponent of the prepared elements. -/
def vf8MaxExp (l : List Vf8Elem) : Option Int :=
  l.foldl (fun a e => match a, e.exp? with
    | none, x => x
    | some a, some b => some (max a b)
    | some a, none => some a) none

/-- Flags of the elements up to and including the first overflow: vf8_encode_block returns there (R117). -/
def vf8FlagsUntil : List Vf8Elem → List Events
  | [] => []
  | e :: r => if e.ovf then e.events :: r.map (fun _ => {}) else e.events :: vf8FlagsUntil r

/-- vf8_encode_block (R117). Elements of a NaN block count as NaN results (R121). -/
def vf8EncodeBlock (mode : Mode) (sat : Bool) (v : List Val) : Vf8Block :=
  if v.any Val.isNan then
    { base := 255, codes := [], events := v.map fun _ => { nan := 1 } }
  else
    let l := v.map (vf8Prepare mode sat)
    if l.any (·.ovf) then
      { base := 255, codes := [], events := (vf8FlagsUntil l).map fun e => { e with nan := 1 } }
    else
      match vf8MaxExp l with
      | none => { base := 0, codes := [], events := l.map (·.events) }
      | some mx =>
        let code (e : Vf8Elem) : Code × Events :=
          match e.val with
          | .fin s m q =>
            if m = 0 then (.zero s, e.events)
            else
              let k := Val.ilog m q
              let d := (mx - k).toNat
              if d > 22 then
                (.zero s, { Events.ofFlags (e.flags ||| Flags.nx) with flush := 1, clamp := e.clamp.toNat })
              else
                -- the 4-bit significand: m * 2^q = (8 + F) * 2^(k - 3)
                let c := if q ≥ k - 3 then m * 2 ^ (q - (k - 3)).toNat else m / 2 ^ ((k - 3) - q).toNat
                (.num s d (c - 8), { e.events with token := if d ≥ 7 then 1 else 0 })
          | _ => (.zero false, e.events)
        { base := (mx + 127).toNat, codes := l.map fun e => (code e).1, events := l.map fun e => (code e).2 }

end Sys2Proof.Machine
end

