-- ==== Sys2Proof/Machine/Topology.lean ====
section
/-! DEFINITION. Cores, clusters, quads, positions and distances (00_scope.md R5, 01_machine.md R12-R16, R43, R45). -/
namespace Sys2Proof.Machine

/-- The module number of core (die, x, y) (R13). -/
def coreOf (die x y : Nat) : Nat := die * 256 + y * 16 + x

def coreDie (c : Nat) : Nat := c / 256
def coreY (c : Nat) : Nat := c / 16 % 16
def coreX (c : Nat) : Nat := c % 16

/-- The core of a position. -/
def posCore (p : Nat) : Nat := p / 16

/-- The slot of a position. -/
def posSlot (p : Nat) : Nat := p % 16

/-- The position of a core's slot. -/
def mkPos (core slot : Nat) : Nat := core * 16 + slot

/-- The cluster of a core within its die (Table 1-1). -/
def coreCluster (c : Nat) : Nat := coreY c / 4 * 8 + coreX c / 2

/-- The module number of a core's cluster (R13). -/
def clusterNo (c : Nat) : Nat := coreDie c * 32 + coreCluster c

/-- The quad of a core within its die (Table 1-1). -/
def coreQuad (c : Nat) : Nat := coreY c / 8 * 4 + coreX c / 4

/-- The module number of a core's quad. -/
def quadNo (c : Nat) : Nat := coreDie c * 8 + coreQuad c

/-- A core's member number within its cluster (Table 1-1). -/
def memberNo (c : Nat) : Nat := coreY c % 4 * 2 + coreX c % 2

/-- A cluster's member number within its quad (Table 1-1). -/
def clusterMember (c : Nat) : Nat := coreY c / 4 % 2 * 2 + coreX c / 2 % 2

/-- The core that is member `k` of the cluster of core `c` (Table 1-1). -/
def clusterCore (c k : Nat) : Nat :=
  coreOf (coreDie c) (coreX c / 2 * 2 + k % 2) (coreY c / 4 * 4 + k / 2)

/-- Is the partner of a core broad (R14)? -/
def isBroad (c : Nat) : Bool := 6 ≤ coreQuad c

/-- The distance of two numbers. -/
def natDist (a b : Nat) : Nat := if a ≤ b then b - a else a - b

/-- Hops between two cores of a die under XY routing (R45). -/
def hops (c₁ c₂ : Nat) : Nat := natDist (coreX c₁) (coreX c₂) + natDist (coreY c₁) (coreY c₂)

/-- Do two positions share the group of scope `s`: 0 task, 1 core, 2 cluster, 3 die, 4 module (R15)? -/
def sameScope (s : Nat) (p₁ p₂ : Pos) : Bool :=
  let c₁ := posCore p₁
  let c₂ := posCore p₂
  if s = 0 then p₁ == p₂ else if s = 1 then c₁ == c₂ else if s = 2 then clusterNo c₁ == clusterNo c₂
  else if s = 3 then coreDie c₁ == coreDie c₂ else true

end Sys2Proof.Machine
end

