-- ==== Sys2Proof/Machine/Desc.lean ====
section
/-! DEFINITION. Tile descriptors and units of overlap (01_machine.md R31-R35, 06_tile_instructions.md R159,
10_ordering_alone_and_in_core.md R311). -/
namespace Sys2Proof.Machine

/-- The fields of a descriptor (Table 1-6). -/
structure Desc where
  base   : Nat
  core   : Nat
  prows  : Nat
  pcols  : Nat
  lrows  : Nat
  lcols  : Nat
  pitch  : Nat
  fmt    : Nat
  layout : Nat
  ibase  : Nat
  rsv    : Nat          -- reserved bits, gathered
  deriving DecidableEq, Repr

def Desc.ofBits (b : BitVec 128) : Desc :=
  let v := b.toNat
  { base := bits v 0 22, core := bits v 22 3, prows := bits v 32 8, pcols := bits v 40 8, lrows := bits v 48 8,
    lcols := bits v 56 8, pitch := bits v 64 16, fmt := bits v 80 5, layout := bits v 85 2, ibase := bits v 96 22,
    rsv := bits v 25 7 + bits v 87 9 + bits v 118 10 }

/-- Bits per element; 0 for VF8. -/
def Desc.size (d : Desc) : Nat := ((Format.ofCode d.fmt).map Format.width).getD 0

/-- The format. -/
def Desc.format (d : Desc) : Format := (Format.ofCode d.fmt).getD .fp64

def Desc.rows (d : Desc) : Nat := d.lrows + 1
def Desc.cols (d : Desc) : Nat := d.lcols + 1

/-- Blocks of a VF8 row (R115). -/
def Desc.nb (d : Desc) : Nat := ceilDiv (d.pcols + 1) 64

/-- Lines of the logical shape. -/
def Desc.lines (d : Desc) : Nat := if d.layout = 1 then d.cols else d.rows

/-- linebytes (Table 6-2). -/
def Desc.lineBytes (d : Desc) : Nat := ceilDiv ((if d.layout = 1 then d.rows else d.cols) * d.size) 8

/-- Is a descriptor well formed (R33)? The bytes of the last row of a VF8 tile are taken as the 105 bytes a block may need, times its
blocks, though TLD and TST move its PITCH bytes (R175): R33 does not give that row's length (DESIGN CHOICE, log entry 44). -/
def Desc.wf (d : Desc) : Bool :=
  let vf8 := d.layout == 2
  let need := if vf8 then 105 * d.nb
    else ceilDiv ((if d.layout = 0 then d.pcols + 1 else d.prows + 1) * d.size) 8
  let nlines := if d.layout = 1 then d.pcols + 1 else d.prows + 1
  d.lrows ≤ d.prows && d.lcols ≤ d.pcols && d.fmt ≤ 0x0B && d.layout ≤ 2 && (vf8 == (d.fmt == 7))
    && 4 ≤ d.pitch && d.pitch % (if d.size = 64 then 8 else 4) == 0
    && need ≤ d.pitch && d.base + d.pitch * (nlines - 1) + need ≤ 0x300000
    && (if vf8 then d.ibase % 4 == 0 && d.ibase + 2 * (d.prows + 1) * d.nb ≤ 0x300000 else d.ibase == 0)
    && d.rsv == 0

/-- A tile's core within the cluster of core `c` (R31, R35). -/
def Desc.owner (d : Desc) (c : Nat) : Nat := clusterCore c d.core

/-- loc (Table 6-2): byte offset in the window and bit within the byte. -/
def Desc.pos (d : Desc) (i j : Nat) : Nat × Nat :=
  let l := if d.layout = 1 then j else i
  let k := if d.layout = 1 then i else j
  (d.base + l * d.pitch + k * d.size / 8, k * d.size % 8)

/-- The same tile with rows and columns exchanged: element (i, j) is the tile's (j, i). -/
def Desc.flip (d : Desc) : Desc :=
  { d with layout := 1 - d.layout, lrows := d.lcols, lcols := d.lrows, prows := d.pcols, pcols := d.prows }

/-- The unit of a scratchpad word: aligned 4-byte words of a window, numbered above every line. -/
def scratchUnit (core space off : Nat) : Nat := 2 ^ 60 + (core * 4096 + space) * 0xC0000 + off / 4

/-- The window bytes that row `i` occupies: ranges of offset and length (R311, R168). -/
def Desc.rowSpans (d : Desc) (i : Nat) : List (Nat × Nat) :=
  if d.layout = 0 then [(d.base + i * d.pitch, ceilDiv (d.cols * d.size) 8)]
  else if d.layout = 2 then [(d.base + i * d.pitch, d.pitch), (d.ibase + 2 * i * d.nb, 2 * d.nb)]
  else (List.range d.cols).map fun j => ((d.pos i j).1, max 1 (d.size / 8))

/-- The units of overlap of a whole logical tile in the window of core `core`. -/
def Desc.footprint (d : Desc) (core space : Nat) : List (Nat × Nat) :=
  let d := if d.layout = 1 then d.flip else d
  ((List.range d.rows).flatMap d.rowSpans).map fun x =>
    (scratchUnit core space x.1, scratchUnit core space (x.1 + x.2 - 1) + 1)

end Sys2Proof.Machine
end

