-- ==== Sys2Proof/Machine/Messages.lean ====
section
/-! DEFINITION. The messages that events carry: what is in flight between two steps of the machine. -/
namespace Sys2Proof.Machine

/-- A task as others name it: the position it was started in and the position's SERIAL (Table 11-2). -/
structure Tk where
  pos    : Pos
  serial : Nat
  deriving DecidableEq, Repr

/-- A task-level trap to be taken: cause and SUB (Tables 19-2, 19-3), TRAPVAL, and whether it is deferred (R85). -/
structure Trap where
  cause    : Nat
  sub      : Nat
  val      : Nat
  deferred : Bool
  deriving DecidableEq, Repr

/-- A release record without its location (Table 11-2), or the drained mark a retired one leaves (R324). -/
structure Record where
  num    : Nat
  drain  : Nat
  serial : Nat
  space  : Nat
  scope  : Nat
  pos    : Pos
  mark   : Bool
  deriving DecidableEq, Repr

/-- A region of a hand or of a call reply: virtual and physical region numbers of 512 bytes (Table 11-1). -/
structure Region where
  space : Nat
  v     : Nat
  p     : Nat
  below : Nat := 0      -- in a reply: instances of the acquirer's chain below the meeting level (R327)
  deriving DecidableEq, Repr

/-- One access to a global line through a chain: a load or store of some bytes, or a fill on behalf of one (R287, R288). -/
structure Acc where
  t      : Tk
  id     : Nat
  core   : Nat
  space  : Nat
  first  : Nat          -- first vcache of the region's binding
  tensor : Nat
  world  : Bool
  line   : Nat          -- physical line number
  off    : Nat          -- first byte within the line
  size   : Nat
  write  : Bool
  data   : Nat
  start  : Nat          -- cycle the latency counts from
  level  : Nat          -- place in the chain the request has reached
  signed : Bool
  va     : Nat          -- address the task formed, for its hand (R322)
  lat    : Nat := 0     -- latency of the level whose fill it waited behind (R289)
  need   : BitVec 128 := ~~~0  -- above the first level: the bytes the level below lacks (R287)
  held   : Bool := false       -- held back for its budget (R371), so that nothing overtakes it (R347)
  pref   : Bool := false       -- a PREF's: dropped where it meets poison (R273)
  deriving DecidableEq, Repr

/-- A read-modify-write (R264, R266): operation (0 to 10 of Table 8-11, 12 HOLD, 13 PASS), operands and ordering. -/
structure Rmw where
  op    : Nat
  x     : Nat
  c     : Nat
  acq   : Bool
  rel   : Bool
  scope : Nat
  num   : Nat           -- release number sealed at issue (R323)
  dest  : Reg
  called : Bool := false -- its record's call has been made (R325)
  back  : Bool := false -- the reservation is given back, its holder being gone
  deriving DecidableEq, Repr

/-- What a request does at its ordering point: home slice or scratchpad owner (R249, R252, R261-R267, R274). -/
inductive PortOp where
  | load (signed : Bool)
  | store (v : Nat) (rec? : Option Record)
  | posted (v : Nat) (rec? : Option Record)
  | lda (scope : Nat)
  | stl (v : Nat) (r : Record)
  | ldfe | ldf | feq
  | stfe (v : Nat) (rec? : Option Record)
  | stf (v : Nat) (rec? : Option Record)
  | feset (v : Nat)
  | reserve (m : Rmw)
  | release (v : Option Nat) (m : Rmw)
  | watch (expected : Nat)
  deriving DecidableEq, Repr

/-- A request on its way to an ordering point. `va` is the address the task formed; `loc` is the physical address, or for a
scratchpad 2^52 + owner * 0x300000 + window offset. -/
structure PortReq where
  t     : Tk
  id    : Nat
  core  : Nat
  space : Nat
  world : Bool
  va    : Nat
  loc   : Nat
  size  : Nat
  op    : PortOp
  dest  : Option Reg
  start : Nat
  tries : Nat
  waited : Bool := false -- it did not complete at its first arrival (R254)
  tile   : Bool := false -- a write of a tile instruction's image (R174)
  held   : Bool := false -- held back for its budget (R371), so that nothing overtakes it (R347)
  paid   : Bool := false -- its budgets are charged, and it waits at its point for another reason (R259)
  pc     : Nat := 0      -- the instruction that made it (Table 19-5)
  deriving DecidableEq, Repr

/-- A record of a location at its ordering point (R262, R324), or the drained mark of one. -/
structure LocRec where
  loc    : Nat
  record : Record
  deriving DecidableEq, Repr

/-- How a class B instruction ends: the register it writes, if any, its value, and a trap taken after or at it. -/
structure Finish where
  dest  : Option Reg
  value : Nat
  trap  : Option Trap      -- taken at PC + 4, the effect being complete
  fault : Option Trap      -- taken at PC, without effect
  deriving DecidableEq, Repr

/-- An error record before its sequence number and time (Table 20-5). -/
structure ErrRec where
  cycle  : Nat
  code   : Nat
  sev    : Nat
  addr   : Nat := 0
  count  : Nat := 1
  deal   : Nat := 0
  index  : Nat := 0
  space  : Nat := 0
  world  : Bool := false
  part   : Nat := 0
  slot   : Nat := 0
  detail : Nat := 0
  deriving DecidableEq, Repr

/-- An access whose completion later accesses or releases wait for (R270, R311, R323). Ranges are half-open intervals of
4-byte words of a scratchpad or of 128-byte lines of global memory, as location numbers divided by their unit. -/
structure PendAcc where
  id     : Nat
  write  : Bool
  ranges : List (Nat × Nat)
  ackOnly : Bool          -- STP, remote store: completes on its acknowledgement, and no release waits for it
  partner : Bool := false -- a matrix command of the task (R240)
  acquire : Bool := false
  aside  : Bool := false  -- a PREF fill, for which only SCFENCE waits (R270, R341)
  doneAt : Option Nat := none
  deriving DecidableEq, Repr

/-- A light task's record: its sixteen 64-bit words (Table 16-3), and what travels beside them (R349): the task's index and
budget class, the regions its drained hand held or the whole-space mark, its writes that are not acknowledged (R310, R311), and the
position to be answered (R411). -/
structure LightRec where
  words   : List Word := []
  index   : Nat := 0
  budget  : Nat := 0
  placed  : Bool := false                  -- placed by the scheduler (R402)
  regions : List Region := []
  whole   : Bool := false
  pend    : List PendAcc := []
  origin  : Tk := { pos := 0, serial := 0 }
  entered : Nat := 0                       -- cycle it entered the queue (R408)
  taker   : Option Nat := none             -- slot whose q6 pops hold it (R409)
  deriving DecidableEq, Repr

/-- Fields of a record (Table 16-3). -/
def LightRec.field (r : LightRec) (word lo n : Nat) : Nat := (r.words.getD word 0).toNat / 2 ^ lo % 2 ^ n
def LightRec.space (r : LightRec) : Nat := r.field 9 52 12
def LightRec.world (r : LightRec) : Bool := r.field 9 51 1 == 1
def LightRec.deal (r : LightRec) : Nat := r.field 9 40 8
def LightRec.kind (r : LightRec) : Nat := r.field 9 38 2
def LightRec.parent (r : LightRec) : Nat := r.field 9 0 24
def LightRec.lineage (r : LightRec) : Nat := r.field 8 40 24

/-- A vcache, window or other setting that a steward makes through the hub (R486, R281, R247, R279, R358, R362, R371, R372, R418,
R431). -/
inductive HubReg where
  | queueTable (base : Nat)
  | spaceEntry (space : Nat) (v : Word)
  | spaceShape (space : Nat) (domain : List Nat) (grants : List (Nat × Nat)) (a b : Nat)
  | limits (part : Nat) (slots tiles accs pages wstack : Nat)
  | budget (part cls kind limit : Nat)
  | counterOwner (counter : Nat) (space : Option Nat)
  | eligible (core : Nat) (on : Bool)
  | bankUse (core bank use : Nat)
  | mapWindow (core space page backing : Nat) (shadow bank : Option Nat)
  | unmapWindow (core space page : Nat)
  | spillRing (core space base : Nat)
  | group (part number : Nat) (members : List (Nat × Nat)) (peers : List Nat)
  | peerRoute (peer port : Nat) (on : Bool)
  | corrected (on : Bool)
  | cxlWindow (first past : Nat)
  | memory (loc n v : Nat)
  deriving DecidableEq, Repr

/-- A member's contribution or wait at a barrier wire (R389-R393, R400): 0 BARW, 1 BARA, 2 EVGATH. -/
structure BarWait where
  t       : Tk
  id      : Nat
  kind    : Nat
  dest    : Reg := 0
  expiry  : Option Nat := none             -- cycle in which it expires (R392)
  space   : Nat := 0                       -- the task's space, whose window holds its block
  block   : Nat := 0                       -- EVGATH: window offset of its block
  sums    : List Nat := []                 -- EVGATH: XCNT snapshot
  exc     : Nat := 0                       -- EVGATH: EXC snapshot
  pc      : Word := 0
  btotrap : Bool := false                  -- STATUS.BTOTRAP at issue
  deriving DecidableEq, Repr

/-- What a call answers: regions, "gone", "drained" or whole-space, or a releaser that has been reset (R329, R331, R477). -/
inductive ReplyKind where
  | regions | selfInvalidate
  | lost (va : Nat)      -- the address of the location whose record names the releaser
  deriving DecidableEq, Repr

/-- The message of an event of the opcode table, in the table's order. -/
inductive Msg where
  | none
  | deferredFaultTaken (p : Pos)
  | longResultReady (t : Tk) (id : Nat)
  | tileUnit (t : Tk) (id : Nat)
  | windowSpill (p : Pos)
  | windowFill (p : Pos)
  | channelWordArrival (p : Pos) (n : Nat) (w : Word) (far : Bool)
  | scratchpadPageRefill (core space page : Nat)
  | remoteAccessArrival (r : PortReq)
  | sendOut (r : PortReq)
  | remoteStoreAck (t : Tk) (id : Nat)
  | feRequestRetry (r : PortReq)
  | withdraw (t : Tk) (id : Nat)
  | reservationGrant (r : PortReq) (old : Nat) (rec? : Option Record) (poison : Bool)
  | reservationTimeout (t : Tk) (loc since : Nat)
  | postedWriteApply (r : PortReq)
  | postedWriteAck (t : Tk) (id : Nat)
  | monitorWake (t : Tk) (id : Nat) (loc : Nat)
  | monitorScan (loc : Nat)
  | vcacheAccessArrival (a : Acc)
  | writeBackArrival (space vc idx line : Nat) (mask : BitVec 128) (data : BitVec 1024) (poison : Bool) (tensor : Nat) (world : Bool)
  | homeFill (a : Acc)
  | lineFill (a : Acc) (level : Nat) (data : BitVec 1024) (poison : Bool)
  | directoryRecall (region : Nat)
  | filterEvict (cluster line : Nat)
  | uncontained (core addr code slot : Nat)
  | homeProbe (space vc region : Nat)
  | configArrive (space : Nat) (t : Tk) (id op a b : Nat) (dest : Reg) (world : Bool)
  | configAgentTake (space : Nat)
  | reconfigResume (space : Nat)
  | vcacheStatusWrite (t : Tk) (id status : Nat) (dest : Reg)
  | callServe (t : Tk) (id : Nat) (r : Record)
  | callAnswer (t : Tk) (id : Nat) (from_ : Pos) (regions : List Region) (kind : ReplyKind)
  | retireCall (own : Nat) (x : LocRec) (q : PortReq)
  | retired (x : LocRec) (q : PortReq)
  | callReply (t : Tk) (id : Nat) (regions : List Region) (kind : ReplyKind)
  | callDone (t : Tk) (id : Nat)
  | fenceWait (t : Tk) (id : Nat) (scope kind : Nat)
  | fenceGo (t : Tk) (id : Nat) (scope kind : Nat)
  | scfenceWait (t : Tk) (id : Nat) (scope : Nat)
  | scfenceCommit (t : Tk) (id : Nat) (scope : Nat)
  | wackWait (t : Tk) (id : Nat)
  | translationWalk (space page : Nat)
  | resumeRetry (t : Tk)
  | resumeSkip (t : Tk)
  | resumeEnd (t : Tk)
  | issued (steward : Nat) (m : Msg)
  | preempt (p : Pos)
  | preemptSaveComplete (t : Tk) (asOf : Option Nat)
  | homeSliceRequestArrival (r : PortReq)
  | homeBufferFill (line : Nat)
  | tierWrite (line : Nat)
  | classBCompletion (t : Tk) (id : Nat) (f : Finish)
  | errinj (core : Nat) (v : Word)
  | qcfgDefault (core n : Nat)
  | errorRecord (e : ErrRec)
  | softError (core : Nat) (line : Option Nat)
  | faultRecordDelivery (fields : List Nat)
  | outboundEventDelivery (core : Nat)
  | stewardEvent (core : Nat) (w : Word)
  | migrationShip (t : Tk) (home at_ : Nat)
  | matrixOpStart (core : Nat)
  | matrixBlock (core : Nat)
  | matrixPhase (core : Nat)
  | jointStart (quad : Nat)
  | jointForm (quad : Nat)
  | mstat (t : Tk) (id acc : Nat) (dest : Reg)
  | taskEnded (deal : Nat) (err : Bool)
  | kittyRefill (core : Nat) (enter : Bool)
  -- 14_scheduler.md
  | notifyWord (queue : Nat)
  | queueSlotBind
  | dealBegin (slot : Nat)
  | dealRecord (entry : Nat)
  | dealCheck (entry : Nat)
  | tableReadRetry (entry : Nat)
  | completionWrite (entry : Nat)
  | placement (core : Nat) (w : Word)
  | mappingFix (entry : Nat)
  | agingTick (entry stamp : Nat)
  | sliceExpiry (t : Tk) (end_ : Nat)
  | budgetPeriod
  | counterRequest (counter : Nat) (dec : Bool) (value : Nat)
  | exitWait (t : Tk)
  | exitPush (t : Tk) (asOf : Option Nat)
  | launch (t : Tk) (id queue record : Nat) (poison : Bool) (va : Nat) (dest : Reg)
  -- 15_waiting_and_barriers.md
  | channelAgent (t : Tk) (id n a done : Nat)
  | barWait (wire desc : Nat) (b : BarWait)
  | barrierComplete (wire stamp : Nat)
  | barrierTimeout (wire id at_ : Nat)
  | barrierArrivals (wire : Nat)
  | gatherWrite (t : Tk) (id : Nat) (dest : Reg) (core space off : Nat) (sums : List Nat) (exc : Nat)
  | probeVisit (t : Tk) (id rect maxc circuit k sum : Nat) (black : Bool) (dest : Reg)
  | drainWait (t : Tk) (id rect from_ : Nat)
  -- 03_encoding.md, scanner
  | mapExecutable (part space va n : Nat) (writable : Bool)
  | pageScan
  -- 16_light_tasks.md
  | lightRecord (core : Nat) (r : LightRec)
  | lightSpawn (t : Tk) (id : Nat) (dest : Reg) (done : Nat) (words : List Word)
  | lightDispatch (p : Pos)
  | migrationSend (t : Tk) (home : Nat) (regions : List Region) (whole : Bool)
  | migrationAnswer (t : Tk) (home : Nat) (accepted : Bool)
  | recordResend (t : Tk) (home : Nat)
  | lightPreempt (t : Tk) (regions : List Region) (whole : Bool)
  -- 17_copy_and_collectives.md
  | mailPush (t : Tk) (id : Nat) (words : List Word) (dest : Reg)
  | dealerScan (core : Nat)
  | dealerRead (core : Nat)
  | dealerWait (core : Nat)
  | dealerAccept (core : Nat)
  | copyStart (core : Nat)
  | copyLine (core copy : Nat)
  | copyComplete (copy : Nat)
  | peerAck (copy : Nat)
  | followOn (copy : Nat)
  | spillReturn (core : Nat)
  | sleepExpiry (t : Tk) (till : Nat)
  | copyQuery (t : Tk) (id tag : Nat) (dest : Reg)
  | collRead (t : Tk) (id va : Nat) (pc : Nat) (dest : Reg) (stage : Nat)
  | collCommit (key : Nat)
  | collPeer (part group seq peer : Nat) (fail : Bool) (shape : Nat × Nat × Nat × Nat) (data : List (List Nat))
  | collWrite (key : Nat)
  | cwaitTimeout (t : Tk) (id : Nat) (dest : Reg)
  -- 18_translation_and_isolation.md, 19_traps_and_preemption.md
  | tlbinvWait (t : Tk) (id space page : Nat) (evict : Bool) (spans : List (Nat × Nat))
  | preemptGo (p : Pos)
  | preemptPoll (p : Pos) (core part : Option Nat)
  | unpin (part core space page : Nat)
  | pagefree (part core page : Nat)
  | pagetake (part core page : Nat)
  | unmap (part space page count : Nat) (force evict : Bool)
  | unmapWait (space page count : Nat) (evict : Bool) (spans : List (Nat × Nat))
      (forced : List (Nat × Nat × Option Nat × Option Nat))
  | unpinEnd (core space page : Nat)
  -- 20_containment_and_recovery.md
  | reset (part core : Nat)
  | resetFence (cores : List Nat) (salvage : Bool)
  | cordonReturn (part core : Nat)
  | dieReset (part die : Nat)
  | dieLost (die : Nat)
  | returnDie (part die : Nat)
  | partitionReset (part : Nat)
  | partitionSteps (part : Nat)
  | partitionBack (part : Nat)
  -- 21_module.md
  | linkFrame (dir : Nat) (verified : Bool)
  | thermalTrip (die : Nat)
  | powerCap (watts : Nat)
  | moduleReset
  | startReport
  | imageUpdate (bytes : List (BitVec 8))
  | ptpSample (seconds nanos : Nat)
  | hostWrite (addr : Nat) (bytes : List (BitVec 8)) (fabric : Option Nat)
  | hostRead (name addr n : Nat) (fabric : Option Nat)
  | facceptWrite (v : Word)
  | featureEnable (bits : Word)
  | fabricBringUp (port peer : Nat) (rsa slh : Bool)
  | lightUnitConfig (part core : Nat) (v : Nat)
  | traceRing (part : Nat) (slice : Bool) (number : Nat) (on : Bool)
  | hubWrite (steward : Nat) (r : HubReg)
  | junction (hot : Bool)
  deriving DecidableEq, Repr

/-- The request of a task at an ordering point that a message carries: leaving, on its way, on its way back refused, or waiting for
the retirement of a record. -/
def Msg.req? : Msg → Option PortReq
  | .sendOut r | .remoteAccessArrival r | .homeSliceRequestArrival r | .postedWriteApply r | .feRequestRetry r => some r
  | .retireCall _ _ q | .retired _ q => some q
  | _ => Option.none

/-- The task that a message acts for, to whose budget class the memory traffic of its event is charged (R371). -/
def Msg.actor? (m : Msg) : Option Tk :=
  match m with
  | .vcacheAccessArrival a | .homeFill a | .lineFill a _ _ _ => some a.t
  | .reservationGrant r _ _ _ => some r.t
  | .longResultReady t _ | .tileUnit t _ | .callServe t _ _ | .callReply t _ _ _ | .callDone t _ | .fenceWait t _ _ _
  | .fenceGo t _ _ _ | .scfenceWait t _ _ | .scfenceCommit t _ _ | .preemptSaveComplete t _ | .exitWait t | .exitPush t _
  | .launch t _ _ _ _ _ _ | .migrationShip t _ _ | .migrationSend t _ _ _ | .lightPreempt t _ _ | .classBCompletion t _ _
  | .collRead t _ _ _ _ _ | .sleepExpiry t _ | .copyQuery t _ _ _ | .configArrive _ t _ _ _ _ _ _ => some t
  | _ => m.req?.map (·.t)

end Sys2Proof.Machine
end

