-- ==== Sys2Proof/Machine/Table.lean ====
section
/-! DEFINITION. Sparse tables keyed by number, in ascending key order, and byte memory in its canonical form. -/
namespace Sys2Proof.Machine

/-- A sparse table: pairs of key and value, ascending. A key without a pair reads as the reader's default. -/
abbrev Tbl (α : Type) := List (Nat × α)

/-- The value of key `k`, if listed. -/
def Tbl.look : Tbl α → Nat → Option α
  | [], _ => none
  | (j, v) :: r, k => if j = k then some v else Tbl.look r k

/-- The value of key `k`, or `d`. -/
def Tbl.get (t : Tbl α) (d : α) (k : Nat) : α := (Tbl.look t k).getD d

/-- The table with key `k` at `v`. -/
def Tbl.put : Tbl α → Nat → α → Tbl α
  | [], k, v => [(k, v)]
  | (j, w) :: r, k, v =>
    if k = j then (k, v) :: r else if k < j then (k, v) :: (j, w) :: r else (j, w) :: Tbl.put r k v

/-- The table without key `k`. -/
def Tbl.del : Tbl α → Nat → Tbl α
  | [], _ => []
  | (j, w) :: r, k => if j = k then Tbl.del r k else (j, w) :: Tbl.del r k

/-- The table with `f` applied at key `k`, starting from `d` where the key is not listed. -/
def Tbl.upd (t : Tbl α) (d : α) (k : Nat) (f : α → α) : Tbl α := Tbl.put t k (f (Tbl.get t d k))

/-- Byte memory: pairs of address and byte. -/
abbrev Memory := List Host.Cell

/-- What a byte that nothing has written reads as (log entry 4: DESIGN CHOICE). -/
def Memory.blank : BitVec 8 := 0

/-- Addresses strictly rise from `lo` and no listed byte is the blank one. -/
def Memory.wfFrom : Nat → Memory → Bool
  | _, [] => true
  | lo, (a, b) :: r => decide (lo ≤ a) && (b != Memory.blank) && Memory.wfFrom (a + 1) r

/-- The canonical form. -/
def Memory.wf (m : Memory) : Bool := Memory.wfFrom 0 m

/-- The byte at `a`. -/
def Memory.byteAt : Memory → Nat → BitVec 8
  | [], _ => Memory.blank
  | (j, b) :: r, a => if j = a then b else Memory.byteAt r a

/-- Write one byte, keeping the canonical form. -/
def Memory.put : Memory → Nat → BitVec 8 → Memory
  | [], a, b => if b = Memory.blank then [] else [(a, b)]
  | (j, c) :: r, a, b =>
    if a < j then (if b = Memory.blank then (j, c) :: r else (a, b) :: (j, c) :: r)
    else if a = j then (if b = Memory.blank then r else (a, b) :: r)
    else (j, c) :: Memory.put r a b

/-- The `n` bytes from `a`. -/
def Memory.bytes (m : Memory) (a n : Nat) : List (BitVec 8) := (List.range n).map fun i => m.byteAt (a + i)

/-- Write bytes from `a` upwards. -/
def Memory.putBytes : Memory → Nat → List (BitVec 8) → Memory
  | m, _, [] => m
  | m, a, b :: r => Memory.putBytes (m.put a b) (a + 1) r

/-- Write bytes from `a` upwards where the mask allows it. -/
def Memory.putMasked : Memory → Nat → List (BitVec 8 × Bool) → Memory
  | m, _, [] => m
  | m, a, (b, k) :: r => Memory.putMasked (if k then m.put a b else m) (a + 1) r

end Sys2Proof.Machine
end

