-- ==== Sys2Proof/Syntax.lean ====
section
/-! DEFINITION. The instructions and events of spec/opcode_table.json. -/
namespace Sys2Proof


/-- One constructor per step of the opcode table: the encoded instructions in the table's order, then the events.
Field letters are the table's; an event's arguments say what happens and to whom. -/
inductive Instr where
  /-- ADD (R129): Writes the sum of A and B to d. -/
  | add (d a b : Reg)
  /-- SUB (R129): Writes A minus B to d. -/
  | sub (d a b : Reg)
  /-- AND (R129): Writes the bitwise AND of A and B to d. -/
  | and (d a b : Reg)
  /-- OR (R129): Writes the bitwise OR of A and B to d. -/
  | or (d a b : Reg)
  /-- XOR (R129): Writes the bitwise XOR of A and B to d. -/
  | xor (d a b : Reg)
  /-- ANDN (R129): Writes A AND NOT B to d. -/
  | andn (d a b : Reg)
  /-- SLL (R129): Shifts A left by B[5:0]. -/
  | sll (d a b : Reg)
  /-- SRL (R129): Shifts A right logically by B[5:0]. -/
  | srl (d a b : Reg)
  /-- SRA (R129): Shifts A right arithmetically by B[5:0]. -/
  | sra (d a b : Reg)
  /-- MIN (R129): Writes the signed smaller of A and B. -/
  | min (d a b : Reg)
  /-- MAX (R129): Writes the signed larger of A and B. -/
  | max (d a b : Reg)
  /-- MINU (R129): Writes the unsigned smaller of A and B. -/
  | minu (d a b : Reg)
  /-- MAXU (R129): Writes the unsigned larger of A and B. -/
  | maxu (d a b : Reg)
  /-- SLT (R129): Writes 1 if A is signed less than B, else 0. -/
  | slt (d a b : Reg)
  /-- SLTU (R129): Writes 1 if A is unsigned less than B, else 0. -/
  | sltu (d a b : Reg)
  /-- CMOV (R129): Writes A to d only when B is non-zero. -/
  | cmov (d a b : Reg)
  /-- CLZ (R129): Counts leading zero bits of A. -/
  | clz (d a : Reg)
  /-- CTZ (R129): Counts trailing zero bits of A. -/
  | ctz (d a : Reg)
  /-- POPC (R129): Counts one bits of A. -/
  | popc (d a : Reg)
  /-- BSWAP (R129): Reverses the byte order of A. -/
  | bswap (d a : Reg)
  /-- SEXT_B (R129): Sign-extends A[7:0] to 64 bits. -/
  | sextB (d a : Reg)
  /-- SEXT_H (R129): Sign-extends A[15:0] to 64 bits. -/
  | sextH (d a : Reg)
  /-- SEXT_W (R129): Sign-extends A[31:0] to 64 bits. -/
  | sextW (d a : Reg)
  /-- ZEXT_B (R129): Zero-extends A[7:0] to 64 bits. -/
  | zextB (d a : Reg)
  /-- ZEXT_H (R129): Zero-extends A[15:0] to 64 bits. -/
  | zextH (d a : Reg)
  /-- ZEXT_W (R129): Zero-extends A[31:0] to 64 bits. -/
  | zextW (d a : Reg)
  /-- ADDI (R130): Adds the sign-extended imm16 to A. -/
  | addi (d a : Reg) (i : BitVec 16)
  /-- ANDI (R130): ANDs A with the sign-extended imm16. -/
  | andi (d a : Reg) (i : BitVec 16)
  /-- ORI (R130): ORs A with the sign-extended imm16; with all fields zero it is the canonical NOP. -/
  | ori (d a : Reg) (i : BitVec 16)
  /-- XORI (R130): XORs A with the sign-extended imm16. -/
  | xori (d a : Reg) (i : BitVec 16)
  /-- SLTI (R130): Writes 1 if A is signed less than the immediate. -/
  | slti (d a : Reg) (i : BitVec 16)
  /-- SLTIU (R130): Writes 1 if A is unsigned less than the immediate. -/
  | sltiu (d a : Reg) (i : BitVec 16)
  /-- SLLI (R131): Shifts A left by an immediate count. -/
  | slli (d a : Reg) (s : BitVec 6)
  /-- SRLI (R131): Shifts A right logically by an immediate count. -/
  | srli (d a : Reg) (s : BitVec 6)
  /-- SRAI (R131): Shifts A right arithmetically by an immediate count. -/
  | srai (d a : Reg) (s : BitVec 6)
  /-- LUI (R132): Writes imm21 sign-extended times 65536 to d. -/
  | lui (d : Reg) (i : BitVec 21)
  /-- ADDPC (R132): Writes PC plus imm21 sign-extended times 65536 to d. -/
  | addpc (d : Reg) (i : BitVec 21)
  /-- BFX (R133): Extracts a zero-extended bit field of A. -/
  | bfx (d a : Reg) (p l : BitVec 6)
  /-- BFI (R134): Inserts the low bits of A into a field of D. -/
  | bfi (d a : Reg) (p l : BitVec 6)
  /-- ADDX (R135): Writes A plus B shifted left by k. -/
  | addx (d a : Reg) (k : BitVec 3) (b : Reg)
  /-- MUL (R136): Writes the low 64 bits of A times B. -/
  | mul (d a b : Reg)
  /-- MULH (R136): Writes the high 64 bits of the signed product. -/
  | mulh (d a b : Reg)
  /-- MULHU (R136): Writes the high 64 bits of the unsigned product. -/
  | mulhu (d a b : Reg)
  /-- MADD (R136): Writes D plus A times B. -/
  | madd (d a b : Reg)
  /-- DIV (R137): Signed division, class L, with fixed results for zero and overflow. -/
  | div (d a b : Reg) (n : BitVec 4)
  /-- DIVU (R137): Unsigned division, class L. -/
  | divu (d a b : Reg) (n : BitVec 4)
  /-- REM (R137): Signed remainder, class L. -/
  | rem (d a b : Reg) (n : BitVec 4)
  /-- REMU (R137): Unsigned remainder, class L. -/
  | remu (d a b : Reg) (n : BitVec 4)
  /-- FADD (R139): Scalar floating add, rounded once. -/
  | fadd (d a b : Reg) (m : BitVec 3) (p : BitVec 1)
  /-- FSUB (R139): Scalar floating subtract, rounded once. -/
  | fsub (d a b : Reg) (m : BitVec 3) (p : BitVec 1)
  /-- FMUL (R139): Scalar floating multiply, rounded once. -/
  | fmul (d a b : Reg) (m : BitVec 3) (p : BitVec 1)
  /-- FFMA (R139): Scalar fused multiply-add with D as addend. -/
  | ffma (d a b : Reg) (m : BitVec 3) (p : BitVec 1)
  /-- FDIV (R139): Scalar floating divide, class L. -/
  | fdiv (d a b : Reg) (m : BitVec 3) (p : BitVec 1) (n : BitVec 4)
  /-- FSQRT (R139): Scalar floating square root, class L. -/
  | fsqrt (d a : Reg) (m : BitVec 3) (p : BitVec 1) (n : BitVec 4)
  /-- FCVT (R142): Converts between float precisions and integers by the kind in field b. -/
  | fcvt (d a : Reg) (k : BitVec 5) (m : BitVec 3) (p : BitVec 1)
  /-- FMIN (R140): Writes the smaller operand, preferring a non-NaN. -/
  | fmin (d a b : Reg) (p : BitVec 1)
  /-- FMAX (R140): Writes the larger operand, preferring a non-NaN. -/
  | fmax (d a b : Reg) (p : BitVec 1)
  /-- FCMP (R141): Floating comparison by cond, writing 1 or 0. -/
  | fcmp (d a b : Reg) (c : BitVec 2) (p : BitVec 1)
  /-- BEQ (R145): Branches if A equals B. -/
  | beq (a b : Reg) (o : BitVec 16)
  /-- BNE (R145): Branches if A differs from B. -/
  | bne (a b : Reg) (o : BitVec 16)
  /-- BLT (R145): Branches if A is signed less than B. -/
  | blt (a b : Reg) (o : BitVec 16)
  /-- BGE (R145): Branches if A is signed greater or equal to B. -/
  | bge (a b : Reg) (o : BitVec 16)
  /-- BLTU (R145): Branches if A is unsigned less than B. -/
  | bltu (a b : Reg) (o : BitVec 16)
  /-- BGEU (R145): Branches if A is unsigned greater or equal to B. -/
  | bgeu (a b : Reg) (o : BitVec 16)
  /-- JMP (R146): Jumps by a 26-bit word offset. -/
  | jmp (o : BitVec 26)
  /-- CALL (R150): Pushes a register window and jumps, saving the return address in s15. -/
  | call (o : BitVec 26)
  /-- JR (R146): Jumps to the address in A. -/
  | jr (a : Reg)
  /-- CALLR (R150): Pushes a register window and jumps to the address in A. -/
  | callr (a : Reg)
  /-- RET (R151): Pops the current window and returns to the caller's s15. -/
  | ret
  /-- LOOP (R147): Decrements the counter register and branches while it is non-zero. -/
  | loop (a : Reg) (o : BitVec 16)
  /-- LD (R257): Loads zero-extended bytes, class L. -/
  | ld (d a : Reg) (o : BitVec 10) (z : BitVec 2) (n : BitVec 4)
  /-- LDS (R257): Loads sign-extended bytes, class L. -/
  | lds (d a : Reg) (o : BitVec 10) (z : BitVec 2) (n : BitVec 4)
  /-- ST (R257): Stores the low bytes of V, entering global regions into the hand. -/
  | st (v a : Reg) (o : BitVec 10) (z : BitVec 2)
  /-- LDA (R261): Acquire load of the named scope. -/
  | lda (d a : Reg) (o : BitVec 10) (z : BitVec 1) (s : BitVec 3)
  /-- STL (R261): Release store of the named scope, writing a release record. -/
  | stl (v a : Reg) (o : BitVec 10) (z : BitVec 1) (s : BitVec 3)
  /-- LDX (R257): Indexed load at A plus B times size, class L. -/
  | ldx (d a b : Reg) (z : BitVec 2) (n : BitVec 4)
  /-- STX (R257): Indexed store at A plus B times size. -/
  | stx (v a b : Reg) (z : BitVec 2)
  /-- STP (R259): Posted store applied at the line's home slice with a sequence tag. -/
  | stp (v a : Reg) (o : BitVec 10) (z : BitVec 2)
  /-- LDFE (R252): Waits until the word is full, reads it and marks it empty. -/
  | ldfe (d a : Reg) (o : BitVec 10) (z : BitVec 1)
  /-- LDF (R252): Waits until the word is full and reads it. -/
  | ldf (d a : Reg) (o : BitVec 10) (z : BitVec 1)
  /-- STFE (R252): Waits until the word is empty, writes it and marks it full. -/
  | stfe (v a : Reg) (o : BitVec 10) (z : BitVec 1)
  /-- STF (R252): Writes the word and marks it full without waiting. -/
  | stf (v a : Reg) (o : BitVec 10) (z : BitVec 1)
  /-- FEQ (R252): Reads the full/empty bit of the word. -/
  | feq (d a : Reg) (o : BitVec 10) (z : BitVec 1)
  /-- FESET (R252): Sets the full/empty bit from V[0]. -/
  | feset (v a : Reg) (o : BitVec 10) (z : BitVec 1)
  /-- AMOADD (R264): Atomic add, returning the old word. -/
  | amoadd (d a b : Reg) (s : BitVec 3) (r : BitVec 2) (z : BitVec 1)
  /-- AMOAND (R264): Atomic AND, returning the old word. -/
  | amoand (d a b : Reg) (s : BitVec 3) (r : BitVec 2) (z : BitVec 1)
  /-- AMOOR (R264): Atomic OR, returning the old word. -/
  | amoor (d a b : Reg) (s : BitVec 3) (r : BitVec 2) (z : BitVec 1)
  /-- AMOXOR (R264): Atomic XOR, returning the old word. -/
  | amoxor (d a b : Reg) (s : BitVec 3) (r : BitVec 2) (z : BitVec 1)
  /-- AMOMIN (R264): Atomic signed minimum. -/
  | amomin (d a b : Reg) (s : BitVec 3) (r : BitVec 2) (z : BitVec 1)
  /-- AMOMAX (R264): Atomic signed maximum. -/
  | amomax (d a b : Reg) (s : BitVec 3) (r : BitVec 2) (z : BitVec 1)
  /-- AMOMINU (R264): Atomic unsigned minimum. -/
  | amominu (d a b : Reg) (s : BitVec 3) (r : BitVec 2) (z : BitVec 1)
  /-- AMOMAXU (R264): Atomic unsigned maximum. -/
  | amomaxu (d a b : Reg) (s : BitVec 3) (r : BitVec 2) (z : BitVec 1)
  /-- AMOSWAP (R264): Atomic exchange. -/
  | amoswap (d a b : Reg) (s : BitVec 3) (r : BitVec 2) (z : BitVec 1)
  /-- AMOCAS (R264): Atomic compare-and-swap against D. -/
  | amocas (d a b : Reg) (s : BitVec 3) (r : BitVec 2) (z : BitVec 1)
  /-- AMOFADD (R265): Atomic floating add rounded RNE, noting flags. -/
  | amofadd (d a b : Reg) (s : BitVec 3) (r : BitVec 2) (z : BitVec 1)
  /-- HOLD (R266): Obtains and keeps the reservation of a location, returning its word. -/
  | hold (d a : Reg) (s : BitVec 3) (r : BitVec 2) (z : BitVec 1)
  /-- PASS (R266): Writes the held location and releases its reservation. -/
  | pass (a b : Reg) (s : BitVec 3) (r : BitVec 2) (z : BitVec 1)
  /-- FENCE (R268): Acquire, release or both fence of a scope, sealing or applying the hand. -/
  | fence (s : BitVec 3) (k : BitVec 2)
  /-- SCFENCE (R341): Drains the task's writes home, commits and self-invalidates its private vcaches. -/
  | scfence (s : BitVec 3)
  /-- WACK (R270): Waits for acknowledgement of every outstanding posted, remote and maintenance write. -/
  | wack
  /-- CLEAN (R271): Writes dirty lines of a range up to the scope's level. -/
  | clean (a b : Reg) (s : BitVec 3)
  /-- INVAL (R271): Writes back then invalidates lines of a range below the scope's level. -/
  | inval (a b : Reg) (s : BitVec 3)
  /-- DISCARD (R272): Invalidates every line of a tensor id in the space without write-back. -/
  | discard (a : Reg)
  /-- PREF (R273): Prefetches a line or refills a scratchpad page, never faulting. -/
  | pref (a : Reg)
  /-- WAITA (R274): Compares a word at its ordering point and parks on a monitor while it equals B. -/
  | waita (d a b : Reg)
  /-- WAKE (R275): Wakes every monitor on a line. -/
  | wake (a : Reg)
  /-- CDEF (R308): Defines a vcache from a definition word. -/
  | cdef (d a b : Reg)
  /-- CPARENT (R308): Re-parents a vcache by the reconfiguration transaction. -/
  | cparent (d a b : Reg)
  /-- CRESIZE (R308): Resizes a vcache by the reconfiguration transaction. -/
  | cresize (d a b : Reg)
  /-- CBIND (R308): Fills a binding slot and moves the region. -/
  | cbind (d a b : Reg)
  /-- CUNBIND (R308): Empties a binding slot, returning the region to vcache 0. -/
  | cunbind (d a : Reg)
  /-- CQUERY (R308): Returns a vcache's definition and counts. -/
  | cquery (d a : Reg)
  /-- CDROP (R308): Drops a vcache, freeing its slices and id. -/
  | cdrop (d a : Reg)
  /-- TDEF (R170): Loads a tile descriptor from a register pair if well formed. -/
  | tdef (t : TReg) (s : Reg)
  /-- TSHAPE (R171): Sets a tile's logical shape. -/
  | tshape (t : TReg) (s : Reg)
  /-- TBASE (R172): Sets a tile's base and core. -/
  | tbase (t : TReg) (s : Reg)
  /-- TGET_HALF0 (R173): Reads descriptor bits [63:0] of a tile into s. -/
  | tgetHalf0 (a : TReg) (s : Reg)
  /-- TGET_HALF1 (R173): Reads descriptor bits [127:64] of a tile into s. -/
  | tgetHalf1 (a : TReg) (s : Reg)
  /-- TLD (R175): Loads a tile from memory row by row. -/
  | tld (t : TReg) (s : Reg) (n : BitVec 4)
  /-- TST (R175): Stores a tile to memory row by row. -/
  | tst (t : TReg) (s : Reg) (n : BitVec 4)
  /-- TGATH (R176): Gathers tile rows by an index tile. -/
  | tgath (t a : TReg) (s : Reg) (n : BitVec 4)
  /-- TSCAT (R176): Scatters tile rows by an index tile. -/
  | tscat (t a : TReg) (s : Reg) (n : BitVec 4)
  /-- TCPY (R177): Copies a tile's elements unchanged. -/
  | tcpy (t a : TReg) (n : BitVec 4)
  /-- TFILL (R178): Fills every logical element with the low bits of S. -/
  | tfill (t : TReg) (s : Reg) (n : BitVec 4)
  /-- TTRANS (R179): Transposes a tile. -/
  | ttrans (t a : TReg) (n : BitVec 4)
  /-- TROT (R180): Rotates a tile by row and column amounts. -/
  | trot (t a : TReg) (s : Reg) (n : BitVec 4)
  /-- TADD (R181): Elementwise floating add of tiles. -/
  | tadd (d a b : TReg) (x : BitVec 1) (n : BitVec 4)
  /-- TSUB (R181): Elementwise floating subtract of tiles. -/
  | tsub (d a b : TReg) (x : BitVec 1) (n : BitVec 4)
  /-- TMUL (R181): Elementwise floating multiply of tiles. -/
  | tmul (d a b : TReg) (x : BitVec 1) (n : BitVec 4)
  /-- TFMA (R181): Elementwise fused multiply-add of tiles. -/
  | tfma (d a b c : TReg) (x : BitVec 1) (n : BitVec 4)
  /-- TDIV (R181): Elementwise floating divide of tiles. -/
  | tdiv (d a b : TReg) (x : BitVec 1) (n : BitVec 4)
  /-- TMAX (R183): Elementwise maximum propagating NaN. -/
  | tmax (d a b : TReg) (n : BitVec 4)
  /-- TMIN (R183): Elementwise minimum propagating NaN. -/
  | tmin (d a b : TReg) (n : BitVec 4)
  /-- TABS (R181): Elementwise absolute value. -/
  | tabs (d a : TReg) (n : BitVec 4)
  /-- TNEG (R181): Elementwise negation. -/
  | tneg (d a : TReg) (n : BitVec 4)
  /-- TEXP (R184): Correctly rounded elementwise exponential. -/
  | texp (d a : TReg) (x : BitVec 1) (n : BitVec 4)
  /-- TLOG (R184): Correctly rounded elementwise natural logarithm. -/
  | tlog (d a : TReg) (x : BitVec 1) (n : BitVec 4)
  /-- TRSQ (R184): Correctly rounded elementwise reciprocal square root. -/
  | trsq (d a : TReg) (x : BitVec 1) (n : BitVec 4)
  /-- TRCP (R184): Correctly rounded elementwise reciprocal. -/
  | trcp (d a : TReg) (x : BitVec 1) (n : BitVec 4)
  /-- TTANH (R184): Correctly rounded elementwise tanh. -/
  | ttanh (d a : TReg) (x : BitVec 1) (n : BitVec 4)
  /-- TERF (R184): Correctly rounded elementwise erf. -/
  | terf (d a : TReg) (x : BitVec 1) (n : BitVec 4)
  /-- TIADD (R185): Elementwise integer add. -/
  | tiadd (d a b : TReg) (x : BitVec 1) (n : BitVec 4)
  /-- TISUB (R185): Elementwise integer subtract. -/
  | tisub (d a b : TReg) (x : BitVec 1) (n : BitVec 4)
  /-- TIMUL (R185): Elementwise integer multiply. -/
  | timul (d a b : TReg) (x : BitVec 1) (n : BitVec 4)
  /-- TAND (R185): Elementwise bitwise AND. -/
  | tand (d a b : TReg) (n : BitVec 4)
  /-- TOR (R185): Elementwise bitwise OR. -/
  | tor (d a b : TReg) (n : BitVec 4)
  /-- TXOR (R185): Elementwise bitwise XOR. -/
  | txor (d a b : TReg) (n : BitVec 4)
  /-- TSHL (R185): Elementwise integer left shift. -/
  | tshl (d a b : TReg) (n : BitVec 4)
  /-- TSHR (R185): Elementwise arithmetic right shift. -/
  | tshr (d a b : TReg) (n : BitVec 4)
  /-- TADDS (R188): Adds a scalar FP64 value to every element. -/
  | tadds (d a : TReg) (s : Reg) (x : BitVec 1) (n : BitVec 4)
  /-- TMULS (R188): Multiplies every element by a scalar. -/
  | tmuls (d a : TReg) (s : Reg) (x : BitVec 1) (n : BitVec 4)
  /-- TFMAS (R188): Fused multiply by a scalar and add td. -/
  | tfmas (d a : TReg) (s : Reg) (x : BitVec 1) (n : BitVec 4)
  /-- TMAXS (R188): Elementwise maximum with a scalar. -/
  | tmaxs (d a : TReg) (s : Reg) (n : BitVec 4)
  /-- TCMP (R186): Elementwise comparison writing 1 or 0. -/
  | tcmp (d a b : TReg) (k : BitVec 3) (n : BitVec 4)
  /-- TSEL (R187): Selects elements of ta or tb by a mask tile. -/
  | tsel (d a b c : TReg) (n : BitVec 4)
  /-- TRSUM (R189): Sums each row exactly, rounded once. -/
  | trsum (d a : TReg) (n : BitVec 4)
  /-- TCSUM (R189): Sums each column exactly, rounded once. -/
  | tcsum (d a : TReg) (n : BitVec 4)
  /-- TRMAX (R189): Maximum of each row. -/
  | trmax (d a : TReg) (n : BitVec 4)
  /-- TCMAX (R189): Maximum of each column. -/
  | tcmax (d a : TReg) (n : BitVec 4)
  /-- TSUM (R189): Sum of every element. -/
  | tsum (d a : TReg) (n : BitVec 4)
  /-- TCVT (R190): Converts tile elements between formats, including FP4 with block scales. -/
  | tcvt (d a : TReg) (r : BitVec 3) (x : BitVec 1) (n : BitVec 4)
  /-- TPACK (R193): Encodes a tile into VF8 stream blocks. -/
  | tpack (d a : TReg) (n : BitVec 4)
  /-- TUNPACK (R194): Decodes a VF8 stream tile. -/
  | tunpack (d a : TReg) (n : BitVec 4)
  /-- TRAND (R197): Fills a tile from the quince function. -/
  | trand (d : TReg) (s : Reg) (n : BitVec 4)
  /-- TDROP (R198): Applies dropout with keep probability and scale. -/
  | tdrop (d a : TReg) (s : Reg) (n : BitVec 4)
  /-- MMA (R235): Enters a matrix multiply-accumulate command into the partner queue. -/
  | mma (c a b : TReg)
  /-- MMAT (R235): Enters a multiply-accumulate with the second operand transposed. -/
  | mmat (c a b : TReg)
  /-- MMAS (R235): Enters a multiply that first zeroes the accumulator and makes a base point. -/
  | mmas (c a b : TReg)
  /-- MMAJ (R236): Enters a joint quad multiply command. -/
  | mmaj (c a b : TReg)
  /-- MZERO (R237): Enters a command zeroing an accumulator. -/
  | mzero (c : TReg)
  /-- MLOAD (R237): Enters a command loading a tile into an accumulator. -/
  | mload (c a : TReg)
  /-- MDRAIN (R237): Enters a command that checks, drains and rebases an accumulator. -/
  | mdrain (c a : TReg)
  /-- MCHK (R237): Enters a command checking an accumulator against its checksums. -/
  | mchk (c : TReg)
  /-- MSTAT (R238): Reads an accumulator status word. -/
  | mstat (c : TReg) (s : Reg)
  /-- MWAIT (R238): Waits for commands naming an accumulator to complete. -/
  | mwait (c : TReg)
  /-- MJOIN (R238): Joins a quad joint group by tag, waiting for 32 members. -/
  | mjoin (s : Reg)
  /-- MLEAVE (R238): Leaves the joint group after own MMAJ commands complete. -/
  | mleave
  /-- QTRY (R387): Reports a queue port's held words and free room without popping. -/
  | qtry (d a : Reg)
  /-- QCFG (R386): Asks the channel agent to rebind a neighbour channel endpoint. -/
  | qcfg (a : Reg) (n : BitVec 2)
  /-- START (R374): Banker starts or restores a task in a slot. -/
  | start (a : Reg)
  /-- REAP (R375): Banker empties an exited slot and returns its exit event. -/
  | reap (d a : Reg)
  /-- SPAWN (R413): Creates a light child task record. -/
  | spawn (d a : Reg)
  /-- EXIT (R376): Ends the task after waits and a drain, pushing an exit event. -/
  | exit
  /-- SLEEP (R377): Parks until CYCLE reaches A. -/
  | sleep (a : Reg)
  /-- LAUNCH (R379): Appends a deal record to a LAUNCH-fed user queue. -/
  | launch (d a b : Reg)
  /-- COORD (R378): Reads one coordinate of the task. -/
  | coord (d : Reg) (k : BitVec 2)
  /-- DEPINIT (R380): Sets a dependence counter's value. -/
  | depinit (a b : Reg)
  /-- DEPDEC (R380): Drains the hand and decrements a dependence counter. -/
  | depdec (a : Reg)
  /-- BARW (R396): Arrives at a barrier and waits for release or timeout. -/
  | barw (d a b : Reg)
  /-- BARA (R396): Arrives at a barrier without waiting. -/
  | bara (a : Reg)
  /-- BARQ (R396): Reads a barrier's generation and arrival state. -/
  | barq (d a : Reg)
  /-- PROBE (R398): Runs coloured termination circuits over a rectangle. -/
  | probe (d a : Reg)
  /-- DRAIN (R399): Sends flushes in each class to every core of a rectangle and waits for answers. -/
  | drain (a : Reg)
  /-- COLL (R434): Contributes to a collective instance. -/
  | coll (d a : Reg)
  /-- CWAIT (R436): Waits for a collective instance to complete or time out. -/
  | cwait (d a : Reg)
  /-- EVGATH (R400): Gathers numerical-event counters over a barrier. -/
  | evgath (d a : Reg)
  /-- CPY (R429): Requests a strided copy and receives a promise. -/
  | cpy (d a : Reg)
  /-- CPYM (R429): Requests a copy with a follow-on matrix command. -/
  | cpym (d a b : Reg)
  /-- CPYD (R429): Requests a multi-dimensional copy. -/
  | cpyd (d a : Reg)
  /-- CPYQ (R428): Queries a copy by tag, returning an outcome or a new promise. -/
  | cpyq (d a : Reg)
  /-- TRAP (R467): Raises a software trap with a code. -/
  | trap (c : BitVec 12)
  /-- ERET (R468): Returns from a handler, resuming a stopped tile instruction if TRES.V is set. -/
  | eret
  /-- CRRD (R463): Reads a control register. -/
  | crrd (d : Reg) (r : BitVec 12)
  /-- CRWR (R463): Writes a control register. -/
  | crwr (a : Reg) (r : BitVec 12)
  /-- CRSET (R463): Sets bits of a control register. -/
  | crset (a : Reg) (r : BitVec 12)
  /-- CRCLR (R463): Clears bits of a control register. -/
  | crclr (a : Reg) (r : BitVec 12)
  /-- TLBINV (R448): Banker invalidates translations of a page, optionally evicting its lines. -/
  | tlbinv (a : Reg) (e : BitVec 1)
  /-- IFLUSH (R469): Discards the slot's fetched instructions. -/
  | iflush
  /-- IDLE (R470): Parks until q7 holds a word. -/
  | idle
  /-- BRK (R471): Parks the slot with a breakpoint fault record. -/
  | brk (c : BitVec 12)
  /-- DEFERRED_FAULT_TAKEN (R85): A deferred fault of an L or tile instruction is taken at the boundary before the waiting instruction. -/
  | deferredFaultTaken
  /-- LONG_RESULT_READY (R127): A class L result is written or pushed, or its deferred fault recorded. -/
  | longResultReady
  /-- WINDOW_SPILL (R21): An idle turn spills one register window to the window stack. -/
  | windowSpill
  /-- WINDOW_FILL (R21): An idle turn fills one register window from the window stack. -/
  | windowFill
  /-- CHANNEL_WORD_ARRIVAL (R384): A channel word enters the partner endpoint's inbound queue. -/
  | channelWordArrival
  /-- SCRATCHPAD_PAGE_REFILL (R248): A refill of an unpinned scratchpad page completes and pins the page. -/
  | scratchpadPageRefill
  /-- REMOTE_ACCESS_ARRIVAL (R250): A remote scratchpad access arrives at the owner's port and is applied. -/
  | remoteAccessArrival
  /-- REMOTE_STORE_ACK (R250): The acknowledgement of a remote scratchpad store returns. -/
  | remoteStoreAck
  /-- FE_REQUEST_RETRY (R255): A refused remote full/empty request is resent 32 cycles after refusal, or traps at the retry limit. -/
  | feRequestRetry
  /-- RESERVATION_GRANT (R263): The owning bank grants the next reservation in order and forwards the word. -/
  | reservationGrant
  /-- RESERVATION_TIMEOUT (R266): A reservation held 65536 cycles is revoked. -/
  | reservationTimeout
  /-- POSTED_WRITE_APPLY (R337): A home slice probes, tags and applies an arriving posted write. -/
  | postedWriteApply
  /-- POSTED_WRITE_ACK (R338): The tagged acknowledgement of a posted write returns. -/
  | postedWriteAck
  /-- MONITOR_WAKE (R274): A write or WAKE reaching a monitored line rereads the word and releases the waiter. -/
  | monitorWake
  /-- VCACHE_ACCESS_ARRIVAL (R288): An access, fill or write-back arrives at a vcache set and is applied. -/
  | vcacheAccessArrival
  /-- LINE_FILL (R287): A missing line's bytes arrive from the parent and are placed. -/
  | lineFill
  /-- HOME_PROBE (R294): A home slice's probe acts on the instances that hold a region. -/
  | homeProbe
  /-- CONFIG_AGENT_TAKE (R305): The space's configuration agent takes a vcache instruction and begins its transaction. -/
  | configAgentTake
  /-- RECONFIG_RESUME (R300): Parked accesses resume under the new chain at step 6. -/
  | reconfigResume
  /-- VCACHE_STATUS_WRITE (R305): A vcache instruction completes and writes its status. -/
  | vcacheStatusWrite
  /-- CALL_SERVE (R328): The releaser's core serves an arriving call, lifting dirty lines to the meeting level. -/
  | callServe
  /-- CALL_REPLY (R329): The acquirer receives the reply, invalidates and inherits the listed regions. -/
  | callReply
  /-- NOTIFY_WORD (R359): A TAIL write wakes the scheduler for a user queue. -/
  | notifyWord
  /-- QUEUE_SLOT_BIND (R361): A waiting queue is bound to a hardware queue slot. -/
  | queueSlotBind
  /-- DEAL_INTAKE (R362): A deal record reaches intake, gets an active-deal entry and is checked whole. -/
  | dealIntake
  /-- TABLE_READ_RETRY (R499): A faulted mapping-table read is retried every 65536 cycles. -/
  | tableReadRetry
  /-- COMPLETION_RECORD_WRITE (R363): The scheduler writes a deal's completion record at home. -/
  | completionRecordWrite
  /-- COMPLETION_RECORD_RETRY (R363): A refused completion-record write is retried every 65536 cycles. -/
  | completionRecordRetry
  /-- PLACEMENT_EVENT (R365): A placement event reaches a banker's q7. -/
  | placementEvent
  /-- DEAL_MAPPING_FIX (R364): A deal with no eligible core fixes its mapping when a core becomes eligible. -/
  | dealMappingFix
  /-- AGING_TICK (R367): A waiting deal's aging credit rises by one. -/
  | agingTick
  /-- SLICE_EXPIRY (R369): A task's time slice ends, leading to pre-emption if work waits. -/
  | sliceExpiry
  /-- BUDGET_PERIOD (R371): A new 10 microsecond budget period begins and throttled activity resumes. -/
  | budgetPeriod
  /-- COUNTER_REQUEST_ARRIVAL (R372): A DEPINIT or DEPDEC arrives at the counter unit, possibly releasing a held deal. -/
  | counterRequestArrival
  /-- OUTBOUND_EVENT_DELIVERY (R366): The hub moves a banker's event word to the steward's queue. -/
  | outboundEventDelivery
  /-- EXIT_EVENT_PUSH (R376): EXIT's exit event is pushed to the banker's q7 once room is free. -/
  | exitEventPush
  /-- CHANNEL_AGENT_REQUEST (R386): The channel agent applies or refuses a QCFG request. -/
  | channelAgentRequest
  /-- BARRIER_COMPLETE (R390): A barrier completes after its last arrival and releases its members. -/
  | barrierComplete
  /-- BARRIER_TIMEOUT (R392): A barrier instance expires and is abandoned. -/
  | barrierTimeout
  /-- MATRIX_OP_START (R203): The partner takes the next queued command and checks pushed commands at the head. -/
  | matrixOpStart
  /-- K_BLOCK_COMPLETE (R215): The partner completes one K-block of an operation. -/
  | kBlockComplete
  /-- MATRIX_COMMAND_COMPLETE (R205): A matrix command completes and its completion word is produced. -/
  | matrixCommandComplete
  /-- JOINT_OP_START (R229): A joint operation starts when all 32 members' MMAJ are at their queue heads. -/
  | jointOpStart
  /-- JOINT_GROUP_FORM (R238): A quad joint group forms when 32 tasks have joined with one tag. -/
  | jointGroupForm
  /-- MAP_EXECUTABLE (R96): The steward asks the code scanner to map a range executable. -/
  | mapExecutable
  /-- PAGE_SCAN (R98): The scanner finishes scanning one 4 KiB page, rejecting or passing it. -/
  | pageScan
  /-- LIGHT_RECORD_ARRIVAL (R407): A light task record comes to a light unit and is queued, kittied or refused. -/
  | lightRecordArrival
  /-- KITTY_REFILL (R407): A kitty record enters the arrival queue 200 cycles after its entry was reserved. -/
  | kittyRefill
  /-- LIGHT_DISPATCH (R408): An empty light slot takes the oldest record and loads its context. -/
  | lightDispatch
  /-- MIGRATION_SHIP (R411): A migrating light task's record is sent after its drain. -/
  | migrationShip
  /-- MIGRATION_ANSWER (R411): The acceptance or refusal of a shipped record reaches the origin. -/
  | migrationAnswer
  /-- RECORD_RESEND (R411): A refused light record is resent 256 cycles after the refusal. -/
  | recordResend
  /-- LIGHT_PREEMPT_RECORD (R412): A pre-empted light task is placed as a KIND 3 record once its drain completes. -/
  | lightPreemptRecord
  /-- DEALER_ACCEPT (R416): The dealer accepts the next mailbox request, checks it and returns a promise. -/
  | dealerAccept
  /-- COPY_RUN (R422): The dealer starts or resumes the next copy of its queue. -/
  | copyRun
  /-- COPY_COMPLETE (R424): A copy's last write is acknowledged, decrementing its counter. -/
  | copyComplete
  /-- CPYM_FOLLOW_ON (R425): The dealer hands a CPYM's command to the requester's matrix queue once room exists. -/
  | cpymFollowOn
  /-- SPILL_RING_RETURN (R418): A copy moves from the spill ring back into the copy queue. -/
  | spillRingReturn
  /-- SLEEP_EXPIRY (R427): A sleep ends; a promise sleep observes completion or raises the missed-promise trap. -/
  | sleepExpiry
  /-- COLL_COMMIT (R435): A collective instance commits once the root holds every contribution. -/
  | collCommit
  /-- COLL_RESULT_WRITE (R437): The combining engines finish writing every member's result buffer. -/
  | collResultWrite
  /-- CWAIT_TIMEOUT (R436): CWAIT's timeout expires with the instance still running. -/
  | cwaitTimeout
  /-- TRANSLATION_WALK (R445): A translation walk completes or faults for coalesced misses. -/
  | translationWalk
  /-- RESUME_RETRY (R462): Steward RESUME action 0 reissues the faulting instruction or engine access. -/
  | resumeRetry
  /-- RESUME_SKIP (R462): Steward RESUME action 1 continues at PC plus 4. -/
  | resumeSkip
  /-- RESUME_END (R462): Steward RESUME action 2 ends the task with error. -/
  | resumeEnd
  /-- PREEMPT (R464): A supervisor pre-emption demand reaches the core and settling starts. -/
  | preempt
  /-- PREEMPT_SAVE_COMPLETE (R464): Context and partner image are saved; the slot empties and the banker gets KIND 3. -/
  | preemptSaveComplete
  /-- UNPIN (R465): The translation agent writes back and unpins a scratchpad page. -/
  | unpin
  /-- PAGEFREE (R492): The steward places a bank page on a core's free-page list. -/
  | pagefree
  /-- PAGETAKE (R492): The steward removes a bank page from a core's free-page list. -/
  | pagetake
  /-- UNMAP (R449): The translation agent clears leaves, shoots down translations and optionally forces and evicts. -/
  | unmap
  /-- RESET (R474): A cordon reset fences, salvages, withdraws tasks and clears the cordon. -/
  | reset
  /-- CORDON_RETURN (R474): The steward returns a reset cordon's cores and the fence lifts. -/
  | cordonReturn
  /-- DIE_RESET (R479): The steward orders a die reset, treated as loss of the die. -/
  | dieReset
  /-- DIE_LOST (R479): A die pair stops answering link checks for 4096 cycles and is lost. -/
  | dieLost
  /-- RETURN (R479): A lost die is reset and returned, poisoning logged regions. -/
  | returnDie
  /-- PARTITION_RESET (R480): A halted partition is reset with new keys and cleared hub state. -/
  | partitionReset
  /-- LINK_FRAME (R455): A Scatune link frame is received and its tag verified. -/
  | linkFrame
  /-- THERMAL_TRIP (R490): A junction passes its trip limit and every partition halts. -/
  | thermalTrip
  /-- POWER_CAP (R490): The management controller sets the module power cap. -/
  | powerCap
  /-- MODULE_RESET (R483): Module reset runs the boot engine's verification of image slots. -/
  | moduleReset
  /-- START_REPORT (R484): The module OS reports a successful start, raising the anti-rollback counter. -/
  | startReport
  /-- IMAGE_UPDATE (R491): The management controller writes a new image to slot B. -/
  | imageUpdate
  /-- ERROR_RECORD_DELIVERY (R491): The management controller sends an error record out of band in SEQ order. -/
  | errorRecordDelivery
  /-- PTP_SAMPLE (R482): The controller samples CYCLE against its PTP clock once per millisecond. -/
  | ptpSample
  /-- HOST_WRITE (R487): A host write is applied at its home in arrival order. -/
  | hostWrite
  /-- HOST_READ (R487): A host read is served at its home. -/
  | hostRead
  /-- FACCEPT_WRITE (R488): The driver writes FACCEPT once, accepting offered features or being refused. -/
  | facceptWrite
  /-- FEATURE_ENABLE (R488): An accepted feature is enabled 1000 cycles after the write. -/
  | featureEnable
  /-- FABRIC_BRING_UP (R487): A fabric port exchanges attestation and agrees link keys, or stays down. -/
  | fabricBringUp
  /-- ERRINJ_DISARM (R226): A write of 0 to ERRINJ disarms the injector. -/
  | errinjDisarm
  /-- ERRINJ_ACCUMULATOR (R226): ERRINJ target 1 arms an accumulator-element flip, or is refused. -/
  | errinjAccumulator
  /-- ERRINJ_SCRATCHPAD_WORD (R481): ERRINJ target 2 makes a scratchpad word uncorrectable. -/
  | errinjScratchpadWord
  /-- ERRINJ_REGISTER (R481): ERRINJ target 3 makes a private register uncorrectable. -/
  | errinjRegister
  /-- ERRINJ_VCACHE_LINE (R481): ERRINJ target 4 makes a vcache line held on the core uncorrectable. -/
  | errinjVcacheLine
  /-- ERRINJ_CORDON_RESET (R481): ERRINJ target 5 causes a cordon reset. -/
  | errinjCordonReset
  /-- QCFG_DEFAULT (R385): Writing DFLT restores the default pairing of a channel for every task slot of the core. -/
  | qcfgDefault
  /-- LIGHT_UNIT_CONFIG (R403): The steward writes a light unit's kitty base, LMASK and KEN, with refusals for busy slots. -/
  | lightUnitConfig
  /-- TRACE_RING_CONTROL (R344): The steward turns a trace ring on or off. -/
  | traceRingControl
  /-- HUB_REGISTER_WRITE (R486): A steward writes a hub register without its own row, refused across partitions. -/
  | hubRegisterWrite
  /-- HOME_SLICE_REQUEST_ARRIVAL (R336): A sync-class access, write-back merge or other request arrives at a home slice and is applied in arrival order with the tie order of R336. -/
  | homeSliceRequestArrival
  /-- HOME_BUFFER_FILL (R495): A line's bytes arrive from the stacked or pool tier into a home slice's home buffer, releasing reads that wait for that fill. -/
  | homeBufferFill
  /-- CLASS_B_COMPLETION (R83): A blocking instruction's response arrives after its stated time (LDA, STL, FE access, MSTAT, DEP acknowledgement, DRAIN answers, LAUNCH and similar), completing it and releasing the parked slot. -/
  | classBCompletion
  /-- PROBE_CIRCUIT_END (R398): One circuit of the coloured termination probe ends and either completes PROBE or starts the next circuit. -/
  | probeCircuitEnd
  /-- JUNCTION_LIMIT_CROSSING (R490): Module power passes the cap or a junction passes its junction limit, or falls back, starting or ending the hold-back of matrix issue, copy moves and vector work. -/
  | junctionLimitCrossing
  /-- FAULT_RECORD_DELIVERY (R493): A supervisor-level fault record or error record reaches the steward's queue 60 + 2 × hops + 80 cycles after it is raised. -/
  | faultRecordDelivery
  deriving DecidableEq, Repr

end Sys2Proof
end

