-- ==== Sys2Proof/Machine/State.lean ====
section
/-! DEFINITION. Everything the spec gives the machine, and the state after module reset. Each field's docstring names the
rule that gives it; INVENTORY.md lists them with their reset values. -/
namespace Sys2Proof.Machine

/-- Why the machine stops. -/
inductive Fault where
  /-- A word in a page mapped executable is no instruction. Raised by the fetch of Step.lean; R102 says it never happens,
  so stopping there is safe. -/
  | illegalWord (pc : Nat)
  deriving DecidableEq, Repr

/-- Why a step has no meaning here. -/
inductive Refusal where
  /-- An instruction of the opcode table that has no meaning in the model yet. Raised by Dispatch.lean only; safe. -/
  | notModelled (mnemonic : String)
  deriving DecidableEq, Repr

/-- Something due: an event of the opcode table, the cycle it takes place in and its place among the events of that cycle
(R336, R303; log entry 2). -/
structure Pending where
  due : Nat
  tie : Nat
  ev  : Instr
  msg : Msg
  deriving DecidableEq, Repr

/-- A result of a class L instruction that is still outstanding (R83, R85, R127). -/
structure Outst where
  id     : Nat
  pc     : Word
  dest   : Option Reg
  left   : Nat           -- instructions of its window still to issue
  value  : Nat := 0
  events : Events := {}
  xen    : Flags := 0     -- STATUS.XEN read at issue (R463)
  fault  : Option Trap := none
  tres   : Option Nat := none   -- what a stopped tile instruction writes to TRES (R165)
  resumed : Bool := false       -- an ERET ran it, so that it is earlier than every fault held (R167, R468)
  doneAt : Option Nat := none
  deriving DecidableEq, Repr

/-- A trap waiting for its boundary (R86, R460). -/
structure PTrap where
  trap : Trap
  due  : Bool             -- its boundary has been reached
  id   : Nat              -- the outstanding result it came from
  inHandler : Bool        -- raised by an instruction of the handler itself (R460)
  pc   : Word := 0        -- the instruction at fault (Table 19-5)
  deriving DecidableEq, Repr

/-- A window of s8 to s15 (R24). -/
abbrev Window := List Word

/-- An entry of the hand (Table 11-1). -/
structure HandEntry where
  region : Region
  sealNo : Nat            -- 0 while open
  inh    : Bool
  deriving DecidableEq, Repr

/-- A noted release record (R332). -/
structure Note where
  loc    : Nat
  record : Record
  va     : Nat := 0                        -- the address that the task formed, for a trap (R477)
  deriving DecidableEq, Repr

/-- A reservation a task holds by HOLD, or has lost (R266). -/
structure Held where
  loc  : Nat
  size : Nat
  deriving DecidableEq, Repr

/-- The operation of a class L tile instruction (majors 0x25 to 0x2C). -/
inductive TileOp where
  | ld | st | gath | scat
  | cpy | fill | trans | rot
  | float (k : Nat)        -- Table 6-7
  | special (k : Nat)      -- Table 6-8
  | int (k : Nat)          -- R185
  | scalar (k : Nat)       -- R188
  | cmp (cond : Nat) | sel
  | reduce (k : Nat)       -- Table 6-11, k = OP
  | cvt (rnd : Nat) | pack | unpack
  | rand | drop
  deriving DecidableEq, Repr

/-- Why a tile instruction cannot run its next unit (R168, R447): a supervisor-level fault, a refill of a scratchpad page, or a walk for
a page. -/
inductive Hold where
  | fault (cause sub addr acc : Nat) (told : Bool)  -- `told`: a coalesced requester has sent the page's record (R447)
  | refill
  | walk (page : Nat)
  deriving DecidableEq, Repr

/-- A class L tile instruction that has issued and not completed: what it read at issue (R157) and how far it is (R162, R168). -/
structure TileRun where
  id    : Nat             -- its outstanding entry
  pc    : Word
  op    : TileOp
  d     : BitVec 128      -- td
  a     : BitVec 128      -- ta, tb, tc where named
  b     : BitVec 128
  c     : BitVec 128
  x     : Nat             -- the scalar operand
  sat   : Bool
  rmode : Nat             -- RMODE
  scla  : Nat             -- SCLA
  from_ : Nat             -- first unit of this run
  next  : Nat             -- next unit
  units : Nat
  base  : Nat             -- cycle that unit times count from
  flags : Flags := 0      -- union of the flags of the units computed
  hold  : Option Hold := none
  cut   : Bool := false   -- stopped after a unit by a pre-emption
  sent  : Bool := true    -- SENT counts what its units are still to write (R397)
  calls : List Nat := []  -- accesses that the calls of its noted records hold open (R174, R332)
  moved : List Nat := []  -- a VF8 TCPY's bytes by unit, which its rows' blocks decide (R177, R199)
  deriving DecidableEq, Repr

/-- Why a slot is parked (Table 15-1). -/
inductive Wait where
  | pop (port : Nat)
  | push (port : Nat)
  | fullEmpty (id : Nat)
  | grant (id : Nat)
  | sleep (till : Nat) (promise : Option Nat)
  | monitor (id : Nat)
  | blocking (id : Nat)
  | matrixFull
  | matrixWait (acc last : Nat)
  | join (tag : Nat)
  | leave (last : Nat)
  | barrier (id : Nat)
  | coll (id : Nat)
  | mailbox (id : Nat)
  | fault
  | refill
  | walk
  | reconfig (id : Nat)
  | frozen (id : Nat)
  | idle
  | window (turns : Nat)
  | migrate
  | exiting
  deriving DecidableEq, Repr

/-- One command of a partner's queue with the state captured when it entered (R202, Table 7-2). -/
structure MCmd where
  word  : Nat             -- the command word (Table 7-1)
  pushed : Bool           -- entered as a word, so it is checked at the head and gives a completion word (R205)
  ta    : BitVec 128
  tb    : BitVec 128
  fmtA  : Nat
  fmtB  : Nat
  sclA  : Nat
  sclB  : Nat
  scnt  : Nat
  rmode : Nat
  fmtC  : Nat
  id    : Nat             -- its entry among the task's accesses (R240)
  joint : Nat := 0        -- ordinal in the joint group for MMAJ (R228)
  pc    : Nat := 0        -- the instruction that made the request (Table 19-5)
  deriving DecidableEq, Repr

/-- A retained operation (R224): its area, the operand values it read (rows of A, columns of B, over k) and the bytes kept. -/
structure RetOp where
  m     : Nat
  n     : Nat
  a     : List (List Val)
  b     : List (List Val)
  bytes : Nat
  deriving DecidableEq, Repr

/-- An accumulator: elements by row (an unlisted row is +0), checksum and magnitude vectors, non-finite marks, base point and
status (R37, R220-R224, Table 7-7). -/
structure Accum where
  rows   : Tbl (List Nat) := []
  csRow  : Tbl Val := []
  csCol  : Tbl Val := []
  magRow : Tbl Val := []
  magCol : Tbl Val := []
  nfRow  : List Nat := []                  -- rows marked non-finite
  nfCol  : List Nat := []                  -- columns marked non-finite
  groups : Nat := 0                        -- n of R221
  base   : Tbl (List Nat) := []            -- values at the base point (R222)
  kept   : Nat := 0                        -- bytes retained for an MLOAD (R224)
  ops    : List RetOp := []
  chain  : Nat := 0
  unret  : Bool := false
  pois   : Bool := false
  corr   : Nat := 0
  lastSt : Nat := 0
  lastOp : Nat := 15
  deriving DecidableEq, Repr

/-- One operand of a running operation: its tile, effective format, scale array, and whose window holds it (R207-R211, R228). -/
structure Operand where
  d     : BitVec 128
  fmt   : Nat
  scale : Option Nat
  core  : Nat
  space : Nat
  byRow : Bool            -- line r holds element (r, k); else element (k, r)
  first : Nat             -- first line used (R228)
  lines : Nat             -- lines used
  words : Tbl (Tbl Nat) := []  -- words read so far, by offset / 256 and offset / 4 (R202)
  scales : Tbl Nat := []  -- scale bytes read so far, by offset (R202)
  vals  : List (List Val) := []  -- values read so far, one list over k per line
  deriving DecidableEq, Repr

/-- The operation a partner runs, or the stopped one of a saved task (R203, R215, R218). -/
structure PRun where
  t      : Tk
  cmd    : MCmd
  a      : Operand
  b      : Operand
  k      : Nat
  block  : Nat := 0       -- KDONE
  rate   : Nat := 8192
  start  : Tbl (List Nat) := []  -- elements before the operation (R213)
  ovf    : List Nat := []        -- elements whose rounding overflowed (R213)
  ins    : Events := {}          -- events of reading the first operand
  insB   : Events := {}          -- events of reading the second operand
  bytes  : Nat := 0       -- bytes it retains so far (R224)
  keep   : Bool := false
  area   : Nat := 0       -- elements that pace a block (Table 7-9)
  lead   : Nat := 16      -- cycles before the first block
  held   : Bool := false  -- waits for the steward (R216)
  done   : Option Nat := none    -- status of a joint piece that waits for the others (R230)
  skip   : Bool := false  -- its accumulator was poisoned when the joint operation started: no effect (R217)
  fixed  : Nat := 0       -- result of the check phase: elements corrected
  deriving DecidableEq, Repr

/-- The context of a task (R44) and what the device keeps for it. -/
structure Task where
  pc       : Word := 0
  regs     : Tbl Word := []                -- s1 to s15 (R24)
  callers  : List Window := []             -- caller windows, innermost first (R149)
  struck   : List Nat := []                -- registers with an uncorrectable error: s1 to s7, or 16 * windows + register (R481)
  onChip   : Nat := 1                      -- W_c, windows on chip (R149)
  tiles    : Tbl (BitVec 128) := []        -- t0 to t15 (R31); unlisted: the start descriptor (R33)
  crs      : Tbl Word := []                -- control registers marked "task" (Table 1-9)
  space    : Nat := 0                      -- SPACE (R38)
  world    : Bool := false                 -- WORLD (R38)
  coord    : List Nat := []                -- COORD0 to COORD2 (R43)
  deal     : Nat := 0                      -- active-deal entry (R365)
  index    : Nat := 0                      -- task index (R364)
  nTiles   : Nat := 16                     -- TILES of the deal (R156)
  nAccs    : Nat := 0                      -- accumulators allotted (R37)
  accs     : Tbl Accum := []               -- a0 upwards (R37)
  depth    : Nat := 4                      -- declared window depth (R149)
  budget   : Nat := 0                      -- budget class (R371)
  restart  : Bool := false                 -- restartable (R478)
  light    : Bool := false                 -- a light task (R402)
  lineage  : Nat := 0                      -- lineage tag (R414)
  hand     : List HandEntry := []          -- R321
  relCount : Nat := 0                      -- release counter (R321)
  drains   : Nat := 0                      -- drain count (R321)
  ws       : Bool := false                 -- whole-space mark (R321)
  notes    : List Note := []               -- note list (R332)
  fenceRel : Option (Nat × Nat × Nat) := none -- number, scope and drain count a FENCE .rel left for the next store (R332)
  kept     : Tbl (List Word) := []         -- popped words kept for an instruction (R23)
  outst    : List Outst := []              -- outstanding class L results (R83)
  traps    : List PTrap := []              -- deferred and pending traps, in program order (R86)
  precise  : Option Trap := none           -- a trap at PC of a class B instruction that waits for earlier results (R86, R459)
  pend     : List PendAcc := []            -- accesses not completed (R311) or not acknowledged (R270)
  held     : Option Held := none           -- reservation held (R266)
  runs     : List TileRun := []            -- tile instructions in progress (R162, R168)
  tileFrom : Nat := 0                      -- unit from which the instruction that ERET runs starts (R167)
  resume   : Option Word := none           -- an ERET runs the instruction at TRAPVAL; where to go on after it (R167, R468)
  tags     : Tbl Nat := []                 -- copy tags in use: tag to copy (R416)
  asking   : Option Nat := none            -- the copy that a request of it in acceptance is to become (model)
  colls    : Tbl Nat := []                 -- COLLs without their CWAIT: descriptor address to instance (R436)
  joint    : Nat := 0                      -- MMAJ commands issued in the joint group (R228)
  jointIn  : Bool := false                 -- member of the quad's joint group (R227)
  sliceEnd : Nat := 0                      -- end of the slice (R369)
  err      : Bool := false                 -- ends, or ended, with error (R462)
  placed   : Bool := false                 -- placed here by the scheduler (R365, R402)
  wait     : Option Wait := none           -- why it is parked (Table 15-1)
  retries  : Nat := 0                      -- refused full/empty requests so far (R255)
  waited   : Bool := false                 -- its next instruction has waited for a class L result (R489)
  deriving DecidableEq, Repr

/-- States of a slot (Table 1-3). -/
inductive SlotState where
  | empty | ready | parked | exited
  deriving DecidableEq, Repr

/-- A supervisor-level fault record (Table 19-5). -/
structure FaultRec where
  cycle  : Nat := 0
  addr   : Nat := 0
  pc     : Nat := 0
  cause  : Nat := 0
  sub    : Nat := 0
  behalf : Bool := false
  acc    : Nat := 3
  world  : Bool := false
  space  : Nat := 0
  slot   : Nat := 0
  arg    : Nat := 0
  deriving DecidableEq, Repr

/-- The pairing of a channel endpoint (R384). -/
inductive Pairing where
  | default
  | unbound
  | to (p : Pos) (n : Nat)
  deriving DecidableEq, Repr

/-- A channel endpoint: its pairing, its inbound words, and the words on their way to it (R384). -/
structure Endpoint where
  pair    : Pairing := .default
  inbound : List Word := []
  coming  : Nat := 0
  deriving DecidableEq, Repr

/-- A page translation held with the fetched instructions of a slot (R469). -/
structure FetchTr where
  space : Nat
  page  : Nat             -- virtual page number
  frame : Nat             -- physical page number
  words : List Nat := []  -- its words as fetched, once the frame has lost its executable mapping (R97, R469)
  deriving DecidableEq, Repr

/-- A word of a copy mailbox, and the instruction that waits for its request's result, if one pushed it (R415, R417). -/
structure MailWord where
  word : Word
  before : Nat := 0                        -- accesses of the task named below this are earlier (R351)
  by_  : Option (Nat × Reg) := none
  deriving DecidableEq, Repr

/-- A slot of a core (R16, R19). -/
structure Slot where
  st        : SlotState := .empty
  task      : Task := {}
  serial    : Nat := 0                     -- SERIAL (Table 11-2)
  notBefore : Nat := 0                     -- first cycle it may issue in (R383)
  parkedAt  : Nat := 0                     -- cycle it parked in (R489)
  pending?  : Option FaultRec := none      -- record outstanding for the parked slot (R462)
  answer    : Option Nat := none           -- RESUME that came while its task was being saved (R462)
  preempt   : Option Nat := none           -- pre-emption demanded, at this cycle (R464)
  endRes    : Bool := false                -- what settles is an end by the steward (R462)
  ends      : Tbl Endpoint := []           -- channel endpoints 0 to 3 (R384)
  cmds      : List MCmd := []              -- q4 commands (R201)
  comps     : List Word := []              -- q4 completions (R206)
  compsRes  : Nat := 0                     -- completion entries reserved by queued commands (R206)
  mrun      : Option PRun := none          -- its task's stopped matrix operation (R218)
  mready    : Nat := 0                     -- cycle at which the partner has reloaded its save image (R219)
  mailbox   : List MailWord := []          -- q5 towards the dealer (R415)
  returns   : List Word := []              -- q5 towards the task (R417)
  evq       : List Word := []              -- q7 (R366)
  evqAt     : Nat := 0                     -- the cycle in which its last words entered (R317)
  evqFrom   : List Nat := []               -- the slots that those came from, in their order
  q6n       : Nat := 0                     -- words popped of the reserved arrival record (R409)
  lost      : Option Nat := none           -- the last SERIAL that a cordon or die reset took (R477)
  callBusy  : Nat := 0                     -- cycle at which its core is free for its next call (R328)
  shipped   : List LightRec := []          -- records held at the origin until answered (R411)
  fetchTr   : List FetchTr := []           -- translations of fetched instructions (R469)
  deriving DecidableEq, Repr

/-- A leaf translation in a cache (R445). -/
structure Tlb where
  space : Nat
  page  : Nat             -- first 4 KiB page number it covers
  count : Nat             -- 4 KiB pages it covers
  frame : Nat             -- first physical page number
  w     : Bool
  x     : Bool
  deriving DecidableEq, Repr

/-- A g register write on its way (R125, R27). -/
structure GWrite where
  due  : Nat
  slot : Nat
  reg  : Nat
  val  : Word
  deriving DecidableEq, Repr

/-- A barrier unit of a core: one kind (R389, Table 15-6). -/
structure BarUnit where
  gen     : Bool := false
  aband   : Bool := false
  arrived : List Nat := []                 -- slots arrived in the current generation
  deriving DecidableEq, Repr

/-- A trace ring (R344). Entries are kept as their 32-byte words. -/
structure Ring where
  on      : Bool := false
  entries : List Nat := []
  passed : Nat := 0
  deriving DecidableEq, Repr

/-- What a core's partner is doing (R203). -/
structure Partner where
  last    : Nat := 14                      -- slot last served (R203)
  run     : Option PRun := none            -- the operation it runs (R203)
  fixes   : List Nat := []                 -- cycles of its recent corrections (Table 20-3, 0x25)
  kicked  : Bool := false                  -- a MATRIX_OP_START is on the agenda (model)
  deriving DecidableEq, Repr

/-- A request that the dealer is accepting (R416). -/
structure Accepting where
  slot  : Nat
  t     : Tk
  pc    : Word
  kind  : Nat
  va    : Nat                              -- descriptor address
  cmd   : Word := 0                        -- CPYM's matrix command word
  by_   : Option (Nat × Reg) := none
  desc  : Nat := 0                         -- the descriptor's bits, once read
  code  : Nat := 0                         -- result code of a failed check (Table 17-3)
  before : Nat := 0                        -- accesses of the task named below this are earlier than the request (R351)
  space : Nat := 0                         -- the requester's space, world and budget class
  world : Bool := false
  budget : Nat := 0
  bad   : Bool := false                    -- the request word has a reserved value (Table 17-3)
  key   : Nat := 0                         -- the copy's name (model)
  tag   : Option Nat := none               -- its tag, once assigned (R416 step 3)
  held  : Bool := false                    -- waits for the steward's RESUME (R494)
  deriving DecidableEq, Repr

/-- The dealer of a core (R415-R422). -/
structure Dealer where
  last    : Nat := 14                      -- slot last served (R416)
  busy    : Option Accepting := none
  queue   : List Nat := []                 -- accepted copies, the first one running (R418)
  running : Bool := false
  spill   : List Nat := []                 -- copies in the spill ring (R418)
  spillN  : Nat := 0                       -- entries ever placed in the ring
  space   : Nat := 0                       -- the ring's space and base address (R418)
  base    : Nat := 0
  deriving DecidableEq, Repr

/-- A core (R12) and its units. -/
structure Core where
  g        : Tbl Word := []                -- g0 to g7 (R27)
  gPend    : List GWrite := []             -- R125
  qcfg     : Tbl Word := []                -- QCFG0 to QCFG3 (R385)
  cordon   : Word := 0                     -- CORDON (R473)
  errinj   : Word := 0                     -- ERRINJ (R226)
  injCount : Nat := 0                      -- blocks counted since an injection was armed (R226)
  lmask    : Nat := 0                      -- light unit LMASK (R403)
  kbase    : Nat := 0                      -- light unit KBASE (R403)
  ken      : Bool := false                 -- light unit KEN (R403)
  arrivals : List LightRec := []           -- q6 arrival queue (R407)
  kitty    : List LightRec := []           -- kitty records, oldest first; their bytes lie in memory (R407)
  kitTail  : Nat := 0                      -- kitty ring: records ever placed (R407)
  refills  : List LightRec := []           -- kitty records on their way to the queue (R407)
  spawns   : Nat := 0                      -- spawn counter (R414)
  bars     : Tbl BarUnit := []             -- row, column and die units (R388)
  sent     : Nat := 0                      -- SENT (R397)
  recv     : Nat := 0                      -- RECV (R397)
  black    : Bool := false                 -- colour (R397)
  free     : List Nat := []                -- free-page list (R492)
  bankUse  : Tbl Nat := []                 -- use of each bank (R279): 0 none, 1 scratchpad, 2 vcache, 3 windows, 4 staging
  tlb      : List Tlb := []                -- R445
  recs     : List LocRec := []             -- scratchpad release records (R262)
  marks    : List LocRec := []             -- drained marks of scratchpad words (R324)
  ring     : Ring := {}                    -- port trace ring (R344)
  outq     : List Word := []               -- outbound event queue (R366)
  partner  : Partner := {}                 -- R203
  idleRun  : Nat := 0                      -- idle turns used towards a window move (R21)
  dealer   : Dealer := {}                  -- R415
  fenced   : Bool := false                 -- cordon fenced during a reset (R474)
  halted   : Bool := false                 -- stopped by a reset, from its first cycle (R474)
  resetEnd : Nat := 0                      -- end of its reset's steps 2 to 4 (R474)
  ineligible : Bool := false               -- eligible mark off (R364)
  stopped  : Bool := false                 -- its partition is halted (R456)
  started  : List Nat := []                -- deals already started here (R374)
  deriving DecidableEq, Repr

/-- A line of a vcache instance (R286). -/
structure VLine where
  line   : Nat
  valid  : BitVec 128 := 0
  dirty  : BitVec 128 := 0
  data   : BitVec 1024 := 0
  poison : Bool := false
  err    : Bool := false   -- an uncorrectable error that nobody has met yet (R481)
  tensor : Nat := 0
  world  : Bool := false
  deriving DecidableEq, Repr

/-- A vcache of a space (Tables 9-1, 9-2). -/
structure VcDef where
  parent : Nat
  place  : Nat
  log2s  : Nat
  die    : Nat := 0
  h      : Nat := 0
  w      : Nat := 0
  y0     : Nat := 0
  x0     : Nat := 0
  deriving DecidableEq, Repr

/-- A region binding (Table 9-6). -/
structure Binding where
  base    : Nat           -- first page number
  pages   : Nat
  tensor  : Nat
  vc      : Nat
  sync    : Bool
  posted  : Bool
  packed  : Bool
  migrate : Bool
  world   : Bool
  deriving DecidableEq, Repr

/-- A vcache instruction waiting for, or held by, the space's configuration agent (R303): the operation by its fn7 (Table 9-8),
its operands and the issuing task's world. -/
structure AgentJob where
  t     : Tk
  id    : Nat
  op    : Nat
  a     : Nat
  b     : Nat
  dest  : Reg
  world : Bool
  deriving DecidableEq, Repr

/-- A space: its table entry, domain, grants, vcaches, bindings and agent (R280, R303, R441). -/
structure Space where
  valid   : Bool := false
  root    : Nat := 0
  part    : Nat := 0
  world   : Bool := false
  domain  : List Nat := []                 -- module cluster numbers
  grants  : Tbl Nat := []                  -- core to slices
  vcs     : Tbl VcDef := []
  binds   : Tbl Binding := []
  jobs    : List AgentJob := []            -- instructions at the agent, the first one in hand
  taken   : Bool := false                  -- the agent has the first instruction in hand
  waiting : Bool := false                  -- it waits for accesses that had entered the vcache (R300 step 2)
  status  : Nat := 0                       -- status of the instruction in hand
  frozen  : List Nat := []                 -- vcaches under a transaction (R300 step 1)
  frozenRegion : Option (Nat × Nat) := none -- a region move: first page and count (R304)
  parked  : List Acc := []                 -- accesses parked by the transaction
  deriving DecidableEq, Repr

/-- A scratchpad window page that the supervisor has mapped (R247, R253). -/
structure WPage where
  backing : Nat
  shadow  : Option Nat
  bank    : Option Nat := none             -- the bank page, when pinned
  dirty   : Bool := false
  feDirty : Bool := false                  -- a full/empty bit changed since the refill
  deriving DecidableEq, Repr

/-- A refill under way or waiting for a bank page (R248). -/
structure Refill where
  core    : Nat
  space   : Nat
  page    : Nat
  running : Bool
  bank    : Nat := 0         -- the bank page taken, while running
  slots   : List Tk := []
  reqs    : List PortReq := []
  deriving DecidableEq, Repr

/-- A fill of a line under way in an instance, and the accesses waiting behind it (R316). -/
structure Fill where
  set     : Nat
  line    : Nat
  owner   : Nat            -- the access that is being filled for
  va      : Nat := 0       -- the address it is for (R304)
  need    : BitVec 128 := ~~~0  -- the bytes asked for
  stale   : Bool := false  -- the line has been removed here since: what comes back is not installed (R302, R320, R329)
  waiting : List Acc := []
  deriving DecidableEq, Repr

/-- A location under reservation: holder, since when, and the requests behind it (R263). -/
structure Resv where
  t     : Tk
  id    : Nat
  hold  : Bool
  since : Nat
  queue : List PortReq := []
  deriving DecidableEq, Repr

/-- A monitor (R274). -/
structure Monitor where
  t    : Tk
  id   : Nat
  core : Nat
  loc  : Nat
  expected : Nat
  point : Nat              -- the core its ordering point stands at
  dest  : Reg
  deriving DecidableEq, Repr

/-- A walk under way (R447). -/
structure Walk where
  space : Nat
  page  : Nat
  va    : Nat              -- the first requester's address and access kind, for a fault record
  acc   : Nat
  by_   : Pos              -- where the first requester stands
  running : Bool           -- among the 1024 that its die's walker tracks (R445)
  slots : List Tk := []    -- tasks parked for it
  runs  : List Tk := []    -- tasks with a tile instruction that waits for it
  copies : List Nat := []  -- copies that wait for it
  deriving DecidableEq, Repr

/-- What happens once the calls of an instruction have finished (R329, R332, R340, R325). -/
inductive AfterCall where
  | finish (f : Finish)
  | rmw (r : PortReq) (m : Rmw) (old : Nat)
  | pass (r : PortReq)
  | load (id : Nat)
  | fence (scope : Nat) (rel : Bool)
  deriving DecidableEq, Repr

/-- The calls of one acquire that are still to finish. -/
structure Call where
  t     : Tk                -- the acquirer
  id    : Nat
  left  : Nat
  inval : Bool              -- whether the replies remove copies (not for `.rel` alone, R325)
  va    : Nat := 0          -- the address of a location whose releaser has been reset, for the trap (R477)
  places : List (Record × Nat) := [] -- the records called for, with the addresses of their locations
  lost  : Bool := false
  after : AfterCall
  deriving DecidableEq, Repr

/-- Memory at its homes and around it. Locations are physical addresses below 2^52, and 2^52 + core * 0x300000 + offset for
scratchpad banks. -/
structure Mem where
  bytes    : Memory := []                  -- stacked memory, pool and scratchpad bank pages by location
  poison   : List Nat := []                -- poisoned lines, location / 128 (R476)
  tierErr  : List Nat := []                -- lines whose copy in stacked or pool memory has an uncorrectable error (R476, R477)
  empties  : List Nat := []                -- scratchpad words that are empty, location / 4 (R251)
  wpages   : Tbl WPage := []               -- key (core * 4096 + space) * 1024 + window page
  refills  : List Refill := []
  feWait   : List PortReq := []            -- full/empty waiters in order of arrival (R254)
  vsets    : Tbl (List VLine) := []        -- sets of vcache instances, most recently used first (R282)
  fills    : List Fill := []
  buffer   : Tbl (List Nat) := []          -- home buffer sets: lines held, most recent first (R495)
  bufFills : Tbl Nat := []                 -- lines whose fill from the tier is under way, and when it ends (R495)
  dirents  : Tbl (List Nat) := []          -- directory sets: regions held, most recent first (R293)
  filters  : Tbl (List Nat) := []          -- cluster filter sets: lines held, most recent first (R293)
  seqs     : Tbl Nat := []                 -- sequence counters per line (R337)
  restart  : List Nat := []                -- lines whose counter starts again at their next posted write (R337)
  recs     : Tbl (List LocRec) := []       -- release records by home slice set, most recent first (R324)
  marks    : List LocRec := []             -- drained marks of global locations (R324)
  resv     : Tbl Resv := []                -- reservations by location (R263)
  monitors : List Monitor := []            -- R274
  rings    : Tbl Ring := []                -- trace rings of home slices (R344)
  clusterTlb : Tbl (List Tlb) := []        -- cluster * 256 + set: 8-way (R445)
  walkerTlb  : Tbl (List (Nat × Nat × Nat)) := []  -- die: cached non-leaf entries (space, key, table) (R445)
  walks    : List Walk := []               -- R447
  calls    : List Call := []               -- acquires with calls outstanding
  tier     : Tbl (BitVec 1024 × Bool) := []  -- what the tier keeps of a line that is dirty in its home buffer, with its poison (R495)
  bufDirty : List Nat := []                -- lines of the home buffer that writes have entered since they came (R495)
  poisonDies : Tbl (List Nat) := []        -- dies all of whose lines are poisoned, but for those listed (R479)
  lanes    : Tbl Nat := []                 -- when the last response from one core to another is there: source * 1024 + target (R347)
  errWords : List Nat := []                -- scratchpad words with an uncorrectable error, location / 4 (R249, R481)
  deriving DecidableEq, Repr

/-- A task saved in the context store (R464). -/
structure Saved where
  t     : Tk
  task  : Task
  pending? : Option FaultRec := none
  cmds  : List MCmd := []
  comps : List Word := []
  compsRes : Nat := 0
  run   : Option PRun := none              -- its stopped matrix operation (R218)
  answer : Option Nat := none              -- RESUME that applies at the restore (R462)
  drops : List Nat := []                   -- virtual lines whose copies it must not find when it is back (R353, R355)
  result : Option Finish := none           -- how its wait has ended, where that is to be written when it is back (R306)
  deriving DecidableEq, Repr

/-- States of a hardware queue slot (Table 14-3). -/
inductive HwState where
  | free | bound | held | ready | dispatching | idle
  deriving DecidableEq, Repr

/-- A hardware queue slot (R360). -/
structure HwSlot where
  st    : HwState := .free
  queue : Nat := 0
  entry : Option Nat := none               -- active-deal entry of its head deal (R499)
  used  : Nat := 0                         -- cycle it was last in use (R361)
  deriving DecidableEq, Repr

/-- Where an active deal stands. -/
inductive DealPhase where
  | reading                                -- its record is read and at intake
  | table                                  -- waits to read its mapping table (R499)
  | busy                                   -- its counter holds another deal (R372)
  | held
  | ready                                  -- its tasks may be placed (R365)
  | ended                                  -- its completion record is to be written (R363)
  deriving DecidableEq, Repr

/-- A task that waits to be placed again (R369, R478). -/
structure Returned where
  index : Nat
  core  : Nat                              -- the core it is to go to
  redo  : Bool                             -- re-executed from ENTRY rather than resumed
  deriving DecidableEq, Repr

/-- An active deal (R499). -/
structure ActiveDeal where
  slot   : Nat
  queue  : Nat
  space  : Nat
  part   : Nat
  world  : Bool
  aging  : Bool
  ceil   : Nat
  record : Nat := 0                        -- the 64-byte record (Table 14-1)
  phase  : DealPhase := .reading
  mapped : Bool := false                   -- E and the mapping are fixed (R364)
  elig   : List Nat := []                  -- eligible cores in ascending order
  table  : List Nat := []                  -- mapping table of MAP 2
  cursor : Tbl Nat := []                   -- per core: no index below is still to be placed there
  placed : Nat := 0                        -- tasks of the coordinate space placed
  back   : List Returned := []
  grants : List (Nat × Nat) := []          -- placement events sent and not STARTed: core and index (R365)
  credit : Nat := 0                        -- aging credit (R367)
  stamp  : Nat := 0                        -- cycle from which aging counts
  lastOn : Tbl Nat := []                   -- per core: cycle of the last placement (R368)
  counted : Bool := false                  -- a counter released it (R354)
  first  : Option Nat := none              -- cycle of the first START
  live   : Nat := 0                        -- tasks placed or spawned and not ended (R376, R405)
  tasks  : Nat := 0
  errs   : Nat := 0
  reexec : Nat := 0
  redone : Tbl Nat := []                   -- resets a task index has met (R478)
  snap   : Nat := 0                        -- first 256 bytes at ARGS (R478)
  code   : Nat := 0                        -- rejection code
  told   : Bool := false                   -- a fault record for its record or table is out (R363, R499)
  deriving DecidableEq, Repr

/-- A dependence counter (R372). -/
structure Counter where
  value : Nat := 0
  owner : Option Nat := none
  held  : Option Nat := none               -- active-deal entry
  deriving DecidableEq, Repr

/-- Intake limits of a partition (R362). -/
structure Limits where
  slots  : Nat := 14
  tiles  : Nat := 16
  accs   : Nat := 16
  pages  : Nat := 768
  wstack : Nat := 917504
  deriving DecidableEq, Repr

/-- A copy from its acceptance until its tag is freed (R422-R428). -/
structure Copy where
  t       : Tk                             -- the requester when it was accepted
  core    : Nat                            -- the dealer's core
  pc      : Word
  kind    : Nat
  space   : Nat
  world   : Bool
  budget  : Nat
  desc    : Nat
  cmd     : Word
  tag     : Nat
  promise : Nat
  est     : Nat                            -- E of R423
  lines   : List Nat                       -- destination lines, ascending
  next    : Nat := 0                       -- lines written
  base    : Nat := 0                       -- cycle the times of lines count from
  moved   : Nat := 0                       -- bytes moved since then
  src     : Tbl (BitVec 1024 × Bool) := [] -- source lines read so far, with their poison (R352)
  carried : Bool := false                  -- poison was carried (R426)
  failed  : Bool := false
  held    : Bool := false                  -- waits for the steward (R494)
  throttled : Nat := 0                     -- it stands still until this cycle, where a budget stops it (R371, R422)
  acked   : Nat := 0                       -- cycle at which the last of its writes so far is acknowledged (R353, R294)
  outcome : Option Nat := none             -- 0 complete, 1 poison carried, 2 failed (R428)
  deriving DecidableEq, Repr

/-- A collective group (R431). -/
structure Group where
  members : List (Nat × Nat) := []
  peers   : List Nat := []
  deriving DecidableEq, Repr

/-- A member's contribution to a collective (R434). -/
structure CollPart where
  rank  : Nat
  t     : Tk
  deal  : Nat := 0                         -- its task's deal and index, which a restore keeps
  index : Nat := 0
  space : Nat
  world : Bool
  dst   : Nat
  data  : List Nat                         -- element patterns
  written : Bool := false                  -- its result buffer has been written
  told  : Bool := false                    -- the steward has a record of a page that the write waits for
  deriving DecidableEq, Repr

/-- States of a collective instance (R435). -/
inductive CollState where
  | open_ | full | committed | done | failed
  deriving DecidableEq, Repr

/-- A collective instance (R431, R434). -/
structure Coll where
  part  : Nat
  group : Nat
  seq   : Nat
  op    : Nat
  fmt   : Nat
  count : Nat
  root  : Nat
  st    : CollState := .open_
  parts : List CollPart := []
  peers : List (Nat × List (List Nat)) := []  -- peer modules' contributions: the patterns of each of a peer's members
  result : List Nat := []                  -- element patterns, of a gather by rank
  waits : List (Tk × Nat × Reg) := []      -- CWAITs
  ended : Nat := 0                         -- members that have ended their hold (R436)
  deriving DecidableEq, Repr

/-- A barrier wire (R388, R393). -/
structure Wire where
  latch : Option Nat := none
  stamp : Nat := 0                         -- generations ended so far (model)
  due   : Option Nat := none               -- every member core has arrived: the cycle the barrier completes in (R390)
  coming : List (Nat × Nat × BarWait) := [] -- arrivals by cycle, with their descriptors, in the order of R336 until the cycle's end
  waits : List BarWait := []               -- arrivals of this generation
  later : List (Nat × BarWait) := []       -- arrivals that wait for the next one, with their descriptors (R391)
  deriving DecidableEq, Repr

/-- The hub die: scheduler, counters, budgets, queues toward the stewards, collectives (14_scheduler.md, 17_copy_and_collectives.md,
19_traps_and_preemption.md R461, 20_containment_and_recovery.md R482). -/
structure Hub where
  queueBase : Tbl Nat := []                -- by partition: base of its queue table, once given (R358, R452)
  slots    : Tbl HwSlot := []              -- 64 hardware queue slots (R360)
  waiting  : List Nat := []                -- user queues that wait for a slot (R361)
  entryQ   : List Nat := []                -- bound slots whose head record waits for intake (R499)
  deals    : Tbl ActiveDeal := []          -- R499
  counters : Tbl Counter := []             -- die * 4096 + index (R372)
  limits   : Tbl Limits := []              -- by partition (R362)
  budgets  : Tbl Nat := []                 -- (partition * 8 + class) * 4 + kind (R371)
  charges  : Tbl Nat := []                 -- bytes or multiply-accumulates charged in this period
  period   : Nat := 0                      -- cycle the period began
  faults   : Tbl (List (List Byte)) := []  -- steward fault queue by partition: the bytes of each record (R461, R8)
  events   : Tbl (List (Nat × Word)) := [] -- steward event queue by partition: core and word (R366)
  errors   : List (List Byte) := []        -- the secure stewards' error queue: the bytes of each record (R482, R8)
  seqs     : Tbl Nat := []                 -- SEQ by partition (R482)
  merges   : Tbl (Nat × Nat) := []         -- code 0x10 by region: when its next record may go, events merged (R482)
  rejects  : List (List Byte) := []        -- the scanner's reject records, 32 bytes each (R101, R8)
  replies  : List (Nat × Nat) := []        -- UNMAP's answers: status and count (R449)
  counts   : Tbl Nat := []                 -- event counters that stewards read (R489): kind * 2^20 + unit
  groups   : Tbl Group := []               -- partition * 4096 + number (R431)
  colls    : Tbl Coll := []
  copies   : Tbl Copy := []
  routed   : Tbl Nat := []                 -- partition * 65536 + peer module: the fabric port routed to it (R421)
  corrected : List Nat := []               -- partitions in which records of code 0x01 are enabled (R477)
  deriving DecidableEq, Repr

/-- A copy write that leaves the module: by the host port, or towards a peer by the fabric port that is routed to it, with its poison
(R421, R426). -/
structure OutWrite where
  copy   : Nat                             -- the copy it belongs to (model)
  peer   : Nat := 0                        -- 0 the host
  port   : Nat := 0
  addr   : Nat
  bytes  : List (BitVec 8)
  poison : Bool := false
  deriving DecidableEq, Repr

/-- A request to the code scanner (R96). -/
structure ScanReq where
  part  : Nat
  space : Nat
  va    : Nat
  n     : Nat
  page  : Nat := 0                         -- pages scanned
  frames : List Nat := []                  -- the frames of its pages, from the beginning of its service (log entry 38)
  bad   : Bool := false
  deriving DecidableEq, Repr

/-- A direction of a Scatune link (R455): how many keys have been drawn for it, the last of which is its key, and the frames it has
sent under that one. No software can read the key itself. -/
structure Link where
  drawn  : Nat := 0
  frames : Nat := 0
  deriving DecidableEq, Repr

/-- The module's own state: features, power, boot, partitions (18_translation_and_isolation.md R450-R456, 21_module.md). -/
structure Module where
  parts    : Nat := 1                      -- partitions: 1, 2 or 4 (R452)
  carves   : List (Nat × Nat) := []        -- secure carve-outs: first byte, first byte after (R450)
  pools    : Tbl (Nat × Nat) := []         -- pool range of a partition: first byte, first byte after (R496)
  scanned  : List Nat := []                -- frames (4 KiB) the scanner has passed (R97)
  scans    : List ScanReq := []            -- requests at the scanner, in order of arrival (R98)
  haltedParts : List Nat := []             -- partitions halted (R456)
  lostDies : List Nat := []                -- R479
  logs     : Tbl (List Nat) := []          -- responder logs: lost die, regions (R479)
  faccept  : Word := 0                     -- FACCEPT (R488)
  accepted : Bool := false                 -- FACCEPT has been written since module reset (R488)
  enabled  : Word := 0                     -- accepted features already enabled (R488)
  window   : Option (Nat × Nat) := none    -- stacked memory open to CXL.mem (R487)
  ports    : List Nat := []                -- fabric ports that are up (R487)
  portPart : Tbl Nat := []                 -- partition that owns a fabric port (R452)
  portWorld : Tbl Bool := []               -- world of a fabric port (R450)
  hot      : List Nat := []                -- partitions halted by a thermal trip (R490)
  links    : Tbl Link := []                -- by link-direction number (R455)
  stewards : List Bool := []               -- the world of each of the eight steward cores (R450)
  cap      : Nat := 1650                   -- power cap in watts (R490)
  holdBack : Bool := false                 -- matrix issue, copy moves and vector work are held back (R490)
  overLimit : Bool := false                -- a junction stands above the junction limit (R490)
  imageA   : List (BitVec 8) := []         -- flash slots (R483)
  imageB   : List (BitVec 8) := []
  fuse     : Nat := 0                      -- anti-rollback counter (R483)
  booted   : Option Nat := none            -- VERSION of the image that booted
  recovery : Bool := false                 -- neither slot booted (R483)
  ptp      : List (Nat × Nat × Nat) := []  -- the last two samples: CYCLE, seconds, nanoseconds (R482)
  sent     : List (List Byte) := []        -- error records sent out of band (R482, R491)
  out      : List OutWrite := []           -- copy writes that left by the host port or a fabric port (R421)
  reads    : List (Nat × List (BitVec 8) × Bool) := []  -- answers to host reads: name, bytes, poison (R487, R451)
  deriving DecidableEq, Repr

/-- A joint group of a quad (R227): its tag, its members, and who has left after how many joint operations (R232). -/
structure Joint where
  tag     : Nat
  members : List Tk
  left    : List (Tk × Nat) := []
  deriving DecidableEq, Repr

/-- The machine. -/
structure State where
  cycle     : Nat
  turn      : Nat                          -- the next core to be served in this cycle (model)
  cur       : Pos                          -- the position an instruction is executed for (model)
  msg       : Msg                          -- the message of the event being served (model)
  agenda    : List Pending                 -- what is in flight (model, log entry 2)
  nextId    : Nat                          -- next fresh name of an access (model)
  freeCount : Nat                          -- next free value (model, log entry 7)
  slots     : Tbl Slot
  cores     : Tbl Core
  mem       : Mem
  spaces    : Tbl Space
  joints    : Tbl Joint                    -- by module quad number (R227)
  away      : List Joint                   -- joint groups whose members are being saved or are saved (R233)
  wires     : Tbl Wire                     -- die * 48 + row, 16 + column, or 32 (R388)
  hub       : Hub
  saved     : List Saved
  module_   : Module
  deriving DecidableEq, Repr

/-- The machine right after module reset. -/
def State.reset : State :=
  { cycle := 0, turn := 0, cur := 0, msg := .none, agenda := [], nextId := 0, freeCount := 0, slots := [], cores := [], mem := {},
    spaces := [], joints := [], away := [], wires := [], hub := {}, saved := [], module_ := {} }

end Sys2Proof.Machine
end

