-- ==== Sys2Proof/WellFormed.lean ====
section
/-! DEFINITION. Latency classes, field roles and the operand values an instruction word may hold (03_encoding.md R81-R100
and the scanner rules of each chapter). -/
namespace Sys2Proof

/-- Latency classes (Table 3-12). -/
inductive Class where
  | short | long | blocking | partner | transfer
  deriving DecidableEq, Repr

/-- The latency class of an encoded instruction (Table 3-12, Table 3-13, Tables 3-14 to 3-31); an event has none and reads as short. -/
def Instr.cls : Instr → Class
  | .div _ _ _ _ | .divu _ _ _ _ | .rem _ _ _ _ | .remu _ _ _ _ | .fdiv _ _ _ _ _ _ | .fsqrt _ _ _ _ _
  | .ld _ _ _ _ _ | .lds _ _ _ _ _ | .ldx _ _ _ _ _ | .tld _ _ _ | .tst _ _ _ | .tgath _ _ _ _ | .tscat _ _ _ _
  | .tcpy _ _ _ | .tfill _ _ _ | .ttrans _ _ _ | .trot _ _ _ _ | .tadd _ _ _ _ _ | .tsub _ _ _ _ _
  | .tmul _ _ _ _ _ | .tfma _ _ _ _ _ _ | .tdiv _ _ _ _ _ | .tmax _ _ _ _ | .tmin _ _ _ _ | .tabs _ _ _
  | .tneg _ _ _ | .texp _ _ _ _ | .tlog _ _ _ _ | .trsq _ _ _ _ | .trcp _ _ _ _ | .ttanh _ _ _ _ | .terf _ _ _ _
  | .tiadd _ _ _ _ _ | .tisub _ _ _ _ _ | .timul _ _ _ _ _ | .tand _ _ _ _ | .tor _ _ _ _ | .txor _ _ _ _
  | .tshl _ _ _ _ | .tshr _ _ _ _ | .tadds _ _ _ _ _ | .tmuls _ _ _ _ _ | .tfmas _ _ _ _ _ | .tmaxs _ _ _ _
  | .tcmp _ _ _ _ _ | .tsel _ _ _ _ _ | .trsum _ _ _ | .tcsum _ _ _ | .trmax _ _ _ | .tcmax _ _ _ | .tsum _ _ _
  | .tcvt _ _ _ _ _ | .tpack _ _ _ | .tunpack _ _ _ | .trand _ _ _ | .tdrop _ _ _ _ => .long
  | .beq _ _ _ | .bne _ _ _ | .blt _ _ _ | .bge _ _ _ | .bltu _ _ _ | .bgeu _ _ _ | .jmp _ | .call _ | .jr _
  | .callr _ | .ret | .loop _ _ | .exit | .trap _ | .eret | .brk _ => .transfer
  | .lda _ _ _ _ _ | .stl _ _ _ _ _ | .ldfe _ _ _ _ | .ldf _ _ _ _ | .stfe _ _ _ _ | .stf _ _ _ _ | .feq _ _ _ _
  | .feset _ _ _ _ | .amoadd _ _ _ _ _ _ | .amoand _ _ _ _ _ _ | .amoor _ _ _ _ _ _ | .amoxor _ _ _ _ _ _
  | .amomin _ _ _ _ _ _ | .amomax _ _ _ _ _ _ | .amominu _ _ _ _ _ _ | .amomaxu _ _ _ _ _ _ | .amoswap _ _ _ _ _ _
  | .amocas _ _ _ _ _ _ | .amofadd _ _ _ _ _ _ | .hold _ _ _ _ _ | .pass _ _ _ _ _ | .fence _ _ | .scfence _
  | .wack | .clean _ _ _ | .inval _ _ _ | .discard _ | .waita _ _ _ | .cdef _ _ _ | .cparent _ _ _ | .cresize _ _ _
  | .cbind _ _ _ | .cunbind _ _ | .cquery _ _ | .cdrop _ _ | .mstat _ _ | .mwait _ | .mjoin _ | .mleave | .qcfg _ _
  | .start _ | .reap _ _ | .spawn _ _ | .sleep _ | .launch _ _ _ | .depinit _ _ | .depdec _ | .barw _ _ _ | .bara _
  | .barq _ _ | .probe _ _ | .drain _ | .coll _ _ | .cwait _ _ | .evgath _ _ | .cpy _ _ | .cpym _ _ _ | .cpyd _ _
  | .cpyq _ _ | .tlbinv _ _ | .iflush | .idle => .blocking
  | .mma _ _ _ | .mmat _ _ _ | .mmas _ _ _ | .mmaj _ _ _ | .mzero _ | .mload _ _ | .mdrain _ _
  | .mchk _ => .partner
  | _ => .short

/-- The lookahead count of a class L instruction (R83). -/
def Instr.lookahead : Instr → Nat
  | .div _ _ _ n | .divu _ _ _ n | .rem _ _ _ n | .remu _ _ _ n | .fdiv _ _ _ _ _ n | .fsqrt _ _ _ _ n
  | .ld _ _ _ _ n | .lds _ _ _ _ n | .ldx _ _ _ _ n | .tld _ _ n | .tst _ _ n | .tgath _ _ _ n | .tscat _ _ _ n
  | .tcpy _ _ n | .tfill _ _ n | .ttrans _ _ n | .trot _ _ _ n | .tadd _ _ _ _ n | .tsub _ _ _ _ n
  | .tmul _ _ _ _ n | .tfma _ _ _ _ _ n | .tdiv _ _ _ _ n | .tmax _ _ _ n | .tmin _ _ _ n | .tabs _ _ n
  | .tneg _ _ n | .texp _ _ _ n | .tlog _ _ _ n | .trsq _ _ _ n | .trcp _ _ _ n | .ttanh _ _ _ n | .terf _ _ _ n
  | .tiadd _ _ _ _ n | .tisub _ _ _ _ n | .timul _ _ _ _ n | .tand _ _ _ n | .tor _ _ _ n | .txor _ _ _ n
  | .tshl _ _ _ n | .tshr _ _ _ n | .tadds _ _ _ _ n | .tmuls _ _ _ _ n | .tfmas _ _ _ _ n | .tmaxs _ _ _ n
  | .tcmp _ _ _ _ n | .tsel _ _ _ _ n | .trsum _ _ n | .tcsum _ _ n | .trmax _ _ n | .tcmax _ _ n | .tsum _ _ n
  | .tcvt _ _ _ _ n | .tpack _ _ n | .tunpack _ _ n | .trand _ _ n | .tdrop _ _ _ n => n.toNat
  | _ => 0

/-- Every 5-bit register field, in the order of the word (R80). -/
def Instr.regFields : Instr → List Reg
  | .add d a b | .sub d a b | .and d a b | .or d a b | .xor d a b | .andn d a b | .sll d a b | .srl d a b
  | .sra d a b | .min d a b | .max d a b | .minu d a b | .maxu d a b | .slt d a b | .sltu d a b | .cmov d a b
  | .addx d a _ b | .mul d a b | .mulh d a b | .mulhu d a b | .madd d a b | .div d a b _ | .divu d a b _
  | .rem d a b _ | .remu d a b _ | .fadd d a b _ _ | .fsub d a b _ _ | .fmul d a b _ _ | .ffma d a b _ _
  | .fdiv d a b _ _ _ | .fmin d a b _ | .fmax d a b _ | .fcmp d a b _ _ | .ldx d a b _ _ | .amoadd d a b _ _ _
  | .amoand d a b _ _ _ | .amoor d a b _ _ _ | .amoxor d a b _ _ _ | .amomin d a b _ _ _ | .amomax d a b _ _ _
  | .amominu d a b _ _ _ | .amomaxu d a b _ _ _ | .amoswap d a b _ _ _ | .amocas d a b _ _ _ | .amofadd d a b _ _ _
  | .waita d a b | .cdef d a b | .cparent d a b | .cresize d a b | .cbind d a b | .launch d a b | .barw d a b
  | .cpym d a b => [d, a, b]
  | .clz d a | .ctz d a | .popc d a | .bswap d a | .sextB d a | .sextH d a | .sextW d a | .zextB d a | .zextH d a
  | .zextW d a | .addi d a _ | .andi d a _ | .ori d a _ | .xori d a _ | .slti d a _ | .sltiu d a _ | .slli d a _
  | .srli d a _ | .srai d a _ | .bfx d a _ _ | .bfi d a _ _ | .fsqrt d a _ _ _ | .fcvt d a _ _ _ | .ld d a _ _ _
  | .lds d a _ _ _ | .lda d a _ _ _ | .ldfe d a _ _ | .ldf d a _ _ | .feq d a _ _ | .hold d a _ _ _ | .cunbind d a
  | .cquery d a | .cdrop d a | .qtry d a | .reap d a | .spawn d a | .barq d a | .probe d a | .coll d a | .cwait d a
  | .evgath d a | .cpy d a | .cpyd d a | .cpyq d a => [d, a]
  | .lui d _ | .addpc d _ | .coord d _ | .crrd d _ => [d]
  | .beq a b _ | .bne a b _ | .blt a b _ | .bge a b _ | .bltu a b _ | .bgeu a b _ | .pass a b _ _ _ | .clean a b _
  | .inval a b _ | .depinit a b => [a, b]
  | .jr a | .callr a | .loop a _ | .discard a | .pref a | .wake a | .qcfg a _ | .start a | .sleep a | .depdec a
  | .bara a | .drain a | .crwr a _ | .crset a _ | .crclr a _ | .tlbinv a _ => [a]
  | .st v a _ _ | .stl v a _ _ _ | .stp v a _ _ | .stfe v a _ _ | .stf v a _ _ | .feset v a _ _ => [v, a]
  | .stx v a b _ => [v, a, b]
  | .tdef _ s | .tshape _ s | .tbase _ s | .tgetHalf0 _ s | .tgetHalf1 _ s | .tld _ s _ | .tst _ s _
  | .tgath _ _ s _ | .tscat _ _ s _ | .tfill _ s _ | .trot _ _ s _ | .tadds _ _ s _ _ | .tmuls _ _ s _ _
  | .tfmas _ _ s _ _ | .tmaxs _ _ s _ | .trand _ s _ | .tdrop _ _ s _ | .mstat _ s | .mjoin s => [s]
  | _ => []

/-- The register fields that clause 3 of R87 compares: TDEF's s names the register above it as well (R200). -/
def Instr.comparedRegs : Instr → List Reg
  | .tdef _ s => [s, s + 1]
  | i => i.regFields

/-- The register fields an instruction writes (R126, R147, R173, R238). -/
def Instr.destRegs : Instr → List Reg
  | .add d _ _ | .sub d _ _ | .and d _ _ | .or d _ _ | .xor d _ _ | .andn d _ _ | .sll d _ _ | .srl d _ _
  | .sra d _ _ | .min d _ _ | .max d _ _ | .minu d _ _ | .maxu d _ _ | .slt d _ _ | .sltu d _ _ | .cmov d _ _
  | .clz d _ | .ctz d _ | .popc d _ | .bswap d _ | .sextB d _ | .sextH d _ | .sextW d _ | .zextB d _ | .zextH d _
  | .zextW d _ | .addi d _ _ | .andi d _ _ | .ori d _ _ | .xori d _ _ | .slti d _ _ | .sltiu d _ _ | .slli d _ _
  | .srli d _ _ | .srai d _ _ | .lui d _ | .addpc d _ | .bfx d _ _ _ | .bfi d _ _ _ | .addx d _ _ _ | .mul d _ _
  | .mulh d _ _ | .mulhu d _ _ | .madd d _ _ | .div d _ _ _ | .divu d _ _ _ | .rem d _ _ _ | .remu d _ _ _
  | .fadd d _ _ _ _ | .fsub d _ _ _ _ | .fmul d _ _ _ _ | .ffma d _ _ _ _ | .fdiv d _ _ _ _ _ | .fsqrt d _ _ _ _
  | .fcvt d _ _ _ _ | .fmin d _ _ _ | .fmax d _ _ _ | .fcmp d _ _ _ _ | .ld d _ _ _ _ | .lds d _ _ _ _
  | .lda d _ _ _ _ | .ldx d _ _ _ _ | .ldfe d _ _ _ | .ldf d _ _ _ | .feq d _ _ _ | .amoadd d _ _ _ _ _
  | .amoand d _ _ _ _ _ | .amoor d _ _ _ _ _ | .amoxor d _ _ _ _ _ | .amomin d _ _ _ _ _ | .amomax d _ _ _ _ _
  | .amominu d _ _ _ _ _ | .amomaxu d _ _ _ _ _ | .amoswap d _ _ _ _ _ | .amocas d _ _ _ _ _ | .amofadd d _ _ _ _ _
  | .hold d _ _ _ _ | .waita d _ _ | .cdef d _ _ | .cparent d _ _ | .cresize d _ _ | .cbind d _ _ | .cunbind d _
  | .cquery d _ | .cdrop d _ | .qtry d _ | .reap d _ | .spawn d _ | .launch d _ _ | .coord d _ | .barw d _ _
  | .barq d _ | .probe d _ | .coll d _ | .cwait d _ | .evgath d _ | .cpy d _ | .cpym d _ _ | .cpyd d _ | .cpyq d _
  | .crrd d _ => [d]
  | .loop a _ => [a]
  | .tgetHalf0 _ s | .tgetHalf1 _ s | .mstat _ s => [s]
  | _ => []

/-- The register fields that hold an address (reason 0x0D: R278, R200, R430, R438, R472). EVGATH's a, its block's address, is none of them:
a queue port may stand there (DESIGN CHOICE, log entry 60). -/
def Instr.addrRegs : Instr → List Reg
  | .ld _ a _ _ _ | .lds _ a _ _ _ | .st _ a _ _ | .lda _ a _ _ _ | .stl _ a _ _ _ | .stp _ a _ _ | .ldfe _ a _ _
  | .ldf _ a _ _ | .stfe _ a _ _ | .stf _ a _ _ | .feq _ a _ _ | .feset _ a _ _ | .amoadd _ a _ _ _ _
  | .amoand _ a _ _ _ _ | .amoor _ a _ _ _ _ | .amoxor _ a _ _ _ _ | .amomin _ a _ _ _ _ | .amomax _ a _ _ _ _
  | .amominu _ a _ _ _ _ | .amomaxu _ a _ _ _ _ | .amoswap _ a _ _ _ _ | .amocas _ a _ _ _ _ | .amofadd _ a _ _ _ _
  | .hold _ a _ _ _ | .pass a _ _ _ _ | .clean a _ _ | .inval a _ _ | .pref a | .waita _ a _ | .wake a | .coll _ a
  | .cpy _ a | .cpym _ a _ | .cpyd _ a | .tlbinv a _ => [a]
  | .ldx _ a b _ _ | .stx _ a b _ => [a, b]
  | .tld _ s _ | .tst _ s _ | .tgath _ _ s _ | .tscat _ _ s _ | .trand _ s _ | .tdrop _ _ s _ => [s]
  | _ => []

/-- The tile registers an instruction names (R87). -/
def Instr.tileFields : Instr → List TReg
  | .tdef t _ | .tshape t _ | .tbase t _ | .tld t _ _ | .tst t _ _ | .tfill t _ _ => [t]
  | .tgetHalf0 a _ | .tgetHalf1 a _ | .mload _ a | .mdrain _ a => [a]
  | .tgath t a _ _ | .tscat t a _ _ | .tcpy t a _ | .ttrans t a _ | .trot t a _ _ => [t, a]
  | .tadd d a b _ _ | .tsub d a b _ _ | .tmul d a b _ _ | .tdiv d a b _ _ | .tmax d a b _ | .tmin d a b _
  | .tiadd d a b _ _ | .tisub d a b _ _ | .timul d a b _ _ | .tand d a b _ | .tor d a b _ | .txor d a b _
  | .tshl d a b _ | .tshr d a b _ | .tcmp d a b _ _ => [d, a, b]
  | .tfma d a b c _ _ | .tsel d a b c _ => [d, a, b, c]
  | .tabs d a _ | .tneg d a _ | .texp d a _ _ | .tlog d a _ _ | .trsq d a _ _ | .trcp d a _ _ | .ttanh d a _ _
  | .terf d a _ _ | .tadds d a _ _ _ | .tmuls d a _ _ _ | .tfmas d a _ _ _ | .tmaxs d a _ _ | .trsum d a _
  | .tcsum d a _ | .trmax d a _ | .tcmax d a _ | .tsum d a _ | .tcvt d a _ _ _ | .tpack d a _ | .tunpack d a _
  | .tdrop d a _ _ => [d, a]
  | .trand d _ _ => [d]
  | .mma _ a b | .mmat _ a b | .mmas _ a b | .mmaj _ a b => [a, b]
  | _ => []

/-- The destination tile of a tile instruction of class L (R87). -/
def Instr.destTile : Instr → Option TReg
  | .tld t _ _ | .tst t _ _ | .tgath t _ _ _ | .tscat t _ _ _ | .tcpy t _ _ | .tfill t _ _ | .ttrans t _ _
  | .trot t _ _ _ => some t
  | .tadd d _ _ _ _ | .tsub d _ _ _ _ | .tmul d _ _ _ _ | .tfma d _ _ _ _ _ | .tdiv d _ _ _ _ | .tmax d _ _ _
  | .tmin d _ _ _ | .tabs d _ _ | .tneg d _ _ | .texp d _ _ _ | .tlog d _ _ _ | .trsq d _ _ _ | .trcp d _ _ _
  | .ttanh d _ _ _ | .terf d _ _ _ | .tiadd d _ _ _ _ | .tisub d _ _ _ _ | .timul d _ _ _ _ | .tand d _ _ _
  | .tor d _ _ _ | .txor d _ _ _ | .tshl d _ _ _ | .tshr d _ _ _ | .tadds d _ _ _ _ | .tmuls d _ _ _ _
  | .tfmas d _ _ _ _ | .tmaxs d _ _ _ | .tcmp d _ _ _ _ | .tsel d _ _ _ _ | .trsum d _ _ | .tcsum d _ _
  | .trmax d _ _ | .tcmax d _ _ | .tsum d _ _ | .tcvt d _ _ _ _ | .tpack d _ _ | .tunpack d _ _ | .trand d _ _
  | .tdrop d _ _ _ => some d
  | _ => none

/-- Scope fields (Table 3-11). -/
def Instr.scopeField : Instr → Option (BitVec 3)
  | .lda _ _ _ _ s | .stl _ _ _ _ s | .amoadd _ _ _ s _ _ | .amoand _ _ _ s _ _ | .amoor _ _ _ s _ _
  | .amoxor _ _ _ s _ _ | .amomin _ _ _ s _ _ | .amomax _ _ _ s _ _ | .amominu _ _ _ s _ _ | .amomaxu _ _ _ s _ _
  | .amoswap _ _ _ s _ _ | .amocas _ _ _ s _ _ | .amofadd _ _ _ s _ _ | .hold _ _ s _ _ | .pass _ _ s _ _
  | .fence s _ | .scfence s | .clean _ _ s | .inval _ _ s => some s
  | _ => none

/-- Rounding fields (Table 3-11, R144). -/
def Instr.roundField : Instr → Option (BitVec 3)
  | .fadd _ _ _ m _ | .fsub _ _ _ m _ | .fmul _ _ _ m _ | .ffma _ _ _ m _ | .fdiv _ _ _ m _ _ | .fsqrt _ _ m _ _
  | .fcvt _ _ _ m _ => some m
  | .tcvt _ _ r _ _ => some r
  | _ => none

/-- Queue port number of a register field, if it names one (Table 1-4). -/
def Reg.port? (r : Reg) : Option Nat := if 24 ≤ r.toNat then some (r.toNat - 24) else none

/-- Is a control-register number assigned (Table 1-9)? -/
def crAssigned (c : Nat) : Bool :=
  c ≤ 0x005 || (0x010 ≤ c && c ≤ 0x016) || c == 0x020 || (0x028 ≤ c && c ≤ 0x02F)
  || (0x040 ≤ c && c ≤ 0x04F) || (0x080 ≤ c && c ≤ 0x084) || c == 0x0C0 || c == 0x0C1
  || (0x800 ≤ c && c ≤ 0x803) || c == 0x810 || c == 0x820 || (0x840 ≤ c && c ≤ 0x844)

/-- Is a control register marked RO, FEAT0 to FEAT3 included (Table 1-9, R472)? -/
def crReadOnly (c : Nat) : Bool :=
  (0x080 ≤ c && c ≤ 0x084) || c == 0x0C0 || c == 0x0C1 || (0x840 ≤ c && c ≤ 0x843)

/-- Reason 0x04: every modifier and operand sub-field holds a defined value (Table 3-32, R144, R155, R200, R278). -/
def Instr.modifiersOk (i : Instr) : Bool :=
  (match i.scopeField with | some s => s.toNat ≤ 4 | none => true)
  && (match i.roundField with | some r => r.toNat ≤ 5 | none => true)
  && (match i with
    | .bfx _ _ p l | .bfi _ _ p l => p.toNat + l.toNat + 1 ≤ 64
    | .fcvt _ _ k _ _ => 1 ≤ k.toNat && k.toNat ≤ 5
    | .lds _ _ _ z _ => z.toNat ≤ 2
    | .fence _ k => k.toNat != 0
    | .tcmp _ _ _ k _ => k.toNat ≤ 4
    | .coord _ k => k.toNat ≤ 2
    | .tdef _ s => s.toNat != 0 && s.toNat != 15 && s.toNat != 23
    | _ => true)

/-- Reason 0x0B: no written field names q6 (R30). -/
def Instr.writesNoQ6 (i : Instr) : Bool := i.destRegs.all (·.toNat != 30)

/-- Reason 0x0C: the control-register number is assigned, and not read-only where it is written (R39, R472). -/
def Instr.crOk : Instr → Bool
  | .crrd _ r => crAssigned r.toNat
  | .crwr _ r | .crset _ r | .crclr _ r => crAssigned r.toNat && !crReadOnly r.toNat
  | _ => true

/-- Reason 0x0D: no queue port in an address role, and QTRY names a port. -/
def Instr.portsOk (i : Instr) : Bool :=
  i.addrRegs.all (·.toNat < 24) && (match i with | .qtry _ a => 24 ≤ a.toNat | _ => true)

/-- The operand checks that one word can pass on its own. -/
def Instr.wellFormed (i : Instr) : Bool := i.modifiersOk && i.writesNoQ6 && i.crOk && i.portsOk

end Sys2Proof
end

