-- ==== Sys2Proof/Machine/Ops.lean ====
section
/-! DEFINITION. Named operations on the state: slots, tasks, cores, the agenda, parking, supervisor-level faults, and taking
and leaving a task-level trap (01_machine.md R17-R30, 19_traps_and_preemption.md R457-R461). -/
namespace Sys2Proof.Machine

-- slots, tasks and cores

def State.slot (s : State) (p : Pos) : Slot := s.slots.get {} p
def State.setSlot (s : State) (p : Pos) (x : Slot) : State := { s with slots := s.slots.put p x }
def State.modSlot (s : State) (p : Pos) (f : Slot → Slot) : State := s.setSlot p (f (s.slot p))
def State.task (s : State) (p : Pos) : Task := (s.slot p).task
def State.modTask (s : State) (p : Pos) (f : Task → Task) : State := s.modSlot p fun x => { x with task := f x.task }
def State.core (s : State) (c : Nat) : Core := s.cores.get {} c
def State.modCore (s : State) (c : Nat) (f : Core → Core) : State := { s with cores := s.cores.put c (f (s.core c)) }
def State.mapCores (s : State) (f : Core → Core) : State := { s with cores := s.cores.map fun x => (x.1, f x.2) }
def State.space (s : State) (i : Nat) : Space := s.spaces.get {} i
def State.modSpace (s : State) (i : Nat) (f : Space → Space) : State := { s with spaces := s.spaces.put i (f (s.space i)) }
def State.modMem (s : State) (f : Mem → Mem) : State := { s with mem := f s.mem }

/-- The slot, task and core of the current position. -/
def State.mySlot (s : State) : Slot := s.slot s.cur
def State.my (s : State) : Task := s.task s.cur
def State.myCore (s : State) : Core := s.core (posCore s.cur)
def State.setMy (s : State) (f : Task → Task) : State := s.modTask s.cur f
def State.setMySlot (s : State) (f : Slot → Slot) : State := s.modSlot s.cur f

/-- The task at a position, as others name it. -/
def State.tk (s : State) (p : Pos) : Tk := { pos := p, serial := (s.slot p).serial }

/-- Does a slot hold a task? -/
def Slot.resident (x : Slot) : Bool := x.st == .ready || x.st == .parked

/-- Is the named task resident in its position? -/
def State.isAt (s : State) (t : Tk) : Bool :=
  (s.slot t.pos).serial == t.serial && (s.slot t.pos).resident

/-- Change a task wherever it is: in its slot, or saved in the context store (R383, R464). -/
def State.onTask (s : State) (t : Tk) (f : Task → Task) : State :=
  if s.isAt t then s.modTask t.pos f
  else { s with saved := s.saved.map fun x => if x.t = t then { x with task := f x.task } else x }

/-- The task wherever it is, if it still is anywhere. -/
def State.findTask (s : State) (t : Tk) : Option Task :=
  if s.isAt t then some (s.task t.pos) else (s.saved.find? (·.t = t)).map (·.task)

-- the agenda

/-- Insert by due cycle, then tie, behind its equals. -/
def insertPending (x : Pending) : List Pending → List Pending
  | [] => [x]
  | y :: r => if x.due < y.due || (x.due == y.due && x.tie < y.tie) then x :: y :: r else y :: insertPending x r

/-- When a response that core `a` has sent core `b`, and that would be there in cycle `due`, is there: not before what `a` has sent `b`
earlier (R347). -/
def State.laneTo (s : State) (a b due : Nat) : Nat × State :=
  if a = b then (due, s) else
  let due := max due (s.mem.lanes.get 0 (a * 1024 + b))
  (due, s.modMem fun m => { m with lanes := m.lanes.put (a * 1024 + b) due })

/-- Put an event on the agenda. -/
def State.post (s : State) (due tie : Nat) (ev : Instr) (m : Msg) : State :=
  { s with agenda := insertPending { due := due, tie := tie, ev := ev, msg := m } s.agenda }

/-- The tie of a request from a position at a point whose own core is `c` (R336). -/
def tieAt (c : Nat) (p : Pos) : Nat := if posCore p = c then posSlot p else 16 + p

/-- What on the hub die a request originates from, in the order in which an ordering point applies them (R336). -/
inductive HubSource where
  | host | pool | fabric | steward
  deriving DecidableEq, Repr

/-- The tie of a request that originates on the hub die (R336). -/
def HubSource.tie : HubSource → Nat
  | .host => 20000
  | .pool => 20001
  | .fabric => 20002
  | .steward => 20003

/-- The tie of what the hub itself and its stewards do. -/
def tieHub : Nat := HubSource.tie .steward

/-- Post an event of a position, ordered by the position. -/
def State.postAt (s : State) (due : Nat) (p : Pos) (ev : Instr) (m : Msg) : State :=
  s.post due (16 + p) ev m

/-- An access or an action from outside the cores stands in the agenda with its cycle and its source's tie (R336; log entry 1). -/
def State.input (s : State) (at_ : Nat) (src : HubSource) (ev : Instr) (m : Msg) : State := s.post at_ src.tie ev m

/-- Post an event of the hub. -/
def State.postHub (s : State) (due : Nat) (ev : Instr) (m : Msg) : State := s.post due tieHub ev m

/-- What takes place as of an earlier cycle, once everything of that cycle is known. -/
def State.asOf (s : State) (c : Nat) (f : State → State) : State := { f { s with cycle := c } with cycle := s.cycle }

/-- A fresh name. -/
def State.fresh (s : State) : Nat × State := (s.nextId, { s with nextId := s.nextId + 1 })

/-- A fresh free value (log entry 7). -/
def State.freeVal (s : State) : Nat × State := (Config.freeValue s.freeCount, { s with freeCount := s.freeCount + 1 })

/-- Hops from a core to port `p` of its die (R346). -/
def portHops (c p : Nat) : Nat := natDist (coreX c) (7 + p % 2) + natDist (coreY c) (7 + p / 2)

/-- The link port of die `d` toward die `e` (R346). -/
def portToward (d e : Nat) : Nat := if e < d then e else e - 1

/-- Hops of a route between any two cores (R45, R346). -/
def routeHops (c₁ c₂ : Nat) : Nat :=
  if coreDie c₁ = coreDie c₂ then hops c₁ c₂
  else portHops c₁ (portToward (coreDie c₁) (coreDie c₂)) + portHops c₂ (portToward (coreDie c₂) (coreDie c₁))

/-- Travel between the hub and a core (R493). -/
def hubTravel (c : Nat) : Nat := 60 + 2 * portHops c 3 + 80

-- control registers held by a task

/-- Start value of a per-task control register (Table 1-9, Table 1-10). -/
def crReset (c : Nat) : Word := if c = 0 then word (1024 * 2 ^ 32) else 0

/-- A per-task control register. -/
def Task.cr (t : Task) (c : Nat) : Nat := (t.crs.get (crReset c) c).toNat

/-- Set a per-task control register. -/
def Task.setCr (t : Task) (c v : Nat) : Task := { t with crs := t.crs.put c (word v) }

/-- STATUS.INTRAP (Table 1-10). -/
def Task.inTrap (t : Task) : Bool := bit (t.cr 0) 2

/-- STATUS.XEN (Table 1-10, R118). -/
def Task.xen (t : Task) : Flags := BitVec.ofNat 5 (bits (t.cr 0) 8 5)

/-- STATUS.FERETRY (Table 1-10). -/
def Task.feRetry (t : Task) : Nat := bits (t.cr 0) 32 16

/-- Set STATUS.INTRAP. -/
def Task.setInTrap (t : Task) (b : Bool) : Task := t.setCr 0 (setBits (t.cr 0) 2 1 b.toNat)

/-- Is slot `k` of a core a light slot (R20)? -/
def Core.isLight (c : Core) (k : Nat) : Bool := 1 ≤ k && k ≤ 14 && bit c.lmask k

/-- Does a position stand in a light slot? -/
def State.isLight (s : State) (p : Pos) : Bool := (s.core (posCore p)).isLight (posSlot p)

/-- Count `n` events of Table 21-4 in every EVCNT whose EVSEL selects them (R489). -/
def Task.countEv (t : Task) (code n : Nat) : Task :=
  if n = 0 then t else
  (List.range 8).foldl (fun t k =>
    if t.cr (0x40 + k) = code then t.setCr (0x48 + k) ((t.cr (0x48 + k) + n) % 2 ^ 64) else t) t

/-- Count events for the task at a position; on a light slot the counters do not change (Table 16-2). -/
def State.countEv (s : State) (p : Pos) (code n : Nat) : State :=
  if s.isLight p then s else s.modTask p fun t => t.countEv code n

/-- Counters that stewards read (R489): 0 vcache hits and 1 misses by cluster, 2 directory displacements and 3 probes by home
slice, 5 integrity failures by link, 7 intake rejections by partition, 8 counter underflows by die. -/
def State.tally (s : State) (kind unit n : Nat) : State :=
  { s with hub := { s.hub with counts := s.hub.counts.upd 0 (kind * 2 ^ 20 + unit) (· + n) } }

/-- Turns of slot `k` in the cycles from `a` + 1 to `b`. -/
def turnsOf (k a b : Nat) : Nat := (b + 16 - k) / 16 - (a + 16 - k) / 16

-- readiness and parking

/-- Park a slot. -/
def State.park (s : State) (p : Pos) (w : Wait) : State :=
  s.modSlot p fun x => { x with st := .parked, parkedAt := if x.st == .parked then x.parkedAt else s.cycle, task := { x.task with wait := some w } }

/-- Release a parked slot: it issues at its first turn in a later cycle (R383), and of a task being restored not before what its
first issue waits for (R466). -/
def State.unpark (s : State) (p : Pos) : State :=
  let n := turnsOf (posSlot p) (s.slot p).parkedAt s.cycle
  if (s.slot p).st == .parked then
    (s.modSlot p fun x => { x with st := .ready, notBefore := max x.notBefore (s.cycle + 1), task := { x.task with wait := none } }).countEv p 2 n
  else s

/-- Release a slot that waits for exactly `w`. -/
def State.wake (s : State) (p : Pos) (w : Wait) : State :=
  if (s.slot p).st == .parked && (s.task p).wait == some w then s.unpark p else s

/-- Release a task that waits for exactly `w`, in its slot or in the context store. -/
def State.wakeTk (s : State) (t : Tk) (w : Wait) : State :=
  if s.isAt t then s.wake t.pos w
  else { s with saved := s.saved.map fun x =>
    if x.t = t && x.task.wait == some w then { x with task := { x.task with wait := none } } else x }

-- counted messages (R397)

/-- A core sends a counted message. -/
def State.countSent (s : State) (c : Nat) : State := s.modCore c fun k => { k with sent := (k.sent + 1) % 2 ^ 32 }

/-- A counted message is applied at a core: RECV counts and the colour turns black. -/
def State.countRecv (s : State) (c : Nat) : State := s.modCore c fun k => { k with recv := (k.recv + 1) % 2 ^ 32, black := true }

-- idle turns (R17, R21)

/-- The tasks of a core that a window move could serve: position, windows on chip, and whether the move spills (R21). A CALL or
RET that has issued moves its own window (R153). -/
def State.windowMoves (s : State) (c : Nat) : List (Pos × Nat × Bool) :=
  ((List.range 14).map fun k => mkPos c (k + 1)).filterMap fun p =>
    let x := s.slot p
    let moving := match x.task.wait with | some (.window _) => true | _ => false
    if !x.resident || x.task.light || moving then none
    else if 2 < x.task.onChip then some (p, x.task.onChip, true)
    else if x.task.onChip < 2 && x.task.onChip < 1 + x.task.callers.length then some (p, x.task.onChip, false)
    else none

/-- The move an idle turn of a core works on: most windows on chip first, then the lower slot (R21). -/
def State.windowMove (s : State) (c : Nat) : Option (Pos × Bool) :=
  let l := s.windowMoves c
  let most := (l.map (·.2.1)).foldl max 0
  (l.find? fun x => x.2.1 == most).map fun x => (x.1, x.2.2)

/-- An idle turn of a core: two of them move one window (R21), by an event that falls at once. -/
def State.idleTurn (s : State) (c : Nat) : State :=
  match s.windowMove c with
  | none => if (s.core c).idleRun = 0 then s else s.modCore c fun k => { k with idleRun := 0 }
  | some (p, spill) =>
    if (s.core c).idleRun = 0 then s.modCore c fun k => { k with idleRun := 1 }
    else
      (s.modCore c fun k => { k with idleRun := 0 }).post s.cycle 0 (if spill then .windowSpill else .windowFill)
        (if spill then .windowSpill p else .windowFill p)

/-- The current position's ready task issues nothing in this turn: it waits for a result, or for an earlier access, and the turn
is idle (R17, R311). -/
def State.waitTurn (s : State) : State := s.idleTurn (posCore s.cur)

-- supervisor-level faults

/-- Send a fault record to the steward (R461, R493). -/
def State.sendRecord (s : State) (c : Nat) (r : FaultRec) : State :=
  s.postAt (s.cycle + hubTravel c) (mkPos c 0)
    .faultRecordDelivery (.faultRecordDelivery [r.cycle, r.addr, r.pc, r.cause, r.sub, r.behalf.toNat, r.acc, r.world.toNat, r.space, r.slot, r.arg])

/-- Park a slot with a supervisor-level fault record (R457, R461). The task's state is as before the instruction, which stands at
`pc` where that is not the task's pc any more. -/
def State.supFault (s : State) (p : Pos) (cause sub addr acc : Nat) (arg : Nat := 0) (pc : Option Word := none) : State :=
  let t := s.task p
  let r : FaultRec := { cycle := s.cycle, addr := addr, pc := (pc.getD t.pc).toNat, cause := cause, sub := sub, acc := acc,
                        world := t.world, space := t.space, slot := p, arg := arg }
  ((s.modSlot p fun x => { x with pending? := some r }).park p .fault).sendRecord (posCore p) r

/-- The current instruction does not issue: the slot parks with a record, and the turn is idle (R17, R26, R30, R39, R78, R373). -/
def State.noIssue (s : State) (cause sub addr acc : Nat) : State := (s.supFault s.cur cause sub addr acc).waitTurn

/-- A record raised on a task's behalf; its slot is not parked (R461). -/
def State.behalfFault (s : State) (t : Tk) (pc cause sub addr acc space : Nat) (world : Bool) : State :=
  s.sendRecord (posCore t.pos)
    { cycle := s.cycle, addr := addr, pc := pc, cause := cause, sub := sub, behalf := true, acc := acc,
      world := world, space := space, slot := t.pos }

/-- The partition of a die (R452). -/
def State.diePart (s : State) (d : Nat) : Nat := d * s.module_.parts / 4

/-- Is a partition halted? The hub discards its traffic then (R456). -/
def State.partHalted (s : State) (part : Nat) : Bool := s.module_.haltedParts.contains part

-- commands of stewards (R486, R493)

/-- A refusal record of the hub for a steward's command or write (R486, Table 20-3). `addr` is the physical address that the write names,
0 where it names none. -/
def State.refuseSteward (s : State) (part addr : Nat) : State :=
  s.postHub s.cycle .errorRecordDelivery (.errorRecord { cycle := s.cycle, code := 0x50, sev := 5, addr := addr, part := part })

/-- The partition that owns a steward core, 8 ÷ n of them each, in order of their numbers (R452; DESIGN CHOICE, log entry 43). -/
def State.stewardPart (s : State) (k : Nat) : Nat := k * s.module_.parts / 8

/-- The partition in which a hub command acts; none of what is no command. -/
def State.commandPart (s : State) : Msg → Option Nat
  | .resumeRetry t | .resumeSkip t | .resumeEnd t => some (s.diePart (coreDie (posCore t.pos)))
  | .preempt p => some (s.diePart (coreDie (posCore p)))
  | .pagefree part _ _ | .pagetake part _ _ | .unpin part _ _ _ | .unmap part _ _ _ _ _ | .reset part _ | .cordonReturn part _ | .dieReset part _
  | .returnDie part _ | .partitionReset part => some part
  | _ => none

/-- The time of a hub command from its issue until it takes effect at the core it acts at, or is taken by its agent (R493). -/
def Msg.commandTime : Msg → Nat
  | .resumeRetry t | .resumeSkip t | .resumeEnd t => hubTravel (posCore t.pos)
  | .preempt p => hubTravel (posCore p)
  | .pagefree _ c _ | .pagetake _ c _ => hubTravel c
  | _ => 1

/-- Steward core `k` issues a hub command; one that acts in another partition is refused (R486, R493). -/
def State.command (s : State) (k : Nat) (ev : Instr) (m : Msg) : State :=
  match s.commandPart m with
    | none => s
    | some part =>
      if 8 ≤ k then s
      else if part ≠ s.stewardPart k then s.refuseSteward (s.stewardPart k) 0
      else s.postHub (s.cycle + m.commandTime) ev m

/-- An error event's record goes to the hub (R477, R482). -/
def State.errorEvent (s : State) (core : Nat) (e : ErrRec) : State :=
  s.postHub (s.cycle + hubTravel core) .errorRecordDelivery
    (.errorRecord { e with cycle := s.cycle, part := s.diePart (coreDie core) })

/-- An error record that concerns a task names its slot, its deal's active-deal entry and its index (R499, Table 20-5). -/
def State.taskError (s : State) (core : Nat) (t : Tk) (e : ErrRec) : State :=
  let x := (s.findTask t).getD {}
  s.errorEvent core { e with slot := t.pos, deal := x.deal, index := x.index }

-- task-level traps

/-- Are all of a task's class L results written, or their deferred faults recorded (R86)? -/
def Task.settled (t : Task) : Bool := t.outst.all (·.doneAt.isSome)

/-- trap_entry of R458, at the boundary where the task's pc stands: TRAPPC takes the pc. A double trap or a missing handler
escalates and leaves the registers as they were; `pc` is the instruction at fault, where that is not the one at the task's pc. On a
light slot every trap escalates as "no handler" (R404). The handler's first instruction issues in a later cycle than the entry. -/
def State.trapEntry (s : State) (p : Pos) (tr : Trap) (pc : Option Word := none) : State :=
  let t := s.task p
  if t.inTrap then s.supFault p 0x47 0 0 3 tr.cause pc
  else if t.cr 1 = 0 || s.isLight p then s.supFault p 0x48 0 0 3 tr.cause pc
  else
    s.modSlot p fun x =>
      let t := x.task
      let t := ((t.setCr 2 t.pc.toNat).setCr 4 tr.val).setCr 3 (tr.cause + 256 * tr.sub + 65536 * tr.deferred.toNat)
      { x with task := { (t.setInTrap true) with pc := word (t.cr 1), resume := none }, notBefore := max x.notBefore (s.cycle + 1) }

/-- The trap to enter now, if any: the earliest one once some trap is due and no handler runs; inside a handler only a trap
that the handler itself raised (R86, R460). The instruction that an ERET runs goes first (R468). -/
def Task.nextTrap (t : Task) : Option PTrap :=
  if t.resume.isSome then none
  else if t.inTrap then t.traps.find? fun x => x.inHandler && (x.due || t.precise.isSome)
  else if t.traps.any (·.due) || t.precise.isSome then t.traps.head? else none

/-- Enter the trap whose turn it is, once every result is settled; the ones behind it are due when its handler returns. A trap at PC
gives way to the faults recorded before it, and its instruction issues again. Once a pre-emption is demanded a deferred fault is
not taken but saved (R464, Table 19-9). -/
def State.takeTraps (s : State) (p : Pos) : State :=
  let t := s.task p
  if (s.slot p).st == .ready && t.settled then
    match t.nextTrap with
    | none => match t.precise with
      | some tr => if t.resume.isSome then s else (s.modTask p fun t => { t with precise := none }).trapEntry p tr
      | none => s
    | some x =>
      if (s.slot p).preempt.isSome && x.trap.deferred then s
      else
        (s.modTask p fun t =>
          { t with traps := (t.traps.erase x).map fun y => { y with due := true }, precise := none }).trapEntry p x.trap (some x.pc)
  else s

/-- A precise trap at the current instruction: no effect, and the instruction issues again after ERET (R459). While an
earlier class L result is outstanding the turn stays idle, and a fault recorded by then is taken first (R86). -/
def State.trapAt (s : State) (tr : Trap) : State :=
  let t := s.my
  if !t.settled then s.waitTurn
  else if t.inTrap || t.resume.isSome || t.traps.isEmpty then s.trapEntry s.cur tr
  else (s.setMy fun t => { t with traps := t.traps.map fun y => { y with due := true } }).takeTraps s.cur

/-- The traps with one more, in program order: the names of results rise as instructions issue (R86). -/
def insertTrap (x : PTrap) : List PTrap → List PTrap
  | [] => [x]
  | y :: r => if x.id < y.id then x :: y :: r else y :: insertTrap x r

/-- A trap at the boundary after the instruction at `pc`, whose effect is complete (R459): entered once every earlier result is
settled. -/
def State.trapAfter (s : State) (p : Pos) (pc : Word) (tr : Trap) : State :=
  let (id, s) := s.fresh
  (s.modTask p fun t =>
    { t with traps := insertTrap { trap := tr, due := true, id := id, inHandler := t.inTrap, pc := pc } t.traps }).takeTraps p

/-- A precise trap of an instruction that does not even issue: the turn is idle (R17). -/
def State.trapUnissued (s : State) (tr : Trap) : State := if s.my.settled then (s.trapAt tr).waitTurn else s.waitTurn

/-- The format fault of a given SUB at the current instruction, TRAPVAL its PC (Table 19-2). -/
def State.formatFault (s : State) (sub : Nat) : State :=
  s.trapAt { cause := 2, sub := sub, val := s.my.pc.toNat, deferred := false }

/-- The format fault of an access, TRAPVAL its address (Table 19-2). -/
def State.formatFaultAt (s : State) (sub addr : Nat) : State :=
  s.trapAt { cause := 2, sub := sub, val := addr, deferred := false }

-- moving on

/-- The key of an instruction's kept words: its pc, and whether it is a handler's instruction (R23). -/
def Task.keptKey (t : Task) : Nat := 2 * t.pc.toNat + t.inTrap.toNat

/-- The current instruction has taken effect and the task goes on at `pc`; its kept words are used up (R23). An instruction
that an ERET resumed goes on at TRAPPC instead (R468). The windows of results outstanding are one instruction shorter (R83), and it counts as issued (Table 21-4). -/
def State.goTo (s : State) (pc : Word) : State :=
  (s.setMy fun t =>
    { t with pc := t.resume.getD pc, resume := none, tileFrom := 0, kept := t.kept.del t.keptKey, waited := false,
             outst := t.outst.map fun o => { o with left := o.left - 1 } }).countEv s.cur 1 1

/-- Go on at PC + 4. -/
def State.advance (s : State) : State := s.goTo (s.my.pc + 4)

/-- Do something for another position. -/
def State.asPos (s : State) (p : Pos) (f : State → State) : State := { f { s with cur := p } with cur := s.cur }

/-- Release a slot that waits for exactly `w`, its instruction having completed: it goes on at PC + 4. -/
def State.wakePast (s : State) (p : Pos) (w : Wait) : State :=
  if (s.slot p).st == .parked && (s.task p).wait == some w then (s.asPos p State.advance).unpark p else s

/-- ERET's return from a handler (R468): INTRAP clears, TRES is used up, and the task goes on at TRAPPC, or first runs the
instruction at TRAPVAL from unit DONE. A pc is a multiple of 4 below 2^57 (R78): TRAPVAL is taken as R468 takes TRAPPC, its bits
[1:0] cleared and [63:57] ignored, which the spec does not say of it (DESIGN CHOICE, log entry 51). -/
def State.trapReturn (s : State) : State :=
  let t := s.my
  let r := t.cr 5
  let back : Word := word (t.cr 2 / 4 * 4 % 2 ^ 57)
  let s := s.setMy fun t => (t.setInTrap false).setCr 5 0
  let s := s.setMy fun t => { t with kept := t.kept.del (2 * t.pc.toNat + 1) }
  if bit r 31 then
    -- the same turn goes on with the instruction at TRAPVAL
    let s := s.setMy fun t =>
      { t with pc := word (t.cr 4 / 4 * 4 % 2 ^ 57), resume := some back, tileFrom := bits r 0 9 }
    { s with turn := posCore s.cur }
  else
    s.setMy fun t => { t with pc := back, resume := none }

-- budgets (R371)

/-- The charges of the current period. -/
def State.charges (s : State) : Tbl Nat := if s.hub.period = s.cycle / 12500 * 12500 then s.hub.charges else []

/-- The key of a budget: kind 0 copy bytes, 1 link bytes, 2 stacked-memory bytes, 3 multiply-accumulates. -/
def budgetKey (part cls kind : Nat) : Nat := (part * 8 + cls) * 4 + kind

/-- Has a class's charge of a kind reached its limit in this period? -/
def State.overBudget (s : State) (part cls kind : Nat) : Bool :=
  let k := budgetKey part cls kind
  decide (s.hub.budgets.get 0xFFFFFFFF k * 65536 ≤ s.charges.get 0 k) && s.hub.budgets.get 0xFFFFFFFF k != 0xFFFFFFFF

/-- Charge a class. -/
def State.charge (s : State) (part cls kind n : Nat) : State :=
  { s with hub := { s.hub with period := s.cycle / 12500 * 12500, charges := s.charges.upd 0 (budgetKey part cls kind) (· + n) } }

/-- The start of the next period. -/
def State.nextPeriod (s : State) : Nat := (s.cycle / 12500 + 1) * 12500

/-- Charge an activity of a task, of some kinds, to its class; none where a limit has been reached. Charges count once a limit is
set. -/
def State.budgeted (s : State) (die : Nat) (t : Tk) (kinds : List Nat) (n : Nat) : Option State :=
  if s.hub.budgets.isEmpty then some s
  else
    let cls := ((s.findTask t).map (·.budget)).getD 0
    let part := s.diePart die
    if kinds.any (s.overBudget part cls) then none else some (kinds.foldl (fun s k => s.charge part cls k n) s)

end Sys2Proof.Machine
end

