-- ==== Sys2Proof/Machine/Operands.lean ====
section
/-! DEFINITION. Operand forms: private and shared registers, queue ports, kept words, and destination writes
(01_machine.md R22-R30, 05_scalar_control_instructions.md R125-R127, 14_scheduler.md R366, 15_waiting_and_barriers.md R384). -/
namespace Sys2Proof.Machine

-- registers

/-- s-register `r` of a task; s0 reads zero (R24). -/
def Task.sreg (t : Task) (r : Nat) : Word := if r = 0 then 0 else t.regs.get 0 r

/-- The windows a task holds (R149). -/
def Task.windows (t : Task) : Nat := 1 + t.callers.length

/-- How a struck register is named: s1 to s7 by number, a window's by the windows held when it is current (R481). -/
def Task.strikeKey (t : Task) (r : Nat) : Nat := if r < 8 then r else 16 * t.windows + r

/-- Write s-register `r`; a write to s0 is discarded (R24). -/
def Task.setSreg (t : Task) (r : Nat) (v : Word) : Task :=
  if r = 0 then t else { t with regs := t.regs.put r v, struck := t.struck.filter (· != t.strikeKey r) }

/-- g-register `k` of a core as left by writes completed in earlier cycles (R27). -/
def Core.greg (c : Core) (k : Nat) : Word := c.g.get 0 k

/-- Enter a g-register write that completes in cycle `due` (R125). -/
def Core.writeG (c : Core) (due slot k : Nat) (v : Word) : Core :=
  { c with gPend := c.gPend ++ [{ due := due, slot := slot, reg := k, val := v }] }

/-- Insert by slot, so that of two writes in one cycle the higher slot's remains (R27). -/
def insertBySlot (x : GWrite) : List GWrite → List GWrite
  | [] => [x]
  | y :: r => if x.slot < y.slot then x :: y :: r else y :: insertBySlot x r

/-- The writes that complete in cycle `n` take effect at its end (R27, R125). -/
def Core.commitG (c : Core) (n : Nat) : Core :=
  let now := (c.gPend.filter (·.due ≤ n)).foldl (fun l x => insertBySlot x l) []
  { c with g := now.foldl (fun g x => g.put x.reg x.val) c.g, gPend := c.gPend.filter (n < ·.due) }

-- channels (R384)

/-- The adjacent core in direction `n`: 0 north, 1 east, 2 south, 3 west; none at the edge (R29). Row 0 is the north edge. -/
def adjacent (c n : Nat) : Option Nat :=
  let x := coreX c
  let y := coreY c
  match n with
  | 0 => if y = 0 then none else some (coreOf (coreDie c) x (y - 1))
  | 1 => if x = 15 then none else some (coreOf (coreDie c) (x + 1) y)
  | 2 => if y = 15 then none else some (coreOf (coreDie c) x (y + 1))
  | _ => if x = 0 then none else some (coreOf (coreDie c) (x - 1) y)

/-- Endpoint `n` of a position. -/
def State.endpoint (s : State) (p : Pos) (n : Nat) : Endpoint := (s.slot p).ends.get {} n

def State.setEndpoint (s : State) (p : Pos) (n : Nat) (f : Endpoint → Endpoint) : State :=
  s.modSlot p fun x => { x with ends := x.ends.upd {} n f }

/-- The partner of endpoint `n` of a position, if bound (R384). Slots 0 and 15 have no endpoints. -/
def State.channelPartner (s : State) (p : Pos) (n : Nat) : Option (Pos × Nat) :=
  if posSlot p = 0 || posSlot p = 15 then none else
  match (s.endpoint p n).pair with
  | .unbound => none
  | .to q m => some (q, m)
  | .default => (adjacent (posCore p) n).map fun c => (mkPos c (posSlot p), (n + 2) % 4)

/-- Free entries of the partner's inbound queue as the pusher counts them; 4 when unbound (R384, R387). -/
def State.channelRoom (s : State) (p : Pos) (n : Nat) : Nat :=
  match s.channelPartner p n with
  | none => 4
  | some (q, m) => let e := s.endpoint q m; 4 - (e.inbound.length + e.coming)

/-- Push a word into channel `n`: discarded when unbound, else on its way to the partner; a word for another core counts as
sent (R29, R384, R397). -/
def State.channelPush (s : State) (p : Pos) (n : Nat) (w : Word) : State :=
  match s.channelPartner p n with
  | none => s
  | some (q, m) =>
    -- a fenced partner: the word is discarded and the pushing endpoint becomes unbound (R475)
    if (s.core (posCore q)).fenced then s.setEndpoint p n fun e => { e with pair := .unbound } else
    let s := s.setEndpoint q m fun e => { e with coming := e.coming + 1 }
    let s := if posCore p = posCore q then s
      else s.countSent (posCore p)
    s.post (s.cycle + max 4 (2 + 2 * routeHops (posCore p) (posCore q))) (tieAt (posCore q) p)
      .channelWordArrival (.channelWordArrival q m w (posCore p != posCore q))

-- events between banker and tasks (R366)

/-- The event word a task's push gives the banker (R366). -/
def taskEventWord (slot deal : Nat) (w : Word) : Word :=
  word (5 * 2 ^ 60 + slot * 2 ^ 56 + deal * 2 ^ 48 + w.toNat % 2 ^ 48)

/-- A word enters a q7: of the words of one cycle those of lower slots stand first, the hub's last (R317). -/
def Slot.enterEvent (x : Slot) (cycle from_ : Nat) (w : Word) : Slot :=
  let ks := if x.evqAt = cycle then x.evqFrom else []
  let n := x.evq.length - (ks.filter (from_ < ·)).length
  { x with evq := x.evq.take n ++ w :: x.evq.drop n, evqAt := cycle, evqFrom := ks.filter (· ≤ from_) ++ from_ :: ks.filter (from_ < ·) }

/-- Put an event of slot `from_` of the core into a slot's q7, 16 for an event of the hub, and wake a pop or an IDLE that waits for
one. -/
def State.putEvent (s : State) (p : Pos) (from_ : Nat) (w : Word) : State :=
  let s := s.modSlot p fun x => x.enterEvent s.cycle from_ w
  (s.wake p (.pop 7)).wakePast p .idle

/-- Is there only one free place in a q7, which a push by a slot in this cycle's turn may come before (R317)? -/
def State.eventTight (s : State) (p : Pos) : Bool := 15 ≤ (s.slot p).evq.length

/-- Wake every slot of a core that waits for `w`. -/
def State.wakeCore (s : State) (c : Nat) (w : Wait) : State :=
  (List.range 16).foldl (fun s k => s.wake (mkPos c k) w) s

/-- A push to q7 (R366); none while the receiving queue is full. -/
def State.pushQ7 (s : State) (p : Pos) (w : Word) : Option State :=
  let c := posCore p
  if posSlot p = 0 then
    if bits w.toNat 60 4 = 6 && 1 ≤ bits w.toNat 56 4 && bits w.toNat 56 4 ≤ 14 then
      let q := mkPos c (bits w.toNat 56 4)
      if !(s.slot q).resident then some s
      else if 16 ≤ (s.slot q).evq.length then none
      else some (s.putEvent q 0 w)
    else if 16 ≤ (s.core c).outq.length then none
    else
      let s := s.modCore c fun x => { x with outq := x.outq ++ [w] }
      some (s.post (s.cycle + 1) tieHub .outboundEventDelivery (.outboundEventDelivery c))
  else
    if 16 ≤ (s.slot (mkPos c 0)).evq.length then none
    else some (s.putEvent (mkPos c 0) (posSlot p) (taskEventWord (posSlot p) (s.task p).deal w))

-- the partner's port (R201, R202, R205, R206)

/-- Let the partner of a core look at its queues in this cycle. -/
def State.kickPartner (s : State) (c : Nat) : State :=
  if (s.core c).partner.kicked then s
  else (s.modCore c fun x => { x with partner := { x.partner with kicked := true } }).post s.cycle (tieAt c (mkPos c 0))
    .matrixOpStart (.matrixOpStart c)

/-- A tile register's descriptor; unlisted registers hold the start descriptor (R33). -/
def Task.tile (t : Task) (r : Nat) : BitVec 128 := t.tiles.get (BitVec.ofNat 128 (8 * 2 ^ 64)) r

/-- The command of a word with the state it captures from its task as it enters (R202). -/
def captureCommand (t : Task) (w : Nat) (pushed : Bool) (id : Nat) : MCmd :=
  { word := w, pushed := pushed, ta := t.tile (bits w 8 4), tb := t.tile (bits w 12 4),
    fmtA := t.cr 0x10, fmtB := t.cr 0x11, fmtC := t.cr 0x12, sclA := t.cr 0x13, sclB := t.cr 0x14, scnt := t.cr 0x15,
    rmode := t.cr 0x16, id := id, joint := t.joint, pc := t.pc.toNat }

/-- Room in the command queue, and in the completion entries for a command that will give a completion word (R201, R206). -/
def Slot.commandRoom (x : Slot) (completes : Bool) : Bool :=
  x.cmds.length < 8 && (!completes || x.comps.length + x.compsRes < 8)

/-- Effective format of an operand (R207), if its format register is acceptable. -/
def effFormat (d : Desc) (fmt : Nat) : Option Nat :=
  if fmt = 0 then some d.fmt
  else if ((Format.ofCode fmt).map Format.width) == some d.size && (fmt == 7) == (d.layout == 2) then some fmt
  else none

/-- Does an operand of an effective format take scales (R208)? -/
def scaled (f fmtC : Nat) : Bool := f == 6 || (f == 4 && fmtC == 0x0B)

def MCmd.op (m : MCmd) : Nat := bits m.word 0 4
def MCmd.acc (m : MCmd) : Nat := bits m.word 4 4
def MCmd.da (m : MCmd) : Desc := Desc.ofBits m.ta
def MCmd.db (m : MCmd) : Desc := Desc.ofBits m.tb

/-- The units a command of a task on core `c` reads, and those it writes (R240, R311). -/
def MCmd.ranges (m : MCmd) (c space : Nat) : List (Nat × Nat) × List (Nat × Nat) :=
  let tile (d : Desc) : List (Nat × Nat) := d.footprint (d.owner c) space
  let scales (d : Desc) (fmt addr n : Nat) : List (Nat × Nat) :=
    match effFormat d fmt with
    | some f => if scaled f m.fmtC && n ≠ 0 then
        [(scratchUnit (d.owner c) space addr, scratchUnit (d.owner c) space (addr + n - 1) + 1)] else []
    | none => []
  if m.op ≤ 3 then
    (tile m.da ++ tile m.db ++ scales m.da m.fmtA m.sclA (bits m.scnt 0 16) ++ scales m.db m.fmtB m.sclB (bits m.scnt 16 16), [])
  else if m.op = 5 then (tile m.da, [])
  else if m.op = 6 then ([], tile m.da)
  else ([], [])

/-- Enter a command into a slot's queue; it counts as an access of the task until it completes (R240). The instruction that made
the request is the one at the task's pc, or for a follow-on command the one at `pc`. -/
def State.enterCommand (s : State) (p : Pos) (w : Nat) (pushed completes : Bool) (pc : Option Nat := none) : State :=
  let (id, s) := s.fresh
  let m := captureCommand (s.task p) w pushed id
  let m := { m with pc := pc.getD m.pc }
  let (rd, wr) := m.ranges (posCore p) (s.task p).space
  let s := s.modSlot p fun x =>
    { x with cmds := x.cmds ++ [m], compsRes := x.compsRes + completes.toNat,
             task := { x.task with pend := x.task.pend ++
               [{ id := id, write := false, ranges := rd, ackOnly := false, partner := true },
                { id := id, write := true, ranges := wr, ackOnly := false, partner := true }] } }
  s.kickPartner (posCore p)

-- pops and pushes

/-- The dealer of a core looks at its mailboxes (R416). -/
def State.kickDealer (s : State) (c : Nat) : State := s.postAt s.cycle (mkPos c 15) .dealerAccept (.dealerScan c)

/-- What a pop finds. -/
inductive Popped where
  | word (w : Word) (s : State)
  | empty
  | misuse                 -- q6 on a slot that is no light slot (R30)

/-- The arrival record a q6 pop reads: the one its slot holds, else the oldest that no slot holds (R409). -/
def Core.arrivalFor (c : Core) (slot : Nat) : Option LightRec :=
  match c.arrivals.find? (·.taker == some slot) with
  | some r => some r
  | none => c.arrivals.find? (·.taker.isNone)

/-- A task that was taken as a record counts as ended by EXIT (R405, R409). -/
def State.recordEnded (s : State) (c : Nat) (r : LightRec) : State :=
  s.postAt s.cycle (mkPos c 0) .completionRecordWrite (.taskEnded r.deal false)

/-- Pop one word of q6 (R409). The sixteenth word removes the record. -/
def State.popArrival (s : State) (p : Pos) : Popped :=
  let c := posCore p
  let k := posSlot p
  match (s.core c).arrivalFor k with
  | none => .empty
  | some r =>
    let n := (s.slot p).q6n
    let w := r.words.getD n 0
    if n = 15 then
      let s := s.modCore c fun x => { x with arrivals := x.arrivals.erase r }
      let s := s.modSlot p fun x => { x with q6n := 0 }
      let s := s.postAt s.cycle (mkPos c 0) .kittyRefill (.kittyRefill c false)
      .word w (s.recordEnded c r)
    else
      let s := s.modCore c fun x =>
        { x with arrivals := x.arrivals.map fun y => if y = r then { y with taker := some k } else y }
      .word w (s.modSlot p fun x => { x with q6n := n + 1 })

/-- Pop a queue port (R28). -/
def State.popPort (s : State) (p : Pos) (n : Nat) : Popped :=
  let c := posCore p
  let x := s.slot p
  if n < 4 then
    match (s.endpoint p n).inbound with
    | [] => .empty
    | w :: r =>
      let s := s.setEndpoint p n fun e => { e with inbound := r }
      -- space for whoever pushes into this endpoint
      match s.channelPartner p n with
      | some (q, m) => .word w (s.wake q (.push m))
      | none => .word w s
  else if n = 4 then
    match x.comps with
    | [] => .empty
    | w :: r => .word w (s.modSlot p fun x => { x with comps := r })
  else if n = 5 then
    match x.returns with
    | [] => .empty
    | w :: r => .word w ((s.modSlot p fun x => { x with returns := r }).kickDealer c)
  else if n = 6 then
    if s.isLight p then s.popArrival p else .misuse
  else
    match x.evq with
    | [] => .empty
    | w :: r =>
      let s := s.modSlot p fun x => { x with evq := r }
      .word w (if posSlot p = 0 then s.wakeCore c (.push 7) else s.wake (mkPos c 0) (.push 7))

/-- Push to a queue port; none while it is full (R28). -/
def State.pushPort (s : State) (p : Pos) (n : Nat) (w : Word) : Option State :=
  let c := posCore p
  if n < 4 then (if s.channelRoom p n = 0 then none else some (s.channelPush p n w))
  else if n = 4 then
    (if (s.slot p).commandRoom true then some (s.enterCommand p w.toNat true true) else none)
  else if n = 5 then
    (if 4 ≤ (s.slot p).mailbox.length then none
     else some ((s.modSlot p fun x => { x with mailbox := x.mailbox ++ [{ word := w, before := s.nextId }] }).kickDealer c))
  else if n = 6 then some s
  else s.pushQ7 p w

-- sources

/-- Reading the source fields of an instruction. -/
inductive Fetched where
  | ok (vals : List Word) (s : State)
  | stop (s : State)

/-- Reading one source field: its value, the words earlier attempts popped that are left, and every word held now. -/
inductive Fetched1 where
  | ok (v : Word) (old got : List Word) (s : State)
  | stop (s : State)

/-- Read one field; `old` are words an earlier attempt of this instruction already popped, `got` every word it has now (R23). -/
def fetchOne (r : Reg) (old got : List Word) (s : State) : Fetched1 :=
  if r.toNat < 16 then
    if s.my.struck.contains (s.my.strikeKey r.toNat) then
      -- an uncorrectable register: its cordon is reset (Table 20-3)
      .stop (s.post s.cycle 0 .reset (.uncontained (posCore s.cur) 0 0x23 s.cur))
    else .ok (s.my.sreg r.toNat) old got s
  else if r.toNat < 24 then .ok (s.myCore.greg (r.toNat - 16)) old got s
  else match old with
    | w :: old => .ok w old got s
    | [] =>
      match s.popPort s.cur (r.toNat - 24) with
      | .word w s => .ok w [] (got ++ [w]) (s.setMy fun t => { t with kept := t.kept.put t.keptKey (got ++ [w]) })
      | .empty => .stop (s.park s.cur (.pop (r.toNat - 24)))
      | .misuse => .stop (s.noIssue 0x46 0 0 3)

/-- Put a value in front of those read after it. -/
def Fetched.cons (v : Word) : Fetched → Fetched
  | .ok vs s => .ok (v :: vs) s
  | .stop s => .stop s

/-- Read fields in order. -/
def fetchFrom : List Reg → List Word → List Word → State → Fetched
  | [], _, _, s => .ok [] s
  | r :: rs, old, got, s =>
    match fetchOne r old got s with
    | .ok v old got s => (fetchFrom rs old got s).cons v
    | .stop s => .stop s

/-- Read the source fields of the current instruction, in the order given (R23). -/
def fetchSrcs (rs : List Reg) (s : State) : Fetched :=
  let k := (s.my.kept.look s.my.keptKey).getD []
  fetchFrom rs k k s

/-- Read the sources and go on with their values. -/
def withSrcs (rs : List Reg) (s : State) (k : List Word → State → State) : State :=
  match fetchSrcs rs s with
  | .ok vs s => k vs s
  | .stop s => s

/-- One source. -/
def with1 (a : Reg) (s : State) (k : Word → State → State) : State :=
  withSrcs [a] s fun vs s => k (vs.getD 0 0) s

/-- Two sources, a then b. -/
def with2 (a b : Reg) (s : State) (k : Word → Word → State → State) : State :=
  withSrcs [a, b] s fun vs s => k (vs.getD 0 0) (vs.getD 1 0) s

/-- Three sources, a, b, then d (R126). -/
def with3 (a b d : Reg) (s : State) (k : Word → Word → Word → State → State) : State :=
  withSrcs [a, b, d] s fun vs s => k (vs.getD 0 0) (vs.getD 1 0) (vs.getD 2 0) s

-- destinations

/-- Write a destination register of a position, completing `delay` cycles from now; none while its port is full
(R22, R125, R127). -/
def State.writeDest (s : State) (p : Pos) (delay : Nat) (d : Reg) (v : Word) : Option State :=
  if d.toNat < 16 then some (s.modTask p fun t => t.setSreg d.toNat v)
  else if d.toNat < 24 then
    some (s.modCore (posCore p) fun c => c.writeG (s.cycle + delay) (posSlot p) (d.toNat - 16) v)
  else s.pushPort p (d.toNat - 24) v

/-- The end of a class S instruction that writes d: the write, then PC + 4. A push to a full port parks the slot, and the
instruction issues again (R23, R28, R125). -/
def finishShort (d : Reg) (v : Word) (s : State) : State :=
  match s.writeDest s.cur 4 d v with
  | some s => s.advance
  | none => s.park s.cur (.push (d.toNat - 24))

/-- Can a destination be written now? -/
def State.destRoom (s : State) (p : Pos) (d : Reg) : Bool := (s.writeDest p 0 d 0).isSome

end Sys2Proof.Machine
end

