-- ==== Sys2Proof/Machine/Flags.lean ====
section
/-! DEFINITION. Exception flags, numerical-event counters, performance counters, and outstanding class L results
(03_encoding.md R83-R86, 04_number_formats.md R118-R124, 05_scalar_control_instructions.md R127, R143, 21_module.md R489). -/
namespace Sys2Proof.Machine

/-- What an instruction's meaning gives. -/
abbrev Out := Host.Outcome State Fault Refusal

/-- Add to a saturating 32-bit counter (R121). -/
def satAdd32 (v n : Nat) : Nat := min (2 ^ 32 - 1) (v + n)

/-- The count a selector of Table 4-12 takes from some events. -/
def Events.selected (e : Events) (sel : Nat) : Nat :=
  match sel with
  | 1 => e.nx | 2 => e.nv | 3 => e.dz | 4 => e.subIn | 5 => e.clamp | 6 => e.token | 7 => e.nanIn | _ => 0

/-- Add to XCNT5 to XCNT7: the low 28 bits count what the high 4 bits select (R122). -/
def selAdd (v : Nat) (e : Events) : Nat :=
  v / 2 ^ 28 * 2 ^ 28 + min (2 ^ 28 - 1) (v % 2 ^ 28 + e.selected (v / 2 ^ 28))

/-- note (R124): EXC gathers the flags, and the counters of R121 and R122 their events. -/
def Task.note (t : Task) (e : Events) : Task :=
  let t := t.setCr 0x20 (t.cr 0x20 ||| e.flags.toNat)
  let t := t.setCr 0x28 (satAdd32 (t.cr 0x28) e.nan)
  let t := t.setCr 0x29 (satAdd32 (t.cr 0x29) e.of)
  let t := t.setCr 0x2A (satAdd32 (t.cr 0x2A) e.uf)
  let t := t.setCr 0x2B (satAdd32 (t.cr 0x2B) e.flush)
  let t := t.setCr 0x2C (satAdd32 (t.cr 0x2C) e.corr)
  let t := t.setCr 0x2D (selAdd (t.cr 0x2D) e)
  let t := t.setCr 0x2E (selAdd (t.cr 0x2E) e)
  t.setCr 0x2F (selAdd (t.cr 0x2F) e)

/-- note for the task at a position; on a light slot the update is discarded (Table 16-2). -/
def State.noteAt (s : State) (p : Pos) (e : Events) : State :=
  if s.isLight p then s else s.modTask p fun t => t.note e

/-- note for a task wherever it is. -/
def State.noteTk (s : State) (t : Tk) (e : Events) : State :=
  if s.isAt t then s.noteAt t.pos e else s.onTask t fun t => t.note e

/-- The arithmetic-exception trap of an instruction at `pc` (Table 19-2). -/
def arithTrap (pc : Word) (deferred : Bool) : Trap := { cause := 3, sub := 0, val := pc.toNat, deferred := deferred }

/-- The end of a class S floating member: result, note, PC + 4, and the trap after it when a flag is enabled (R143). -/
def finishFloat (d : Reg) (v : Nat) (e : Events) (s : State) : State :=
  let pc := s.my.pc
  let xen := s.my.xen
  match s.writeDest s.cur 4 d (word v) with
  | none => s.park s.cur (.push (d.toNat - 24))
  | some s =>
    let s := (s.noteAt s.cur e).advance
    if e.flags &&& xen = 0 then s else s.trapAfter s.cur pc (arithTrap pc false)

-- class L

/-- Enter an outstanding result and go on at PC + 4 (R83). An instruction that an ERET runs has no window: the instruction at
TRAPPC waits for it (R167, R468). -/
def State.startLong (s : State) (o : Outst) : State :=
  let o := { o with pc := s.my.pc, xen := s.my.xen, left := if s.my.resume.isSome then 0 else o.left, resumed := s.my.resume.isSome }
  s.advance.setMy fun t => { t with outst := t.outst ++ [o] }

/-- Issue a class L instruction whose result is computed now and ready after `latency` cycles. -/
def issueLong (d : Reg) (la latency v : Nat) (e : Events) (s : State) : State :=
  let (id, s) := s.fresh
  let t := s.tk s.cur
  (s.startLong { id := id, pc := 0, dest := some d, left := la, value := v, events := e }).postAt (s.cycle + latency) s.cur
    .longResultReady (.longResultReady t id)

/-- Change one outstanding entry. -/
def Task.modOutst (t : Task) (id : Nat) (f : Outst → Outst) : Task :=
  { t with outst := t.outst.map fun o => if o.id = id then f o else o }

/-- Record a trap of an outstanding result, in program order among the recorded ones (R86): what an ERET ran is earlier than all
that are held (R167, R468). -/
def Task.addDeferred (t : Task) (o : Outst) (tr : Trap) : Task :=
  let x : PTrap := { trap := tr, due := false, id := o.id, inHandler := t.inTrap, pc := o.pc }
  { t with traps := if o.resumed then x :: t.traps else insertTrap x t.traps }

/-- A trap that waited for a result to settle is entered at the end of this cycle's events, behind a demand for pre-emption that
falls in it (R86, R464). -/
def State.boundary (s : State) (p : Pos) : State :=
  if (s.slot p).st == .ready && (s.task p).settled && ((s.task p).nextTrap.isSome || (s.task p).precise.isSome) then
    s.post s.cycle 25000 .deferredFaultTaken (.deferredFaultTaken p)
  else s

/-- Write an outstanding result, note its events and record its deferred fault; a full port makes it wait a cycle
(R85, R127). -/
def State.finishLong (s : State) (p : Pos) (id : Nat) : State :=
  match (s.task p).outst.find? (·.id == id) with
  | none => s
  | some o =>
    let written : Option State :=
      match o.fault, o.dest with
      | none, some d => s.writeDest p 0 d (word o.value)
      | _, _ => some s
    match written with
    | none => s.postAt (s.cycle + 1) p .longResultReady (.longResultReady (s.tk p) id)
    | some s =>
      let s := s.noteAt p o.events
      let s := s.modTask p fun t =>
        let t := t.modOutst id fun o => { o with doneAt := some s.cycle }
        let t := { t with pend := t.pend.map fun a =>
          if a.id = id && a.doneAt.isNone then { a with doneAt := some s.cycle } else a }
        let t := match o.tres with
          | some v => t.setCr 5 v
          | none => t
        match o.fault with
        | some tr => t.addDeferred o tr
        | none => if o.events.flags &&& o.xen = 0 then t else t.addDeferred o (arithTrap o.pc true)
      s.boundary p

/-- DEFERRED_FAULT_TAKEN (R85): the turn of the first instruction that waits for a result whose fault is recorded; the
earliest recorded fault is taken at that boundary (R86), once every earlier result is settled. The turn issues nothing and is idle
(R17). Or the end of the cycle in which the last result a due trap waited for settled. -/
def execDeferredFaultTaken (s : State) : Out :=
  match s.msg with
  | .deferredFaultTaken p => .next (s.takeTraps p)
  | _ =>
    let waited := (s.my.outst.filter (·.left == 0)).map (·.id)
    let s := s.setMy fun t =>
      { t with traps := t.traps.map fun x => if waited.contains x.id then { x with due := true } else x }
    .next (s.takeTraps s.cur).waitTurn

end Sys2Proof.Machine
end

