-- ==== Sys2Proof/Machine/Scalar.lean ====
section
/-! DEFINITION. Integer register instructions (05_scalar_control_instructions.md R129-R137). -/
namespace Sys2Proof.Machine

/-- A class S member of two sources (R129). -/
def alu2 (f : Word → Word → Word) (d a b : Reg) (s : State) : Out :=
  .next (with2 a b s fun x y s => finishShort d (f x y) s)

/-- A class S member of one source. -/
def alu1 (f : Word → Word) (d a : Reg) (s : State) : Out :=
  .next (with1 a s fun x s => finishShort d (f x) s)

/-- A class S member that reads d as its third source (R126). -/
def alu3 (f : Word → Word → Word → Word) (d a b : Reg) (s : State) : Out :=
  .next (with3 a b d s fun x y z s => finishShort d (f x y z) s)

/-- A truth value as a register value. -/
def flagWord (b : Bool) : Word := if b then 1 else 0

/-- A shift count: B[5:0]. -/
def shamt (b : Word) : Nat := b.toNat % 64

def execAdd (d a b : Reg) (s : State) : Out := alu2 (fun x y => x + y) d a b s
def execSub (d a b : Reg) (s : State) : Out := alu2 (fun x y => x - y) d a b s
def execAnd (d a b : Reg) (s : State) : Out := alu2 (fun x y => x &&& y) d a b s
def execOr (d a b : Reg) (s : State) : Out := alu2 (fun x y => x ||| y) d a b s
def execXor (d a b : Reg) (s : State) : Out := alu2 (fun x y => x ^^^ y) d a b s
def execAndn (d a b : Reg) (s : State) : Out := alu2 (fun x y => x &&& ~~~y) d a b s
def execSll (d a b : Reg) (s : State) : Out := alu2 (fun x y => x <<< shamt y) d a b s
def execSrl (d a b : Reg) (s : State) : Out := alu2 (fun x y => x >>> shamt y) d a b s
def execSra (d a b : Reg) (s : State) : Out := alu2 (fun x y => x.sshiftRight (shamt y)) d a b s
def execMin (d a b : Reg) (s : State) : Out := alu2 (fun x y => if x.slt y then x else y) d a b s
def execMax (d a b : Reg) (s : State) : Out := alu2 (fun x y => if x.slt y then y else x) d a b s
def execMinu (d a b : Reg) (s : State) : Out := alu2 (fun x y => if x.ult y then x else y) d a b s
def execMaxu (d a b : Reg) (s : State) : Out := alu2 (fun x y => if x.ult y then y else x) d a b s
def execSlt (d a b : Reg) (s : State) : Out := alu2 (fun x y => flagWord (x.slt y)) d a b s
def execSltu (d a b : Reg) (s : State) : Out := alu2 (fun x y => flagWord (x.ult y)) d a b s

/-- CMOV (R126, R129): d is written, or pushed, only when B is not zero. -/
def execCmov (d a b : Reg) (s : State) : Out :=
  .next (with2 a b s fun x y s => if y = 0 then s.advance else finishShort d x s)

/-- Leading zero bits of a 64-bit value. -/
def clz64 (x : Nat) : Nat := if x = 0 then 64 else 63 - Nat.log2 x

/-- Trailing zero bits among `n`. -/
def ctzFrom : Nat → Nat → Nat
  | 0, _ => 0
  | n + 1, x => if x % 2 = 1 then 0 else 1 + ctzFrom n (x / 2)

/-- A with byte k moved to byte 7 - k. -/
def byteSwap (x : Word) : Word := word (ofBytes (toBytes 8 x.toNat).reverse)

/-- The low `n` bits sign-extended to 64. -/
def signExt (n : Nat) (x : Word) : Word := (x.setWidth n).signExtend 64

/-- The low `n` bits zero-extended. -/
def zeroExt (n : Nat) (x : Word) : Word := (x.setWidth n).setWidth 64

def execClz (d a : Reg) (s : State) : Out := alu1 (fun x => word (clz64 x.toNat)) d a s
def execCtz (d a : Reg) (s : State) : Out := alu1 (fun x => word (ctzFrom 64 x.toNat)) d a s
def execPopc (d a : Reg) (s : State) : Out := alu1 (fun x => word (popCount 64 x.toNat)) d a s
def execBswap (d a : Reg) (s : State) : Out := alu1 byteSwap d a s
def execSextB (d a : Reg) (s : State) : Out := alu1 (signExt 8) d a s
def execSextH (d a : Reg) (s : State) : Out := alu1 (signExt 16) d a s
def execSextW (d a : Reg) (s : State) : Out := alu1 (signExt 32) d a s
def execZextB (d a : Reg) (s : State) : Out := alu1 (zeroExt 8) d a s
def execZextH (d a : Reg) (s : State) : Out := alu1 (zeroExt 16) d a s
def execZextW (d a : Reg) (s : State) : Out := alu1 (zeroExt 32) d a s

/-- An immediate sign-extended to 64 bits (R80). -/
def immExt (i : BitVec n) : Word := i.signExtend 64

def execAddi (d a : Reg) (i : BitVec 16) (s : State) : Out := alu1 (fun x => x + immExt i) d a s
def execAndi (d a : Reg) (i : BitVec 16) (s : State) : Out := alu1 (fun x => x &&& immExt i) d a s
def execOri (d a : Reg) (i : BitVec 16) (s : State) : Out := alu1 (fun x => x ||| immExt i) d a s
def execXori (d a : Reg) (i : BitVec 16) (s : State) : Out := alu1 (fun x => x ^^^ immExt i) d a s
def execSlti (d a : Reg) (i : BitVec 16) (s : State) : Out := alu1 (fun x => flagWord (x.slt (immExt i))) d a s
def execSltiu (d a : Reg) (i : BitVec 16) (s : State) : Out := alu1 (fun x => flagWord (x.ult (immExt i))) d a s

def execSlli (d a : Reg) (n : BitVec 6) (s : State) : Out := alu1 (fun x => x <<< n.toNat) d a s
def execSrli (d a : Reg) (n : BitVec 6) (s : State) : Out := alu1 (fun x => x >>> n.toNat) d a s
def execSrai (d a : Reg) (n : BitVec 6) (s : State) : Out := alu1 (fun x => x.sshiftRight n.toNat) d a s

/-- LUI (R132). -/
def execLui (d : Reg) (i : BitVec 21) (s : State) : Out := .next (finishShort d (immExt i * 65536) s)

/-- ADDPC (R132): relative to the instruction's own address. -/
def execAddpc (d : Reg) (i : BitVec 21) (s : State) : Out := .next (finishShort d (s.my.pc + immExt i * 65536) s)

/-- BFX (R133); `l` is len - 1. -/
def execBfx (d a : Reg) (p l : BitVec 6) (s : State) : Out :=
  alu1 (fun x => word (bits x.toNat p.toNat (l.toNat + 1))) d a s

/-- BFI (R134): D with a field replaced by the low bits of A. -/
def execBfi (d a : Reg) (p l : BitVec 6) (s : State) : Out :=
  .next (with2 a d s fun x y s => finishShort d (word (setBits y.toNat p.toNat (l.toNat + 1) x.toNat)) s)

/-- ADDX (R135). -/
def execAddx (d a : Reg) (k : BitVec 3) (b : Reg) (s : State) : Out := alu2 (fun x y => x + y <<< k.toNat) d a b s

def execMul (d a b : Reg) (s : State) : Out := alu2 (fun x y => x * y) d a b s
def execMulh (d a b : Reg) (s : State) : Out := alu2 (fun x y => wordI (x.toInt * y.toInt / (2 : Int) ^ 64)) d a b s
def execMulhu (d a b : Reg) (s : State) : Out := alu2 (fun x y => word (x.toNat * y.toNat / 2 ^ 64)) d a b s

/-- MADD (R126, R136). -/
def execMadd (d a b : Reg) (s : State) : Out := alu3 (fun x y z => z + x * y) d a b s

/-- DIV (R136, R137). -/
def divVal (x y : Word) : Word := if y = 0 then BitVec.allOnes 64 else wordI (Int.tdiv x.toInt y.toInt)
def divuVal (x y : Word) : Word := if y = 0 then BitVec.allOnes 64 else word (x.toNat / y.toNat)
def remVal (x y : Word) : Word := if y = 0 then x else wordI (Int.tmod x.toInt y.toInt)
def remuVal (x y : Word) : Word := if y = 0 then x else word (x.toNat % y.toNat)

/-- An integer division: class L, 40 cycles (Table 5-1). -/
def longDiv (f : Word → Word → Word) (d a b : Reg) (la : Nat) (s : State) : Out :=
  .next (with2 a b s fun x y s => issueLong d la 40 (f x y).toNat {} s)

def execDiv (d a b : Reg) (n : BitVec 4) (s : State) : Out := longDiv divVal d a b n.toNat s
def execDivu (d a b : Reg) (n : BitVec 4) (s : State) : Out := longDiv divuVal d a b n.toNat s
def execRem (d a b : Reg) (n : BitVec 4) (s : State) : Out := longDiv remVal d a b n.toNat s
def execRemu (d a b : Reg) (n : BitVec 4) (s : State) : Out := longDiv remuVal d a b n.toNat s

end Sys2Proof.Machine
end

