-- ==== Sys2Proof/Machine/Blocking.lean ====
section
/-! DEFINITION. How a class B instruction waits and completes (03_encoding.md R83, 08_memory_access.md R277, 15_waiting_and_barriers.md R382, R383). -/
namespace Sys2Proof.Machine

/-- A plain end that writes `v` to d. -/
def Finish.value_ (d : Reg) (v : Nat) : Finish := { dest := some d, value := v, trap := none, fault := none }

/-- An end without a result. -/
def Finish.plain : Finish := { dest := none, value := 0, trap := none, fault := none }

/-- Complete the instruction a parked position waits in: the result, PC + 4 and any trap after it; or a trap at PC with no
effect, taken once every earlier result is settled. None while a destination port is full. -/
def State.finishBlocking (s : State) (p : Pos) (f : Finish) : Option State :=
  match f.fault with
  | some tr => some (((s.unpark p).modTask p fun t => { t with precise := some tr }).takeTraps p)
  | none =>
    let written := match f.dest with
      | some d => s.writeDest p 0 d (word f.value)
      | none => some s
    written.map fun s =>
      let pc := (s.task p).pc
      let s := (s.asPos p State.advance).unpark p
      match f.trap with
      | some tr => s.trapAfter p pc tr
      | none => s

/-- Park in a class B instruction and let it complete in cycle `due`. -/
def State.block (s : State) (due : Nat) (f : Finish) : State :=
  let (id, s) := s.fresh
  (s.park s.cur (.blocking id)).postAt due s.cur .classBCompletion (.classBCompletion (s.tk s.cur) id f)

/-- Park in a class B instruction that something else will complete; the name it waits under. -/
def State.blockOpen (s : State) : Nat × State :=
  let (id, s) := s.fresh
  (id, s.park s.cur (.blocking id))

/-- Is the task waiting in its slot under this name? -/
def State.waitsFor (s : State) (t : Tk) (w : Wait) : Bool :=
  s.isAt t && (s.slot t.pos).st == .parked && (s.task t.pos).wait == some w

/-- The position where a wait stands. Its name is the wait's own, so that a task restored elsewhere is found (R383). -/
def State.waitPlace (s : State) (t : Tk) (w : Wait) : Option Pos :=
  if s.waitsFor t w then some t.pos
  else (s.slots.find? fun x => x.2.st == .parked && x.2.task.wait == some w).map (·.1)

/-- Complete a task saved while it waited (R383, R395, R306): the result is saved with its context, in its s register, or kept to be
written when the task is back where its destination is a g register or a queue port. -/
def State.finishSaved (s : State) (w : Wait) (f : Finish) : State :=
  let (id, s) := s.fresh
  { s with saved := s.saved.map fun x =>
    if x.task.wait == some w then
      if f.fault.isSome then { x with task := { x.task with wait := none, precise := f.fault } }
      else if f.dest.any fun d => decide (16 ≤ d.toNat) then { x with result := some f }
      else
        let tk := { x.task with wait := none, pc := x.task.resume.getD (x.task.pc + 4), resume := none, kept := x.task.kept.del x.task.keptKey }
        let tk := match f.dest with
          | some d => tk.setSreg d.toNat (word f.value)
          | none => tk
        let tk := match f.trap with
          | some tr => { tk with traps := insertTrap { trap := tr, due := true, id := id, inHandler := tk.inTrap, pc := x.task.pc } tk.traps }
          | none => tk
        { x with task := tk }
    else x }

/-- Complete a class B wait now; a full destination port makes it wait a cycle more. -/
def State.completeWait (s : State) (t : Tk) (id : Nat) (w : Wait) (f : Finish) : State :=
  match s.waitPlace t w with
  | some p =>
    match s.finishBlocking p f with
    | some s => s
    | none => s.postAt (s.cycle + 1) p .classBCompletion (.classBCompletion (s.tk p) id f)
  | none => s.finishSaved w f

/-- The name of a wait that goes on in the context store (Table 15-1). -/
def Wait.name : Wait → Nat
  | .barrier id | .coll id | .reconfig id | .blocking id => id
  | _ => 0

/-- The wait an instruction's name stands for: a class B member, a full/empty member or a reservation. -/
def Task.waitOf (t : Task) (id : Nat) : Wait :=
  match t.wait with
  | some (.fullEmpty i) => if i = id then .fullEmpty id else .blocking id
  | some (.grant i) => if i = id then .grant id else .blocking id
  | some (.monitor i) => if i = id then .monitor id else .blocking id
  | some (.coll i) => if i = id then .coll id else .blocking id
  | some (.barrier i) => if i = id then .barrier id else .blocking id
  | some (.mailbox i) => if i = id then .mailbox id else .blocking id
  | some (.reconfig i) => if i = id then .reconfig id else .blocking id
  | _ => .blocking id

end Sys2Proof.Machine
end

