-- ==== Sys2Proof/Machine/Home.lean ====
section
/-! DEFINITION. Homes of physical addresses, the home buffer, bytes and poison at home, and monitors
(09_virtual_caches.md R292, R495, 12_fences_and_home_slices.md R335, 18_translation_and_isolation.md R439, R440, 08_memory_access.md R274). -/
namespace Sys2Proof.Machine

/-- Locations from here are scratchpad banks (the model's numbering; State.lean). -/
def scratchBase : Nat := 2 ^ 52

/-- The location of byte `off` of bank page `page` of a core. -/
def scratchLoc (core page off : Nat) : Nat := scratchBase + core * 0x300000 + page * 4096 + off

/-- Is a physical address in stacked memory, or in the pool window (Table 18-1)? -/
def isStacked (pa : Nat) : Bool := pa < 2 ^ 39
def isPool (pa : Nat) : Bool := 2 ^ 46 ≤ pa && pa < 2 ^ 47
def isMappable (pa : Nat) : Bool := isStacked pa || isPool pa

/-- The partition whose pool range holds an address, 0 where there is one partition (R496). -/
def State.poolPart (s : State) (pa : Nat) : Nat :=
  ((s.module_.pools.find? fun x => x.2.1 ≤ pa && pa < x.2.2).map (·.1)).getD 0

/-- Home die of a physical address (Table 9-4, R440). -/
def State.homeDie (s : State) (pa : Nat) : Nat :=
  if isStacked pa then bits pa 37 2
  else
    let h := Nat.xor (bits pa 9 2) (bits pa 11 2)
    let n := 4 / s.module_.parts
    s.poolPart pa * n + h % n

/-- Home slice of a physical address within its die (Table 9-4). -/
def homeSlice (pa : Nat) : Nat := Nat.xor (bits pa 9 5) (Nat.xor (bits pa 14 5) (bits pa 19 5))

/-- Module number of a home slice: die * 32 + slice. -/
def State.homeOf (s : State) (pa : Nat) : Nat := s.homeDie pa * 32 + homeSlice pa

/-- The own core of a home slice (R335). -/
def sliceCore (h : Nat) : Nat := coreOf (h / 32) (2 * (h % 8)) (4 * (h % 32 / 8))

/-- The tier latency of a line not held at home (Table 1-11). -/
def tierLatency (pa : Nat) : Nat := if isStacked pa then 200 else 1000

/-- Extra cycles of an access from a core to another die (Table 13-1). -/
def State.crossing (s : State) (core pa : Nat) : Nat := if coreDie core = s.homeDie pa then 0 else 80

-- the home buffer (R495)

/-- The home buffer set of a line: 256 sets of 16 per slice. -/
def State.bufKey (s : State) (line : Nat) : Nat := s.homeOf (line * 128) * 256 + line % 256

def State.bufHeld (s : State) (line : Nat) : Bool := (s.mem.buffer.get [] (s.bufKey line)).contains line

/-- A line enters, or is used in, its home buffer. What it displaces writes its dirty bytes to its tier. -/
def State.bufTouch (s : State) (line : Nat) : State :=
  let l := line :: (s.mem.buffer.get [] (s.bufKey line)).erase line
  let s := s.modMem fun m => { m with buffer := m.buffer.put (s.bufKey line) (l.take 16) }
  (l.drop 16).foldl (fun s k =>
    if !s.mem.bufDirty.contains k then s
    else (s.modMem fun m => { m with bufDirty := m.bufDirty.erase k }).post s.cycle tieHub .homeBufferFill (.tierWrite k)) s

/-- A line is fetched from its tier: an uncorrectable error there poisons it at home, with its record (R476, R477). -/
def State.fetchErr (s : State) (line : Nat) : State :=
  if !s.mem.tierErr.contains line then s
  else (s.errorEvent (sliceCore (s.homeOf (line * 128))) { cycle := 0, code := 0x10, sev := 1, addr := line * 128 }).modMem fun m =>
    { m with tierErr := m.tierErr.erase line, poison := line :: m.poison.erase line }

/-- A read served at home: the cycle at which its bytes leave the slice, `now` where the line is held; a line that is not
held is fetched from its tier. -/
def State.homeRead (s : State) (line : Nat) : Nat × State :=
  let held := s.bufHeld line
  let ready := max s.cycle (s.mem.bufFills.get 0 line)
  if held then (ready, s.bufTouch line)
  else
    let due := s.cycle + (tierLatency (line * 128) - 60)
    let s := (s.fetchErr line).bufTouch line
    let s := s.modMem fun m => { m with bufFills := m.bufFills.put line due }
    (due, s.post due tieHub .homeBufferFill (.homeBufferFill line))

/-- A line enters its home buffer by a write: its other bytes, if any, come from its tier, which reads wait for and writes do
not (R495). -/
def State.bufWrite (s : State) (line : Nat) (whole : Bool) : State :=
  let s := if whole || s.bufHeld line then s.bufTouch line else (s.homeRead line).2
  if s.mem.bufDirty.contains line then s else s.modMem fun m => { m with bufDirty := line :: m.bufDirty }

/-- The latency of a read that home supplies, on one die: what is left of a fill under way is waited for (R495, Table 1-11). -/
def State.homeLatency (s : State) (line : Nat) : Nat :=
  if s.bufHeld line then 60 + (s.mem.bufFills.get 0 line - (s.cycle + 30)) else tierLatency (line * 128)

/-- The next sequence tag of a line (R337). -/
def State.nextTag (s : State) (line : Nat) : State :=
  s.modMem fun m =>
    let n := if m.restart.contains line then 0 else m.seqs.get 0 line
    { m with seqs := m.seqs.put line ((n + 1) % 65536), restart := m.restart.erase line }

-- bytes at their ordering point

/-- The `n` bytes at a location. -/
def State.bytesAt (s : State) (loc n : Nat) : Nat := ofBytes (s.mem.bytes.bytes loc n)

/-- Is a location homed on a lost die, whose reads and writes the responders answer (R479)? -/
def State.homeLost (s : State) (loc : Nat) : Bool :=
  !s.module_.lostDies.isEmpty && decide (loc < scratchBase) && s.module_.lostDies.contains (s.homeDie loc)

/-- The die from which what is being done reaches a home: that of the task, dealer, partner or vcache it is for, else the hub's, 4. -/
def State.writerDie (s : State) : Nat :=
  match s.msg with
  | .none => coreDie (posCore s.cur)
  | .copyLine c _ | .dealerRead c | .dealerWait c | .matrixOpStart c | .matrixBlock c | .matrixPhase c => coreDie c
  | .filterEvict k _ => k / 32
  | .writeBackArrival sp vc k _ _ _ _ _ _ => match (s.spaces.get {} sp).vcs.look vc with
    | some d => if d.place = 0 then coreDie k else if d.place = 1 then k / 32 else if d.place = 2 then k else d.die
    | none => 4
  | m => match m.actor? with
    | some t => coreDie (posCore t.pos)
    | none => 4

/-- The responder of the writer's die discards a write to a lost die and logs its region: 65 536 of them, and one more for an overflow
(R479). Its log has the key 8 * lost die + responder. -/
def State.logLost (s : State) (loc : Nat) : State :=
  let d := 8 * s.homeDie loc + s.writerDie
  let l := s.module_.logs.get [] d
  if l.contains (loc / 512) || 65536 < l.length then s
  else { s with module_ := { s.module_ with logs := s.module_.logs.put d (l ++ [loc / 512]) } }


/-- Is a line poisoned where it stands (R476), or answered as poisoned by a responder (R479)? -/
def State.linePoisoned (s : State) (line : Nat) : Bool :=
  s.mem.poison.contains line || (s.mem.tierErr.contains line && !s.bufHeld line) || s.homeLost (line * 128) ||
    (!s.mem.poisonDies.isEmpty && decide (line * 128 < scratchBase) && (match s.mem.poisonDies.look (s.homeDie (line * 128)) with
      | some l => !l.contains line
      | none => false))

/-- A line is about to be written at home: what its tier keeps of it stays there until the home buffer displaces it (R495). -/
def State.keepTier (s : State) (line : Nat) : State :=
  if scratchBase ≤ line * 128 || s.mem.bufDirty.contains line then s
  else s.modMem fun m => { m with tier := m.tier.put line (BitVec.ofNat 1024 (s.bytesAt (line * 128) 128), s.linePoisoned line) }

/-- Write some of the `n` bytes at a location, through the responder of a lost die. -/
def State.putCells (s : State) (loc n : Nat) (f : Memory → Memory) : State :=
  if s.homeLost loc then s.logLost loc
  else
    let s := (List.range ((loc + n - 1) / 128 + 1 - loc / 128)).foldl (fun s k => s.keepTier (loc / 128 + k)) s
    s.modMem fun m => { m with bytes := f m.bytes }

/-- Write `n` bytes at a location. -/
def State.putBytesAt (s : State) (loc n v : Nat) : State := s.putCells loc n fun m => m.putBytes loc (toBytes n v)

/-- Is the 128-byte line of a location poisoned? -/
def State.poisoned (s : State) (loc : Nat) : Bool := s.linePoisoned (loc / 128)

/-- Mark a line poisoned, or clean. -/
def State.setPoison (s : State) (line : Nat) (b : Bool) : State :=
  if s.homeLost (line * 128) then s
  else
    let dies := s.mem.poisonDies
    let dies := if b || dies.isEmpty || scratchBase ≤ line * 128 then dies
      else match dies.look (s.homeDie (line * 128)) with
        | some l => if l.contains line then dies else dies.put (s.homeDie (line * 128)) (line :: l)
        | none => dies
    s.modMem fun m =>
      { m with poisonDies := dies,
               poison := if b then (if m.poison.contains line then m.poison else line :: m.poison) else m.poison.erase line }

/-- Is some line of a range poisoned? -/
def State.rangePoisoned (s : State) (loc n : Nat) : Bool :=
  (List.range ((loc + n - 1) / 128 + 1 - loc / 128)).any fun k => s.linePoisoned (loc / 128 + k)

/-- A write at home of a line of the queue table wakes the scheduler for the queues whose descriptors it holds, as a write wakes
a monitor (R358, R359). -/
def State.notify (s : State) (loc : Nat) : State :=
  let l := loc / 128 * 128
  s.hub.queueBase.foldl (fun s (part, base) => [l, l + 64].foldl (fun s a =>
    if base ≤ a && a < base + 65536 * 64 then
      s.postHub (s.cycle + 100 + 2 * portHops (sliceCore (s.homeOf a)) 3) .notifyWord (.notifyWord (part * 65536 + (a - base) / 64))
    else s) s) s

/-- A write reaches a line at its ordering point, in this cycle or `late` cycles on: monitors on it reread their word (R274). -/
def State.wakeMonitors (s : State) (loc : Nat) (late : Nat := 0) : State :=
  (s.mem.monitors.filter (·.loc / 128 == loc / 128)).foldl
    (fun s m => s.post (s.cycle + late) 0 .monitorWake (.monitorWake m.t m.id m.loc)) (s.notify loc)

/-- The bits of the bytes that a byte mask names. -/
def byteMask (m : BitVec 128) : BitVec 1024 :=
  (List.range 128).foldl (fun a i => if m.getLsbD i then a ||| (0xFF#1024 <<< (8 * i)) else a) 0

/-- `new` where the mask says so, `old` elsewhere. -/
def mergeData (old new : BitVec 1024) (m : BitVec 128) : BitVec 1024 :=
  let k := byteMask m
  (old &&& ~~~k) ||| (new &&& k)

/-- The mask of `n` bytes from `off`. -/
def maskOf (off n : Nat) : BitVec 128 := BitVec.ofNat 128 ((2 ^ n - 1) * 2 ^ off)

/-- A line as it stands at home. -/
def State.homeLine (s : State) (line : Nat) : BitVec 1024 := BitVec.ofNat 1024 (s.bytesAt (line * 128) 128)

/-- Home merges exactly the masked bytes of a line (R292); poison travels with them (R291). -/
def State.mergeHome (s : State) (line : Nat) (mask : BitVec 128) (data : BitVec 1024) (poison : Bool) : State :=
  if mask = 0 then s else
  let cells := (toBytes 128 data.toNat).zip (toBits 128 mask.toNat)
  let s := s.putCells (line * 128) 128 fun m => m.putMasked (line * 128) cells
  -- a whole-line write leaves the line as clean as its bytes; a partial one never cleans it (R476)
  let s := if mask = ~~~0 then s.setPoison line poison else if poison then s.setPoison line true else s
  (s.bufWrite line (mask == ~~~0)).wakeMonitors (line * 128)

end Sys2Proof.Machine
end

