-- ==== Sys2Proof/Machine/Chain.lean ====
section
/-! DEFINITION. Vcache instances, chains and what moves through them (09_virtual_caches.md R282-R295). -/
namespace Sys2Proof.Machine

/-- A core of module cluster `k`. -/
def clusterBase (k : Nat) : Nat := coreOf (k / 32) (2 * (k % 8)) (4 * (k % 32 / 8))

/-- An instance of a vcache of a space: for placement 0 its core, for 1 its cluster, for 2 its die, for 3 zero. -/
structure Inst where
  space : Nat
  vc    : Nat
  idx   : Nat
  df    : VcDef
  deriving DecidableEq, Repr

/-- The set of a line (R282). -/
def Inst.set (i : Inst) (line : Nat) : Nat := line % 2 ^ i.df.log2s

/-- The key of an instance's set. -/
def Inst.setKey (i : Inst) (set : Nat) : Nat := ((i.space * 64 + i.vc) * 1024 + i.idx) * 65536 + set

def Inst.key (i : Inst) (line : Nat) : Nat := i.setKey (i.set line)

/-- The core that holds set `k` of an instance (Table 9-3). -/
def Inst.setCore (i : Inst) (k : Nat) : Nat :=
  if i.df.place = 0 then i.idx
  else if i.df.place = 1 then clusterCore (clusterBase i.idx) (k % 8)
  else if i.df.place = 2 then i.idx * 256 + k % 256
  else
    let n := k % ((i.df.w + 1) * (i.df.h + 1))
    coreOf i.df.die (i.df.x0 + n % (i.df.w + 1)) (i.df.y0 + n / (i.df.w + 1))

/-- The core that holds a line's set. -/
def Inst.lineCore (i : Inst) (line : Nat) : Nat := i.setCore (i.set line)

/-- A core that an instance serves; its parent's instance serves the same core (R284). -/
def Inst.aCore (i : Inst) : Nat :=
  if i.df.place = 0 then i.idx else if i.df.place = 1 then clusterBase i.idx
  else if i.df.place = 2 then i.idx * 256 else coreOf i.df.die i.df.x0 i.df.y0

/-- Hit latency from a core (Table 9-3). -/
def Inst.latency (i : Inst) (core line : Nat) : Nat :=
  if i.df.place = 0 then 14 else if i.df.place = 1 then 24
  else if i.df.place = 2 then 30 + 4 * routeHops core (i.lineCore line)
  else 30 + 4 * routeHops core (i.lineCore line) + (if coreDie core = coreDie (i.lineCore line) then 0 else 160)

/-- Travel of a request to the core that holds a set (R288). -/
def setTravel (from_ to_ : Nat) : Nat :=
  if from_ = to_ then 2 else if clusterNo from_ = clusterNo to_ then 7
  else if coreDie from_ = coreDie to_ then 10 + 2 * hops from_ to_ else 90 + 2 * routeHops from_ to_

/-- Does a domain meet a die? -/
def domainMeets (dom : List Nat) (die : Nat) : Bool := dom.any (· / 32 == die)

/-- The instance of a vcache that serves a core, if any (R280, Table 9-3). -/
def Space.instOf (sp : Space) (n vc core : Nat) : Option Inst :=
  match sp.vcs.look vc with
  | none => none
  | some d =>
    let inDom := sp.domain.contains (clusterNo core)
    if d.place = 0 then if inDom then some ⟨n, vc, core, d⟩ else none
    else if d.place = 1 then if inDom then some ⟨n, vc, clusterNo core, d⟩ else none
    else if d.place = 2 then if domainMeets sp.domain (coreDie core) then some ⟨n, vc, coreDie core, d⟩ else none
    else if inDom then some ⟨n, vc, 0, d⟩ else none

/-- The chain from a vcache for a core, lowest first, at most `fuel` instances (R284). -/
def Space.chain (sp : Space) (n core : Nat) : Nat → Nat → List Inst
  | 0, _ => []
  | fuel + 1, vc =>
    match sp.instOf n vc core with
    | none => []
    | some i => i :: (if i.df.parent < 64 then Space.chain sp n core fuel i.df.parent else [])

/-- The chain of instances for a core of a space from first vcache `vc`. -/
def State.chain (s : State) (n core vc : Nat) : List Inst := (s.space n).chain n core 8 vc

/-- The instances of a space that serve a core. -/
def State.serving (s : State) (n core : Nat) : List Inst :=
  (s.space n).vcs.filterMap fun x => (s.space n).instOf n x.1 core

/-- The instances above an instance. -/
def State.above (s : State) (i : Inst) : List Inst :=
  if i.df.parent < 64 then (s.space i.space).chain i.space i.aCore 7 i.df.parent else []

/-- Every instance of a vcache. -/
def Space.instances (sp : Space) (n vc : Nat) : List Inst :=
  match sp.vcs.look vc with
  | none => []
  | some d =>
    if d.place = 0 then sp.domain.flatMap fun k => (List.range 8).map fun j => ⟨n, vc, clusterCore (clusterBase k) j, d⟩
    else if d.place = 1 then sp.domain.map fun k => ⟨n, vc, k, d⟩
    else if d.place = 2 then ((List.range 4).filter (domainMeets sp.domain ·)).map fun k => ⟨n, vc, k, d⟩
    else [⟨n, vc, 0, d⟩]

-- sets and lines

def State.vset (s : State) (i : Inst) (line : Nat) : List VLine := s.mem.vsets.get [] (i.key line)

def State.setVset (s : State) (i : Inst) (line : Nat) (l : List VLine) : State :=
  s.modMem fun m => { m with vsets := if l.isEmpty then m.vsets.del (i.key line) else m.vsets.put (i.key line) l }

/-- A line present in an instance (R286). -/
def State.vline (s : State) (i : Inst) (line : Nat) : Option VLine := (s.vset i line).find? (·.line == line)

/-- Put a line as the most recently used of its set: touch (R287). -/
def State.putVline (s : State) (i : Inst) (x : VLine) : State :=
  s.setVset i x.line (x :: (s.vset i x.line).filter (·.line != x.line))

/-- Change a line in place. -/
def State.modVline (s : State) (i : Inst) (line : Nat) (f : VLine → VLine) : State :=
  s.setVset i line ((s.vset i line).map fun x => if x.line = line then f x else x)

/-- The instance whose set has a key. -/
def State.keyInst (s : State) (k : Nat) : Option Inst :=
  ((s.space (k / 65536 / 1024 / 64)).vcs.look (k / 65536 / 1024 % 64)).map fun d =>
    ⟨k / 65536 / 1024 / 64, k / 65536 / 1024 % 64, k / 65536 % 1024, d⟩

/-- Every instance that holds a line, found by its sets: what the vectors of the line's directory entry and filters name (R293). -/
def State.holders (s : State) (line : Nat) : List Inst :=
  s.mem.vsets.filterMap fun (k, l) => if l.any (·.line == line) then s.keyInst k else none

/-- Mark fills under way whose line is removed meanwhile: what they bring is not installed. -/
def State.staleFills (s : State) (p : Fill → Bool) : State :=
  s.modMem fun m => { m with fills := m.fills.map fun f => if p f then { f with stale := true } else f }

-- directory and filters (R293)

/-- Directory set of a region: 1024 sets of 8 per slice, by region number (log entry 23). -/
def State.dirKey (s : State) (region : Nat) : Nat := s.homeOf (region * 512) * 1024 + region % 1024

/-- The budgets that bytes between a core and an address's home draw on (R371): 1 link bytes, 2 stacked-memory bytes. -/
def State.homeKinds (s : State) (core pa : Nat) : List Nat :=
  (if isStacked pa then [2] else []) ++ (if s.crossing core pa = 0 then [] else [1])

/-- The core and budget class of the task or copy that what is being done is for, if it is for one (R371). -/
def State.actor (s : State) : Option (Nat × Nat) :=
  match s.msg with
  | .none => some (posCore s.cur, s.my.budget)
  | .copyLine c k => (s.hub.copies.look k).map fun x => (c, x.budget)
  | .dealerRead c | .dealerWait c => (s.core c).dealer.busy.map fun a => (c, a.budget)
  | m => match m.actor? with
    | some t => (s.findTask t).map fun x => (posCore t.pos, x.budget)
    | none => none

/-- Bytes begin to move between a core and a line's home (R371). -/
def State.chargeHome (s : State) (core line n : Nat) : State :=
  if s.hub.budgets.isEmpty then s
  else match s.actor with
    | some (c, cls) => (s.homeKinds core (line * 128)).foldl (fun s k => s.charge (s.diePart (coreDie c)) cls k n) s
    | none => s

/-- Must bytes between a core and a line's home wait for the next budget period (R371)? -/
def State.homeOver (s : State) (core line : Nat) : Bool :=
  !s.hub.budgets.isEmpty && s.actor.any fun (c, cls) =>
    (s.homeKinds core (line * 128)).any fun k => s.overBudget (s.diePart (coreDie c)) cls k

/-- The bytes of a mask. -/
def maskBytes (m : BitVec 128) : Nat := (onesOf 128 m.toNat).length

/-- The filter set of a line in its cluster: 512 sets of 8. -/
def filterKey (i : Inst) (line : Nat) : Nat := clusterNo i.idx * 512 + line % 512

/-- A probe's time (R294). -/
def probeCost (lines : Nat) : Nat := if lines = 0 then 0 else 60 + 2 * lines

/-- The lines of a region that vcaches hold, counted by instance. -/
def State.regionLines (s : State) (region : Nat) : Nat :=
  (s.mem.vsets.map fun x => (x.2.filter fun y => y.line / 4 == region).length).foldl (· + ·) 0

/-- An instance has dropped a line: a directory entry or filter entry that names nobody any more is freed (R293). -/
def State.untrack (s : State) (i : Inst) (line : Nat) : State :=
  let region := line / 4
  let s := if 0 < s.regionLines region then s
    else s.modMem fun m => { m with dirents := m.dirents.upd [] (s.dirKey region) (·.erase region) }
  if i.df.place ≠ 0 || ((s.holders line).any fun j => j.df.place == 0 && clusterNo j.idx == clusterNo i.idx) then s
  else s.modMem fun m => { m with filters := m.filters.upd [] (filterKey i line) (·.erase line) }

/-- What follows the removal of a line from an instance: a fill of it that is under way there is stale, and nothing tracks it. -/
def State.lineGone (s : State) (i : Inst) (line : Nat) : State :=
  (s.staleFills fun f => f.set == i.key line && f.line == line).untrack i line

/-- Remove a line from an instance, for whatever reason. -/
def State.dropVline (s : State) (i : Inst) (line : Nat) : State :=
  (s.setVset i line ((s.vset i line).filter (·.line != line))).lineGone i line

/-- An instance comes to hold a line: its region's directory entry and, for a core-local instance, its cluster's filter entry
are the most recent. What they displace is recalled, by a probe that takes its time (R294). Where the region's entry is new, its
lines' sequence counters start again with their next posted write (R337). -/
def State.track (s : State) (i : Inst) (line : Nat) : State :=
  let region := line / 4
  let old := s.mem.dirents.get [] (s.dirKey region)
  let new := region :: old.erase region
  let s := if old.contains region then s else
    s.modMem fun m => { m with restart := (m.seqs.filterMap fun x => if x.1 / 4 = region then some x.1 else none) ++ m.restart.filter fun l => l / 4 != region }
  let s := s.modMem fun m => { m with dirents := m.dirents.put (s.dirKey region) (new.take 8) }
  let s := (new.drop 8).foldl (fun s r =>
    (s.tally 2 (s.homeOf (r * 512)) 1).post (s.cycle + probeCost (s.regionLines r)) 0 .homeProbe (.directoryRecall r)) s
  if i.df.place ≠ 0 then s else
  let k := filterKey i line
  let new := line :: (s.mem.filters.get [] k).erase line
  let s := s.modMem fun m => { m with filters := m.filters.put k (new.take 8) }
  (new.drop 8).foldl (fun s l => s.post s.cycle 0 .homeProbe (.filterEvict (clusterNo i.idx) l)) s

/-- A dirty line found uncorrectable as it leaves an instance goes up poisoned, with an orphan record (R291, Table 20-3). -/
def State.orphan (s : State) (i : Inst) (x : VLine) : State :=
  if x.err && x.dirty ≠ 0 then
    s.errorEvent (i.lineCore x.line) { cycle := 0, code := 0x11, sev := 1, addr := x.line * 128, space := i.space, world := x.world, detail := 1 }
  else s

/-- A dirty line leaves an instance for its parent, or home past the last level, and travels there (R288). -/
def State.sendBack (s : State) (i : Inst) (up : List Inst) (x : VLine) : State :=
  let from_ := i.lineCore x.line
  let m : Msg := .writeBackArrival i.space i.vc i.idx x.line x.dirty x.data x.poison x.tensor x.world
  match up with
  | j :: _ => s.post (s.cycle + setTravel from_ (j.lineCore x.line)) (tieAt (j.lineCore x.line) (mkPos from_ 0)) .vcacheAccessArrival m
  | [] =>
    (s.chargeHome from_ x.line (maskBytes x.dirty)).post (s.cycle + 30 + s.crossing from_ (x.line * 128)) (tieAt (sliceCore (s.homeOf (x.line * 128))) (mkPos from_ 0)) .homeSliceRequestArrival m

/-- make_room (R287): a dirty victim is written back to the parent. An uncorrectable error found here makes the line go up
poisoned (R291). -/
def State.makeRoom (s : State) (i : Inst) (up : List Inst) (line : Nat) : State :=
  let l := s.vset i line
  if l.length < 4 then s
  else match l.getLast? with
    | none => s
    | some x =>
      let s := if x.dirty ≠ 0 then (s.orphan i x).sendBack i up { x with poison := x.poison || x.err } else s
      s.dropVline i x.line

/-- Does a fenced cordon hold a line's set? It counts as empty, and accesses pass to the parent (R475). -/
def State.setFenced (s : State) (i : Inst) (line : Nat) : Bool := (s.core (i.lineCore line)).fenced

/-- write_back (R287): merge the dirty bytes of `x` into the lowest instance of a chain, or home. -/
def writeBack : List Inst → VLine → State → State
  | [], x, s => s.mergeHome x.line x.dirty x.data x.poison
  | i :: up, x, s =>
    if s.setFenced i x.line then writeBack up x s else
    match s.vline i x.line with
    | some y => s.putVline i
        { y with valid := y.valid ||| x.dirty, dirty := y.dirty ||| x.dirty, data := mergeData y.data x.data x.dirty,
                 poison := (y.poison && x.dirty != ~~~0) || x.poison }
    | none =>
      let s := s.makeRoom i up x.line
      (s.putVline i { x with valid := x.dirty, err := false }).track i x.line

/-- A write-back arrives at the parent, as its chain stands now. -/
def State.backArrives (s : State) (m : Msg) : State :=
  match m with
  | .writeBackArrival space vc idx line mask data poison tensor world =>
    let x : VLine := { line := line, valid := mask, dirty := mask, data := data, poison := poison, tensor := tensor, world := world }
    let up := match (s.space space).vcs.look vc with
      | some d => s.above ⟨space, vc, idx, d⟩
      | none => []
    writeBack up x s
  | _ => s

/-- Does a transaction park write-backs into this instance (R300 step 1)? A region move meets only accesses of its region. -/
def State.frozenBack (s : State) (i : Inst) : Bool :=
  let sp := s.space i.space
  sp.frozen.contains i.vc && sp.frozenRegion.isNone

/-- Does a transaction park the write-backs of an instance? -/
def State.backFrozen (s : State) (space vc idx : Nat) : Bool :=
  match (s.space space).vcs.look vc with
  | some d => (s.above ⟨space, vc, idx, d⟩).head?.any s.frozenBack
  | none => false

/-- Is a write-back of a line parked by a transaction? -/
def State.backParked (s : State) (p : Nat → Nat → Bool) : Bool :=
  s.agenda.any fun x => match x.msg with
    | .writeBackArrival space vc idx line _ _ _ _ _ => p space line && s.backFrozen space vc idx
    | _ => false

/-- Apply the write-backs on their way that `p` names by space, vcache, instance and line, but for those that a transaction parks: they
come before any later request of their instance for their line (R288), and before what must find every byte in its place. -/
def State.flushBacks (s : State) (p : Nat → Nat → Nat → Nat → Bool) : State :=
  let mine (x : Pending) : Bool := match x.msg with
    | .writeBackArrival space vc idx line _ _ _ _ _ => p space vc idx line && !s.backFrozen space vc idx
    | _ => false
  let l := s.agenda.filter mine
  if l.isEmpty then s
  else l.foldl (fun s x => s.backArrives x.msg) { s with agenda := s.agenda.filter fun x => !mine x }

/-- Apply the write-backs of a line that are on their way. -/
def State.flushLine (s : State) (line : Nat) : State := s.flushBacks fun _ _ _ l => l == line

/-- Apply those of a space. -/
def State.flushSpace (s : State) (space : Nat) : State := s.flushBacks fun n _ _ _ => n == space

/-- Allocate a line without bytes at the head of a chain. -/
def State.allocate (s : State) (i : Inst) (up : List Inst) (line tensor : Nat) (world : Bool) : State :=
  match s.vline i line with
  | some _ => s
  | none => ((s.makeRoom i up line).putVline i { line := line, tensor := tensor, world := world }).track i line

/-- store_line (R287) at the head of a chain; at home a merge. -/
def storeLine (c : List Inst) (line : Nat) (mask : BitVec 128) (data : BitVec 1024) (tensor : Nat) (world : Bool)
    (s : State) : State :=
  match c with
  | [] => (s.chargeHome ((s.actor.map (·.1)).getD 0) line (maskBytes mask)).mergeHome line mask data false
  | i :: up =>
    if s.setFenced i line then storeLine up line mask data tensor world s else
    let s := s.allocate i up line tensor world
    match s.vline i line with
    | none => s
    | some y => s.putVline i { y with valid := y.valid ||| mask, dirty := y.dirty ||| mask, data := mergeData y.data data mask,
                                      poison := y.poison && mask != ~~~0 }

/-- Place a line's bytes that an instance does not hold yet; the line is whole then (R287). -/
def State.fillLine (s : State) (i : Inst) (up : List Inst) (line tensor : Nat) (world : Bool) (data : BitVec 1024)
    (poison : Bool) : State :=
  let s := s.allocate i up line tensor world
  match s.vline i line with
  | none => s
  | some y => s.putVline i { y with valid := ~~~0, data := mergeData data y.data y.valid, poison := y.poison || poison }

/-- The other lines of a region that a root vcache of parent code 65 takes with one of them (R285). -/
def State.fillRegion (s : State) (i : Inst) (line tensor : Nat) (world : Bool) : State :=
  if i.df.parent ≠ 65 then s else
  (List.range 4).foldl (fun s k =>
    let l := line / 4 * 4 + k
    if l = line then s else (s.fillLine i [] l tensor world (s.homeLine l) (s.linePoisoned l)).homeRead l |>.2) s

/-- An access of core `core`, slot `slot`, meets an uncorrectable line (R291, R481): a clean line is removed, to be fetched again; a
dirty one is written up poisoned, and the error is uncontained (Table 20-3). -/
def State.meetErr (s : State) (i : Inst) (up : List Inst) (y : VLine) (core slot : Nat) : State :=
  if y.dirty ≠ 0 then
    ((writeBack up { y with poison := true } s).dropVline i y.line).post s.cycle 0 .reset (.uncontained core (y.line * 128) 0x20 slot)
  else
    (s.errorEvent (i.lineCore y.line) { cycle := 0, code := 0x02, sev := 0, addr := y.line * 128, space := i.space, world := y.world }).dropVline i y.line

/-- read_line (R287) as one step, for core `core`: the whole line with its poison, and the level that supplied the bytes (0 the
head, the chain's length home). -/
def readLine (core : Nat) : List Inst → Nat → BitVec 128 → Nat → Bool → State → (BitVec 1024 × Bool × Nat) × State
  | [], line, _, _, _, s => let s := (s.flushLine line).chargeHome core line 128; ((s.homeLine line, s.linePoisoned line, 0), (s.homeRead line).2)
  | i :: up, line, mask, tensor, world, s =>
    if s.setFenced i line then
      let ((d, p, n), s) := readLine core up line mask tensor world s
      ((d, p, n + 1), s)
    else
    let s := s.flushLine line
    let s := match s.vline i line with
      | some y => if y.err then s.meetErr i up y core (mkPos core 0) else s
      | none => s
    let hit := match s.vline i line with | some y => y.valid &&& mask == mask | none => false
    if hit then
      match s.vline i line with
      | some y => ((y.data, y.poison, 0), s.putVline i y)
      | none => ((0, false, 0), s)
    else
      let need := match s.vline i line with | some y => ~~~y.valid | none => ~~~0
      let s := s.allocate i up line tensor world
      let ((d, p, n), s) := readLine core up line need tensor world s
      let s := s.fillLine i up line tensor world d p
      let s := if up.isEmpty then s.fillRegion i line tensor world else s
      let y := (s.vline i line).getD { line := line }
      ((y.data, y.poison, n + 1), s)

-- transactions that hold accesses up (R300 step 1, R304), and fills that do (R316)

/-- Does a transaction of the space park accesses whose next level is this instance? -/
def State.frozenFor (s : State) (i : Inst) (va : Nat) : Bool :=
  let sp := s.space i.space
  sp.frozen.contains i.vc &&
    (match sp.frozenRegion with
     | none => true
     | some (base, pages) => base ≤ va / 4096 && va / 4096 < base + pages)

/-- Would room for a line in an instance write a dirty victim into a parent under reconfiguration? -/
def State.roomStuck (s : State) (i : Inst) (up : List Inst) (line : Nat) : Bool :=
  let l := s.vset i line
  (s.vline i line).isNone && decide (4 ≤ l.length) && (l.getLast?.any fun x => x.dirty != 0) && up.head?.any s.frozenBack

/-- Is a fill of a line under way in an instance? -/
def State.filling (s : State) (i : Inst) (line : Nat) : Bool := s.mem.fills.any fun f => f.set == i.key line && f.line == line

/-- Must an engine's read of a line wait at some level of its chain? -/
def readStuck (va : Nat) : List Inst → Nat → BitVec 128 → State → Bool
  | [], line, _, s => s.homeOver ((s.actor.map (·.1)).getD 0) line
  | i :: up, line, mask, s =>
    if s.frozenFor i va then true
    else if s.setFenced i line then readStuck va up line mask s
    else if s.filling i line then true
    else match s.vline i line with
      | some y => if y.valid &&& mask == mask then false else readStuck va up line (~~~y.valid) s
      | none => s.roomStuck i up line || readStuck va up line (~~~0) s

/-- Must an engine's write of a line wait? -/
def storeStuck (va : Nat) : List Inst → Nat → State → Bool
  | [], line, s => s.homeOver ((s.actor.map (·.1)).getD 0) line
  | i :: up, line, s =>
    if s.frozenFor i va then true
    else if s.setFenced i line then storeStuck va up line s
    else s.filling i line || s.roomStuck i up line

/-- Does an instance hold dirty bytes of a line? -/
def State.dirtyIn (s : State) (line : Nat) (i : Inst) : Bool := (s.vline i line).any fun y => y.dirty != 0

/-- Would lifting a line through the first `n` instances of a chain write into a vcache under reconfiguration (R328), or miss bytes of
the line that are parked before one? -/
def liftFrozen (s : State) (line : Nat) : Nat → List Inst → Bool
  | n + 1, i :: up => (s.backParked fun sp l => sp == i.space && l == line) ||
    (s.dirtyIn line i && (up.take n).any s.frozenBack) || liftFrozen s line n up
  | _, _ => false

/-- Must lifting a line through the first `n` instances of a chain wait: for such a vcache, or for a budget where its bytes go home
(R371)? -/
def liftStuck (s : State) (line n : Nat) (c : List Inst) : Bool :=
  liftFrozen s line n c ||
    (decide (c.length ≤ n) && c.any (s.dirtyIn line) && c.getLast?.any fun i => s.homeOver (i.lineCore line) line)

-- lifting and removing copies

/-- Lines written per level, with the level's latency (the W of R305): key 0 home, else 1 + vcache id. -/
abbrev Written := Tbl (Nat × Nat)

def Written.add (w : Written) (key lat : Nat) : Written := w.upd (0, 0) key fun x => (max x.1 lat, x.2 + 1)

/-- The sum over levels of latency and 2 cycles a line (R305). -/
def Written.cost (w : Written) : Nat := (w.map fun x => x.2.1 + 2 * x.2.2).foldl (· + ·) 0

/-- Lift a line's dirty bytes level by level through the first `n` instances of a chain (R328): afterwards they are clean and
the next level holds the bytes. `core` is where latencies count from. -/
def lift (core : Nat) : Nat → List Inst → Nat → Written × State → Written × State
  | 0, _, _, ws => ws
  | _, [], _, ws => ws
  | n + 1, i :: up, line, (w, s) =>
    let s := s.flushLine line
    let ws := match s.vline i line with
      | some y =>
        if y.dirty = 0 then (w, s)
        else
          let s := writeBack up { y with poison := y.poison || y.err } (s.orphan i y)
          let s := s.modVline i line fun y => { y with dirty := 0, poison := y.poison || y.err, err := false }
          (match up with
           | [] => (w.add 0 (60 + 2 * s.crossing core (line * 128)), s.chargeHome (i.lineCore line) line (maskBytes y.dirty))
           | j :: _ => (w.add (1 + j.vc) (j.latency core line), s))
      | none => (w, s)
    lift core n up line ws

/-- Remove a line from the first `n` instances of a chain; the count of copies removed. Fills of it under way there are stale. -/
def removeCopies (n : Nat) (c : List Inst) (line : Nat) (ks : Nat × State) : Nat × State :=
  (c.take n).foldl (fun (k, s) i =>
    if (s.vline i line).isSome then (k + 1, s.dropVline i line)
    else (k, s.staleFills fun f => f.set == i.key line && f.line == line)) ks

/-- Instances with those nearest home first. -/
def State.parentsFirst (s : State) (l : List Inst) : List Inst :=
  l.foldl (fun acc i =>
    let n := (s.above i).length
    (acc.takeWhile fun j => decide ((s.above j).length ≤ n)) ++ i :: acc.dropWhile fun j => decide ((s.above j).length ≤ n)) []

/-- A probe of one line (R294, R338): each instance lifts the line's dirty bytes to home and removes the line, so that no copy is
left and none under way is installed; a child's bytes are newer than its parent's and arrive after them. The count of lines acted on. -/
def State.probe (s : State) (line : Nat) : Nat × State :=
  let s := (s.flushLine line).staleFills fun f => f.line == line
  let hs := s.parentsFirst (s.holders line)
  hs.foldl (fun (k, s) i => match s.vline i line with
    | some y =>
      let s := if y.dirty = 0 then s else ((s.orphan i y).chargeHome (i.lineCore line) line (maskBytes y.dirty)).mergeHome line y.dirty y.data (y.poison || y.err)
      (k + 1, s.dropVline i line)
    | none => (k, s)) (0, if hs.isEmpty then s else s.tally 3 (s.homeOf (line * 128)) 1)

/-- The lines an instance holds. -/
def State.linesOf (s : State) (i : Inst) : List Nat :=
  s.mem.vsets.flatMap fun (k, l) => if k / 65536 = i.setKey 0 / 65536 then l.map (·.line) else []

/-- Lift every dirty line of some instances to home, level by level, children before their parents. -/
def State.liftInsts (s : State) (core : Nat) (is : List Inst) : Written × State :=
  let (w, s) := (s.parentsFirst is).reverse.foldl (fun (w, s) i =>
    let s := s.flushSpace i.space
    (s.linesOf i).foldl (fun (w, s) l => lift core 9 (i :: s.above i) l (w, s)) (w, s)) (([] : Written), s)
  (w, match is with | i :: _ => s.flushSpace i.space | [] => s)

/-- Would lifting the dirty lines of some instances home write into a vcache under reconfiguration? -/
def State.instsStuck (s : State) (is : List Inst) : Bool :=
  is.any fun i => (s.backParked fun sp _ => sp == i.space) || (s.linesOf i).any fun l => liftStuck s l 9 (i :: s.above i)

/-- Empty some instances, children before their parents: dirty bytes are lifted home first. The lines removed. -/
def State.emptyInsts (s : State) (core : Nat) (is : List Inst) : Nat × State :=
  let (_, s) := s.liftInsts core is
  (s.parentsFirst is).reverse.foldl (fun (k, s) i =>
    let s := s.staleFills fun f => f.set / 65536 == i.setKey 0 / 65536
    (s.linesOf i).foldl (fun (k, s) l => (k + 1, s.dropVline i l)) (k, s)) (0, s)

/-- Lift every dirty line of the instances of a space that serve a core to home (R330). -/
def State.drainAll (s : State) (space core : Nat) : Written × State := s.liftInsts core (s.serving space core)

/-- Self-invalidation (R331): every instance serving a core in a space lifts its dirty bytes home and is emptied; the lines
removed. -/
def State.selfInvalidate (s : State) (space core : Nat) : Nat × State := s.emptyInsts core (s.serving space core)

/-- Does an instance's placement cover every core of the scope group of a core (R271)? -/
def State.covers (s : State) (i : Inst) (scope core : Nat) : Bool :=
  if i.df.place = 0 then scope ≤ 1
  else if i.df.place = 1 then scope ≤ 2
  else if i.df.place = 2 then scope ≤ 3
  else
    let dom := (s.space i.space).domain
    if scope ≤ 2 then dom.contains (clusterNo core)
    else if scope = 3 then allBelow 32 fun k => dom.contains (coreDie core * 32 + k)
    else allBelow 128 fun k => dom.contains k

/-- The number of a chain's instances below the level of a scope (R271). -/
def State.below (s : State) (c : List Inst) (scope core : Nat) : Nat := (c.takeWhile fun i => !s.covers i scope core).length

end Sys2Proof.Machine
end

