-- ==== Sys2Proof/Machine/Translate.lean ====
section
/-! DEFINITION. From an address to the bytes it names: address classes, translation, permissions, worlds, scratchpad windows
and refills (08_memory_access.md R245-R248, R492; 18_translation_and_isolation.md R442-R454). -/
namespace Sys2Proof.Machine

/-- An address class (Tables 8-1, 8-2). -/
inductive AddrClass where
  | global (va : Nat)
  | scratch (core off : Nat)
  | bad
  deriving DecidableEq, Repr

/-- The class of an address that core `c` forms (R245). -/
def classify (c va : Nat) : AddrClass :=
  if va / 2 ^ 57 ≠ 0 then .bad
  else if bits va 44 13 ≠ 0x1FFF then .global va
  else
    let off := bits va 0 22
    if 0x300000 ≤ off || bits va 22 4 ≠ 0 || bits va 37 6 ≠ 0 then .bad
    else if bit va 43 then
      if bits va 34 3 ≤ 3 then .scratch (coreOf (bits va 34 3) (bits va 26 4) (bits va 30 4)) off else .bad
    else if bits va 26 11 = 0 then .scratch c off else .bad

/-- Is a frame secure (R450)? -/
def State.secure (s : State) (pa : Nat) : Bool := s.module_.carves.any fun x => x.1 ≤ pa && pa < x.2

/-- May a space of a partition map a frame (R442, R454)? -/
def State.frameAllowed (s : State) (part pa len : Nat) : Bool :=
  if isStacked pa then s.diePart (bits pa 37 2) == part && decide (pa + len ≤ 2 ^ 39)
  else if isPool pa then
    match s.module_.pools.look part with
    | some (a, b) => a ≤ pa && pa + len ≤ b
    | none => s.module_.parts == 1 && decide (pa + len ≤ 2 ^ 47)
  else false

/-- Frames whose words do not change: those the scanner has passed (R97), and those of the request it serves (DESIGN CHOICE, log
entry 38). -/
def State.codeFrames (s : State) : List Nat := s.module_.scanned ++ (s.module_.scans.head?.elim [] (·.frames))

/-- Does a translation let a page be written (R444)? A frame with an executable mapping never is (R97). -/
def State.mayWrite (s : State) (t : Tlb) (page : Nat) : Bool := t.w && !s.codeFrames.contains (t.frame + (page - t.page))

-- the walk

/-- Low index bit of a level (Table 18-3). -/
def levelLow (l : Nat) : Nat := match l with | 0 => 47 | 1 => 35 | 2 => 29 | 3 => 21 | _ => 12

/-- Number of index bits of a level. -/
def levelBits (l : Nat) : Nat := match l with | 0 => 10 | 1 => 12 | 2 => 6 | 3 => 8 | _ => 9

/-- What a walk finds. -/
inductive WalkRes where
  | leaf (t : Tlb)
  | fault (sub : Nat)
  deriving DecidableEq, Repr

/-- One level of the walk from table `tab` (R442, R443), with the non-leaf tables it passes. A SPAN entry is malformed as well where
some frame of the 64 KiB block it stands for lies outside the partition, as no mapping may reach another's memory (R454; DEDUCED, log
entry 55). -/
def State.walkFrom (s : State) (space va : Nat) : Nat → Nat → Nat → Nat × WalkRes × List (Nat × Nat)
  | 0, _, _ => (0, .fault 1, [])
  | fuel + 1, l, tab =>
    let ix := bits va (levelLow l) (levelBits l)
    let e := s.bytesAt (tab + 8 * ix) 8
    let part := (s.space space).part
    if !bit e 0 then (1, .fault 0, [])
    else if bits e 52 12 ≠ 0 || bits e 5 4 ≠ 0 || (bit e 2 && bit e 3) then (1, .fault 1, [])
    else if bit e 1 then
      -- a leaf
      if l = 0 || bits e 9 3 ≠ 0 || (bit e 4 && l ≠ 4) then (1, .fault 1, [])
      else
        let frame := bits e 12 40 * 4096
        let span := bit e 4
        let size := 2 ^ levelLow l
        -- a SPAN entry stands for the aligned 64 KiB block
        let before := if span then 4096 * (ix % 16) else 0
        let first := frame - before
        let len := if span then 65536 else size
        if frame % size ≠ 0 || frame < before || !s.frameAllowed part first len then (1, .fault 1, [])
        else
          (1, .leaf { space := space, page := va / len * len / 4096, count := len / 4096, frame := first / 4096,
                      w := bit e 2, x := bit e 3 }, [])
    else
      let next := bits e 9 43 * 512
      if l = 4 || bit e 4 || next % (8 * 2 ^ levelBits (l + 1)) ≠ 0 then (1, .fault 1, [])
      else
        let (n, r, ts) := s.walkFrom space va fuel (l + 1) next
        (n + 1, r, (l + 1, next) :: ts)

/-- The key of a walker-cache entry: the level of the table and the address bits above it. -/
def walkKey (l va : Nat) : Nat := va / 2 ^ levelLow (l - 1) * 8 + l

/-- Walk for an address by the walker of a die, starting at the deepest table its cache holds (R445): entries read, result,
and the tables passed. -/
def State.walk (s : State) (die space va : Nat) : Nat × WalkRes × List (Nat × Nat) :=
  let cache := s.mem.walkerTlb.get [] die
  let at_ (l : Nat) : Option Nat := (cache.find? fun x => x.1 == space && x.2.1 == walkKey l va).map (·.2.2)
  match at_ 4, at_ 3, at_ 2, at_ 1 with
  | some t, _, _, _ => s.walkFrom space va 5 4 t
  | _, some t, _, _ => s.walkFrom space va 5 3 t
  | _, _, some t, _ => s.walkFrom space va 5 2 t
  | _, _, _, some t => s.walkFrom space va 5 1 t
  | _, _, _, _ => s.walkFrom space va 5 0 (s.space space).root

/-- Does a translation cover a page of a space? -/
def Tlb.covers (t : Tlb) (space page : Nat) : Bool := t.space == space && t.page ≤ page && page < t.page + t.count

/-- The sets of a cluster cache in which a translation of a page may stand: one per page size (log entry 8). -/
def tlbSets (page : Nat) : List Nat := [1, 16, 512, 131072, 8388608].map fun n => page / n * n % 256

/-- Enter a translation as the most recent of a core's cache (R445). -/
def State.enterCoreTlb (s : State) (core : Nat) (t : Tlb) : State :=
  s.modCore core fun c => { c with tlb := (t :: c.tlb.erase t).take 64 }

/-- Enter a translation in a cluster's cache: 256 sets of 8. -/
def State.enterClusterTlb (s : State) (core : Nat) (t : Tlb) : State :=
  let k := clusterNo core * 256 + t.page % 256
  s.modMem fun m => { m with clusterTlb := m.clusterTlb.upd [] k fun l => (t :: l.erase t).take 8 }

/-- Look a page up in a core's caches: the translation and the cycles it adds (R445). -/
def State.tlbLook (s : State) (core space page : Nat) : Option (Tlb × Nat × State) :=
  match (s.core core).tlb.find? (·.covers space page) with
  | some t => some (t, 0, s.enterCoreTlb core t)
  | none =>
    let l := (tlbSets page).flatMap fun k => s.mem.clusterTlb.get [] (clusterNo core * 256 + k)
    match l.find? (·.covers space page) with
    | some t => some (t, 6, (s.enterClusterTlb core t).enterCoreTlb core t)
    | none => none

/-- Translate at once for an engine: caches of the core, else a walk of its die; the SUB of a fault. -/
def State.translateNow (s : State) (core space va : Nat) : Except Nat Tlb :=
  match s.tlbLook core space (va / 4096) with
  | some (t, _, _) => .ok t
  | none =>
    match (s.walk (coreDie core) space va).2.1 with
    | .leaf t => .ok t
    | .fault sub => .error sub

/-- The physical address of a virtual one under a translation. -/
def Tlb.phys (t : Tlb) (va : Nat) : Nat := (t.frame + (va / 4096 - t.page)) * 4096 + va % 4096

/-- Translate for an engine of a core: what the translation adds to its access, and the caches as it leaves them (R445). -/
def State.translated (s : State) (core space va : Nat) : Nat × State :=
  match s.tlbLook core space (va / 4096) with
  | some (_, late, s) => (late, s)
  | none => match s.walk (coreDie core) space va with
    | (n, .leaf t, _) => (40 + 60 * n, (s.enterClusterTlb core t).enterCoreTlb core t)
    | (n, .fault _, _) => (40 + 60 * n, s)

/-- The walker of a die begins a walk. -/
def State.beginWalk (s : State) (w : Walk) : State :=
  s.postAt (s.cycle + 40 + 60 * (s.walk (coreDie (posCore w.by_)) w.space w.va).1) w.by_ .translationWalk (.translationWalk w.space w.page)

/-- A requester at a position waits for the walk of a page. A walk under way for the page is shared (R447); a die's walker tracks 1024
of them, and one beyond waits (R445). -/
def State.joinWalk (s : State) (p : Pos) (space va acc : Nat) (add : Walk → Walk) : State :=
  let page := va / 4096
  let hit (w : Walk) : Bool := w.space == space && w.page == page
  if s.mem.walks.any hit then s.modMem fun m => { m with walks := m.walks.map fun w => if hit w then add w else w }
  else
    let busy := (s.mem.walks.filter fun w => w.running && coreDie (posCore w.by_) == coreDie (posCore p)).length
    let w : Walk := add { space := space, page := page, va := va, acc := acc, by_ := p, running := decide (busy < 1024) }
    let s := s.modMem fun m => { m with walks := m.walks ++ [w] }
    if w.running then s.beginWalk w else s

/-- A walk of a die has ended: the one that has waited longest for its walker begins. -/
def State.nextWalk (s : State) (die : Nat) : State :=
  match s.mem.walks.find? fun w => !w.running && coreDie (posCore w.by_) == die with
  | none => s
  | some w => (s.modMem fun m => { m with walks := m.walks.map fun x => if x = w then { x with running := true } else x }).beginWalk w

/-- Park the current slot for a walk of a page (R84, R447). -/
def State.startWalk (s : State) (va acc : Nat) : State :=
  let me := s.tk s.cur
  (s.park s.cur .walk).joinWalk s.cur s.my.space va acc fun w => { w with slots := w.slots ++ [me] }

-- places

/-- Where an access goes and how. -/
structure Place where
  scratch : Bool := false
  owner   : Nat := 0       -- scratchpad: the core
  off     : Nat := 0       -- scratchpad: the window offset
  loc     : Nat := 0       -- the location
  late    : Nat := 0       -- cycles that translation adds
  vc      : Nat := 0
  tensor  : Nat := 0
  sync    : Bool := false
  posted  : Bool := false
  migrate : Bool := false
  world   : Bool := false
  deriving DecidableEq, Repr

/-- The binding that covers a page, if any (R298). -/
def Space.bindingOf (sp : Space) (page : Nat) : Option Binding :=
  (sp.binds.find? fun x => x.2.base ≤ page && page < x.2.base + x.2.pages).map (·.2)

/-- The place of a global address under a translation. -/
def State.globalPlace (s : State) (space : Nat) (world : Bool) (t : Tlb) (late va : Nat) : Place :=
  match (s.space space).bindingOf (va / 4096) with
  | some b => { loc := t.phys va, late := late, vc := b.vc, tensor := b.tensor, sync := b.sync, posted := b.posted,
                migrate := b.migrate, world := b.world }
  | none => { loc := t.phys va, late := late, world := world }

/-- The key of a window page. -/
def wpageKey (core space page : Nat) : Nat := (core * 4096 + space) * 1024 + page

/-- Where release records of a window page's words are kept while it stands in no bank page. -/
def parkedBase (key : Nat) : Nat := 2 ^ 60 + key * 4096

/-- Release records and marks of one page of locations, kept under another. -/
def rekey (a b : Nat) (l : List LocRec) : List LocRec :=
  l.map fun x => if a / 8 ≤ x.loc && x.loc < a / 8 + 512 then { x with loc := x.loc - a / 8 + b / 8 } else x

/-- Monitors on one page of locations, kept under another. -/
def rekeyMonitors (a b : Nat) (l : List Monitor) : List Monitor :=
  l.map fun x => if a ≤ x.loc && x.loc < a + 4096 then { x with loc := x.loc - a + b } else x

/-- What ordering points keep of one window page of a core, its records, marks and monitors, moves with its bytes (R262, R274). -/
def State.rekeyPage (s : State) (core a b : Nat) : State :=
  (s.modCore core fun k => { k with recs := rekey a b k.recs, marks := rekey a b k.marks }).modMem fun m =>
    { m with monitors := rekeyMonitors a b m.monitors }

/-- A refusal record of a world check on a task's transaction (R451, Table 20-3). -/
def State.refuseWorld (s : State) (core : Nat) (t : Tk) (addr space : Nat) (world : Bool) : State :=
  s.taskError core t { cycle := 0, code := 0x50, sev := 5, addr := addr, space := space, world := world }

/-- Where an access of an engine on core `c` for a space goes; `error (cause, sub)` for the fault it meets. Scratchpad pages
must be pinned: `error (0x42, 0)` asks for a refill. -/
def State.placeNow (s : State) (c space : Nat) (world write : Bool) (va : Nat) : Except (Nat × Nat) Place :=
  match classify c va with
  | .bad => .error (0x40, 4)
  | .scratch core off =>
    if s.diePart (coreDie core) ≠ s.diePart (coreDie c) then .error (0x40, 4)
    else match s.mem.wpages.look (wpageKey core space (off / 4096)) with
      | none => .error (0x40, 2)
      | some w => match w.bank with
        -- a fenced cordon's windows hold nothing; its port answers (R475)
        | none => if core ≠ c && (s.core core).fenced then .ok { scratch := true, owner := core, off := off,
                                                                 loc := parkedBase (wpageKey core space (off / 4096)) + off % 4096, world := world }
                  else .error (0x42, 0)
        | some b => .ok { scratch := true, owner := core, off := off, loc := scratchLoc core b (off % 4096), world := world }
  | .global va =>
    match s.translateNow c space va with
    | .error sub => .error (0x40, sub)
    | .ok t =>
      let pl := s.globalPlace space world t 0 va
      if write && !s.mayWrite t (va / 4096) then .error (0x41, 0)
      else if pl.world != s.secure pl.loc then .error (0x41, 1)
      else .ok pl

/-- The physical address of a mapped global address; 0 where none is mapped. -/
def State.physical (s : State) (c space va : Nat) : Nat :=
  match s.translateNow c space va with
  | .error _ => 0
  | .ok t => (s.globalPlace space false t 0 va).loc

/-- The refusal record beside a fault record that says "world refused" (R451). -/
def State.alsoRefuse (s : State) (c : Nat) (t : Tk) (space : Nat) (world : Bool) (va cause sub : Nat) : State :=
  if cause = 0x41 ∧ sub = 1 then s.refuseWorld c t (s.physical c space va) space world else s

-- refills (R248, R492)

/-- The latency of the level that would supply a line to a core of a space through first vcache `vc`. -/
def State.supplyLatency (s : State) (space core vc line : Nat) (mask : BitVec 128) : Nat :=
  match (s.chain space core vc).find? fun i =>
      match s.vline i line with | some y => y.valid &&& mask == mask | none => false with
  | some i => i.latency core line
  | none => s.homeLatency line + 2 * s.crossing core (line * 128)

/-- The 4 KiB of a refill through a space's chain: latency of the slowest supplying level, or the fault of the backing. -/
def State.refillLatency (s : State) (core space backing : Nat) : Except (Nat × Nat) Nat :=
  match s.placeNow core space (s.space space).world false backing with
  | .error (0x40, _) => .error (0x40, 3)
  | .error e => .error e
  | .ok pl => .ok (((List.range 32).map fun k => s.supplyLatency space core pl.vc (pl.loc / 128 + k) (~~~0)).foldl max 0 + 64)

/-- Begin the refill of a window page if a free bank page is there and it has not begun. -/
def State.beginRefill (s : State) (core space page : Nat) : State :=
  match s.mem.refills.find? fun r => r.core == core && r.space == space && r.page == page, (s.core core).free with
  | some r, b :: rest =>
    if r.running then s else
    match s.mem.wpages.look (wpageKey core space page) with
    | none => s
    | some w =>
      match s.refillLatency core space w.backing with
      | .error (cause, sub) =>
        -- the backing is gone meanwhile: every access that waits meets the fault
        let s := s.modMem fun m => { m with refills := m.refills.filter (· != r) }
        let s := r.slots.foldl (fun s t => if s.isAt t then (s.supFault t.pos cause sub w.backing 0).alsoRefuse core t space (s.space space).world w.backing cause sub else s) s
        r.reqs.foldl (fun s q => s.behalfFault q.t q.pc cause sub w.backing 0 q.space q.world) s
      | .ok n =>
        let s := s.modCore core fun c => { c with free := rest }
        let s := s.modMem fun m => { m with
          refills := m.refills.map fun x => if x = r then { x with running := true, bank := b } else x }
        s.post (s.cycle + n) (tieAt core (mkPos core 0)) .scratchpadPageRefill (.scratchpadPageRefill core space page)
  | _, _ => s

/-- An access waits for the refill of a window page, which begins if it can; the first to wait without a bank page sends a
record (R248). -/
def State.joinRefill (s : State) (core space page : Nat) (who : Option Tk) (req : Option PortReq) (record : State → State) : State :=
  let s := match who with | some t => s.countEv t.pos 7 1 | none => s
  match s.mem.refills.find? fun r => r.core == core && r.space == space && r.page == page with
  | some r =>
    s.modMem fun m => { m with refills := m.refills.map fun x =>
      if x = r then { x with slots := x.slots ++ who.toList, reqs := x.reqs ++ req.toList } else x }
  | none =>
    let s := s.modMem fun m => { m with refills := m.refills ++
      [{ core := core, space := space, page := page, running := false, slots := who.toList, reqs := req.toList }] }
    (if (s.core core).free.isEmpty then record s else s).beginRefill core space page

/-- What an instruction's address gives. -/
inductive Resolved where
  | ok (p : Place) (s : State)
  | stop (s : State)

/-- Resolve an address of the current task's instruction: class, window page or translation, permission and world
(R245, R247, R248, R442, R444, R451). -/
def State.resolve (s : State) (va : Nat) (write : Bool) : Resolved :=
  let t := s.my
  let c := posCore s.cur
  let acc := write.toNat
  match classify c va with
  | .bad => .stop (s.supFault s.cur 0x40 4 va acc)
  | .scratch core off =>
    if s.diePart (coreDie core) ≠ s.diePart (coreDie c) then .stop (s.supFault s.cur 0x40 4 va acc)
    else match s.mem.wpages.look (wpageKey core t.space (off / 4096)) with
      | none => .stop (s.supFault s.cur 0x40 2 va acc)
      | some w => match w.bank with
        | some b => .ok { scratch := true, owner := core, off := off, loc := scratchLoc core b (off % 4096), world := t.world } s
        | none =>
          -- a fenced cordon's port answers, whatever stood there (R475)
          if core ≠ c && (s.core core).fenced then
            .ok { scratch := true, owner := core, off := off, loc := parkedBase (wpageKey core t.space (off / 4096)) + off % 4096, world := t.world } s
          else match s.refillLatency core t.space w.backing with
          | .error (cause, sub) => .stop ((s.supFault s.cur cause sub w.backing 0).alsoRefuse c (s.tk s.cur) t.space t.world w.backing cause sub)
          | .ok _ =>
            let p := s.cur
            .stop ((s.park p .refill).joinRefill core t.space (off / 4096) (some (s.tk p)) none fun s =>
              s.sendRecord c { cycle := s.cycle, addr := va, pc := t.pc.toNat, cause := 0x42, acc := acc,
                               world := t.world, space := t.space, slot := p })
  | .global va =>
    match s.tlbLook c t.space (va / 4096) with
    | none => .stop (s.startWalk va acc)
    | some (e, late, s) =>
      let pl := s.globalPlace t.space t.world e late va
      if write && !s.mayWrite e (va / 4096) then .stop (s.supFault s.cur 0x41 0 va acc)
      else if pl.world != s.secure pl.loc then .stop ((s.supFault s.cur 0x41 1 va acc).refuseWorld c (s.tk s.cur) pl.loc t.space pl.world)
      else .ok pl s

/-- Resolve, and go on with the place. -/
def withPlace (va : Nat) (write : Bool) (s : State) (k : Place → State → State) : State :=
  match s.resolve va write with
  | .ok p s => k p s
  | .stop s => s

end Sys2Proof.Machine
end

