-- ==== Sys2Proof/Machine/Hand.lean ====
section
/-! DEFINITION. Hands, release records, releases, acquires and calls (11_ordering_across_cores.md R321-R334,
12_fences_and_home_slices.md R340, 20_containment_and_recovery.md R477). -/
namespace Sys2Proof.Machine

-- the hand

/-- Enter the region of a written global address into a task's hand (R322). -/
def Task.enterHand (t : Task) (va pa : Nat) : Task :=
  let r : Region := { space := t.space, v := va % 2 ^ 57 / 512, p := pa / 512 }
  if t.ws || t.hand.any (fun e => e.region.v == r.v && e.region.p == r.p) then t
  else if 256 ≤ t.hand.length then { t with ws := true }
  else { t with hand := t.hand ++ [{ region := r, sealNo := 0, inh := false }] }

/-- Enter an inherited region (R329 step 3): open, or sealed under the number of the release that inherits it (R325). -/
def Task.inherit (t : Task) (r : Region) (num : Nat := 0) : Task :=
  if r.space ≠ t.space then { t with ws := true }
  else if t.ws || t.hand.any (fun e => e.region.v == r.v && e.region.p == r.p) then t
  else if 256 ≤ t.hand.length then { t with ws := true }
  else { t with hand := t.hand ++ [{ region := { r with below := 0 }, sealNo := num, inh := true }] }

/-- The next release number: modulo 2^16, skipping 0 (R323). -/
def nextRelease (n : Nat) : Nat := if (n + 1) % 65536 = 0 then 1 else (n + 1) % 65536

/-- Was an entry sealed at or before release `num` (R328)? -/
def HandEntry.coveredBy (e : HandEntry) (num : Nat) : Bool :=
  e.sealNo != 0 && decide ((num + 65536 - e.sealNo) % 65536 < 32768)

/-- What a drain leaves of a task's hand (R330). -/
def Task.drained (t : Task) : Task := { t with hand := [], ws := false, drains := (t.drains + 1) % 256 }

/-- Drain a task (R330): its space's dirty lines at its core go home, its hand empties and the drain count advances. -/
def State.drain (s : State) (p : Pos) : Written × State :=
  let (w, s) := s.drainAll (s.task p).space (posCore p)
  (w, s.modTask p Task.drained)

/-- Steps 2 and 3 of a release at a position (R323): the new number, after a drain if an entry's seal would lie 32768 or more
releases back. -/
def State.sealHand (s : State) (p : Pos) : Nat × State :=
  let t := s.task p
  let n := nextRelease t.relCount
  let far := t.hand.any fun e => e.sealNo != 0 && decide (32768 ≤ (n + 65536 - e.sealNo) % 65536)
  let s := if far then (s.drain p).2 else s
  (n, s.modTask p fun t =>
    { t with relCount := n, hand := t.hand.map fun e => if e.sealNo = 0 then { e with sealNo := n } else e })

/-- Have the earlier accesses of a task completed that a release in its turn waits for (R323)? -/
def Task.accessesDone (t : Task) (now : Nat) : Bool :=
  t.pend.all fun a => a.ackOnly || a.aside || (match a.doneAt with | some c => decide (c < now) | none => false)

/-- The record a position's release writes (Table 11-2). -/
def State.recordOf (s : State) (p : Pos) (num scope : Nat) : Record :=
  let t := s.task p
  { num := num, drain := t.drains, serial := (s.slot p).serial, space := t.space, scope := scope, pos := p, mark := false }

-- records at their ordering points (R262, R324)

/-- The 8-byte location a record belongs to. -/
def recLoc (loc : Nat) : Nat := loc / 8

/-- The set of a home slice's records a location falls in: 512 sets of 8. -/
def State.recKey (s : State) (loc : Nat) : Nat := s.homeOf loc * 512 + recLoc loc % 512

/-- The record or drained mark of a location. -/
def State.recordAt (s : State) (loc : Nat) : Option Record :=
  let l := recLoc loc
  let find (xs : List LocRec) : Option Record := (xs.find? (·.loc == l)).map (·.record)
  if scratchBase ≤ loc then
    let c := s.core ((loc - scratchBase) / 0x300000)
    match find c.recs with | some r => some r | none => find c.marks
  else
    match find (s.mem.recs.get [] (s.recKey loc)) with | some r => some r | none => find s.mem.marks

/-- Remove a location's record and mark. -/
def State.clearRecord (s : State) (loc : Nat) : State :=
  let l := recLoc loc
  let drop (xs : List LocRec) : List LocRec := xs.filter (·.loc != l)
  if scratchBase ≤ loc then
    s.modCore ((loc - scratchBase) / 0x300000) fun c => { c with recs := drop c.recs, marks := drop c.marks }
  else
    s.modMem fun m => { m with marks := drop m.marks, recs := if (m.recs.look (s.recKey loc)).isSome then m.recs.upd [] (s.recKey loc) drop else m.recs }

-- calls

/-- The chain of a task's space and core for a virtual region, as it stands (R327). -/
def State.regionChain (s : State) (space core v : Nat) : List Inst :=
  match (s.space space).bindingOf (v * 512 / 4096) with
  | some b => s.chain space core b.vc
  | none => s.chain space core 0

/-- Is a region sync-class or posted in a space's binding, so that its meeting level is home (R327)? -/
def State.regionHome (s : State) (space v : Nat) : Bool :=
  match (s.space space).bindingOf (v * 512 / 4096) with
  | some b => b.sync || b.posted
  | none => false

/-- The numbers of instances below the meeting level on the releaser's and on the acquirer's chain (R327). -/
def meeting (a b : List Inst) : Nat × Nat :=
  match a.findIdx? (b.contains ·) with
  | none => (9, 9)
  | some k => (k, (b.findIdx? fun i => a[k]? == some i).getD 9)

/-- The meeting level of a releaser of a space at a core and an acquirer for a region, as numbers of instances below it on each
chain (R327); home for a retirement, which has no acquirer (R324). -/
def State.meetingFor (s : State) (space core : Nat) (acq : Option (Nat × Nat)) (v : Nat) : Nat × Nat :=
  match acq with
  | none => (9, 9)
  | some (sp, c) =>
    if sp ≠ space || s.regionHome space v then (9, 9)
    else meeting (s.regionChain space core v) (s.regionChain sp c v)

/-- The entries a call for release `num` covers (R328). -/
def Task.covered (t : Task) (num : Nat) : List HandEntry := t.hand.filter (·.coveredBy num)

/-- Would serving a call write into a vcache under reconfiguration, so that it parks (R328)? -/
def State.callStuck (s : State) (p : Pos) (num : Nat) (acq : Option (Nat × Nat)) : Bool :=
  let t := s.task p
  let core := posCore p
  if t.ws then s.instsStuck (s.serving t.space core)
  else (t.covered num).any fun e =>
    (List.range 4).any fun j => liftStuck s (e.region.p * 4 + j) (s.meetingFor t.space core acq e.region.v).1 (s.regionChain t.space core e.region.v)

/-- Lift what a call covers (R328): the lines of every entry sealed at or before `num`, up to where the two chains meet.
`acq` is the acquirer's space and core, none for a retirement with home as meeting level (R324). -/
def State.serveRegions (s : State) (p : Pos) (num : Nat) (acq : Option (Nat × Nat)) : Written × List Region × State :=
  let t := s.task p
  let core := posCore p
  (t.covered num).foldl (fun (w, rs, s) e =>
    let (n, k) := s.meetingFor t.space core acq e.region.v
    let (w, s) := (List.range 4).foldl (fun ws j => lift core n (ws.2.regionChain t.space core e.region.v) (e.region.p * 4 + j) ws) (w, s)
    (w, rs ++ [{ e.region with below := k }], s)) (([] : Written), ([] : List Region), s)

/-- Where a call finds its releaser: in its slot, saved in the context store, gone, or reset (R331, R477). -/
inductive Releaser where
  | here | saved (x : Saved) | gone | lost

def State.releaser (s : State) (r : Record) : Releaser :=
  let x := s.slot r.pos
  let t : Tk := { pos := r.pos, serial := r.serial }
  if x.lost.any (fun n => decide (r.serial ≤ n)) then .lost
  else if x.serial = r.serial && x.st != .empty then .here
  else match s.saved.find? (·.t = t) with
    | some y => .saved y
    | none => .gone

/-- The time of a call's reply leg (R334). -/
def replyTime (releaser acquirer regions : Nat) : Nat :=
  10 + 2 * routeHops releaser acquirer + 2 * regions + (if coreDie releaser = coreDie acquirer then 0 else 80)

/-- Serve a call of release `num` at its releaser's core (R328, R330): the cost W, the region list, and the kind of the answer. -/
def State.serveCall (s : State) (r : Record) (acq : Option (Nat × Nat)) : Written × List Region × ReplyKind × State :=
  let t := s.task r.pos
  if t.drains ≠ r.drain then (([] : Written), [], .selfInvalidate, s)
  else if t.ws then
    let (w, s) := s.drain r.pos
    (w, [], .selfInvalidate, s)
  else
    let (w, rs, s) := s.serveRegions r.pos r.num acq
    (w, rs, .regions, s)

/-- Answer a call from a saved context (R331), whose lines went home at the save: the region list with home as M; a whole-space
mark is drained there, which leaves nothing to write (R330). -/
def State.serveSaved (s : State) (y : Saved) (r : Record) : List Region × ReplyKind × State :=
  if y.task.drains ≠ r.drain then ([], .selfInvalidate, s)
  else if y.task.ws then
    ([], .selfInvalidate, { s with saved := s.saved.map fun x => if x.t = y.t then { x with task := x.task.drained } else x })
  else ((y.task.covered r.num).map fun e => { e.region with below := 9 }, .regions, s)

/-- The record that a new one at a location displaces for room, if any, and the core its call leaves (R262, R324). -/
def State.displaced (s : State) (loc : Nat) : Option (Nat × LocRec) :=
  let s := s.clearRecord loc
  if scratchBase ≤ loc then
    let c := (loc - scratchBase) / 0x300000
    if 32 ≤ (s.core c).recs.length then (s.core c).recs.head?.map fun x => (c, x) else none
  else
    let l := s.mem.recs.get [] (s.recKey loc)
    if 8 ≤ l.length then l.getLast?.map fun x => (sliceCore (s.homeOf loc), x) else none

/-- The call of a displaced record has ended: the record gives way to its drained mark (R324), unless a write has replaced it
meanwhile. -/
def State.markRetired (s : State) (x : LocRec) : State :=
  let mark : LocRec := { x with record := { x.record with mark := true } }
  if scratchBase ≤ x.loc * 8 then
    s.modCore ((x.loc * 8 - scratchBase) / 0x300000) fun k =>
      if k.recs.contains x then { k with recs := k.recs.erase x, marks := mark :: k.marks } else k
  else
    s.modMem fun m =>
      let k := s.recKey (x.loc * 8)
      if (m.recs.get [] k).contains x then { m with recs := m.recs.upd [] k (·.erase x), marks := mark :: m.marks } else m

/-- Write a release record at a location, where there is room for it (R324). -/
def State.writeRecord (s : State) (loc : Nat) (r : Record) : State :=
  let s := s.clearRecord loc
  let x : LocRec := { loc := recLoc loc, record := r }
  if scratchBase ≤ loc then s.modCore ((loc - scratchBase) / 0x300000) fun k => { k with recs := k.recs ++ [x] }
  else s.modMem fun m => { m with recs := m.recs.upd [] (s.recKey loc) (x :: ·) }

/-- A read of a record makes it the most recently used of its set (R324). -/
def State.touchRecord (s : State) (loc : Nat) : State :=
  if scratchBase ≤ loc then s else
  let k := s.recKey loc
  match s.mem.recs.look k with
  | none => s
  | some l =>
    s.modMem fun m => { m with recs := m.recs.put k (l.filter (·.loc == recLoc loc) ++ l.filter (·.loc != recLoc loc)) }

/-- What an acquire does about a record (Table 11-4). -/
inductive AcqAct where
  | nothing | selfInvalidate | call
  deriving DecidableEq, Repr

/-- Are a record's releaser and the task at a position in each other's scope groups (R326)? The group of scope `.task` is the task
alone (R15), whose slot another task may have had before. -/
def State.inScope (s : State) (r : Record) (p : Pos) (scope : Nat) : Bool :=
  sameScope r.scope r.pos p && sameScope scope p r.pos && (0 < min r.scope scope || r.serial == (s.slot p).serial)

/-- Does a record name the task at a position? -/
def State.namesOf (s : State) (p : Pos) (r : Record) : Bool :=
  !r.mark && r.pos == p && r.serial == (s.slot p).serial && r.space == (s.task p).space

/-- Table 11-4 for an acquirer at a position and a scope. -/
def State.acqAct (s : State) (p : Pos) (scope : Nat) (r : Record) : AcqAct :=
  if !s.inScope r p scope || s.namesOf p r then .nothing
  else if r.mark then .selfInvalidate
  else .call

/-- Send the call of a record for an acquirer; the ordering point stands at core `own` and the call leaves it at `cycle`
(R334: 40 cycles, 80 more where the releaser's die differs). A saved releaser answers through the hub. -/
def State.sendCall (s : State) (own at_ : Nat) (t : Tk) (id : Nat) (r : Record) : State :=
  let far := match s.releaser r with
    | .saved _ => true
    | _ => coreDie own != coreDie (posCore r.pos)
  (if s.isAt t then s.countEv t.pos 4 1 else s).post (at_ + 40 + (if far then 80 else 0)) (tieAt (posCore r.pos) t.pos)
    .callServe (.callServe t id r)

/-- The call of a displaced record leaves its ordering point's own core (R324, R334); `q` is the request that needs the room, and waits
for the retirement. -/
def State.beginRetire (s : State) (own : Nat) (x : LocRec) (q : PortReq) : State :=
  let far := match s.releaser x.record with
    | .saved _ => true
    | _ => coreDie own != coreDie (posCore x.record.pos)
  s.post (s.cycle + 40 + (if far then 80 else 0)) (tieAt (posCore x.record.pos) q.t.pos) .callServe (.retireCall own x q)

/-- The time of a retirement's call: the terms of R334 that follow L, with home as the meeting level (R262). -/
def State.retireTime (s : State) (own : Nat) (r : Record) : Nat :=
  let rc := posCore r.pos
  let out := 40 + (if coreDie own = coreDie rc then 0 else 80)
  match s.releaser r with
  | .here =>
    let (w, rs, _, _) := s.serveCall r none
    out + ((s.slot r.pos).callBusy - (s.cycle + out)) + w.cost + replyTime rc own rs.length + 8
  | .saved y => 120 + (10 + 2 * portHops own 3 + 2 * (s.serveSaved y r).1.length + 80) + 8
  | _ => out + replyTime rc own 0 + 8

/-- Serve a call at its releaser's core without the releaser's turns (R328), or leave it to wait as the message `m`: calls to one task
are served one at a time, in order of arrival, and one whose write-back meets a vcache under reconfiguration waits for its end, and
finds the chains as they then stand. `reply` takes the cycle in which the answer leaves, its travel, the regions and their kind; `ac`
is the core that gets it, and `va` the address of the record's location. -/
def State.serveAt (s : State) (r : Record) (acq : Option (Nat × Nat)) (ac va : Nat) (m : Msg)
    (reply : Nat → Nat → List Region → ReplyKind → State → State) : State :=
  let rc := posCore r.pos
  match s.releaser r with
  | .here =>
    let busy := (s.slot r.pos).callBusy
    if s.cycle < busy then s.post busy 0 .callServe m
    else if (s.task r.pos).drains = r.drain && s.callStuck r.pos r.num acq then
      -- calls behind it go on waiting
      (s.modSlot r.pos fun x => { x with callBusy := s.cycle + 1 }).post (s.cycle + 1) 0 .callServe m
    else
      let lists := (s.task r.pos).drains == r.drain
      let (w, rs, k, s) := s.serveCall r acq
      let done := s.cycle + w.cost
      let s := s.modSlot r.pos fun x => { x with callBusy := done }
      reply done (replyTime rc ac rs.length) rs k (if lists then s.countEv r.pos 5 1 else s)
  | .saved y =>
    let (rs, k, s) := s.serveSaved y r
    reply s.cycle (10 + 2 * portHops ac 3 + 2 * rs.length + 80) rs k s
  | .gone => reply s.cycle (replyTime rc ac 0) [] .selfInvalidate s
  | .lost => reply s.cycle (replyTime rc ac 0) [] (.lost va) s

/-- The answer of a call leaves its releaser's core, behind what that core has sent the acquirer's before (R334, R347). -/
def State.answerCall (s : State) (t : Tk) (id : Nat) (from_ : Pos) (rs : List Region) (k : ReplyKind) : State :=
  let (due, s) := s.laneTo (posCore from_) (posCore t.pos) (s.cycle + replyTime (posCore from_) (posCore t.pos) rs.length)
  s.post due (tieAt (posCore t.pos) from_) .callReply (.callReply t id rs k)

/-- CALL_SERVE (R328): a call of an acquirer, or of a displaced record, whose meeting level is home for every region (R324), is served;
or an acquirer's answer leaves. -/
def execCallServe (s : State) : Out :=
  match s.msg with
  | .callServe t id r =>
    let hub := match s.releaser r with | .saved _ => true | _ => false
    let va := (((s.mem.calls.find? fun c => c.t == t && c.id == id).bind fun c => c.places.find? (·.1 == r)).map (·.2)).getD 0
    .next (s.serveAt r (some (((s.findTask t).map (·.space)).getD 0, posCore t.pos)) (posCore t.pos) va s.msg fun at_ travel rs k s =>
      if hub then s.post (at_ + travel) tieHub .callReply (.callReply t id rs k)
      else if at_ = s.cycle then s.answerCall t id r.pos rs k
      else s.post at_ 0 .callServe (.callAnswer t id r.pos rs k))
  | .callAnswer t id from_ rs k => .next (s.answerCall t id from_ rs k)
  | .retireCall own x q =>
    .next (s.serveAt x.record none own 0 s.msg fun at_ travel _ _ s => s.post (at_ + travel + 8) 0 .callReply (.retired x q))
  | _ => .next s

/-- Would removing the copies of a reply's regions write into a vcache under reconfiguration? -/
def State.dropStuck (s : State) (p : Pos) (rs : List Region) : Bool :=
  rs.any fun r => (List.range 4).any fun j => liftStuck s (r.p * 4 + j) r.below (s.regionChain (s.task p).space (posCore p) r.v)

/-- The copies an acquirer removes for a reply's regions, dirty bytes lifted first (R329 step 2). -/
def State.dropRegions (s : State) (p : Pos) (rs : List Region) : Nat × State :=
  let core := posCore p
  rs.foldl (fun ks r =>
    let c := ks.2.regionChain (ks.2.task p).space core r.v
    (List.range 4).foldl (fun (k, s) j =>
      let (_, s) := lift core r.below c (r.p * 4 + j) (([] : Written), s)
      removeCopies r.below c (r.p * 4 + j) (k, s)) ks) (0, s)

/-- Has a task earlier stores to the lines of some regions that have not completed (R329 step 1)? -/
def Task.storesTo (t : Task) (now : Nat) (rs : List Region) : Bool :=
  t.pend.any fun a => a.write && (match a.doneAt with | some c => decide (now < c) | none => true) &&
    a.ranges.any fun x => rs.any fun r => decide (x.1 < r.p * 4 + 4) && decide (r.p * 4 < x.2)

/-- The number under which a call's instruction inherits: that of the release a read-modify-write seals (R325), 0 for an acquire,
whose inherited entries are open. -/
def Call.sealNo (c : Call) : Nat := match c.after with
  | .rmw _ m _ => if m.rel then m.num else 0
  | .pass r => match r.op with | .release _ m => m.num | _ => 0
  | _ => 0

/-- CALL_REPLY (R329, R331): the acquirer removes its older copies and inherits the regions; or one of its calls has finished
and, with the last, its instruction goes on. An instruction whose own new record must cover a head that lists no regions, because
it is gone, drained or whole-space, marks its hand whole-space (DEDUCED, log entry 46). -/
def callReplied (s : State) (t : Tk) (id : Nat) (rs : List Region) (k : ReplyKind) : State :=
  match s.mem.calls.find? fun c => c.t == t && c.id == id with
  | none => s
  | some c =>
    if !s.isAt t then
      -- a pre-empted acquirer's restore invalidates its new chain by its hand (R313)
      s.onTask t (fun x => if k = .regions then rs.foldl (fun x r => x.inherit r c.sealNo) x else { x with ws := true })
        |>.post s.cycle 0 .callReply (.callDone t id)
    else if k = .regions && ((s.task t.pos).storesTo s.cycle rs || s.dropStuck t.pos rs) then
      s.post (s.cycle + 1) (tieAt (posCore t.pos) t.pos) .callReply (.callReply t id rs k)
    else
      let (n, s) :=
        if !c.inval then (0, s)
        else if k ≠ .regions then s.selfInvalidate (s.task t.pos).space (posCore t.pos)
        else s.dropRegions t.pos rs
      let s := s.modTask t.pos fun x =>
        if k = .regions then rs.foldl (fun x r => x.inherit r c.sealNo) x
        else if c.sealNo ≠ 0 then { x with ws := true } else x
      let s := match k with
        | .lost va => s.modMem fun m => { m with calls := m.calls.map fun y => if y = c then { y with lost := true, va := if y.lost then y.va else va } else y }
        | _ => s
      s.postAt (s.cycle + 8 + 2 * n) t.pos .callReply (.callDone t id)

/-- The synchronisation-lost trap (Table 19-2). -/
def lostTrap (va : Nat) : Trap := { cause := 8, sub := 0, val := va, deferred := false }

/-- An acquire that finds its releaser reset writes its error record (Table 20-3). -/
def State.noteLost (s : State) (t : Tk) (lost : Bool) : State :=
  if lost then s.taskError (posCore t.pos) t { cycle := 0, code := 0x26, sev := 1 } else s

/-- Begin some calls of an instruction, with what follows them; `recs` are the records, each with the core of its ordering point and the
address of its location. A drained mark's self-invalidation takes 8 + 2 × lines (R334). -/
def State.beginCalls (s : State) (t : Tk) (id at_ : Nat) (inval : Bool) (recs : List (Nat × Nat × Record)) (after : AfterCall) : State :=
  let call : Call := { t := t, id := id, left := recs.length, inval := inval, places := recs.map fun x => (x.2.2, x.2.1), after := after }
  let s := s.modMem fun m => { m with calls := m.calls ++ [call] }
  recs.foldl (fun s x =>
    if x.2.2.mark then s.post at_ (tieAt (posCore t.pos) t.pos) .callReply (.callReply t id [] .selfInvalidate)
    else s.sendCall x.1 at_ t id x.2.2) s

/-- Begin the calls of an acquire at a scope (R326); none where no record leads to an action. -/
def State.acquire (s : State) (t : Tk) (id : Nat) (scope at_ : Nat) (recs : List (Nat × Nat × Record)) (after : AfterCall) : Option State :=
  let todo := recs.filter fun x => s.acqAct t.pos scope x.2.2 != .nothing
  if todo.isEmpty then none else some (s.beginCalls t id at_ true todo after)

/-- The core at which a location's ordering point stands (R335). -/
def State.ownCore (s : State) (loc : Nat) : Nat := if scratchBase ≤ loc then (loc - scratchBase) / 0x300000 else sliceCore (s.homeOf loc)

end Sys2Proof.Machine
end

