-- ==== Sys2Proof/Machine/Point.lean ====
section
/-! DEFINITION. What requests do at an ordering point, a home slice or a scratchpad owner's port: loads, stores, full/empty
members, reservations, ordered accesses and monitors (08_memory_access.md R249-R275, 11_ordering_across_cores.md R325, R332,
R333, 12_fences_and_home_slices.md R336-R344, 13_ordering_dies_and_engines.md R345). -/
namespace Sys2Proof.Machine

-- places of requests

/-- Is a request for a scratchpad? -/
def PortReq.scratch (r : PortReq) : Bool := decide (scratchBase ≤ r.loc)

/-- The owner core and window offset of a scratchpad request. -/
def PortReq.owner (r : PortReq) : Nat := (r.loc - scratchBase) / 0x300000
def PortReq.off (r : PortReq) : Nat := (r.loc - scratchBase) % 0x300000

/-- The location of a window byte whose page is pinned. -/
def State.bankLoc (s : State) (core space off : Nat) : Option Nat :=
  match s.mem.wpages.look (wpageKey core space (off / 4096)) with
  | some w => w.bank.map fun b => scratchLoc core b (off % 4096)
  | none => none

/-- The core at which a request's ordering point stands (R335). -/
def State.pointCore (s : State) (r : PortReq) : Nat := if r.scratch then r.owner else sliceCore (s.homeOf r.loc)

/-- Half the latency between a requester and a scratchpad owner (R250, Table 1-11): 11 for a cluster neighbour's load. -/
def portHalf (c owner : Nat) (load : Bool) : Nat :=
  if c = owner then 0
  else if load && clusterNo c == clusterNo owner then 11
  else 10 + 2 * routeHops c owner + (if coreDie c = coreDie owner then 0 else 80)

/-- Half the latency between a requester and its ordering point (Table 13-1). -/
def State.half (s : State) (r : PortReq) (load : Bool) : Nat :=
  if r.scratch then portHalf r.core r.owner load else 30 + s.crossing r.core r.loc

/-- Does a request travel as a load does? The release of an AMO takes as long as its grant (R263). -/
def PortOp.reads : PortOp → Bool
  | .load _ | .lda _ | .ldfe | .ldf | .feq | .reserve _ | .watch _ => true
  | .release _ m => m.op != 13
  | _ => false

/-- Is a request a counted message as it issues: a write to another core's scratchpad (R397)? An AMO's is its reservation. -/
def PortReq.counted (r : PortReq) : Bool :=
  r.scratch && r.core != r.owner && (match r.op with
    | .store _ _ | .stl _ _ | .stfe _ _ | .stf _ _ | .feset _ => true
    | .reserve m => decide (m.op ≤ 10)
    | .release _ m => m.op == 13 && !m.called
    | _ => false)

/-- A counted request is applied at its owner's port: an AMO's with its release, whatever that writes. -/
def State.recvReq (s : State) (r : PortReq) : State :=
  let counts := match r.op with
    | .reserve _ => false
    | .release _ m => r.scratch && r.core != r.owner && m.op != 12 && !m.back
    | _ => r.counted
  if counts then s.countRecv r.owner else s

/-- A counted request has been withdrawn before it had its effect. -/
def State.uncountSent (s : State) (r : PortReq) : State :=
  if r.counted then s.modCore r.core fun c => { c with sent := (c.sent + 2 ^ 32 - 1) % 2 ^ 32 } else s

/-- A full/empty store has had no effect, so that the FENCE `.rel` before it still waits for its store (R332). -/
def State.refundFence (s : State) (r : PortReq) : State :=
  match r.op with
  | .stfe _ (some x) | .stf _ (some x) => s.onTask r.t fun t => { t with fenceRel := some (x.num, x.scope, x.drain) }
  | _ => s

-- the request class: messages from one core to one ordering point arrive in the order they were sent (R312, R347)

/-- How a request of the request class that has arrived is held back: not at all, for its budget or an AMO, or by the retirement that
its record needs. -/
inductive HeldBy where
  | free | till | retirement
  deriving DecidableEq, Repr

/-- The lane of a message of the request class: the core it comes from, the core of its ordering point, and how it is held back. -/
def State.laneOf (s : State) (m : Msg) : Option (Nat × Nat × HeldBy) :=
  match m with
  | .remoteAccessArrival r | .homeSliceRequestArrival r | .postedWriteApply r =>
    some (r.core, s.pointCore r, if r.held then .till else .free)
  | .retireCall _ _ q | .retired _ q => some (q.core, s.pointCore q, .retirement)
  | .homeFill a => some (a.core, sliceCore (s.homeOf (a.line * 128)), if a.held then .till else .free)
  | _ => none

/-- When a request sent now arrives whose travel would end in `due`: not before the requests its core sent there before it. One held
back at its point has had its travel. -/
def State.laneDue (s : State) (c point due : Nat) : Nat :=
  s.agenda.foldl (fun d x => match x.msg with
    | .remoteAccessArrival r | .homeSliceRequestArrival r | .postedWriteApply r =>
      if r.core = c && s.pointCore r == point && !r.held then max d x.due else d
    | _ => d) due

/-- Are requests of a lane held back before this one? -/
def State.behindHeld (s : State) (c point : Nat) (held : Bool) : Bool :=
  s.agenda.any fun x => match s.laneOf x.msg with
    | some (c', p', .till) => c' == c && p' == point && (!held || decide (s.cycle < x.due))
    | some (c', p', .retirement) => c' == c && p' == point
    | _ => false

/-- The cycle in which the requests of a lane that are held back go on: a retirement's end is looked for every cycle. -/
def State.heldDue (s : State) (c point : Nat) : Nat :=
  s.agenda.foldl (fun d x => match s.laneOf x.msg with
    | some (c', p', .till) => if c' = c ∧ p' = point then max d x.due else d
    | some (c', p', .retirement) => if c' = c ∧ p' = point then max d (s.cycle + 1) else d
    | _ => d) s.cycle

/-- Charge a request that has arrived to its task's budgets and go on with it; one whose class has reached a limit waits for the
next period, and what its core sent to the point after it waits behind it (R371, R347). `held` is its message, held back. -/
def State.throttled (s : State) (c point : Nat) (t : Tk) (kinds : List Nat) (n : Nat) (was : Bool) (ev : Instr) (held : Msg)
    (go : State → State) (paid : Bool := false) : State :=
  let tie := if c = point then 0 else 16 + 16 * c
  if s.behindHeld c point was then s.post (s.heldDue c point) tie ev held
  else if paid then go s
  else match s.budgeted (coreDie c) t kinds n with
    | some s => go s
    | none => s.post s.nextPeriod tie ev held

/-- The event and message of a request's arrival: a scratchpad request at its owner's port, another at its home slice, a posted one
applied there. -/
def PortReq.arrival (r : PortReq) : Instr × Msg :=
  if r.scratch then (.remoteAccessArrival, .remoteAccessArrival r)
  else match r.op with
    | .posted _ _ => (.postedWriteApply, .postedWriteApply r)
    | _ => (.homeSliceRequestArrival, .homeSliceRequestArrival r)

/-- A request leaves for its ordering point (R250, R259, Table 13-1). -/
def State.transmit (s : State) (r : PortReq) : State :=
  s.post (s.laneDue r.core (s.pointCore r) (s.cycle + s.half r r.op.reads)) (tieAt (s.pointCore r) r.t.pos) r.arrival.1 r.arrival.2

/-- Send a request to its ordering point in cycle `at_`. -/
def State.sendReq (s : State) (at_ : Nat) (r : PortReq) : State :=
  -- what a tile instruction writes is counted as it issues
  let s := if r.counted && r.tries = 0 && !r.tile then s.countSent r.core else s
  if s.cycle < at_ then s.post at_ (tieAt r.core r.t.pos) r.arrival.1 (.sendOut r) else s.transmit r

-- answers

/-- The task that has an access `id` open, which a restore may have named anew since (R383). -/
def State.ownerOf (s : State) (t : Tk) (id : Nat) : Tk :=
  if (s.findTask t).isSome then t
  else match s.slots.find? fun x => x.2.resident && x.2.task.pend.any (·.id == id) with
    | some x => s.tk x.1
    | none => ((s.saved.find? fun y => y.task.pend.any (·.id == id)).map (·.t)).getD t

/-- The access `id` of a task completes in cycle `at_` (R311). A slot that a transaction parked for it goes on (R305). -/
def State.pendDoneAt (s : State) (t : Tk) (id at_ : Nat) : State :=
  let t := s.ownerOf t id
  (s.onTask t fun x => { x with pend := x.pend.map fun a => if a.id = id then { a with doneAt := some at_ } else a }).wakeTk t (.frozen id)

/-- The access `id` of a task has completed now. -/
def State.pendDone (s : State) (t : Tk) (id : Nat) : State := s.pendDoneAt t id s.cycle

/-- The poison trap of a class B member, precise at its instruction (Table 19-2). -/
def poisonTrap (va : Nat) : Trap := { cause := 4, sub := 0, val := va, deferred := false }

/-- A class B member completes in cycle `at_`. -/
def State.answer (s : State) (r : PortReq) (at_ : Nat) (f : Finish) : State :=
  s.postAt at_ r.t.pos .classBCompletion (.classBCompletion r.t r.id f)

/-- A request's answer leaves its ordering point, and would be at its requester in cycle `at_`: answers of one scratchpad's port to one
core arrive in the order they were sent (R347). -/
def State.reply (s : State) (r : PortReq) (at_ : Nat) (f : Finish) : State :=
  let (at_, s) := if r.scratch then s.laneTo r.owner r.core at_ else (at_, s)
  s.answer r at_ f

/-- An end with the request's destination, if it has one. -/
def PortReq.finish (r : PortReq) (v : Nat) : Finish := { dest := r.dest, value := v, trap := none, fault := none }

/-- A value of `n` bytes extended to 64 bits. -/
def extend (signed : Bool) (n v : Nat) : Nat :=
  if signed then (BitVec.signExtend 64 (BitVec.ofNat (8 * n) v)).toNat else v % 2 ^ (8 * n)

/-- A class L result and its poison, ready in cycle `at_` (R85). -/
def State.answerLong (s : State) (t : Tk) (id at_ v : Nat) (poison : Bool) : State :=
  let s := s.onTask t fun x => x.modOutst id fun o =>
    { o with value := v, fault := if poison then some { cause := 4, sub := 0, val := o.pc.toNat, deferred := true } else none }
  (s.pendDone t id).postAt at_ t.pos .longResultReady (.longResultReady t id)

/-- A plain load reads a location: where it has a record the task notes it, and a seventeenth note gives way to the oldest, whose
call comes first (R332). -/
def State.takeNote (s : State) (t : Tk) (va loc : Nat) : Option (Nat × Nat × Record) × State :=
  match s.recordAt loc with
  | none => (none, s)
  | some r =>
    let s := s.touchRecord loc
    let notes := ((s.findTask t).map (·.notes)).getD []
    let full := decide (16 ≤ notes.length)
    let s := s.onTask t fun x => { x with notes := x.notes.drop full.toNat ++ [{ loc := loc, record := r, va := va }] }
    (if full then notes.head?.map fun o => (s.ownCore o.loc, o.va, o.record) else none, s)

/-- A plain load has read a location: its result is ready in `at_`, or once the call that its note has made, at scope `.mod`, has
ended, until when the load has not completed (R332, R323). -/
def State.noteLoad (s : State) (t : Tk) (id va at_ loc : Nat) : State :=
  let (call, s) := s.takeNote t va loc
  let ready := (s.pendDone t id).postAt at_ t.pos .longResultReady (.longResultReady t id)
  let s := s.onTask t fun x => if x.pend.any (·.id == id) then x
    else { x with pend := x.pend ++ [{ id := id, write := false, ranges := [], ackOnly := false }] }
  (s.acquire t id 4 at_ call.toList (.load id)).getD ready

-- tracing (R344)

/-- Append an entry to a trace ring; a full ring overwrites its oldest. -/
def Ring.add (g : Ring) (e : Nat) : Ring :=
  if !g.on then g
  else if g.entries.length < 256 then { g with entries := g.entries ++ [e] }
  else { g with entries := g.entries.drop 1 ++ [e], passed := min (2 ^ 32 - 1) (g.passed + 1) }

/-- The code of a size in bytes (Table 3-11). -/
def sizeCode (n : Nat) : Nat := if n = 1 then 0 else if n = 2 then 1 else if n = 4 then 2 else 3

/-- A trace entry (Table 12-2). -/
def traceEntry (cycle data tag space kind pos sz addr : Nat) : Nat :=
  cycle % 2 ^ 64 * 2 ^ 192 + data % 2 ^ 64 * 2 ^ 128 + tag % 65536 * 2 ^ 112 + space * 2 ^ 100 + kind * 2 ^ 96 +
    posSlot pos * 2 ^ 92 + posCore pos * 2 ^ 82 + sz * 2 ^ 80 + addr % 2 ^ 52

/-- Record a write that arrives at a port from another core. -/
def State.tracePort (s : State) (owner space kind pos size off v : Nat) : State :=
  if posCore pos = owner then s else
  s.modCore owner fun c => { c with ring := c.ring.add (traceEntry s.cycle v 0 space kind pos (sizeCode size) off) }

/-- Record a write at a home slice. -/
def State.traceHome (s : State) (loc space kind pos size v : Nat) : State :=
  let h := s.homeOf loc
  if !(s.mem.rings.get {} h).on then s else
  let e := traceEntry s.cycle v (s.mem.seqs.get 0 (loc / 128)) space kind pos (sizeCode size) loc
  s.modMem fun m => { m with rings := m.rings.upd {} h (·.add e) }

/-- The aligned 8-byte words that `n` bytes at a location touch. -/
def wordsOf (loc n : Nat) : List Nat := (List.range ((loc + n - 1) / 8 + 1 - loc / 8)).map fun k => (loc / 8 + k) * 8

/-- Record a request's write of `v` where its ordering point keeps a ring; a tile write gives one entry per aligned 8-byte word. -/
def State.traceReq (s : State) (r : PortReq) (kind loc v : Nat) : State :=
  let put (s : State) (kind size loc v : Nat) (off : Nat) : State :=
    if r.scratch then s.tracePort r.owner r.space kind r.t.pos size off v else s.traceHome loc r.space kind r.t.pos size v
  if r.tile then (wordsOf loc r.size).foldl (fun s w => put s 6 8 w (s.bytesAt w 8) (r.off / 8 * 8 + (w - loc / 8 * 8))) s
  else put s kind r.size loc v r.off

-- writes at the ordering point

/-- Is a request applied in its own turn, as a local access is, a cycle before the port's (R315)? A release has travelled. -/
def PortReq.late (r : PortReq) : Nat :=
  if r.scratch && r.core == r.owner && !r.waited then (match r.op with | .release _ m => (m.op == 13).toNat | _ => 1) else 0

/-- Change a mapped window page. -/
def Mem.modWpage (m : Mem) (key : Nat) (f : WPage → WPage) : Mem :=
  match m.wpages.look key with
  | some w => { m with wpages := m.wpages.put key (f w) }
  | none => m

/-- Scratchpad words that a write touches are new: errors struck there are gone, and their page is dirty (R249). -/
def State.scratchWritten (s : State) (core space off loc n : Nat) : State :=
  s.modMem fun m =>
    { (m.modWpage (wpageKey core space (off / 4096)) fun w => { w with dirty := true }) with
             errWords := m.errWords.filter fun e => e * 4 + 4 ≤ loc || loc + n ≤ e * 4 }

/-- Lines that a write covers whole are as clean of poison as its bytes (R476). -/
def State.cleanWhole (s : State) (loc n : Nat) : State :=
  (List.range ((loc + n) / 128 - (loc + 127) / 128)).foldl (fun s k => s.setPoison ((loc + 127) / 128 + k) false) s

/-- Write bytes at a request's ordering point: a scratchpad word directly; a global line after every dirty byte held elsewhere
has been lifted and no older copy is left (R320, R338), which takes the time of the probe (R294). Monitors on the line wake. -/
def State.writePoint (s : State) (r : PortReq) (loc n v : Nat) : Nat × State :=
  let (k, s) :=
    if r.scratch then (0, (s.putBytesAt loc n v).scratchWritten r.owner r.space r.off loc n)
    else
      let (k, s) := s.probe (loc / 128)
      (k, (s.putBytesAt loc n v).bufWrite (loc / 128) (n == 128))
  (probeCost k, (s.cleanWhole loc n).wakeMonitors loc r.late)

/-- What a plain write does to its locations' records: none remains, but that a FENCE `.rel` before it makes it write one
(Table 11-3, R332). -/
def State.plainRecord (s : State) (loc n : Nat) (rec? : Option Record) : State :=
  let s := (wordsOf loc n).foldl (fun s w => s.clearRecord w) s
  match rec? with
  | some r => s.writeRecord loc r
  | none => s

/-- Does a request write a release record? -/
def PortReq.writesRecord (r : PortReq) : Bool :=
  match r.op with
  | .stl _ _ | .store _ (some _) | .posted _ (some _) | .stfe _ (some _) | .stf _ (some _) => true
  | .release (some _) m => m.rel
  | _ => false

/-- A request goes on at its ordering point, unless its record needs room: then it waits for the retirement of the record that it
displaces (R262, R324). -/
def State.withRoom (s : State) (r : PortReq) (loc : Nat) (go : State → State) : State :=
  match (if r.writesRecord then s.displaced loc else none) with
  | some (own, x) => s.beginRetire own x { r with waited := true }
  | none => go s

-- uncorrectable words (R249)

/-- Does a read of scratchpad bytes meet an uncorrectable word? -/
def State.scratchErr (s : State) (loc n : Nat) : Bool :=
  s.mem.errWords.any fun e => decide (e * 4 < loc + n) && decide (loc < e * 4 + 4)

/-- Serve an uncorrectable word in a pinned page: a clean page's line is read again from its backing, poison and all; a dirty
page's has no good copy, which is uncontained (R249). -/
def State.serveScratchErr (s : State) (core space off loc : Nat) : State :=
  let key := wpageKey core space (off / 4096)
  match s.mem.wpages.look key with
  | none => s
  | some w =>
    if w.dirty then s.post s.cycle 0 .reset (.uncontained core loc 0x22 (mkPos core 0))
    else
      match s.placeNow core space (s.space space).world false (w.backing + off % 4096 / 128 * 128) with
      | .error _ => s
      | .ok pl =>
        let s := s.errorEvent core { cycle := 0, code := 0x02, sev := 0, addr := w.backing, space := space }
        let ((d, p, _), s) := readLine core (if pl.sync then [] else s.chain space core pl.vc) (pl.loc / 128) (~~~0) pl.tensor pl.world s
        let line := loc / 128
        let s := s.putBytesAt (line * 128) 128 d.toNat
        let s := s.modMem fun m => { m with errWords := m.errWords.filter fun e => e / 32 != line }
        s.setPoison line p

/-- The bytes of a scratchpad location, errors served, and whether they are poisoned: a fenced cordon gives poison (R475). -/
def State.readScratch (s : State) (core space off loc n : Nat) : Nat × Bool × State :=
  let s := if s.scratchErr loc n then s.serveScratchErr core space off loc else s
  (s.bytesAt loc n, s.poisoned loc || (s.core core).fenced, s)

-- full/empty bits (R251, R252, R254)

/-- Is every word of a location full? -/
def State.isFull (s : State) (loc n : Nat) : Bool := allBelow (n / 4) fun k => !s.mem.empties.contains (loc / 4 + k)

/-- Is every word of a location empty? -/
def State.isEmptyWord (s : State) (loc n : Nat) : Bool := allBelow (n / 4) fun k => s.mem.empties.contains (loc / 4 + k)

/-- Set the full/empty bits of a location. -/
def State.setFull (s : State) (r : PortReq) (loc n : Nat) (full : Bool) : State :=
  s.modMem fun m =>
    { (m.modWpage (wpageKey r.owner r.space (r.off / 4096)) fun w => { w with feDirty := true }) with
      empties := if full then m.empties.filter fun e => e < loc / 4 || loc / 4 + n / 4 ≤ e
                 else (List.range (n / 4)).foldl (fun l k => if l.contains (loc / 4 + k) then l else (loc / 4 + k) :: l) m.empties }

/-- Does a full/empty member's condition hold (Table 8-3)? -/
def State.feReady (s : State) (r : PortReq) (loc : Nat) : Bool :=
  match r.op with
  | .ldfe | .ldf => s.isFull loc r.size
  | .stfe _ _ => s.isEmptyWord loc r.size
  | _ => true

/-- When a full/empty member's answer is there (R252, R254, R277): a local one that did not wait 10 cycles after issue. `late` is 1
where the step that serves it is a local access in its turn, which the port applies in the next cycle (R315). -/
def State.feTime (s : State) (r : PortReq) (load : Bool) (late : Nat) : Nat :=
  if r.core = r.owner then (if r.waited then s.cycle + late + 4 else r.start + 10) else s.cycle + late + s.half r load

/-- Apply a full/empty member whose condition holds, as one step at the owner's port; the cycle it completes in and its value
follow. -/
def State.feApply (s : State) (r : PortReq) (loc late : Nat) : State :=
  let s := s.recvReq r
  let done (s : State) (load : Bool) (v : Nat) : State := s.reply r (s.feTime r load late) (r.finish v)
  match r.op with
  | .ldfe =>
    let (v, p, s) := s.readScratch r.owner r.space r.off loc r.size
    if p then s.reply r (s.feTime r true late) { r.finish 0 with fault := some (poisonTrap r.va) }
    else done (s.setFull r loc r.size false) true v
  | .ldf =>
    let (v, p, s) := s.readScratch r.owner r.space r.off loc r.size
    if p then s.reply r (s.feTime r true late) { r.finish 0 with fault := some (poisonTrap r.va) }
    else
      -- LDF notes the record as a plain load does (R332)
      let (call, s) := s.takeNote r.t r.va loc
      (s.acquire r.t r.id 4 (s.feTime r true late) call.toList (.finish (r.finish v))).getD (done s true v)
  | .stfe v rec? | .stf v rec? =>
    let (_, s) := s.writePoint r loc r.size v
    done (((s.traceReq r 1 loc v).plainRecord loc r.size rec?).setFull r loc r.size true) false 0
  | .feq =>
    let b (k : Nat) : Nat := if s.mem.empties.contains (loc / 4 + k) then 0 else 1
    done s true (if r.size = 8 then b 0 + 2 * b 1 else b 0)
  | .feset v => done (s.setFull r loc r.size (bit v 0)) false 0
  | _ => s

/-- Serve the waiters of a scratchpad location in the order of their arrival until none can go on (R254). -/
def State.serveWaiters (loc n late : Nat) : Nat → State → State
  | 0, s => s
  | fuel + 1, s =>
    let here (r : PortReq) : Bool := match s.bankLoc r.owner r.space r.off with
      | some l => decide (l < loc + n) && decide (loc < l + r.size) && s.feReady r l
      | none => false
    match s.mem.feWait.find? here with
    | none => s
    | some r =>
      let s := s.modMem fun m => { m with feWait := m.feWait.erase r }
      match s.bankLoc r.owner r.space r.off with
      | some l => State.serveWaiters loc n late fuel (s.withRoom { r with waited := true } l fun s => s.feApply { r with waited := true } l late)
      | none => s

/-- A write or a bit change at a scratchpad word is followed by its waiters. -/
def State.afterScratch (s : State) (loc n late : Nat) : State := State.serveWaiters loc n late (s.mem.feWait.length + 1) s

/-- Remote waiters of an owner core (R255). -/
def State.parkTable (s : State) (owner : Nat) : Nat :=
  (s.mem.feWait.filter fun r => r.owner == owner && r.core != owner).length

/-- A full/empty member arrives: it is applied, waits, or finds the park table full and is refused (R254, R255). One that has waited
already, for the retirement of a record, keeps its place. -/
def State.feArrive (s : State) (r : PortReq) (loc : Nat) : State :=
  if s.feReady r loc then s.withRoom r loc fun s => (s.feApply r loc r.late).afterScratch loc r.size r.late
  else if r.waited then s.modMem fun m => { m with feWait := r :: m.feWait }
  else if r.core ≠ r.owner && decide (64 ≤ s.parkTable r.owner) then
    let (due, s) := s.laneTo r.owner r.core (s.cycle + s.half r r.op.reads)
    s.post due (tieAt r.core r.t.pos) .feRequestRetry (.feRequestRetry r)
  else s.modMem fun m => { m with feWait := m.feWait ++ [{ r with waited := true }] }

-- read-modify-writes (R263-R267)

/-- Grant a reservation: the word goes to the holder (R263). HOLD starts the time after which it is revoked (R266). -/
def State.grant (s : State) (r : PortReq) (m : Rmw) (loc : Nat) (queue : List PortReq) : State :=
  let s := (s.touchRecord loc).modMem fun x => { x with resv := x.resv.put (loc / 8) { t := r.t, id := r.id, hold := m.op == 12, since := s.cycle, queue := queue } }
  let (v, p, s) := if r.scratch then s.readScratch r.owner r.space r.off loc r.size
    else (s.bytesAt loc r.size, s.poisoned loc, s)
  let (leave, s) := if r.scratch then (s.cycle, s) else s.homeRead (loc / 128)
  let (arrive, s) := if !r.scratch then (leave + s.half r true, s) else if r.core = r.owner then (leave + 10, s)
    else s.laneTo r.owner r.core (leave + s.half r true)
  let s := if m.op = 12 then
      let s := if r.scratch then s else s.traceHome loc r.space 3 r.t.pos r.size v
      s.post (s.cycle + 65536) tieHub .reservationTimeout (.reservationTimeout r.t (loc / 8) s.cycle)
    else s
  s.post arrive (tieAt r.core r.t.pos) .reservationGrant (.reservationGrant r v (s.recordAt loc) p)

/-- Free a location's reservation and grant the next request in order (R263). -/
def State.nextGrant (s : State) (key : Nat) : State :=
  match s.mem.resv.look key with
  | none => s
  | some x =>
    match x.queue with
    | [] => s.modMem fun m => { m with resv := m.resv.del key }
    | r :: q =>
      match r.op, (if r.scratch then s.bankLoc r.owner r.space r.off else some r.loc) with
      | .reserve m, some loc => s.grant r m loc q
      | _, _ => s.modMem fun m => { m with resv := m.resv.del key }

/-- Revoke the reservation of a location that is held, the word unchanged: the task holds none any more (R266). -/
def State.revokeAt (s : State) (key : Nat) : State :=
  match s.mem.resv.look key with
  | some x => (s.onTask x.t fun t => { t with held := none }).nextGrant key
  | none => s

/-- Revoke the reservation a task holds. -/
def State.revoke (s : State) (t : Tk) : State :=
  match s.mem.resv.find? fun x => x.2.t == t && x.2.hold with
  | some (k, _) => s.revokeAt k
  | none => s

/-- RESERVATION_TIMEOUT (R266): a reservation held 65 536 cycles is revoked. -/
def execReservationTimeout (s : State) : Out :=
  match s.msg with
  | .reservationTimeout t key since =>
    .next (match s.mem.resv.look key with
      | some x => if x.t = t && x.hold && x.since = since then s.revokeAt key else s
      | none => s)
  | _ => .next s

/-- Does a release's instruction still have the reservation of its location? -/
def State.ownsResv (s : State) (r : PortReq) (m : Rmw) (loc : Nat) : Bool :=
  match s.mem.resv.look (loc / 8) with
  | some x => x.t == r.t && (x.id == r.id || (m.op == 13 && x.hold))
  | none => false

/-- The live record of another task that a read-modify-write of a task with a release part must call first (R325). -/
def Record.calledBy (x : Record) (t : Tk) : Bool := !x.mark && !(x.pos == t.pos && x.serial == t.serial)

/-- A release over a drained mark: what the mark stood for is at home, and the new record must say so to whoever acquires it. The
hand is marked whole-space (DEDUCED, log entry 46). -/
def State.overMark (s : State) (t : Tk) (rel : Bool) (x : Option Record) : State :=
  if rel && x.any (·.mark) then s.onTask t fun k => { k with ws := true } else s

/-- The record that a read-modify-write with a release part writes (Table 11-3). -/
def State.rmwRecord (s : State) (t : Tk) (m : Rmw) : Record :=
  let k := (s.findTask t).getD {}
  { num := m.num, drain := k.drains, serial := t.serial, space := k.space, scope := m.scope, pos := t.pos, mark := false }

/-- A release of a reservation arrives: the bank applies the new word, if any, with its record, and grants the next
(R263, Table 11-3). A HOLD's release is PASS's: it is lost where the reservation has been revoked meanwhile (R266), and with a
release part it first makes the call of a live record of another task (R325). -/
def State.applyRelease (s : State) (r : PortReq) (m : Rmw) (v : Option Nat) (loc : Nat) : State :=
  let at_ := if r.scratch && r.core == r.owner then max (s.cycle + 1) (r.start + 10) else s.cycle + s.half r false
  let rec? := s.recordAt loc
  if !s.ownsResv r m loc then
    let s := (s.recvReq r).pendDone r.t r.id
    if m.op = 13 then s.reply r at_ { r.finish 0 with fault := some { cause := 2, sub := 6, val := r.va, deferred := false } } else s
  else if m.op = 13 && m.rel && !m.called && rec?.any (·.calledBy r.t) then
    s.beginCalls r.t r.id s.cycle false ((rec?.map fun x => (s.pointCore r, r.va, x)).toList) (.pass { r with op := .release v { m with called := true } })
  else s.withRoom r loc fun s =>
    let s := s.recvReq r
    let kind := if m.op = 13 then 4 else 2
    let (cost, s) := match v with
      | none => (0, if !r.scratch && m.op ≤ 10 then s.traceHome loc r.space kind r.t.pos r.size (s.bytesAt loc r.size) else s)
      | some v =>
        let (n, s) := s.writePoint r loc r.size v
        (n, s.traceReq r kind loc v)
    let s := if m.rel && v.isSome then (s.overMark r.t (m.op == 13) rec?).writeRecord loc (s.rmwRecord r.t m) else s
    let s := (s.nextGrant (loc / 8)).pendDone r.t r.id
    let s := if m.op = 13 then s.reply r (at_ + cost) (r.finish 0) else s
    if r.scratch && v.isSome then s.afterScratch loc r.size r.late else s

-- monitors (R274)

/-- The status a woken waiter gets, and when (R274). -/
def State.wakeMonitor (s : State) (m : Monitor) : State :=
  let s := s.modMem fun x => { x with monitors := x.monitors.filter (· != m) }
  let d := if s.bytesAt m.loc 8 = m.expected then 1 else 0
  let far := if coreDie m.core = coreDie m.point then 20 else 100
  s.postAt (s.cycle + far + 2 * routeHops m.point m.core) m.t.pos .classBCompletion
    (.classBCompletion m.t m.id (Finish.value_ m.dest d))

/-- MONITOR_WAKE (R274): a write, or a WAKE, has reached a monitored line. -/
def execMonitorWake (s : State) : Out :=
  match s.msg with
  | .monitorWake t id _ => .next (match s.mem.monitors.find? fun m => m.t == t && m.id == id with
      | some m => s.wakeMonitor m
      | none => s)
  | .monitorScan loc => .next (s.wakeMonitors loc)
  | _ => .next s

/-- WAITA's read at the ordering point (R274). -/
def State.watch (s : State) (r : PortReq) (loc expected : Nat) : State :=
  let (v, p, s) := if r.scratch then s.readScratch r.owner r.space r.off loc 8 else (s.bytesAt loc 8, s.poisoned loc, s)
  let (leave, s) := if r.scratch then (s.cycle, s) else s.homeRead (loc / 128)
  let at_ := if r.scratch && r.core == r.owner then r.start + 10 else leave + s.half r true
  let n := (s.mem.monitors.filter fun m => clusterNo m.core == clusterNo r.core).length
  if p then s.reply r at_ { r.finish 0 with fault := some (poisonTrap r.va) }
  else if v ≠ expected then s.reply r at_ (r.finish 0)
  else if 64 ≤ n then s.reply r at_ (r.finish 2)
  else s.modMem fun m => { m with monitors := m.monitors ++
    [{ t := r.t, id := r.id, core := r.core, loc := loc, expected := expected, point := s.pointCore r, dest := r.dest.getD 0 }] }

-- requests at their ordering point

/-- Apply a request at its ordering point; `loc` is where its bytes are. -/
def State.applyReq (s : State) (r : PortReq) (loc : Nat) : State :=
  match r.op with
  | .load sg =>
    let (v, p, leave, s) :=
      if r.scratch then
        let (v, p, s) := s.readScratch r.owner r.space r.off loc r.size
        (v, p, s.cycle, s)
      else
        let (leave, t) := s.homeRead (loc / 128)
        (s.bytesAt loc r.size, s.poisoned loc, leave, t)
    let s := s.onTask r.t fun x => x.modOutst r.id fun o =>
      { o with value := extend sg r.size v, fault := if p then some { cause := 4, sub := 0, val := o.pc.toNat, deferred := true } else none }
    let (at_, s) := if r.scratch then s.laneTo r.owner r.core (leave + s.half r true) else (leave + s.half r true, s)
    s.noteLoad r.t r.id r.va at_ loc
  | .store v rec? => s.withRoom r loc fun s =>
    let (cost, s) := (s.recvReq r).writePoint r loc r.size v
    let s := if r.scratch then s.traceReq r 0 loc v else s
    let s := s.plainRecord loc r.size rec?
    if r.scratch then
      let (due, s) := s.laneTo r.owner r.core (s.cycle + s.half r false)
      (s.post due (tieAt r.core r.t.pos) .remoteStoreAck (.remoteStoreAck r.t r.id)).afterScratch loc r.size r.late
    else (s.onTask r.t fun t => t.enterHand r.va loc).pendDoneAt r.t r.id (s.cycle + cost)
  | .posted _ _ => s
  | .lda scope =>
    let (v, p, s) := if r.scratch then s.readScratch r.owner r.space r.off loc r.size else (s.bytesAt loc r.size, s.poisoned loc, s)
    let (leave, s) := if r.scratch then (s.cycle, s) else s.homeRead (loc / 128)
    let at_ := if r.scratch && r.core == r.owner then r.start + 10 else leave + s.half r true
    if p then s.reply r at_ { r.finish 0 with fault := some (poisonTrap r.va) }
    else
      let f := r.finish v
      let s := s.touchRecord loc
      let recs := ((s.recordAt loc).map fun x => (s.pointCore r, r.va, x)).toList
      (s.acquire r.t r.id scope at_ recs (.finish f)).getD (s.reply r at_ f)
  | .stl v rec_ => s.withRoom r loc fun s =>
    let (cost, s) := (s.recvReq r).writePoint r loc r.size v
    let s := if r.scratch then s.traceReq r 0 loc v else s
    let s := s.writeRecord loc rec_
    let at_ := if r.scratch && r.core == r.owner then max (s.cycle + 1) (r.start + 10) else s.cycle + s.half r false
    let s := s.reply r (at_ + cost) (r.finish 0)
    if r.scratch then s.afterScratch loc r.size r.late else s
  | .ldfe | .ldf | .feq | .stfe _ _ | .stf _ _ | .feset _ => s.feArrive r loc
  | .reserve m =>
    match s.mem.resv.look (loc / 8) with
    | none => s.grant r m loc []
    | some x => s.modMem fun k => { k with resv := k.resv.put (loc / 8) { x with queue := x.queue ++ [r] } }
  | .release v m => s.applyRelease r m v loc
  | .watch e => s.watch r loc e

/-- A fenced cordon's port: plain stores and STF are lost with an error record, the rest take poison (R475). -/
def State.fencedPort (s : State) (r : PortReq) : State :=
  let lost (s : State) : State :=
    s.taskError r.owner r.t { cycle := 0, code := 0x21, sev := 1, addr := r.va, space := r.space, world := r.world }
  match r.op with
  | .load _ => s.answerLong r.t r.id (s.cycle + s.half r true) 0 true
  | .store _ _ => (lost s).post (s.cycle + s.half r false) (tieAt r.core r.t.pos) .remoteStoreAck (.remoteStoreAck r.t r.id)
  | .stf _ _ => s |> lost |>.reply r (s.cycle + s.half r false) (r.finish 0)
  | .posted _ _ => s
  | _ => (s.refundFence r).reply r (s.cycle + s.half r r.op.reads) { r.finish 0 with fault := some (poisonTrap r.va) }

/-- The access kind of a request's fault record (Table 19-5). -/
def PortOp.kind : PortOp → Nat
  | .load _ | .lda _ | .ldf | .feq | .watch _ => 0
  | _ => 1

/-- REMOTE_ACCESS_ARRIVAL (R250, R255, R315): a request arrives at a scratchpad owner's port. A page that is not pinned any
more is refilled first (R248); one that is not mapped any more faults its requester. Neither record parks the requester's slot. -/
def State.portArrive (s : State) (r : PortReq) : State :=
  if (s.core r.owner).fenced then s.fencedPort r
  else match s.bankLoc r.owner r.space r.off with
  | some loc => s.applyReq r loc
  | none =>
    if (s.mem.wpages.look (wpageKey r.owner r.space (r.off / 4096))).isSome then
      s.joinRefill r.owner r.space (r.off / 4096) none (some r) fun s =>
        s.sendRecord r.owner { cycle := s.cycle, addr := r.va, pc := r.pc, cause := 0x42, behalf := true, acc := r.op.kind, space := r.space,
                               slot := r.t.pos, world := r.world }
    else s.behalfFault r.t r.pc 0x40 2 r.va r.op.kind r.space r.world

/-- Withdraw a request of a task being pre-empted from where it waits at its ordering point, if it waits there (R256, R263):
it has had no effect, and its instruction issues again. -/
def State.withdrawn (s : State) (t : Tk) (id : Nat) : State :=
  let mine (r : PortReq) : Bool := r.t == t && r.id == id
  match (s.mem.feWait.find? mine).or ((s.mem.refills.findSome? fun x => x.reqs.find? mine).or
    (s.mem.resv.findSome? fun x => x.2.queue.find? mine)) with
  | none => s
  | some r =>
  let s := (s.uncountSent r).refundFence r
  let s := s.modMem fun m =>
    { m with feWait := m.feWait.filter fun r => !mine r,
             refills := m.refills.map fun x => { x with reqs := x.reqs.filter fun r => !mine r },
             resv := m.resv.map fun x => (x.1, { x.2 with queue := x.2.queue.filter fun r => !mine r }) }
  let s := s.onTask t fun k => { k with pend := k.pend.filter (·.id != id) }
  (s.wakeTk t (.fullEmpty id)).wakeTk t (.grant id)

def execRemoteAccessArrival (s : State) : Out :=
  match s.msg with
  | .remoteAccessArrival r =>
    .next (s.throttled r.core r.owner r.t (if coreDie r.core = coreDie r.owner then [] else [1]) r.size r.held
      .remoteAccessArrival (.remoteAccessArrival { r with held := true }) fun s => s.portArrive r)
  | .sendOut r => .next (s.transmit r)
  | .withdraw t id => .next (s.withdrawn t id)
  | _ => .next s

/-- REMOTE_STORE_ACK (R250, R258). -/
def execRemoteStoreAck (s : State) : Out :=
  match s.msg with
  | .remoteStoreAck t id => .next (s.pendDone t id)
  | _ => .next s

/-- FE_REQUEST_RETRY (R255): a refusal has arrived. The request goes out again 32 cycles later, at most FERETRY times; the next
refusal is the task-level trap "FE retry limit". -/
def execFeRequestRetry (s : State) : Out :=
  match s.msg with
  | .feRequestRetry r =>
    .next (
      let limit := ((s.findTask r.t).map (·.feRetry)).getD 0
      if limit ≤ r.tries then
        (s.refundFence r).answer r s.cycle { r.finish 0 with fault := some { cause := 5, sub := 0, val := r.va, deferred := false } }
      else s.sendReq (s.cycle + 32) { r with tries := r.tries + 1 })
  | _ => .next s

-- lines at their home slices

/-- A fill request reaches home: the line as it stands there, ready when the slice or its tier supplies it (Table 13-1). A
store with an empty chain merges its bytes there (R280, R292). -/
def State.homeFill (s : State) (a : Acc) (levels : Nat) : State :=
  if a.write then
    let s := s.mergeHome a.line (maskOf a.off a.size) (BitVec.ofNat 1024 (a.data * 2 ^ (8 * a.off))) false
    (s.onTask a.t fun t => t.enterHand a.va (a.line * 128 + a.off)).pendDone a.t a.id
  else
  let (leave, s) := s.homeRead a.line
  -- what a set on the way added to the request's travel does not lengthen the latency (R289)
  let late := s.cycle - (a.start + 30 + s.crossing a.core (a.line * 128))
  s.post (max s.cycle (leave + 30 + s.crossing a.core (a.line * 128) - late)) (tieAt a.core a.t.pos) .lineFill
    (.lineFill a levels (s.homeLine a.line) (s.linePoisoned a.line))

/-- HOME_SLICE_REQUEST_ARRIVAL (R336): a request, or the fill of a line, arrives at its home slice. -/
def execHomeSliceRequestArrival (s : State) : Out :=
  match s.msg with
  | .homeSliceRequestArrival r =>
    .next (s.throttled r.core (s.pointCore r) r.t (s.homeKinds r.core r.loc) r.size r.held
      .homeSliceRequestArrival (.homeSliceRequestArrival { r with held := true }) fun s => s.applyReq r r.loc)
  | .sendOut r => .next (s.transmit r)
  | .homeFill a =>
    .next (s.throttled a.core (sliceCore (s.homeOf (a.line * 128))) a.t (s.homeKinds a.core (a.line * 128)) 128 a.held
      .homeSliceRequestArrival (.homeFill { a with held := true }) fun s => s.homeFill a a.level)
  | .writeBackArrival .. => .next (s.backArrives s.msg)
  | _ => .next s

/-- Does a posted write wait at its home: an AMO on a word of its own stands between its grant and its release, whose old value
reflects exactly the posted writes with earlier tags (R259); or an earlier posted write to its line waits, since tags go by the order
of arrival? -/
def State.postedWaits (s : State) (r : PortReq) : Bool :=
  (wordsOf r.loc r.size).any (fun w => match s.mem.resv.look (w / 8) with | some x => !x.hold | none => false) ||
    s.agenda.any fun x => match x.msg with
      | .postedWriteApply q => q.paid && q.loc / 128 == r.loc / 128 && (!r.paid || decide (s.cycle < x.due))
      | _ => false

/-- A posted write at its home slice (R337, R338): the slice probes every holder, applies the write and assigns the line's next tag;
the acknowledgement follows, 90 cycles later on one die and 170 across dies. Where a FENCE `.rel` came before it, it writes the
fence's record (R332). -/
def State.applyPosted (s : State) (r : PortReq) (v : Nat) (rec? : Option Record) : State :=
  if s.postedWaits r then s.post (s.cycle + 1) 0 .postedWriteApply (.postedWriteApply { r with held := true, paid := true })
  else s.withRoom r r.loc fun s =>
    let line := r.loc / 128
    let (k, s) := s.probe line
    let s := (((s.putBytesAt r.loc r.size v).bufWrite line (r.size == 128)).cleanWhole r.loc r.size).nextTag line
    let s := (s.traceReq r 5 r.loc v).plainRecord r.loc r.size rec?
    (s.wakeMonitors r.loc).postAt (s.cycle + 90 + s.crossing r.core r.loc + probeCost k) r.t.pos .postedWriteAck (.postedWriteAck r.t r.id)

/-- The retirement of a displaced record has ended, and the request that waited for the room goes on at its ordering point. -/
def State.endRetire (s : State) (x : LocRec) (q : PortReq) : State :=
  let s := s.markRetired x
  if q.scratch then s.portArrive q
  else match q.op with
    | .posted v rec? => s.applyPosted q v rec?
    | _ => s.applyReq q q.loc

/-- POSTED_WRITE_APPLY (R337, R338, R371). -/
def execPostedWriteApply (s : State) : Out :=
  match s.msg with
  | .postedWriteApply r =>
    match r.op with
    | .posted v rec? =>
      .next (s.throttled r.core (s.pointCore r) r.t (s.homeKinds r.core r.loc) r.size r.held
        .postedWriteApply (.postedWriteApply { r with held := true }) (fun s => s.applyPosted r v rec?) r.paid)
    | _ => .next s
  | .sendOut r => .next (s.transmit r)
  | _ => .next s

/-- POSTED_WRITE_ACK (R259, R338). -/
def execPostedWriteAck (s : State) : Out :=
  match s.msg with
  | .postedWriteAck t id => .next (s.pendDone t id)
  | _ => .next s

end Sys2Proof.Machine
end

