-- ==== Sys2Proof/Machine/VcacheFlow.lean ====
section
/-! DEFINITION. Accesses, fills and recalls moving through vcache sets in time (09_virtual_caches.md R287-R295, R300,
10_ordering_alone_and_in_core.md R316). -/
namespace Sys2Proof.Machine

/-- A slot whose access a transaction parks is parked with it (R300 step 1). -/
def State.parkIssuer (s : State) (a : Acc) : State :=
  if s.isAt a.t && (s.slot a.t.pos).st == .ready then s.park a.t.pos (.frozen a.id) else s

/-- Park an access until the transaction ends; fills it had begun below are forgotten, and what waited behind them is parked
with it (R300 steps 1 and 6). -/
def State.parkAcc (s : State) (a : Acc) : State :=
  let mine := s.mem.fills.filter (·.owner == a.id)
  let s := s.modMem fun m => { m with fills := m.fills.filter (·.owner != a.id) }
  let l := a :: mine.flatMap (·.waiting)
  l.foldl State.parkIssuer (s.modSpace a.space fun sp => { sp with parked := sp.parked ++ l.map fun x => { x with level := 0 } })

/-- Send an access home past the last level of its chain. -/
def State.sendHome (s : State) (a : Acc) (k : Nat) : State :=
  let h := sliceCore (s.homeOf (a.line * 128))
  s.post (max s.cycle (a.start + 30 + s.crossing a.core (a.line * 128))) (tieAt h a.t.pos) .homeSliceRequestArrival (.homeFill { a with level := k })

/-- May a read pass an instance by: it holds nothing of the line, no fill of it is under way there, no earlier store is on its way
there (R316), and no transaction parks it? -/
def State.passes (s : State) (a : Acc) (i : Inst) : Bool :=
  (s.vline i a.line).isNone && !s.frozenFor i a.va && !s.filling i a.line &&
    !s.agenda.any fun x => match x.msg with
      | .vcacheAccessArrival b => b.write && b.line == a.line && (s.chain b.space b.core b.first)[b.level]? == some i
      | _ => false

/-- A fill of a line in an instance for an access. -/
def Inst.fill (i : Inst) (a : Acc) (need : BitVec 128) : Fill :=
  { set := i.key a.line, line := a.line, owner := a.id, va := a.va, need := need }

/-- Send an access toward level `k` of its chain, or home past the last one, behind what its instances have written back of the line
(R288). A read that home supplies is not held up by a set that lies farther away than home does: its latency is that of the level
that supplies its bytes (R289; log entry 2). -/
def State.sendAcc (s : State) (a : Acc) (from_ : Nat) (k : Nat) (c : List Inst) : State :=
  let s := s.flushBacks fun n vc idx l => l == a.line && c.any fun i => i.space == n && i.vc == vc && i.idx == idx
  match (c)[k]? with
  | some i =>
    let to_ := i.lineCore a.line
    let due := max s.cycle a.start + setTravel from_ to_
    if !a.write && a.start + 30 + s.crossing a.core (a.line * 128) < due && (c.drop k).all (s.passes a) then
      let fills := ((c.drop k).filter fun i => !s.setFenced i a.line).map fun i => i.fill a (~~~0)
      let s := fills.foldl (fun s _ => s.tally 1 (clusterNo a.core) 1) s
      let s := if k = 0 && s.isAt a.t then s.countEv a.t.pos 6 1 else s
      (s.modMem fun m => { m with fills := m.fills ++ fills }).sendHome a c.length
    else s.post due (tieAt to_ a.t.pos) .vcacheAccessArrival (.vcacheAccessArrival { a with level := k })
  | none => s.sendHome a k

/-- Begin an access at its first level; an empty chain leads straight home (R280). -/
def State.startAcc (s : State) (a : Acc) : State := s.sendAcc a a.core 0 (s.chain a.space a.core a.first)

/-- An access begins again under the binding and chain that its address has now (R300 step 6, R304): a region bound sync-class meanwhile
is reached at home, and a store to a posted one is posted, the task's copies removed (R289, R259). -/
def State.restartAcc (s : State) (a : Acc) : State :=
  let a := { a with start := s.cycle, level := 0, lat := 0 }
  match (s.space a.space).bindingOf (a.va / 4096) with
  | none => s.startAcc { a with first := 0, tensor := 0 }
  | some b =>
    let r (op : PortOp) : PortReq :=
      { t := a.t, id := a.id, core := a.core, space := a.space, world := a.world, va := a.va, loc := a.line * 128 + a.off,
        size := a.size, op := op, dest := none, start := s.cycle, tries := 0 }
    if b.sync then s.sendReq s.cycle (r (if a.write then .store a.data none else .load a.signed))
    else if b.posted && a.write then
      let c := s.chain a.space a.core b.vc
      let (_, s) := lift a.core 9 c a.line (([] : Written), s)
      (removeCopies 9 c a.line (0, s)).2.sendReq s.cycle (r (.posted a.data none))
    else s.startAcc { a with first := b.vc, tensor := b.tensor }

/-- Has the region of an access that has not entered its first vcache yet been moved, so that it goes on under the new binding (R290,
R304)? -/
def State.rebound (s : State) (a : Acc) : Bool :=
  a.level == 0 && (match (s.space a.space).bindingOf (a.va / 4096) with
    | none => a.first != 0
    | some b => b.sync || (b.posted && a.write) || b.vc != a.first)

/-- A PREF is dropped: what waits behind the fills it began goes on, and nothing is installed (R273). -/
def State.dropPref (s : State) (a : Acc) : State :=
  let mine := s.mem.fills.filter (·.owner == a.id)
  let s := s.modMem fun m => { m with fills := m.fills.filter (·.owner != a.id) }
  ((mine.flatMap (·.waiting)).foldl (fun s x => s.post s.cycle 0 .vcacheAccessArrival (.vcacheAccessArrival { x with lat := 0 })) s).pendDone a.t a.id

/-- The bytes of an access within a line. -/
def Acc.value (a : Acc) (d : BitVec 1024) : Nat := extend a.signed a.size (d.toNat / 2 ^ (8 * a.off))

/-- An access has its line at its first level: its result is fixed, and is ready in `at_`. -/
def State.supplied (s : State) (a : Acc) (at_ : Nat) (d : BitVec 1024) (p : Bool) : State := s.answerLong a.t a.id at_ (a.value d) p

/-- A load misses at a level (R489). -/
def State.missed (s : State) (a : Acc) : State :=
  let s := s.tally 1 (clusterNo a.core) 1
  if a.level = 0 && s.isAt a.t then s.countEv a.t.pos 6 1 else s

/-- An access arrives at a set of its chain and is applied (R287, R288, R316). -/
def State.accArrive (s : State) (a : Acc) : State :=
  let c := s.chain a.space a.core a.first
  match (c)[a.level]? with
  | none => s.sendAcc a a.core a.level c
  | some i =>
    let up := c.drop (a.level + 1)
    if s.frozenFor i a.va then s.parkAcc a
    else if s.rebound a then s.restartAcc a
    else if s.setFenced i a.line then s.sendAcc a (i.lineCore a.line) (a.level + 1) c
    else
    let key := i.key a.line
    if s.mem.fills.any fun f => f.set == key && f.line == a.line && f.owner != a.id then
      s.modMem fun m => { m with fills := m.fills.map fun f =>
        if f.set = key && f.line = a.line then { f with waiting := f.waiting ++ [a] } else f }
    else if a.write then
      if s.roomStuck i up a.line then s.parkAcc a
      else
        let s := storeLine (i :: up) a.line (maskOf a.off a.size) (BitVec.ofNat 1024 (a.data * 2 ^ (8 * a.off))) a.tensor a.world s
        let s := s.onTask a.t fun t => t.enterHand a.va (a.line * 128 + a.off)
        s.pendDone a.t a.id
    else
      let need := if a.level = 0 then maskOf a.off a.size else a.need
      if a.pref && (s.vline i a.line).any (fun y => y.err || y.poison) then s.dropPref a else
      let s := match s.vline i a.line with
        | some y => if y.err then s.meetErr i up y a.core a.t.pos else s
        | none => s
      let miss (s : State) (need : BitVec 128) : State :=
        ((s.missed a).modMem fun m => { m with fills := m.fills ++ [i.fill a need] }).sendAcc { a with need := need } (i.lineCore a.line) (a.level + 1) c
      match s.vline i a.line with
      | some y =>
        if y.valid &&& need == need then
          let s := (s.putVline i y).tally 0 (clusterNo a.core) 1
          let ready := max s.cycle (a.start + max a.lat (i.latency a.core a.line))
          if a.level = 0 then s.supplied a ready y.data y.poison
          else s.post ready (tieAt a.core a.t.pos) .lineFill (.lineFill a a.level y.data y.poison)
        else miss s (~~~y.valid)
      | none => miss s (~~~0)

/-- VCACHE_ACCESS_ARRIVAL (R288): an access, or a child's write-back, which parks while its parent is under reconfiguration. -/
def execVcacheAccessArrival (s : State) : Out :=
  match s.msg with
  | .vcacheAccessArrival a => .next (s.accArrive a)
  | .writeBackArrival space vc idx _ _ _ _ _ _ =>
    .next (if s.backFrozen space vc idx then s.post (s.cycle + 1) 0 .vcacheAccessArrival s.msg else s.backArrives s.msg)
  | _ => .next s

/-- What waited behind a fill arrives now, in its order (R316), with the latency of the level that supplied it. -/
def State.releaseFill (s : State) (f : Fill) (lat : Nat) : State :=
  f.waiting.foldl (fun s x => s.post s.cycle 0 .vcacheAccessArrival (.vcacheAccessArrival { x with lat := lat }))
    (s.modMem fun m => { m with fills := m.fills.erase f })

/-- The fill an access has under way in an instance. -/
def State.fillOf (s : State) (a : Acc) (i : Inst) : Option Fill :=
  s.mem.fills.find? fun f => f.set == i.key a.line && f.line == a.line && f.owner == a.id

/-- Install a fill at the levels below the one that supplied it, from the top down (R287: fills allocate at each level). Where the
line has been removed meanwhile it stays away. -/
def installFill (c : List Inst) (a : Acc) (d : BitVec 1024) (p : Bool) : Nat → State → State
  | 0, s => s
  | k + 1, s =>
    match (c)[k]? with
    | none => installFill c a d p k s
    | some i =>
      match s.fillOf a i with
      | none => installFill c a d p k s
      | some f =>
        let s := s.releaseFill f (if f.stale then 0 else s.cycle - a.start)
        if f.stale then installFill c a d p k s
        else
          let up := c.drop (k + 1)
          let s := s.fillLine i up a.line a.tensor a.world d p
          let s := if up.isEmpty then s.fillRegion i a.line a.tensor a.world else s
          let y := (s.vline i a.line).getD { line := a.line }
          installFill c a y.data y.poison k s

/-- Does a level of a returning access lack bytes it was to give, because its line has been removed since they were left out of the
request? The access then begins again, so that no byte the task has written is missed (R290). -/
def State.fillBroken (s : State) (a : Acc) : BitVec 128 → List Inst → Bool
  | _, [] => false
  | want, i :: up => match s.fillOf a i with
    | none => s.fillBroken a want up
    | some f => (f.stale && want &&& ~~~f.need != 0) || s.fillBroken a f.need up

/-- Would a returning fill evict into a vcache whose transaction is past its waiting? It parks until the end (R300 step 1). -/
def State.fillStuck (s : State) (a : Acc) : List Inst → Bool
  | [] => false
  | i :: up =>
    ((s.fillOf a i).any fun f => !f.stale && !(s.space a.space).waiting && s.roomStuck i up a.line) || s.fillStuck a up

/-- Are accesses under way that had entered the vcache of a space's transaction, or its region there (R300 step 2, R304)? -/
def State.entered (s : State) (space : Nat) : Bool :=
  let sp := s.space space
  s.mem.fills.any fun f => f.set / 65536 / 1024 / 64 == space && sp.frozen.contains (f.set / 65536 / 1024 % 64) &&
    (match sp.frozenRegion with
     | none => true
     | some (base, pages) => base ≤ f.va / 4096 && f.va / 4096 < base + pages)

/-- LINE_FILL (R287): the line reaches the levels that missed it, and the access has its bytes. -/
def State.lineFilled (s : State) (a : Acc) (level : Nat) (d : BitVec 1024) (p : Bool) : State :=
  let c := s.chain a.space a.core a.first
  let s :=
    if a.pref && p then s.dropPref a
    else if s.fillBroken a (maskOf a.off a.size) c then
      let s := (c.filterMap (s.fillOf a)).foldl (fun s f => s.releaseFill f 0) s
      s.sendAcc { a with level := 0, lat := 0 } a.core 0 c
    else
      let whole : Bool := match c.head? with | some i => (s.fillOf a i).all (!·.stale) | none => false
      let s := installFill c a d p level s
      let (d, p) := match (if whole then c.head? else none) with
        | some i => ((s.vline i a.line).map fun y => (y.data, y.poison)).getD (d, p)
        | none => (d, p)
      s.supplied a s.cycle d p
  -- step 2 of a waiting transaction has ended when the last fill of its vcache has
  if !(s.space a.space).waiting || s.entered a.space then s
  else s.postHub s.cycle .configAgentTake (.configAgentTake a.space)

def execLineFill (s : State) : Out :=
  match s.msg with
  | .lineFill a level d p =>
    .next (if s.fillStuck a (s.chain a.space a.core a.first) then s.post (s.cycle + 1) (tieAt a.core a.t.pos) .lineFill s.msg
      else s.lineFilled a level d p)
  | _ => .next s

/-- HOME_PROBE (R293, R294): a displaced directory entry recalls its region, so that every vcache writes its dirty bytes home
and removes its lines; a displaced filter entry makes each core-local instance of its cluster evict the line; a region's
probe removes it from one vcache. -/
def execHomeProbe (s : State) : Out :=
  match s.msg with
  | .directoryRecall region => .next ((List.range 4).foldl (fun s k => (s.probe (region * 4 + k)).2) s)
  | .filterEvict cluster line =>
    .next (((s.holders line).filter fun i => i.df.place == 0 && clusterNo i.idx == cluster).foldl (fun s i =>
      match s.vline i line with
      | some y => (if y.dirty ≠ 0 then (s.orphan i y).sendBack i (s.above i) { y with poison := y.poison || y.err } else s).dropVline i line
      | none => s) s)
  | .homeProbe space vc region =>
    .next ((List.range 4).foldl (fun s k =>
      ((s.holders (region * 4 + k)).filter fun i => i.space == space && i.vc == vc).foldl (fun s i =>
        let (_, s) := lift i.aCore 9 (i :: s.above i) (region * 4 + k) (([] : Written), s)
        s.dropVline i (region * 4 + k)) s) s)
  | _ => .next s

end Sys2Proof.Machine
end

