-- ==== Sys2Proof/Machine/MemAccess.lean ====
section
/-! DEFINITION. Loads, stores, ordered accesses and full/empty members (08_memory_access.md R245-R262,
10_ordering_alone_and_in_core.md R311, R315, 11_ordering_across_cores.md R332, 16_light_tasks.md R410). -/
namespace Sys2Proof.Machine

-- overlap (R311)

/-- The units an access of `n` bytes at a place touches. -/
def Place.units (p : Place) (space n : Nat) : Nat × Nat :=
  if p.scratch then (scratchUnit p.owner space p.off, scratchUnit p.owner space (p.off + n - 1) + 1)
  else (p.loc / 128, (p.loc + n - 1) / 128 + 1)

/-- The units of an access to global memory by its virtual lines, numbered apart from the physical ones: for what has no translation. -/
def virtualUnits (space va n : Nat) : Nat × Nat :=
  (2 ^ 60 + space * 2 ^ 50 + va / 128, 2 ^ 60 + space * 2 ^ 50 + (va + n - 1) / 128 + 1)

/-- Do two half-open ranges meet? -/
def rangesMeet (a b : List (Nat × Nat)) : Bool := a.any fun x => b.any fun y => decide (x.1 < y.2) && decide (y.1 < x.2)

/-- Must an access wait in its turn for an earlier one of its task (R311, R164, R240)? -/
def Task.mustWait (t : Task) (now : Nat) (write : Bool) (rs : List (Nat × Nat)) : Bool :=
  t.pend.any fun a =>
    (match a.doneAt with | some c => decide (now ≤ c) | none => true) && (write || a.write) && rangesMeet a.ranges rs

/-- Record an access that has issued and not completed. -/
def Task.addPend (t : Task) (a : PendAcc) : Task := { t with pend := t.pend ++ [a] }

-- migration of light tasks (R410)

/-- Does an access make the task at the current position migrate? -/
def State.migrates (s : State) (p : Place) : Bool :=
  s.isLight s.cur && p.migrate && !p.scratch && sliceCore (s.homeOf p.loc) != posCore s.cur

/-- A migrating task parks without performing its access and is shipped from here (R411). -/
def State.beginMigration (s : State) (p : Place) : State :=
  (s.park s.cur .migrate).postAt s.cycle s.cur .migrationShip (.migrationShip (s.tk s.cur) (sliceCore (s.homeOf p.loc)) (s.cycle + 4))

-- the common start of an access

/-- Does an access of the current task to its own core's scratchpad wait in its turn for one of its core that its port holds back
(R312)? -/
def State.portHeld (s : State) (p : Place) : Bool :=
  p.scratch && p.owner == posCore s.cur && s.behindHeld p.owner p.owner false

/-- Check alignment, resolve, migrate a light task where its binding says so, and wait in the turn for overlapping earlier
accesses, and for what the core's own port holds back (R246, R245, R410, R311, R312). Words already popped stay kept (R23). -/
def withAccess (va n : Nat) (write migr : Bool) (s : State) (k : Place → State → State) : State :=
  if va % n ≠ 0 then s.formatFaultAt 1 va
  else withPlace va write s fun p s =>
    if migr && s.migrates p then s.beginMigration p
    else if s.portHeld p || s.my.mustWait s.cycle write [p.units s.my.space n, virtualUnits s.my.space va n] then s.waitTurn
    else k p s

/-- The task's own dirty copies of a line go home first, unless that would write into a vcache under reconfiguration, for which the
access waits in its turn; with `drop` the copies go too (R259, R310). -/
def ownCopies (p : Place) (drop : Bool) (s : State) (k : State → State) : State :=
  let c := if p.scratch || p.sync then [] else s.chain s.my.space (posCore s.cur) p.vc
  if liftStuck s (p.loc / 128) 9 c then s.waitTurn
  else
    let (_, s) := lift (posCore s.cur) 9 c (p.loc / 128) (([] : Written), s)
    k (if drop then (removeCopies 9 c (p.loc / 128) (0, s)).2 else s)

/-- A request of the current task. -/
def State.request (s : State) (id va n : Nat) (p : Place) (op : PortOp) (dest : Option Reg) : PortReq :=
  { t := s.tk s.cur, id := id, core := posCore s.cur, space := s.my.space, world := p.world, va := va,
    loc := if p.scratch then scratchBase + p.owner * 0x300000 + p.off else p.loc, size := n, op := op, dest := dest,
    start := s.cycle + p.late, tries := 0, pc := s.my.pc.toNat }

/-- An access of the current task through its chain. -/
def State.chainAcc (s : State) (id va n : Nat) (p : Place) (write : Bool) (data : Nat) (sg : Bool) : Acc :=
  { t := s.tk s.cur, id := id, core := posCore s.cur, space := s.my.space, first := p.vc, tensor := p.tensor, world := p.world,
    line := p.loc / 128, off := p.loc % 128, size := n, write := write, data := data, start := s.cycle + p.late, level := 0,
    signed := sg, va := va }

/-- The record that a FENCE `.rel` left for the next store of the task at `p` to a sync-class location or a scratchpad word, with the
drain count of its release; the store uses it up (R332). -/
def State.takeFence (s : State) (p : Pos) : Option Record × State :=
  match (s.task p).fenceRel with
  | none => (none, s)
  | some (num, scope, drain) => (some { s.recordOf p num scope with drain := drain }, s.modTask p fun t => { t with fenceRel := none })

-- plain loads and stores (Table 8-8)

/-- A load of `n` bytes at `va` (R257): class L. -/
def doLoad (d : Reg) (la va n : Nat) (sg : Bool) (s : State) : State :=
  withAccess va n false true s fun p s =>
    let (id, s) := s.fresh
    let t := s.tk s.cur
    let core := posCore s.cur
    let space := s.my.space
    if p.scratch && p.owner == core then
      let (v, poison, s) := s.readScratch core space p.off p.loc n
      let f : Option Trap := if poison then some { cause := 4, sub := 0, val := s.my.pc.toNat, deferred := true } else none
      let s := s.startLong { id := id, pc := 0, dest := some d, left := la, value := extend sg n v, fault := f }
      s.noteLoad t id va (s.cycle + 10) p.loc
    else
      let s := s.startLong { id := id, pc := 0, dest := some d, left := la }
      let s := s.setMy fun x => x.addPend { id := id, write := false, ranges := [p.units space n], ackOnly := false }
      if p.scratch || p.sync then
        let r := s.request id va n p (.load sg) (some d)
        s.sendReq r.start r
      else s.startAcc (s.chainAcc id va n p false 0 sg)

/-- A plain store of `n` bytes at `va` (R257-R259). In a posted region it is a posted store (R289). -/
def doStore (va n v : Nat) (posted : Bool) (s : State) : State :=
  let toScratch := match classify (posCore s.cur) va with | .scratch _ _ => true | _ => false
  if va % n = 0 && posted && toScratch then s.formatFaultAt 3 va
  else withAccess va n true true s fun p s =>
    let core := posCore s.cur
    let space := s.my.space
    let v := v % 2 ^ (8 * n)
    let add (id : Nat) (ack : Bool) (done : Option Nat) (s : State) : State :=
      s.setMy fun x => x.addPend { id := id, write := true, ranges := [p.units space n], ackOnly := ack, doneAt := done }
    if p.scratch && p.owner == core then
      let (id, s) := s.fresh
      let (rec?, s) := s.takeFence s.cur
      let r := s.request id va n p (.store v rec?) none
      match rec?.bind fun _ => s.displaced p.loc with
      -- it waits at the port for the retirement that its record needs (R324)
      | some (own, x) => (add id false none (s.beginRetire own x { r with waited := true })).advance
      | none =>
        let (_, s) := s.writePoint r p.loc n v
        ((s.plainRecord p.loc n rec?).afterScratch p.loc n 1).advance
    else if p.scratch then
      let (id, s) := s.fresh
      let (rec?, s) := s.takeFence s.cur
      let r := s.request id va n p (.store v rec?) none
      (add id true none (s.sendReq r.start r)).advance
    else if posted || p.posted then
      -- the task's own copies go at issue (R259)
      ownCopies p true s fun s =>
        let (id, s) := s.fresh
        let (rec?, s) := if p.sync then s.takeFence s.cur else (none, s)
        let r := s.request id va n p (.posted v rec?) none
        (add id true none (s.sendReq r.start r)).advance
    else if p.sync then
      let (id, s) := s.fresh
      let (rec?, s) := s.takeFence s.cur
      let r := s.request id va n p (.store v rec?) none
      (add id false none (s.sendReq r.start r)).advance
    else
      let (id, s) := s.fresh
      (add id false none (s.startAcc (s.chainAcc id va n p true v false))).advance

/-- The address A + off × size (Table 3-8). -/
def offAddr (a : Word) (o : BitVec 10) (n : Nat) : Nat := (a + immExt o * BitVec.ofNat 64 n).toNat

/-- The address A + B × size (R257). -/
def ixAddr (a b : Word) (n : Nat) : Nat := (a + b * BitVec.ofNat 64 n).toNat

def execLd (d a : Reg) (o : BitVec 10) (z : BitVec 2) (n : BitVec 4) (s : State) : Out :=
  .next (with1 a s fun x s => doLoad d n.toNat (offAddr x o (2 ^ z.toNat)) (2 ^ z.toNat) false s)

def execLds (d a : Reg) (o : BitVec 10) (z : BitVec 2) (n : BitVec 4) (s : State) : Out :=
  .next (with1 a s fun x s => doLoad d n.toNat (offAddr x o (2 ^ z.toNat)) (2 ^ z.toNat) true s)

def execLdx (d a b : Reg) (z : BitVec 2) (n : BitVec 4) (s : State) : Out :=
  .next (with2 a b s fun x y s => doLoad d n.toNat (ixAddr x y (2 ^ z.toNat)) (2 ^ z.toNat) false s)

def execSt (v a : Reg) (o : BitVec 10) (z : BitVec 2) (s : State) : Out :=
  .next (with2 a v s fun x y s => doStore (offAddr x o (2 ^ z.toNat)) (2 ^ z.toNat) y.toNat false s)

def execStx (v a b : Reg) (z : BitVec 2) (s : State) : Out :=
  .next (with3 a b v s fun x y w s => doStore (ixAddr x y (2 ^ z.toNat)) (2 ^ z.toNat) w.toNat false s)

def execStp (v a : Reg) (o : BitVec 10) (z : BitVec 2) (s : State) : Out :=
  .next (with2 a v s fun x y s => doStore (offAddr x o (2 ^ z.toNat)) (2 ^ z.toNat) y.toNat true s)

-- ordered accesses (R261, R262)

/-- A location that must be sync-class or scratchpad (R262). -/
def needSync (p : Place) (va : Nat) (s : State) (k : State → State) : State :=
  if !p.scratch && !p.sync then s.formatFaultAt 2 va else k s

/-- The wait of a release in its turn (R323 step 1). -/
def afterAccesses (s : State) (k : State → State) : State := if s.my.accessesDone s.cycle then k s else s.waitTurn

/-- LDA (R261): an acquire load. -/
def execLda (d a : Reg) (o : BitVec 10) (z : BitVec 1) (sc : BitVec 3) (s : State) : Out :=
  let n := 4 + 4 * z.toNat
  .next (with1 a s fun x s =>
    let va := offAddr x o n
    withAccess va n false true s fun p s => needSync p va s fun s =>
      let (id, s) := s.blockOpen
      let r := s.request id va n p (.lda sc.toNat) (some d)
      s.sendReq r.start r)

/-- STL (R261): a release store; it seals the hand at its issue (R323). -/
def execStl (v a : Reg) (o : BitVec 10) (z : BitVec 1) (sc : BitVec 3) (s : State) : Out :=
  let n := 4 + 4 * z.toNat
  .next (with2 a v s fun x y s =>
    let va := offAddr x o n
    withAccess va n true true s fun p s => needSync p va s fun s => afterAccesses s fun s =>
      let (num, s) := s.sealHand s.cur
      let r? := s.recordOf s.cur num sc.toNat
      let (id, s) := s.blockOpen
      let r := s.request id va n p (.stl (y.toNat % 2 ^ (8 * n)) r?) none
      s.sendReq r.start r)

-- full/empty members (Table 8-3)

/-- Issue a full/empty member: a scratchpad address, class B. -/
def feMember (va n : Nat) (write : Bool) (d : Option Reg) (op : Option Record → PortOp) (usesFence : Bool) (s : State) : State :=
  match (if va % n = 0 then classify (posCore s.cur) va else .bad) with
  | .global _ => s.formatFaultAt 4 va
  | _ => withAccess va n write false s fun p s =>
    let (rec?, s) := if usesFence then s.takeFence s.cur else (none, s)
    let (id, s) := s.fresh
    let s := s.park s.cur (.fullEmpty id)
    let r := s.request id va n p (op rec?) d
    if p.owner = r.core then s.feArrive r p.loc else s.sendReq r.start r

def feSize (z : BitVec 1) : Nat := 4 + 4 * z.toNat

def execLdfe (d a : Reg) (o : BitVec 10) (z : BitVec 1) (s : State) : Out :=
  .next (with1 a s fun x s => feMember (offAddr x o (feSize z)) (feSize z) true (some d) (fun _ => .ldfe) false s)

def execLdf (d a : Reg) (o : BitVec 10) (z : BitVec 1) (s : State) : Out :=
  .next (with1 a s fun x s => feMember (offAddr x o (feSize z)) (feSize z) false (some d) (fun _ => .ldf) false s)

def execStfe (v a : Reg) (o : BitVec 10) (z : BitVec 1) (s : State) : Out :=
  .next (with2 a v s fun x y s =>
    feMember (offAddr x o (feSize z)) (feSize z) true none (fun r => .stfe (y.toNat % 2 ^ (8 * feSize z)) r) true s)

def execStf (v a : Reg) (o : BitVec 10) (z : BitVec 1) (s : State) : Out :=
  .next (with2 a v s fun x y s =>
    feMember (offAddr x o (feSize z)) (feSize z) true none (fun r => .stf (y.toNat % 2 ^ (8 * feSize z)) r) true s)

def execFeq (d a : Reg) (o : BitVec 10) (z : BitVec 1) (s : State) : Out :=
  .next (with1 a s fun x s => feMember (offAddr x o (feSize z)) (feSize z) false (some d) (fun _ => .feq) false s)

def execFeset (v a : Reg) (o : BitVec 10) (z : BitVec 1) (s : State) : Out :=
  .next (with2 a v s fun x y s => feMember (offAddr x o (feSize z)) (feSize z) true none (fun _ => .feset y.toNat) false s)

/-- SCRATCHPAD_PAGE_REFILL (R248): the page's bytes and image arrive; it is pinned, its waiting slots issue again, and requests
that waited at the port are applied. -/
def execScratchpadPageRefill (s : State) : Out :=
  match s.msg with
  | .scratchpadPageRefill core space page =>
    match s.mem.refills.find? (fun r => r.core == core && r.space == space && r.page == page && r.running),
          s.mem.wpages.look (wpageKey core space page) with
    | some r, some w =>
      let s := s.modMem fun m => { m with refills := m.refills.erase r }
      let base := scratchLoc core r.bank 0
      let world := (s.space space).world
      let line (s : State) (va : Nat) : Option (BitVec 1024 × Bool × State) :=
        match s.placeNow core space world false va with
        | .error _ => none
        | .ok pl =>
          -- a sync-class backing is read at home (R289)
          let ((d, p, _), s) := readLine core (if pl.sync then [] else s.chain space core pl.vc) (pl.loc / 128) (~~~0) pl.tensor pl.world s
          some (d, p, s)
      let s := (List.range 32).foldl (fun s k =>
        match line s (w.backing + 128 * k) with
        | some (d, p, s) => (s.putBytesAt (base + 128 * k) 128 d.toNat).setPoison ((base + 128 * k) / 128) p
        | none => s) s
      -- the full/empty image, or every word full (R253)
      let (img, s) := match w.shadow.bind (line s) with
        | some (d, _, s) => (d.toNat, s)
        | none => (2 ^ 1024 - 1, s)
      let s := s.modMem fun m =>
        { m with
          empties := ((List.range 1024).filter fun k => !bit img k).map (base / 4 + ·) ++ m.empties.filter fun e => e < base / 4 || base / 4 + 1024 ≤ e,
          errWords := m.errWords.filter fun e => e < base / 4 || base / 4 + 1024 ≤ e,
          wpages := m.wpages.put (wpageKey core space page) { w with bank := some r.bank, dirty := false, feDirty := false } }
      let s := s.rekeyPage core (parkedBase (wpageKey core space page)) base
      let s := r.slots.foldl (fun s t => s.wakeTk t .refill) s
      .next (r.reqs.foldl (fun s q => s.portArrive q) s)
    | _, _ => .next s
  | _ => .next s

end Sys2Proof.Machine
end

