-- ==== Sys2Proof/Machine/Atomic.lean ====
section
/-! DEFINITION. Read-modify-writes, HOLD and PASS (08_memory_access.md R263-R267, 11_ordering_across_cores.md R325). -/
namespace Sys2Proof.Machine

/-- The new word of an operation (Table 8-11), with AMOFADD's events. AMOCAS gives none where the comparison fails. -/
def amoNew (op n old x c : Nat) : Option Nat × Events :=
  let m := 2 ^ (8 * n)
  let lt (a b : Nat) : Bool := decide (signed (8 * n) a < signed (8 * n) b)
  match op with
  | 0 => (some ((old + x) % m), {})
  | 1 => (some (Nat.land old x), {})
  | 2 => (some (Nat.lor old x), {})
  | 3 => (some (Nat.xor old x), {})
  | 4 => (some (if lt x old then x else old), {})
  | 5 => (some (if lt old x then x else old), {})
  | 6 => (some (min old x), {})
  | 7 => (some (max old x), {})
  | 8 => (some x, {})
  | 9 => (if old = c then some x else none, {})
  | _ =>
    let f : Format := if n = 4 then .fp32 else .fp64
    let (y, g) := Val.add .rne (decodeVal f old) (decodeVal f x)
    let (v, e) := finish f .rne false y g
    (some v, e.add ((inputEvents f old).add (inputEvents f x)))

/-- What d receives (R264). -/
def amoResult (op n old : Nat) : Nat := if op = 10 && n == 4 then old else extend true n old

/-- Issue a read-modify-write's reservation request. With an ordering suffix its location must be sync-class or a scratchpad word
(R262); to any other global location the task's own copies go home first, and its later accesses there wait until the release has
been applied (R310). A HOLD writes nothing (R266). -/
def issueRmw (va n : Nat) (m : Rmw) (d : Option Reg) (s : State) : State :=
  withAccess va n (m.op != 12) true s fun p s =>
    (if m.acq || m.rel then needSync p va s else fun k => k s) fun s =>
    (if m.rel then afterAccesses s else fun k => k s) fun s =>
    ownCopies p true s fun s =>
      let (num, s) := if m.rel then s.sealHand s.cur else (0, s)
      let (id, s) := s.fresh
      let s := s.park s.cur (.grant id)
      let s := if p.scratch || p.sync || m.op == 12 then s
        else s.setMy fun x => x.addPend { id := id, write := true, ranges := [p.units s.my.space n], ackOnly := false }
      let r := s.request id va n p (.reserve { m with num := num }) d
      if p.scratch && p.owner == posCore s.cur then s.applyReq r p.loc else s.sendReq r.start r

/-- The ordering suffix of an ORD field (Table 3-11): bit 0 acquire, bit 1 release. -/
def rmwOf (op : Nat) (x c : Word) (n : Nat) (sc : BitVec 3) (r : BitVec 2) (d : Reg) : Rmw :=
  { op := op, x := x.toNat % 2 ^ (8 * n), c := c.toNat % 2 ^ (8 * n), acq := bit r.toNat 0, rel := bit r.toNat 1,
    scope := sc.toNat, num := 0, dest := d }

/-- An AMO member (R264). -/
def amo (op : Nat) (d a b : Reg) (sc : BitVec 3) (r : BitVec 2) (z : BitVec 1) (s : State) : Out :=
  let n := 4 + 4 * z.toNat
  .next (if op = 9 then
      with3 a b d s fun x y w s => issueRmw x.toNat n (rmwOf op y w n sc r d) (some d) s
    else with2 a b s fun x y s => issueRmw x.toNat n (rmwOf op y 0 n sc r d) (some d) s)

def execAmoadd (d a b : Reg) (sc : BitVec 3) (r : BitVec 2) (z : BitVec 1) (s : State) : Out := amo 0 d a b sc r z s
def execAmoand (d a b : Reg) (sc : BitVec 3) (r : BitVec 2) (z : BitVec 1) (s : State) : Out := amo 1 d a b sc r z s
def execAmoor (d a b : Reg) (sc : BitVec 3) (r : BitVec 2) (z : BitVec 1) (s : State) : Out := amo 2 d a b sc r z s
def execAmoxor (d a b : Reg) (sc : BitVec 3) (r : BitVec 2) (z : BitVec 1) (s : State) : Out := amo 3 d a b sc r z s
def execAmomin (d a b : Reg) (sc : BitVec 3) (r : BitVec 2) (z : BitVec 1) (s : State) : Out := amo 4 d a b sc r z s
def execAmomax (d a b : Reg) (sc : BitVec 3) (r : BitVec 2) (z : BitVec 1) (s : State) : Out := amo 5 d a b sc r z s
def execAmominu (d a b : Reg) (sc : BitVec 3) (r : BitVec 2) (z : BitVec 1) (s : State) : Out := amo 6 d a b sc r z s
def execAmomaxu (d a b : Reg) (sc : BitVec 3) (r : BitVec 2) (z : BitVec 1) (s : State) : Out := amo 7 d a b sc r z s
def execAmoswap (d a b : Reg) (sc : BitVec 3) (r : BitVec 2) (z : BitVec 1) (s : State) : Out := amo 8 d a b sc r z s
def execAmocas (d a b : Reg) (sc : BitVec 3) (r : BitVec 2) (z : BitVec 1) (s : State) : Out := amo 9 d a b sc r z s
def execAmofadd (d a b : Reg) (sc : BitVec 3) (r : BitVec 2) (z : BitVec 1) (s : State) : Out := amo 10 d a b sc r z s

/-- The release of a reservation leaves its holder in cycle `at_` (R263). -/
def State.sendRelease (s : State) (r : PortReq) (m : Rmw) (v : Option Nat) (at_ : Nat) : State :=
  let q := { r with op := .release v m, start := at_ }
  if r.scratch && r.core == r.owner then
    s.post at_ (tieAt r.core r.t.pos) .remoteAccessArrival (.remoteAccessArrival q)
  else s.sendReq at_ q

/-- Where the bytes of a request are, if its page is pinned. -/
def State.reqLoc (s : State) (r : PortReq) : Option Nat := if r.scratch then s.bankLoc r.owner r.space r.off else some r.loc

/-- The delay that a release's record adds when it displaces another (R262, R324). -/
def State.retireDelay (s : State) (r : PortReq) : Nat :=
  match (s.reqLoc r).bind s.displaced with
  | some (own, x) => s.retireTime own x.record
  | none => 0

/-- The end of a read-modify-write once its word, and any call, is there: the release leaves 4 cycles later and the instruction
completes then (R263, R265, Table 13-1), or once the retirement of a record that its own displaces is over (R324). Where it has both
lost its synchronisation and met STATUS.XEN, the spec does not say which trap is taken: it takes the first alone (DESIGN CHOICE, log
entry 47). -/
def State.endRmw (s : State) (r : PortReq) (m : Rmw) (old : Nat) (lost : Bool) : State :=
  let at_ := s.cycle + 4
  let s := s.noteLost r.t lost
  let trap? := if lost then some (lostTrap r.va) else none
  if m.op = 12 then
    let s := s.onTask r.t fun x => { x with held := some { loc := r.va, size := r.size } }
    s.answer r at_ { r.finish (extend true r.size old) with trap := trap? }
  else
    let (new, e) := amoNew m.op r.size old m.x m.c
    let s := s.noteTk r.t e
    let xen := ((s.findTask r.t).map (·.xen)).getD 0
    let pc := ((s.findTask r.t).map (·.pc)).getD 0
    let trap? := if lost then trap? else if e.flags &&& xen = 0 then none else some (arithTrap pc false)
    let delay := if m.rel && new.isSome then s.retireDelay r else 0
    (s.sendRelease r m new at_).answer r (at_ + delay) { r.finish (amoResult m.op r.size old) with trap := trap? }

/-- RESERVATION_GRANT (R263): the granted word reaches the holder. An acquire first makes the record's call (R326); a release that
writes over a live record of another task makes it whatever its scope, and inherits the head's regions under its own number, removing
copies only where it also acquires in scope; one that writes nothing inherits them open (R325, R329). A poisoned word ends the instruction without effect (R265). A holder that is
gone gives the reservation back. -/
def execReservationGrant (s : State) : Out :=
  match s.msg with
  | .reservationGrant r old rec? poison =>
    match r.op with
    | .reserve m =>
      .next (
        if !s.waitsFor r.t (.grant r.id) then (s.uncountSent r).sendRelease r { m with back := true } none s.cycle
        else if poison then
          (s.sendRelease r m none s.cycle).answer r s.cycle { r.finish 0 with fault := some (poisonTrap r.va) }
        else
          let writes := m.rel && m.op != 12 && (amoNew m.op r.size old m.x m.c).1.isSome
          let s := s.overMark r.t writes rec?
          let recs := (rec?.map fun x => (s.pointCore r, r.va, x)).toList
          let acquires := m.acq && recs.any fun x => s.acqAct r.t.pos m.scope x.2.2 != .nothing
          let calls := writes && rec?.any (·.calledBy r.t)
          if acquires || calls then s.beginCalls r.t r.id s.cycle acquires recs (.rmw r (if writes then m else { m with num := 0 }) old)
          else s.endRmw r m old false)
    | _ => .next s
  | _ => .next s

/-- HOLD (R266): while holding, the format fault "reservation held". -/
def execHold (d a : Reg) (sc : BitVec 3) (r : BitVec 2) (z : BitVec 1) (s : State) : Out :=
  let n := 4 + 4 * z.toNat
  .next (with1 a s fun x s =>
    if s.my.held.isSome then s.formatFaultAt 5 x.toNat
    else issueRmw x.toNat n (rmwOf 12 0 0 n sc r d) (some d) s)

/-- Does a task still hold the reservation it took by HOLD (R266)? -/
def State.holds (s : State) (t : Tk) : Bool := s.mem.resv.any fun x => x.2.t == t && x.2.hold

/-- PASS (R266): writes the held location and releases its reservation. One that was revoked is lost. -/
def execPass (a b : Reg) (sc : BitVec 3) (r : BitVec 2) (z : BitVec 1) (s : State) : Out :=
  let n := 4 + 4 * z.toNat
  .next (with2 a b s fun x y s =>
    let va := x.toNat
    if va % n ≠ 0 then s.formatFaultAt 1 va
    else if s.my.held != some { loc := va, size := n } then s.formatFaultAt 6 va
    else if !s.holds (s.tk s.cur) then (s.setMy fun t => { t with held := none }).formatFaultAt 6 va
    else withAccess va n true true s fun p s =>
      let m := { rmwOf 13 y 0 n sc r 0 with op := 13 }
      (if m.rel || m.acq then needSync p va s else fun k => k s) fun s =>
      (if m.rel then afterAccesses s else fun k => k s) fun s =>
        let (num, s) := if m.rel then s.sealHand s.cur else (0, s)
        let (id, s) := s.blockOpen
        let s := s.setMy fun t => { t with held := none }
        let s := if p.scratch || p.sync then s
          else s.setMy fun x => x.addPend { id := id, write := true, ranges := [p.units s.my.space n], ackOnly := false }
        let q := s.request id va n p (.release (some (y.toNat % 2 ^ (8 * n))) { m with num := num }) none
        if p.scratch && p.owner == q.core then s.applyReq q p.loc else s.sendReq q.start q)

/-- A load whose note made a call that found its releaser reset takes the synchronisation-lost trap at the boundary its result's
other faults take (R477, R85). -/
def State.loseLoad (s : State) (c : Call) (id : Nat) : State :=
  if c.lost then s.onTask c.t fun x => x.modOutst id fun o => { o with fault := some { lostTrap o.pc.toNat with deferred := true } } else s

/-- The calls of an instruction have all finished: what it was waiting to do follows (R329, R332, R325). After a fence's acquire part
its release part follows, whose time counts from now (R340). -/
def State.afterCalls (s : State) (c : Call) : State :=
  match c.after with
  | .finish f => (s.noteLost c.t c.lost).completeWait c.t c.id (((s.findTask c.t).map (·.waitOf c.id)).getD (.blocking c.id))
      (if c.lost then { f with trap := some (lostTrap c.va) } else f)
  | .rmw r m old => s.endRmw r m old c.lost
  | .pass r =>
    if r.scratch && r.core == r.owner then s.post s.cycle (tieAt r.core r.t.pos) .remoteAccessArrival (.remoteAccessArrival r)
    else s.sendReq s.cycle { r with start := s.cycle }
  | .load id =>
    (((s.noteLost c.t c.lost).loseLoad c id).pendDone c.t id).postAt s.cycle c.t.pos .longResultReady (.longResultReady c.t id)
  | .fence scope rel =>
    let s := (s.noteLost c.t c.lost).onTask c.t fun t => { t with notes := [] }
    if rel then s.postAt (s.cycle + 4) c.t.pos .classBCompletion (.fenceGo c.t c.id scope (2 + 4 * c.lost.toNat + 8 * c.va))
    else s.completeWait c.t c.id (.blocking c.id) { Finish.plain with trap := if c.lost then some (lostTrap c.va) else none }

/-- CALL_REPLY (R329, R331), of an acquirer's call or of a retirement's (R324). -/
def execCallReply (s : State) : Out :=
  match s.msg with
  | .callReply t id rs k => .next (callReplied s t id rs k)
  | .retired x q => .next (s.endRetire x q)
  | .callDone t id =>
    match s.mem.calls.find? fun c => c.t == t && c.id == id with
    | none => .next s
    | some c =>
      if c.left ≤ 1 then .next ((s.modMem fun m => { m with calls := m.calls.erase c }).afterCalls c)
      else .next (s.modMem fun m => { m with calls := m.calls.map fun y => if y = c then { y with left := y.left - 1 } else y })
  | _ => .next s

end Sys2Proof.Machine
end

