-- ==== Sys2Proof/Machine/Special.lean ====
section
/-! DEFINITION. The special functions of tiles (06_tile_instructions.md R184): 1/x and 1/√x exactly, and e^x, ln x, tanh x and
erf x by bounds that are narrowed until both round alike. None of these four is representable or halfway between candidates at
a non-zero argument other than ln 1, so narrow enough bounds always agree. -/
namespace Sys2Proof.Machine

/-- A value strictly between m * 2^e and its neighbours on one side: just above or just below in magnitude, closer than any
rounding boundary of a format up to FP64. -/
def near (neg : Bool) (m : Nat) (e : Int) (above : Bool) : Val :=
  let w := m * 2 ^ guardBits
  .fin neg (if above then w + 1 else w - 1) (e - guardBits)

/-- Fixed-point numbers with `p` fraction bits: product. -/
def fxMul (p : Nat) (a b : Int) : Int := a * b / (2 : Int) ^ p

/-- atanh(a / b) for 0 ≤ a/b ≤ 1/2 with `p` fraction bits, `n` terms. -/
def fxAtanh (p n : Nat) (z : Int) : Int :=
  let z2 := fxMul p z z
  ((List.range n).foldl (fun (s : Int × Int) (k : Nat) => (s.1 + s.2 / ((2 * k + 1 : Nat) : Int), fxMul p s.2 z2)) (0, z)).1

/-- atan(1 / k) with `p` fraction bits. -/
def fxAtanInv (p n k : Nat) : Int :=
  let one : Int := (2 : Int) ^ p / k
  ((List.range n).foldl (fun (s : Int × Int) (j : Nat) =>
    let t := s.2 / ((2 * j + 1 : Nat) : Int)
    (s.1 + (if j % 2 = 0 then t else -t), s.2 / ((k * k : Nat) : Int))) (0, one)).1

/-- ln 2. -/
def fxLn2 (p : Nat) : Int := 2 * fxAtanh p (p / 3 + 2) ((2 : Int) ^ p / 3)

/-- π. -/
def fxPi (p : Nat) : Int := 16 * fxAtanInv p (p / 4 + 2) 5 - 4 * fxAtanInv p (p / 14 + 2) 239

/-- e^r for |r| ≤ 1. -/
def fxExpSmall (p : Nat) (r : Int) : Int :=
  ((List.range (p / 4 + 8)).foldl (fun (s : Int × Int) (k : Nat) => (s.1 + s.2, fxMul p s.2 r / ((k + 1 : Nat) : Int))) (0, (2 : Int) ^ p)).1

/-- m * 2^e with `p` fraction bits. -/
def fxOf (p : Nat) (neg : Bool) (m : Nat) (e : Int) : Int :=
  let q := e + p
  let v : Int := if 0 ≤ q then ((m * 2 ^ q.toNat : Nat) : Int) else ((m / 2 ^ (-q).toNat : Nat) : Int)
  if neg then -v else v

/-- Working precision for a result good to `p` bits. -/
def fxPrec (p : Nat) : Nat := p + 200

/-- e^x as (mantissa, exponent) for |x| below 2^10. -/
def expBits (p : Nat) (neg : Bool) (m : Nat) (e : Int) : Nat × Int :=
  let w := fxPrec p
  let x := fxOf w neg m e
  let l := fxLn2 w
  let k := x / l
  ((fxExpSmall w (x - k * l)).toNat, k - w)

/-- ln x of a positive x, signed, as (mantissa, exponent). -/
def logBits (p m : Nat) (e : Int) : Int × Int :=
  let w := fxPrec p
  -- x = y * 2^k with y in [3/4, 3/2)
  let k := Val.ilog m e
  let b := Nat.log2 m
  let k := if 3 * 2 ^ b ≤ 2 * m then k + 1 else k
  let y := fxOf w false m (e - k)
  let one : Int := (2 : Int) ^ w
  let z := (y - one) * one / (y + one)
  (2 * fxAtanh w (w / 4 + 4) z + k * fxLn2 w, -w)

/-- tanh of a positive x below 2^6. -/
def tanhBits (p m : Nat) (e : Int) : Nat × Int :=
  let (c, q) := expBits p false m (e + 1)
  -- (e^2x - 1) / (e^2x + 1)
  let w := fxPrec p
  let t := fxOf w false c q
  let one : Int := (2 : Int) ^ w
  (((t - one) * one / (t + one)).toNat, -w)

/-- erf of a positive x below 8. -/
def erfBits (p m : Nat) (e : Int) : Nat × Int :=
  let w := fxPrec p
  let x := fxOf w false m e
  let x2 := fxMul w x x
  -- the sum of (-1)^n x^2n / (n! (2n + 1))
  let s := ((List.range (w / 2 + 250)).foldl (fun (s : Int × Int) (n : Nat) =>
    (s.1 + s.2 / ((2 * n + 1 : Nat) : Int), -(fxMul w s.2 x2) / ((n + 1 : Nat) : Int))) (0, (2 : Int) ^ w)).1
  -- 2 / √π
  let c := isqrt (4 * 2 ^ (3 * w) / (fxPi w).toNat)
  (m * (fxMul w s c).toNat, e - w)

/-- The two sides of an approximation good to `p` bits, each with an odd last bit. -/
def sides (neg : Bool) (m : Nat) (e : Int) (p : Nat) : Val × Val :=
  let w := m * 2 ^ (p + 1)
  let d := 2 * m + 2
  (.fin neg ((w - d) / 2 * 2 + 1) (e - p - 1), .fin neg ((w + d) / 2 * 2 + 1) (e - p - 1))

/-- Narrow bounds until both sides round alike; the value to round. -/
def settle (f : Format) (mode : Mode) (sat neg : Bool) (g : Nat → Nat × Int) : List Nat → Val
  | [] => let (m, e) := g 64; .fin neg (2 * m + 1) (e - 1)
  | p :: ps =>
    let (m, e) := g p
    let (lo, hi) := sides neg m e p
    if roundTo f mode sat lo = roundTo f mode sat hi then lo else settle f mode sat neg g ps

/-- The precisions tried. -/
def precisions : List Nat := [64, 160, 640, 2560]

/-- e^x. -/
def specialExp (f : Format) (mode : Mode) (sat : Bool) : Val → Val × Flags
  | .nan => (.nan, 0)
  | .inf s => (if s then .zero false else .inf false, 0)
  | .fin s m e =>
    if m = 0 then (.fin false 1 0, 0)
    else if Val.ilog m e < -60 then (near false 1 0 (!s), 0)
    else if 9 ≤ Val.ilog m e then (if s then .fin false 1 (-2000) else .fin false 1 2000, 0)
    else (settle f mode sat false (fun p => expBits p s m e) precisions, 0)

/-- ln x. -/
def specialLog (f : Format) (mode : Mode) (sat : Bool) : Val → Val × Flags
  | .nan => (.nan, 0)
  | .inf s => if s then (.nan, Flags.nv) else (.inf false, 0)
  | .fin s m e =>
    if m = 0 then (.inf true, Flags.dz)
    else if s then (.nan, Flags.nv)
    else if Val.cmp (.fin false m e) (.fin false 1 0) == .eq then (.zero false, 0)
    else
      let neg := Val.cmp (.fin false m e) (.fin false 1 0) == .lt
      (settle f mode sat neg (fun p => let (v, q) := logBits p m e; (v.natAbs, q)) precisions, 0)

/-- 1/√x. -/
def specialRsqrt : Val → Val × Flags
  | .nan => (.nan, 0)
  | .inf s => if s then (.nan, Flags.nv) else (.zero false, 0)
  | .fin s m e =>
    if m = 0 then (.inf s, Flags.dz)
    else if s then (.nan, Flags.nv)
    else
      let (m, e) := if e % 2 = 0 then (m, e) else (2 * m, e - 1)
      let k := 2 * guardBits + Nat.log2 m
      let w := 2 ^ (2 * k)
      let r := isqrt (w / m)
      (.fin false (sticky r (r * r * m != w)) (-(e / 2) - k - 1), 0)

/-- 1/x. -/
def specialRecip (x : Val) : Val × Flags := Val.div (.fin false 1 0) x

/-- tanh x. -/
def specialTanh (f : Format) (mode : Mode) (sat : Bool) : Val → Val × Flags
  | .nan => (.nan, 0)
  | .inf s => (.fin s 1 0, 0)
  | .fin s m e =>
    if m = 0 then (.zero s, 0)
    else if Val.ilog m e < -28 then (near s m e false, 0)
    else if 5 ≤ Val.ilog m e then (near s 1 0 false, 0)
    else (settle f mode sat s (fun p => tanhBits p m e) precisions, 0)

/-- erf x. -/
def specialErf (f : Format) (mode : Mode) (sat : Bool) : Val → Val × Flags
  | .nan => (.nan, 0)
  | .inf s => (.fin s 1 0, 0)
  | .fin s m e =>
    if m = 0 then (.zero s, 0)
    else if 3 ≤ Val.ilog m e then (near s 1 0 false, 0)
    else (settle f mode sat s (fun p => erfBits p m e) precisions, 0)

/-- The exact value of a special function, up to the side of every rounding boundary it lies on (Table 6-8). -/
def special (k : Nat) (f : Format) (mode : Mode) (sat : Bool) (x : Val) : Val × Flags :=
  match k with
  | 0 => specialExp f mode sat x
  | 1 => specialLog f mode sat x
  | 2 => specialRsqrt x
  | 3 => specialRecip x
  | 4 => specialTanh f mode sat x
  | _ => specialErf f mode sat x

end Sys2Proof.Machine
end

