-- ==== Sys2Proof/Machine/TileData.lean ====
section
/-! DEFINITION. The bytes that tile descriptors name (01_machine.md R31-R35, 04_number_formats.md R115, R116,
06_tile_instructions.md R159, R164, R497). -/
namespace Sys2Proof.Machine

-- scratchpad bytes

/-- `n` bytes of a window from `off`, whether any line of them is poisoned, errors served. Bytes of a page that is not pinned
read as zero; a unit's pages are pinned before it runs. -/
def State.windowBytes (s : State) (core space off n : Nat) : List Byte × Bool × State :=
  let go (off n : Nat) (s : State) : List Byte × Bool × State :=
    match s.bankLoc core space off with
    | none => (List.replicate n 0, false, s)
    | some loc =>
      let s := if s.scratchErr loc n then s.serveScratchErr core space off loc else s
      (s.mem.bytes.bytes loc n, s.rangePoisoned loc n, s)
  let first := min n (4096 - off % 4096)
  if first = n then (if n = 0 then ([], false, s) else go off n s)
  else
    let (a, p, s) := go off first s
    let (b, q, s) := go (off + first) (n - first) s
    (a ++ b, p || q, s)

/-- Write bytes to a window as one unit of a tile instruction does (R164): records of their words go, monitors wake, a line
written whole is clean of poison (R476), and a write to another core's window is traced word by word (Table 12-2). -/
def State.putScratch (kind : Nat) (s : State) (from_ : Pos) (core space off : Nat) (bs : List Byte) : State :=
  let go (off : Nat) (bs : List Byte) (s : State) : State :=
    let n := bs.length
    match s.bankLoc core space off with
    | none => s
    | some loc =>
      let s := (s.modMem fun m => { m with bytes := m.bytes.putBytes loc bs }).scratchWritten core space off loc n
      let full (l : Nat) : Bool := loc ≤ l * 128 && l * 128 + 128 ≤ loc + n
      let s := s.modMem fun m => { m with poison := m.poison.filter fun l => !full l }
      let s := s.modCore core fun c =>
        let keep (x : LocRec) : Bool := x.loc * 8 + 8 ≤ loc || loc + n ≤ x.loc * 8
        { c with recs := c.recs.filter keep, marks := c.marks.filter keep }
      let s := (List.range ((loc + n - 1) / 128 + 1 - loc / 128)).foldl (fun s k => s.wakeMonitors ((loc / 128 + k) * 128)) s
      if posCore from_ = core then s
      else (List.range ((off + n - 1) / 8 + 1 - off / 8)).foldl (fun s k =>
          s.tracePort core space kind from_ 8 ((off / 8 + k) * 8) (s.bytesAt ((loc / 8 + k) * 8) 8)) s
  let first := min bs.length (4096 - off % 4096)
  let s := if first = 0 then s else go off (bs.take first) s
  if first < bs.length then go (off + first) (bs.drop first) s else s

/-- A tile or matrix write of bytes into a window (KIND 6 of Table 12-2). -/
def State.putWindow (s : State) (from_ : Pos) (core space off : Nat) (bs : List Byte) : State := s.putScratch 6 from_ core space off bs

-- elements

/-- `k` fields of `w` bits of a number, lowest first. -/
def splitBits (w : Nat) : Nat → Nat → List Nat
  | 0, _ => []
  | k + 1, v => v % 2 ^ w :: splitBits w k (v / 2 ^ w)

/-- The number whose fields of `w` bits these are. -/
def joinBits (w : Nat) : List Nat → Nat
  | [] => 0
  | v :: r => v % 2 ^ w + 2 ^ w * joinBits w r

/-- The bits of the logical elements of row `i` of a row-major or column-major tile, and whether they are poisoned. -/
def State.rowBits (s : State) (c space : Nat) (d : Desc) (i : Nat) : List Nat × Bool × State :=
  if d.layout = 0 then
    let (bs, p, s) := s.windowBytes (d.owner c) space (d.base + i * d.pitch) (ceilDiv (d.cols * d.size) 8)
    (splitBits d.size d.cols (ofBytes bs), p, s)
  else
    (List.range d.cols).foldl (fun (l, p, s) j =>
      let (off, b) := d.pos i j
      let (bs, q, s) := s.windowBytes (d.owner c) space off (max 1 (d.size / 8))
      (l ++ [ofBytes bs / 2 ^ b % 2 ^ d.size], p || q, s)) (([] : List Nat), false, s)

/-- put (Table 6-2) of the logical elements of row `i`. -/
def State.putRow (s : State) (p : Pos) (space : Nat) (d : Desc) (i : Nat) (vs : List Nat) : State :=
  let core := d.owner (posCore p)
  if d.layout = 0 then
    let n := ceilDiv (d.cols * d.size) 8
    let off := d.base + i * d.pitch
    let v := joinBits d.size vs
    -- the other half of a half-used byte stays
    let (v, s) := if d.cols * d.size % 8 = 0 then (v, s) else
      let (bs, _, s) := s.windowBytes core space (off + n - 1) 1
      (v + ofBytes bs / 16 * 16 * 2 ^ (8 * (n - 1)), s)
    s.putWindow p core space off (toBytes n v)
  else
    ((List.range vs.length).zip vs).foldl (fun s (j, v) =>
      let (off, b) := d.pos i j
      if d.size = 4 then
        let (bs, _, s) := s.windowBytes core space off 1
        s.putWindow p core space off (toBytes 1 (setBits (ofBytes bs) b 4 v))
      else s.putWindow p core space off (toBytes (d.size / 8) v)) s

-- VF8 rows (R115, R116)

/-- Elements of block `b` of a row. -/
def Desc.blockLen (d : Desc) (b : Nat) : Nat := min 64 (d.pcols + 1 - 64 * b)

/-- The stream bits of a block at offset `e`: its length, or none where it runs past the row (R116). -/
def vf8Length (st : List Bool) (e n : Nat) : Option Nat :=
  let r := st.drop e
  if r.length < 8 then none
  else
    let b := ofMsb (r.take 8)
    if b = 0 || b = 255 then some 8 else (readCodes b n (r.drop 8) 8).map (·.2)

/-- Where the blocks of a row end in its stream, as their index entries place them; none where one runs past the row (R116). -/
def Desc.vf8Ends (d : Desc) (st : List Bool) (ix : List Nat) : List (Option Nat) :=
  (List.range ix.length).map fun b => (vf8Length st (ix.getD b 0) (d.blockLen b)).map (· + ix.getD b 0)

/-- The stream bits of a VF8 row that its reader takes, as half-open ranges: those of the blocks of some index entries (R116), or with
`whole` the stream up to the end of the last block (R177). -/
def Desc.vf8Reads (d : Desc) (st : List Bool) (ix : List Nat) (whole : Bool) : List (Nat × Nat) :=
  let ends := d.vf8Ends st ix
  if whole then [(0, ends.foldl (fun m e => max m (e.getD 0)) 0)]
  else (ix.zip ends).map fun (lo, e) => (lo, e.getD (8 * d.pitch))

/-- A VF8 row as a reader takes it: its stream bits from its start to its pitch, its index entries, and whether what is read of it
is poisoned. The reader takes the first `blocks` blocks and their entries only (R116), or with `whole` the stream up to the end of
the last block and every entry (R177); no other byte of the row is read. -/
def State.vf8Row (s : State) (c space : Nat) (d : Desc) (i blocks : Nat) (whole : Bool) : List Bool × List Nat × Bool × State :=
  let core := d.owner c
  let at_ := d.base + i * d.pitch
  let st := toBits (8 * d.pitch) (ofBytes (s.windowBytes core space at_ d.pitch).1)
  let n := if whole then d.nb else min blocks d.nb
  let (ix, p, s) := s.windowBytes core space (d.ibase + 2 * i * d.nb) (2 * n)
  let ix := splitBits 16 n (ofBytes ix)
  let (p, s) := (d.vf8Reads st ix whole).foldl (fun (p, s) (lo, hi) =>
    let (_, q, s) := s.windowBytes core space (at_ + lo / 8) (ceilDiv hi 8 - lo / 8)
    (p || q, s)) (p, s)
  (st, ix, p, s)

/-- The logical values of a VF8 row, block by block; none for a malformed block (R116). -/
def Desc.vf8Values (d : Desc) (st : List Bool) (ix : List Nat) : Option (List Val) :=
  let blocks := ceilDiv d.cols 64
  let l := (List.range blocks).foldl (fun (a : Option (List Val)) b =>
    match a, vf8DecodeBlock (st.drop (ix.getD b 0)) (d.blockLen b) with
    | some l, some (_, vs) => some (l ++ vs)
    | _, _ => none) (some [])
  l.map (·.take d.cols)

end Sys2Proof.Machine
end

