-- ==== Sys2Proof/Machine/TileOps.lean ====
section
/-! DEFINITION. What tile instructions check, which bytes their units touch, and what a unit computes (06_tile_instructions.md
R156-R165, R174-R198). -/
namespace Sys2Proof.Machine

-- formats and shapes (R158, R160)

/-- FP64, FP32, BF16, FP16. -/
def Desc.f4 (d : Desc) : Bool := d.fmt ≤ 3

/-- INT8, INT32, INT64. -/
def Desc.int3 (d : Desc) : Bool := 8 ≤ d.fmt && d.fmt ≤ 10

/-- FP64, FP32, BF16, FP16, E4M3, E5M2. -/
def Desc.f6 (d : Desc) : Bool := d.fmt ≤ 5

def Desc.sameShape (a d : Desc) : Bool := a.lrows == d.lrows && a.lcols == d.lcols

/-- A source conforms to td (R160). -/
def Desc.conforms (a d : Desc) : Bool := (a.rows == d.rows || a.rows == 1) && (a.cols == d.cols || a.cols == 1)

/-- Number of source tiles of a member of majors 0x26 to 0x2A (Tables 6-6, 6-9). -/
def TileOp.arity : TileOp → Nat
  | .float k => if k = 3 then 3 else if k = 7 || k = 8 then 1 else 2
  | .special _ | .scalar _ => 1
  | .int _ | .cmp _ => 2
  | .sel => 3
  | _ => 1

/-- Blocks of 32 along a row: nbr of R191. -/
def Desc.nbr (d : Desc) : Nat := ceilDiv d.cols 32

/-- The format and shape conditions of a member (R158, R160 and its own rule); `x` is the scalar operand. -/
def TileOp.checks (op : TileOp) (d a b c : Desc) (scla : Nat) : Bool :=
  match op with
  | .ld | .st | .fill => (match op with | .fill => d.fmt != 7 | _ => true)
  | .gath | .scat => d.fmt != 7 && d.layout == 0 && (a.fmt == 9 || a.fmt == 10) && a.rows * a.cols == d.rows
  | .cpy => a.fmt == d.fmt && a.sameShape d && (d.fmt != 7 || a.pcols == d.pcols)
  | .trans => d.fmt != 7 && a.fmt == d.fmt && d.rows == a.cols && d.cols == a.rows
  | .rot => d.fmt != 7 && a.fmt == d.fmt && a.sameShape d
  | .float _ =>
    d.f4 && a.f4 && a.conforms d && (op.arity < 2 || (b.f4 && b.conforms d)) && (op.arity < 3 || (c.f4 && c.conforms d))
  | .special _ => 1 ≤ d.fmt && d.fmt ≤ 3 && a.f4 && a.conforms d
  | .int _ => d.int3 && a.int3 && b.int3 && a.conforms d && b.conforms d
  | .scalar _ => d.f4 && a.f4 && a.sameShape d
  | .cmp _ => d.int3 && ((a.f4 && b.f4) || (a.int3 && b.int3)) && a.conforms d && b.conforms d
  | .sel => d.fmt != 7 && a.fmt == d.fmt && b.fmt == d.fmt && c.int3 && a.conforms d && b.conforms d && c.conforms d
  | .reduce k =>
    ((d.f4 && a.f4) || (d.int3 && a.int3))
      && d.rows == (if k = 2 || k = 4 then a.rows else 1) && d.cols == (if k = 3 || k = 5 then a.cols else 1)
  | .cvt _ =>
    let bad (t : Desc) : Bool := t.fmt == 7 || t.fmt == 11 || (t.fmt == 6 && t.layout != 0)
    !bad d && !bad a && !(d.fmt == 6 && a.fmt == 6) && a.sameShape d
      && (!(d.fmt == 6 || a.fmt == 6) || scla + d.rows * d.nbr ≤ 0x300000)
  | .pack => d.fmt == 7 && a.f6 && a.sameShape d
  | .unpack => d.f6 && a.fmt == 7 && a.sameShape d
  | .rand => d.fmt == 9 || d.fmt == 1
  | .drop => d.f4 && a.f4 && a.sameShape d

/-- Alignment that a memory image must meet (R174). -/
def Desc.imageAlign (d : Desc) : Nat := if d.size = 64 then 8 else 4

/-- The window offset of a parameter block at address `S` in core `c`'s own scratchpad, if it lies there (R196). `S` is a full address of
Table 8-1, not a window offset (DESIGN CHOICE, log entry 59). -/
def paramOff (c S : Nat) : Option Nat :=
  match classify c S with
  | .scratch core off => if core = c && off + 32 ≤ 0x300000 then some off else none
  | _ => none

-- spans

/-- Bytes that a unit touches, as addresses, and whether it writes them. -/
structure Span where
  va    : Nat
  len   : Nat
  write : Bool
  deriving DecidableEq, Repr

/-- The address of a window byte of core `core`, as core `c` forms it (Table 8-2). -/
def windowVa (c core off : Nat) : Nat :=
  0x1FFF * 2 ^ 44 + off +
    if core = c then 0 else 2 ^ 43 + coreDie core * 2 ^ 34 + coreY core * 2 ^ 30 + coreX core * 2 ^ 26

/-- The spans of row `i` of a tile of core `c`'s cluster. -/
def Desc.spans (d : Desc) (c i : Nat) (write : Bool) : List Span :=
  (d.rowSpans i).map fun x => { va := windowVa c (d.owner c) x.1, len := x.2, write := write }

/-- The row of a source that unit `i` reads (Table 6-2). -/
def Desc.srcRow (a : Desc) (i : Nat) : Nat := if a.rows = 1 then 0 else i

/-- The image of row `i` at address `A` (R174, R497). -/
def Desc.imageSpans (d : Desc) (A i : Nat) (write : Bool) : List Span :=
  if d.layout = 0 then [⟨A + i * d.pitch, d.lineBytes, write⟩]
  else if d.layout = 2 then [⟨A + i * d.pitch, d.pitch, write⟩, ⟨A + d.rows * d.pitch + 2 * i * d.nb, 2 * d.nb, write⟩]
  else (List.range d.cols).map fun j => ⟨A + j * d.pitch + i * d.size / 8, max 1 (d.size / 8), write⟩

/-- Index element k of an index tile: its row and column (R176). -/
def Desc.elemOf (a : Desc) (k : Nat) : Nat × Nat := (k / a.cols, k % a.cols)

/-- The address that unit `i` of TGATH or TSCAT moves (R176). -/
def State.indexedVa (s : State) (c space : Nat) (d a : Desc) (S i : Nat) : Nat :=
  let (r, k) := a.elemOf i
  let (bs, _, _) := s.windowBytes (a.owner c) space (a.pos r k).1 (a.size / 8)
  (wordI ((S : Int) + signed a.size (ofBytes bs) * d.pitch)).toNat

/-- The tiles of a run. -/
def TileRun.td (r : TileRun) : Desc := Desc.ofBits r.d
def TileRun.ta (r : TileRun) : Desc := Desc.ofBits r.a
def TileRun.tb (r : TileRun) : Desc := Desc.ofBits r.b
def TileRun.tc (r : TileRun) : Desc := Desc.ofBits r.c

/-- The scale bytes of a row (R191). -/
def TileRun.scaleSpan (r : TileRun) (c i : Nat) (write : Bool) : Span :=
  ⟨windowVa c c (r.scla + i * r.td.nbr), r.td.nbr, write⟩

/-- What reading a VF8 row touches: the index entries and the blocks that its reader takes (R116, R177). -/
def State.vf8Spans (s : State) (c space : Nat) (d : Desc) (i : Nat) (whole : Bool) : List Span :=
  let blocks := ceilDiv d.cols 64
  let (st, ix, _, _) := s.vf8Row c space d i blocks whole
  let at_ (off n : Nat) : List Span := if n = 0 then [] else [⟨windowVa c (d.owner c) off, n, false⟩]
  at_ (d.ibase + 2 * i * d.nb) (2 * if whole then d.nb else min blocks d.nb) ++
    (d.vf8Reads st ix whole).flatMap fun x => at_ (d.base + i * d.pitch + x.1 / 8) (ceilDiv x.2 8 - x.1 / 8)

/-- What unit `i` touches, sources first. -/
def State.unitSpans (s : State) (c space : Nat) (r : TileRun) (i : Nat) : List Span :=
  let d := r.td
  let a := r.ta
  let out := d.spans c i true
  let srcs := ([a, r.tb, r.tc].take r.op.arity).flatMap fun t => t.spans c (t.srcRow i) false
  match r.op with
  | .ld => d.imageSpans r.x i false ++ out
  | .st => d.spans c i false ++ d.imageSpans r.x i true
  | .gath | .scat =>
    let (x, k) := a.elemOf i
    let ix : Span := ⟨windowVa c (a.owner c) (a.pos x k).1, a.size / 8, false⟩
    let va := s.indexedVa c space d a r.x i
    match r.op with
    | .gath => [ix, ⟨va, d.lineBytes, false⟩] ++ out
    | _ => [ix] ++ d.spans c i false ++ [⟨va, d.lineBytes, true⟩]
  | .cpy => (if a.fmt = 7 then s.vf8Spans c space a i true else a.spans c i false) ++ out
  | .fill => out
  | .trans => a.flip.spans c i false ++ out
  | .rot => a.spans c ((i + bits r.x 0 16) % a.rows) false ++ out
  | .reduce k =>
    (if k = 2 || k = 4 then a.spans c i false else (List.range a.rows).flatMap fun j => a.spans c j false) ++ out
  | .cvt _ =>
    a.spans c i false ++ (if a.fmt = 6 then [r.scaleSpan c i false] else []) ++ out
      ++ (if d.fmt = 6 then [r.scaleSpan c i true] else [])
  | .pack => a.spans c i false ++ out
  | .unpack => s.vf8Spans c space a i false ++ out
  | .rand => [⟨windowVa c c r.x, 24, false⟩] ++ out
  | .drop => [⟨windowVa c c r.x, 32, false⟩] ++ a.spans c i false ++ out
  | _ => srcs ++ out

/-- The addresses at which a span enters a page. -/
def Span.pages (x : Span) : List Nat :=
  x.va :: (List.range ((x.va + x.len - 1) / 4096 - x.va / 4096)).map fun k => (x.va / 4096 + 1 + k) * 4096

/-- A span cut at page boundaries. -/
def Span.perPage (x : Span) : List Span :=
  x.pages.map fun va => { x with va := va, len := min (x.va + x.len) ((va / 4096 + 1) * 4096) - va }

/-- The units of overlap that spans touch, reads or writes (R311): the physical lines of each page; of a page that has no translation
yet, its virtual lines. -/
def State.spanUnits (s : State) (c space : Nat) (world : Bool) (l : List Span) (write : Bool) : List (Nat × Nat) :=
  ((l.filter (·.write == write)).flatMap Span.perPage).filterMap fun x =>
    match classify c x.va with
    | .scratch core off => some (scratchUnit core space off, scratchUnit core space (off + x.len - 1) + 1)
    | .global va => match s.placeNow c space world x.write va with
      | .ok p => some (p.loc / 128, (p.loc + x.len - 1) / 128 + 1)
      | .error _ => some (virtualUnits space va x.len)
    | .bad => none

/-- The virtual lines of spans, which an access that waits is compared with too. -/
def spanVirtual (c space : Nat) (l : List Span) (write : Bool) : List (Nat × Nat) :=
  (l.filter (·.write == write)).filterMap fun x => match classify c x.va with
    | .global va => some (virtualUnits space va x.len)
    | _ => none

-- reaching spans (R168)

/-- What an engine finds when it reaches for bytes. -/
inductive Reach where
  | ok (s : State)
  | walk (va acc : Nat) (s : State)
  | refill (core page va acc : Nat) (s : State)
  | fault (cause sub addr acc : Nat) (s : State)

/-- Reach one address of a task on core `c`. -/
def State.reachAt (s : State) (t : Tk) (c space : Nat) (world : Bool) (va : Nat) (write : Bool) : Reach :=
  let acc := write.toNat
  match classify c va with
  | .bad => .fault 0x40 4 va acc s
  | .scratch core off =>
    if s.diePart (coreDie core) ≠ s.diePart (coreDie c) then .fault 0x40 4 va acc s
    else match s.mem.wpages.look (wpageKey core space (off / 4096)) with
      | none => .fault 0x40 2 va acc s
      | some w => match w.bank with
        | some _ => .ok s
        | none =>
          match s.refillLatency core space w.backing with
          | .error (cause, sub) => .fault cause sub w.backing 0 s
          | .ok _ => .refill core (off / 4096) va acc s
  | .global va =>
    match s.tlbLook c space (va / 4096) with
    | none => .walk va acc s
    | some (e, _, s) =>
      let pl := s.globalPlace space world e 0 va
      if write && !s.mayWrite e (va / 4096) then .fault 0x41 0 va acc s
      else if pl.world != s.secure pl.loc then .fault 0x41 1 va acc (s.refuseWorld c t pl.loc space pl.world)
      else .ok s

/-- Reach every page of some spans in order. -/
def State.reachAll (t : Tk) (c space : Nat) (world : Bool) : List (Nat × Bool) → State → Reach
  | [], s => .ok s
  | (va, w) :: r, s =>
    match s.reachAt t c space world va w with
    | .ok s => State.reachAll t c space world r s
    | x => x

def spanPages (l : List Span) : List (Nat × Bool) := l.flatMap fun x => x.pages.map fun va => (va, x.write)

-- memory images (R174)

/-- Cut `n` bytes from `va` at line boundaries: address and length of each piece. -/
def linePieces (va n : Nat) : List (Nat × Nat) :=
  if n = 0 then [] else
  (List.range ((va + n - 1) / 128 + 1 - va / 128)).map fun k =>
    let lo := max va ((va / 128 + k) * 128)
    let hi := min (va + n) ((va / 128 + k + 1) * 128)
    (lo, hi - lo)

/-- Read bytes of memory as LD would (R174). -/
def State.imageRead (s : State) (c space : Nat) (world : Bool) (va n : Nat) : List Byte × Bool × State :=
  (linePieces va n).foldl (fun (l, p, s) (a, k) =>
    match s.placeNow c space world false a with
    | .error _ => (l ++ List.replicate k 0, p, s)
    | .ok pl =>
      if pl.scratch then
        let (bs, q, s) := s.windowBytes pl.owner space pl.off k
        (l ++ bs, p || q, s)
      else if pl.sync then
        let s := s.chargeHome c (pl.loc / 128) k
        (l ++ s.mem.bytes.bytes pl.loc k, p || s.poisoned pl.loc, (s.homeRead (pl.loc / 128)).2)
      else
        let ((d, q, _), s) := readLine c (s.chain space c pl.vc) (pl.loc / 128) (maskOf (pl.loc % 128) k) pl.tensor pl.world s
        (l ++ toBytes k (d.toNat / 2 ^ (8 * (pl.loc % 128))), p || q, s)) (([] : List Byte), false, s)

/-- A tile instruction of the task at `p` reads a location as LD would, and notes its record; the call of a note that gives way is
open until its answer, and the instruction completes after it (R174, R332). -/
def State.noteWord (s : State) (p : Pos) (run va loc : Nat) : State :=
  let t := s.tk p
  let (call, s) := s.takeNote t va loc
  let (id, s) := if call.isSome then s.fresh else (0, s)
  match s.acquire t id 4 s.cycle call.toList (.load id) with
  | none => s
  | some s => s.modTask p fun x =>
    { x.addPend { id := id, write := false, ranges := [], ackOnly := false } with
      runs := x.runs.map fun r => if r.id = run then { r with calls := id :: r.calls } else r }

/-- The records of the scratchpad and sync-class words of some bytes that a tile instruction has read (R174, R332). -/
def State.noteImage (s : State) (p : Pos) (run va n : Nat) : State :=
  (linePieces va n).foldl (fun s (a, k) =>
    match s.placeNow (posCore p) (s.task p).space (s.task p).world false a with
    | .error _ => s
    | .ok pl => if pl.scratch || pl.sync then (wordsOf pl.loc k).foldl (fun s w => s.noteWord p run (a / 8 * 8 + (w - pl.loc / 8 * 8)) w) s else s) s

/-- Write one piece of a memory image as ST would write it (R174): another core's scratchpad, a sync-class or a posted region gets a
request, whose completion or acknowledgement is waited for as a store's is (R250, R289), and for a posted region the task's own copies
of the line go (R259); the task's own scratchpad and a chain are written by the unit. A FENCE `.rel` before it makes the first piece in
a scratchpad or a sync-class region write its record (R332). -/
def State.imagePiece (s : State) (p : Pos) (pc va : Nat) (part : List Byte) (pl : Place) : State :=
  let c := posCore p
  let space := (s.task p).space
  let n := part.length
  let v := ofBytes part
  let (rec?, s) := if pl.scratch || pl.sync then s.takeFence p else (none, s)
  let send (op : PortOp) (ack : Bool) (go : PortReq → State → State) (s : State) : State :=
    let (id, s) := s.fresh
    go { t := s.tk p, id := id, core := c, space := space, world := pl.world, va := va,
         loc := if pl.scratch then scratchBase + pl.owner * 0x300000 + pl.off else pl.loc, size := n, op := op, dest := none,
         start := s.cycle, tries := 0, tile := true, pc := pc }
      (s.modTask p fun t => t.addPend { id := id, write := true, ranges := [pl.units space n], ackOnly := ack })
  let out (r : PortReq) (s : State) : State := s.sendReq s.cycle r
  if pl.scratch then
    if pl.owner = c then
      match rec?.bind fun _ => s.displaced pl.loc with
      -- it waits at the port for the retirement that its record needs (R324)
      | some (own, x) => send (.store v rec?) false (fun r s => s.beginRetire own x { r with waited := true }) s
      | none => (s.putWindow p c space pl.off part).plainRecord pl.loc n rec?
    else send (.store v rec?) true out s
  else if pl.posted then
    let ch := s.chain space c pl.vc
    let (_, s) := lift c 9 ch (pl.loc / 128) (([] : Written), s)
    send (.posted v none) true out (removeCopies 9 ch (pl.loc / 128) (0, s)).2
  else if pl.sync then send (.store v rec?) false out s
  else
    (storeLine (s.chain space c pl.vc) (pl.loc / 128) (maskOf (pl.loc % 128) n) (BitVec.ofNat 1024 (v * 2 ^ (8 * (pl.loc % 128))))
      pl.tensor pl.world s).modTask p fun t => t.enterHand va pl.loc

/-- Write bytes of memory as ST would, their regions entering the task's hand (R174, R322). -/
def State.imageWrite (s : State) (p : Pos) (pc va : Nat) (bs : List Byte) : State :=
  (linePieces va bs.length).foldl (fun s (a, k) =>
    match s.placeNow (posCore p) (s.task p).space (s.task p).world true a with
    | .error _ => s
    | .ok pl => s.imagePiece p pc a ((bs.drop (a - va)).take k) pl) s

/-- Must a unit wait for a line it reads or writes: for a fill that is under way (R316), for a vcache under reconfiguration (R300), or
for a budget period (R371)? -/
def State.unitStuck (s : State) (c space : Nat) (world : Bool) (l : List Span) : Bool :=
  l.any fun x => match classify c x.va with
    | .global _ => (linePieces x.va x.len).any fun (a, k) => match s.placeNow c space world x.write a with
      | .error _ => false
      | .ok pl =>
        let ch := s.chain space c pl.vc
        if pl.sync then !x.write && s.homeOver c (pl.loc / 128)
        else (if x.write then (if pl.posted then liftStuck s (pl.loc / 128) 9 ch else storeStuck a ch (pl.loc / 128) s)
          else readStuck a ch (pl.loc / 128) (maskOf (pl.loc % 128) k) s)
    | _ => false

/-- Is one of those vcaches under reconfiguration, so that the unit's slot is parked (R300 step 1)? -/
def State.unitFrozen (s : State) (c space : Nat) (world : Bool) (l : List Span) : Bool :=
  l.any fun x => match classify c x.va with
    | .global _ => (linePieces x.va x.len).any fun (a, _) => match s.placeNow c space world x.write a with
      | .error _ => false
      | .ok pl => !pl.sync && (s.chain space c pl.vc).any (s.frozenFor · a)
    | _ => false

-- elementwise arithmetic

/-- The larger of two values, NaN propagating and -0 below +0 (R183). -/
def tileMax (x y : Val) : Val :=
  if x.isNan || y.isNan then .nan
  else match Val.cmp x y with
    | .lt => y
    | .gt => x
    | .eq => if x.neg? then y else x

def tileMin (x y : Val) : Val :=
  if x.isNan || y.isNan then .nan
  else match Val.cmp x y with
    | .lt => x
    | .gt => y
    | .eq => if x.neg? then x else y

/-- |x|. -/
def Val.abs : Val → Val
  | .nan => .nan
  | .inf _ => .inf false
  | .fin _ m e => .fin false m e

/-- The exact values of Table 6-7. -/
def floatOp (k : Nat) (mode : Mode) (x y z : Val) : Val × Flags :=
  match k with
  | 0 => Val.add mode x y
  | 1 => Val.add mode x y.negate
  | 2 => Val.mul x y
  | 3 => Val.fma mode x y z
  | 4 => Val.div x y
  | 5 => (tileMax x y, 0)
  | 6 => (tileMin x y, 0)
  | 7 => (x.abs, 0)
  | _ => (x.negate, 0)

/-- The exact values of R188. -/
def scalarOp (k : Nat) (mode : Mode) (x σ z : Val) : Val × Flags :=
  match k with
  | 0 => Val.add mode x σ
  | 1 => Val.mul x σ
  | 2 => Val.fma mode x σ z
  | _ => (tileMax x σ, 0)

/-- An integer as `w` bits. -/
def intBits (w : Nat) (v : Int) : Nat := (BitVec.ofInt w v).toNat

/-- A bitwise operation on two integers sign-extended to 64 bits. -/
def bitwise (k : Nat) (x y : Int) : Int :=
  let a := BitVec.ofInt 64 x
  let b := BitVec.ofInt 64 y
  (if k = 3 then a &&& b else if k = 4 then a ||| b else a ^^^ b).toInt

/-- The integer members (R185): the bits written and a clamp by `.sat`. -/
def intOp (k w : Nat) (sat : Bool) (x y : Int) : Nat × Events :=
  let v : Int := match k with
    | 0 => x + y
    | 1 => x - y
    | 2 => x * y
    | 3 | 4 | 5 => bitwise k x y
    | 6 => if 0 ≤ y ∧ y < w then x * (2 : Int) ^ y.toNat else 0
    | _ => if 0 ≤ y ∧ y < w then x / (2 : Int) ^ y.toNat else if x < 0 then -1 else 0
  if sat && k ≤ 2 then (intBits w (satInt w v), { clamp := (satInt w v != v).toNat }) else (intBits w v, {})

/-- Do two operands satisfy a condition of TCMP (R186)? -/
def tileCond (k : Nat) (x y : Val) : Bool :=
  let un := x.isNan || y.isNan
  let o := Val.cmp x y
  match k with
  | 0 => !un && o == .eq
  | 1 => un || o != .eq
  | 2 => !un && o == .lt
  | 3 => !un && o != .gt
  | _ => un

/-- The exact sum of some values (R189). -/
def sumVals (mode : Mode) (l : List Val) : Val × Flags :=
  let pos := l.any (· == .inf false)
  let neg := l.any (· == .inf true)
  if pos && neg then (.nan, Flags.nv)
  else if l.any Val.isNan then (.nan, 0)
  else if pos then (.inf false, 0)
  else if neg then (.inf true, 0)
  else
    let e : Int := l.foldl (fun a v => match v with | .fin _ m e => if m = 0 then a else min a e | _ => a) 0
    let t : Int := l.foldl (fun a v => match v with
      | .fin s m q => let w : Int := ((m * 2 ^ (q - e).toNat : Nat) : Int); if m = 0 then a else if s then a - w else a + w
      | _ => a) 0
    if t = 0 then
      let allNeg := l.all fun v => v.isZero && v.neg?
      let allPos := l.all fun v => v.isZero && !v.neg?
      (.zero (allNeg || (mode == .rdn && !allPos)), 0)
    else (.fin (decide (t < 0)) t.natAbs e, 0)

/-- The largest of some values (R189). -/
def maxVals : List Val → Val
  | [] => .nan
  | x :: r => r.foldl tileMax x

/-- The integer a value of an integer format stands for. -/
def valInt : Val → Int
  | .fin s m e => let n : Int := ((m * 2 ^ e.toNat : Nat) : Int); if s then -n else n
  | _ => 0

-- FP4 blocks (R192)

/-- Is |x| at least |y|, neither NaN? -/
def absGe (x y : Val) : Bool := Val.cmp x.abs y.abs != .lt

/-- The scale of a block whose largest magnitude is `m`. -/
def fp4Scale (m : Val) : Nat :=
  ((List.range 254).map (· + 1)).find? (fun c => absGe (Val.mul (.fin false 6 0) (e5m3Value c)).1 m) |>.getD 0xFE

/-- fp4_block: scale, codes, and the events of each element; a scale of 0xFF counts once (R121). -/
def fp4Block (mode : Mode) (sat : Bool) (l : List Val) : Nat × List Nat × Events :=
  if l.any Val.isNan then
    (0xFF, l.map fun _ => 0, (l.filter Val.isNan).foldl (fun e _ => e.add (Events.ofFlags Flags.nv)) { nan := 1 })
  else
    let m := l.foldl (fun a v => if absGe a v then a else v) (.zero false)
    if m.isZero then (0, l.map fun v => if v.neg? then 8 else 0, {})
    else
      let c := fp4Scale m
      let cs := l.map fun v => finish .fp4 mode sat (Val.div v (e5m3Value c)).1 0
      (c, cs.map (·.1), cs.foldl (fun e x => e.add x.2) {})

/-- `l` in groups of `n`. -/
def groupsOf (n : Nat) (l : List α) : List (List α) :=
  (List.range (ceilDiv l.length n)).map fun k => (l.drop (k * n)).take n

-- random numbers (R195)

def rotl32 (x n : Nat) : Nat := (x * 2 ^ n + x / 2 ^ (32 - n)) % 2 ^ 32

/-- quince. -/
def quince (key ctr : Nat) : List Nat :=
  let k0 := bits key 0 32
  let k1 := bits key 32 32
  let r := (List.range 10).foldl (fun (x : Nat × Nat × Nat × Nat) r =>
    let (x0, x1, x2, x3) := x
    let x0 := (x0 + x1) % 2 ^ 32
    let x3 := rotl32 (x3 ^^^ x0) 16
    let x2 := (x2 + x3) % 2 ^ 32
    let x1 := rotl32 (x1 ^^^ x2) 12
    let x0 := (x0 + x1) % 2 ^ 32
    let x3 := rotl32 (x3 ^^^ x0) 8
    let x2 := (x2 + x3) % 2 ^ 32
    let x1 := rotl32 (x1 ^^^ x2) 7
    let x0 := x0 ^^^ k0
    let x1 := (x1 + k1) % 2 ^ 32
    let x3 := x3 ^^^ (0x9E3779B9 * (r + 1) % 2 ^ 32)
    (x0, x3, x2, x1)) (bits ctr 0 32, bits ctr 32 32, bits ctr 64 32, bits ctr 96 32)
  [r.1, r.2.1, r.2.2.1, r.2.2.2]

/-- The word of element `e`. -/
def quinceAt (key ctr e : Nat) : Nat := (quince key ((ctr + e / 4) % 2 ^ 128)).getD (e % 4) 0

-- units

/-- What a unit gives. -/
inductive UnitRes where
  | ok (ev : Events) (s : State)
  | poison (s : State)
  | malformed (s : State)

/-- A one-element row stands for every column (Table 6-2). -/
def bcast (n : Nat) (l : List α) : List α :=
  match l with
  | [x] => List.replicate n x
  | _ => l

/-- Row `i` of each source, broadcast to `n` columns, and whether any of it is poisoned. A source row is consumed whole, also where
TSEL selects no element of it, of which R187 says nothing (DESIGN CHOICE, log entry 44). -/
def State.sourceRows (s : State) (c space n : Nat) (ts : List Desc) (i : Nat) : List (Desc × List Nat) × Bool × State :=
  ts.foldl (fun (l, p, s) t =>
    let (r, q, s) := s.rowBits c space t (t.srcRow i)
    (l ++ [(t, bcast n r)], p || q, s)) (([] : List (Desc × List Nat)), false, s)

/-- Sum of events. -/
def sumEvents (l : List Events) : Events := l.foldl Events.add {}

/-- Element `j` of a source row. -/
def elemAt (l : List (Desc × List Nat)) (k j : Nat) : Format × Nat :=
  match l[k]? with
  | some (d, r) => (d.format, r.getD j 0)
  | none => (.int64, 0)

/-- One element of an elementwise member: the bits written, its events, and the events of reading its inputs. The inputs that R122
counts are the elements of tiles that arithmetic reads: not the scalar operand, nor what TCMP compares, of which the spec does not
say whether it counts (DESIGN CHOICE, log entry 45). -/
def TileRun.element (r : TileRun) (src : List (Desc × List Nat)) (j : Nat) : Nat × Events :=
  let d := r.td
  let f := d.format
  let mode := Mode.ofRmode r.rmode
  let inputs (n : Nat) : Events := sumEvents ((List.range n).map fun k => let (g, b) := elemAt src k j; inputEvents g b)
  let v (k : Nat) : Val := let (g, b) := elemAt src k j; decodeVal g b
  match r.op with
  | .float k =>
    let (x, fl) := floatOp k mode (v 0) (v 1) (v 2)
    let (b, e) := finish f mode r.sat x fl
    (b, e.add (inputs r.op.arity))
  | .special k =>
    let (x, fl) := special k f mode r.sat (v 0)
    let (b, e) := finish f mode r.sat x fl
    (b, e.add (inputs 1))
  | .int k => intOp k d.size r.sat (valInt (v 0)) (valInt (v 1))
  | .scalar k =>
    let (x, fl) := scalarOp k mode (v 0) (decodeVal .fp64 r.x) (v 1)
    let (b, e) := finish f mode r.sat x fl
    (b, e.add (inputs (if k = 2 then 2 else 1)))
  | .cmp k => ((tileCond k (v 0) (v 1)).toNat, {})
  | .sel => (if valInt (v 2) ≠ 0 then (elemAt src 0 j).2 else (elemAt src 1 j).2, {})
  | _ => (0, {})

/-- A conversion of one value to a format other than FP4 (R190). -/
def convertElem (d : Desc) (mode : Mode) (sat fromInt : Bool) (x : Val) : Nat × Events :=
  if d.int3 then
    if fromInt then
      let v := valInt x
      if sat then (intBits d.size (satInt d.size v), { clamp := (satInt d.size v != v).toNat }) else (intBits d.size v, {})
    else
      let (v, fl) := toInt d.size mode x
      (intBits d.size v, Events.ofFlags fl)
  else finish d.format mode sat x 0

/-- The parameter block of R196: KEY, CTR, KEEP, SCALE. -/
def paramBlock (bs : List Byte) : Nat × Nat × Nat × Nat :=
  let v := ofBytes bs
  (bits v 0 64, bits v 64 128, bits v 192 32, bits v 224 32)

/-- Unit `i` of a tile instruction of the task at `p` (R162). A VF8 TCPY copies a source row's stream to the end of its last block
also where that end lies beyond td's PITCH, so that the copy runs past td's row: R177 does not say (DESIGN CHOICE, log entry 44). -/
def State.tileUnit (s : State) (p : Pos) (r : TileRun) (i : Nat) : UnitRes :=
  let c := posCore p
  let space := (s.task p).space
  let world := (s.task p).world
  let d := r.td
  let a := r.ta
  let n := d.cols
  let mode := Mode.ofRmode r.rmode
  let put (s : State) (vs : List Nat) (e : Events) : UnitRes := .ok e (s.putRow p space d i vs)
  match r.op with
  | .ld =>
    if d.layout = 2 then
      let (st, p1, s) := s.imageRead c space world (r.x + i * d.pitch) d.pitch
      let (ix, p2, s) := s.imageRead c space world (r.x + d.rows * d.pitch + 2 * i * d.nb) (2 * d.nb)
      let s := (s.noteImage p r.id (r.x + i * d.pitch) d.pitch).noteImage p r.id (r.x + d.rows * d.pitch + 2 * i * d.nb) (2 * d.nb)
      if p1 || p2 then .poison s
      else .ok {} ((s.putWindow p (d.owner c) space (d.base + i * d.pitch) st).putWindow p (d.owner c) space (d.ibase + 2 * i * d.nb) ix)
    else
      let (bs, q, s) := (d.imageSpans r.x i false).foldl (fun (l, q, s) x =>
        let (b, q', s) := s.imageRead c space world x.va x.len
        (l ++ [ofBytes b], q || q', s.noteImage p r.id x.va x.len)) (([] : List Nat), false, s)
      let vs := if d.layout = 0 then splitBits d.size n (bs.getD 0 0)
        else bs.map fun v => v / 2 ^ (if d.size = 4 then (d.pos i 0).2 else 0) % 2 ^ d.size
      if q then .poison s else put s vs {}
  | .st =>
    if d.layout = 2 then
      let (st, p1, s) := s.windowBytes (d.owner c) space (d.base + i * d.pitch) d.pitch
      let (ix, p2, s) := s.windowBytes (d.owner c) space (d.ibase + 2 * i * d.nb) (2 * d.nb)
      if p1 || p2 then .poison s
      else .ok {} ((s.imageWrite p r.pc.toNat (r.x + i * d.pitch) st).imageWrite p r.pc.toNat (r.x + d.rows * d.pitch + 2 * i * d.nb) ix)
    else
      let (vs, q, s) := s.rowBits c space d i
      if d.layout = 0 then
        if q then .poison s else .ok {} (s.imageWrite p r.pc.toNat (r.x + i * d.pitch) (toBytes d.lineBytes (joinBits d.size vs)))
      else
        -- the other nibble of a column-major FP4 byte is its row's element, or zero outside the logical shape (R497)
        let k := if i % 2 = 0 then i + 1 else i - 1
        let (ws, q', s) := if d.size = 4 && k < d.rows then s.rowBits c space d k else (List.replicate n 0, false, s)
        if q || q' then .poison s
        else
          let bytes (v w : Nat) : List Byte :=
            if d.size = 4 then toBytes 1 (if i % 2 = 0 then v + 16 * w else w + 16 * v) else toBytes (d.size / 8) v
          .ok {} (((d.imageSpans r.x i true).zip (vs.zip ws)).foldl (fun s (x, v, w) => s.imageWrite p r.pc.toNat x.va (bytes v w)) s)
  | .gath =>
    let (k, j) := a.elemOf i
    let (_, q, s) := s.windowBytes (a.owner c) space (a.pos k j).1 (a.size / 8)
    let va := s.indexedVa c space d a r.x i
    let (bs, q', s) := s.imageRead c space world va d.lineBytes
    let s := s.noteImage p r.id va d.lineBytes
    if q || q' then .poison s else put s (splitBits d.size n (ofBytes bs)) {}
  | .scat =>
    let (k, j) := a.elemOf i
    let (_, q, s) := s.windowBytes (a.owner c) space (a.pos k j).1 (a.size / 8)
    let (vs, q', s) := s.rowBits c space d i
    if q || q' then .poison s
    else .ok {} (s.imageWrite p r.pc.toNat (s.indexedVa c space d a r.x i) (toBytes d.lineBytes (joinBits d.size vs)))
  | .cpy =>
    if d.layout = 2 then
      let (st, ix, q, s) := s.vf8Row c space a i 0 true
      let ends := a.vf8Ends st ix
      let read := ceilDiv d.cols 64
      if q then .poison s
      else if (ends.take read).any (·.isNone) then .malformed s
      else
        let k := ends.foldl (fun m e => max m (e.getD 0)) 0
        let nb := ceilDiv k 8
        let (old, _, s) := s.windowBytes (d.owner c) space (d.base + i * d.pitch) nb
        let v := ofBits (st.take k) + ofBytes old / 2 ^ k * 2 ^ k
        .ok {} ((s.putWindow p (d.owner c) space (d.base + i * d.pitch) (toBytes nb v)).putWindow p (d.owner c) space
          (d.ibase + 2 * i * d.nb) (toBytes (2 * d.nb) (joinBits 16 ix)))
    else
      let (vs, q, s) := s.rowBits c space a i
      if q then .poison s else put s vs {}
  | .fill => put s (List.replicate n (r.x % 2 ^ d.size)) {}
  | .trans =>
    let (vs, q, s) := s.rowBits c space a.flip i
    if q then .poison s else put s vs {}
  | .rot =>
    let (vs, q, s) := s.rowBits c space a ((i + bits r.x 0 16) % a.rows)
    let vs := (List.range n).map fun j => vs.getD ((j + bits r.x 16 16) % a.cols) 0
    if q then .poison s else put s vs {}
  | .reduce k =>
    let rowsOf := if k = 2 || k = 4 then [i] else List.range a.rows
    let (rs, q, s) := rowsOf.foldl (fun (l, q, s) j =>
      let (v, q', s) := s.rowBits c space a j
      (l ++ [v], q || q', s)) (([] : List (List Nat)), false, s)
    if q then .poison s
    else
      let groups : List (List Nat) :=
        if k = 3 || k = 5 then (List.range a.cols).map fun j => rs.map fun x => x.getD j 0 else [rs.flatten]
      let out := groups.map fun g =>
        let vs := g.map (decodeVal a.format)
        if d.int3 then
          let ns := vs.map valInt
          (intBits d.size (if k = 4 || k = 5 then (match ns with | [] => 0 | x :: t => t.foldl max x) else ns.foldl (· + ·) 0), ({} : Events))
        else
          let (x, fl) := if k = 4 || k = 5 then (maxVals vs, (0 : Flags)) else sumVals mode vs
          let (b, e) := finish d.format mode false x fl
          (b, e.add (sumEvents (g.map (inputEvents a.format))))
      put s (out.map (·.1)) (sumEvents (out.map (·.2)))
  | .cvt rnd =>
    let m := effMode rnd r.rmode
    let (bs, q, s) := s.rowBits c space a i
    let (sc, q', s) := if a.fmt = 6 then s.windowBytes c space (r.scla + i * d.nbr) d.nbr else ([], false, s)
    if q || q' then .poison s
    else
      let scale (j : Nat) : Nat := ((sc.map BitVec.toNat).getD (j / 32) 0)
      let vals := ((List.range n).zip bs).map fun (j, b) =>
        if a.fmt = 6 then (Val.mul (decodeVal .fp4 b) (e5m3Value (scale j))).1 else decodeVal a.format b
      let ins := sumEvents (((List.range n).zip bs).map fun (j, b) =>
        if a.int3 then {} else { inputEvents a.format b with nanIn := if a.fmt = 6 then (scale j == 255).toNat else (isNanBits a.format b).toNat })
      if d.fmt = 6 then
        let bl := (groupsOf 32 vals).map (fp4Block m r.sat)
        let s := s.putRow p space d i (bl.flatMap fun x => x.2.1)
        .ok (ins.add (sumEvents (bl.map fun x => x.2.2)))
          (s.putWindow p c space (r.scla + i * d.nbr) (bl.map fun x => BitVec.ofNat 8 x.1))
      else
        let out := vals.map (convertElem d m r.sat a.int3)
        put s (out.map (·.1)) (ins.add (sumEvents (out.map (·.2))))
  | .pack =>
    let (bs, q, s) := s.rowBits c space a i
    if q then .poison s
    else
      let vals := bs.map (decodeVal a.format)
      let blocks := (List.range d.nb).map fun b =>
        vf8EncodeBlock mode false ((List.range (d.blockLen b)).map fun k => vals.getD (64 * b + k) (.zero false))
      let (st, ix) := blocks.foldl (fun (st, ix) b => (st ++ b.bits, ix ++ [st.length])) (([] : List Bool), ([] : List Nat))
      let ev := sumEvents (blocks.map fun b => sumEvents b.events)
      .ok (ev.add (sumEvents (bs.map (inputEvents a.format))))
        ((s.putWindow p (d.owner c) space (d.base + i * d.pitch) (toBytes (ceilDiv st.length 8) (ofBits st))).putWindow p (d.owner c) space
          (d.ibase + 2 * i * d.nb) (toBytes (2 * d.nb) (joinBits 16 ix)))
  | .unpack =>
    let (st, ix, q, s) := s.vf8Row c space a i (ceilDiv a.cols 64) false
    if q then .poison s
    else match a.vf8Values st ix with
      | none => .malformed s
      | some vs =>
        let out := vs.map fun x => let (b, e) := finish d.format mode false x 0; (b, e.add (inputEventsVal x))
        put s (out.map (·.1)) (sumEvents (out.map (·.2)))
  | .rand =>
    let (bs, q, s) := s.windowBytes c space r.x 24
    let (key, ctr, _, _) := paramBlock bs
    if q then .poison s
    else put s ((List.range n).map fun j =>
      let u := quinceAt key ctr (i * n + j)
      if d.fmt = 9 then u else encodeVal .fp32 (.fin false (u / 256) (-24))) {}
  | .drop =>
    let (bs, q, s) := s.windowBytes c space r.x 32
    let (key, ctr, keep, sc) := paramBlock bs
    let (vs, q', s) := s.rowBits c space a i
    if q || q' then .poison s
    else
      let out := ((List.range n).zip vs).map fun (j, b) =>
        if quinceAt key ctr (i * n + j) < keep then
          let (x, fl) := Val.mul (decodeVal a.format b) (decodeVal .fp32 sc)
          let (y, e) := finish d.format mode false x fl
          (y, e.add (inputEvents a.format b))
        else (0, {})
      put s (out.map (·.1)) (sumEvents (out.map (·.2)))
  | op =>
    -- elementwise members; TFMAS also reads td (R188)
    let ts := match op with
      | .scalar 2 => [a, d]
      | .scalar _ => [a]
      | _ => [a, r.tb, r.tc].take op.arity
    let (src, q, s) := s.sourceRows c space n ts i
    if q then .poison s
    else
      let out := (List.range n).map (r.element src)
      put s (out.map (·.1)) (sumEvents (out.map (·.2)))

end Sys2Proof.Machine
end

