-- ==== Sys2Proof/Machine/Matrix.lean ====
section
/-! DEFINITION. Accumulators, operands, the order of summation, checks and replay (07_matrix_partner.md R207-R226). -/
namespace Sys2Proof.Machine

-- checks of a command (R244)

/-- Do the effective formats form a pair the partner of core `c` accepts (Table 7-3)? -/
def pairAccepted (c f g : Nat) : Bool :=
  if isBroad c then (f == g && (f == 2 || f == 3)) || ([4, 5, 7].contains f && [4, 5, 7].contains g)
  else (f == 6 && g == 6) || ([4, 7].contains f && [4, 7].contains g)

/-- Multiply-accumulates per cycle (Table 7-3). -/
def macRate (f : Nat) : Nat := if f = 6 then 16384 else 8192

/-- M, N and K of a command, and the K of its second tile (Table 7-4). -/
def MCmd.shape (m : MCmd) : Nat × Nat × Nat × Nat :=
  if m.op = 1 || m.op = 3 then (m.da.rows, m.db.rows, m.da.cols, m.db.cols)
  else (m.da.rows, m.db.cols, m.da.cols, m.db.rows)

/-- Does a command pass the checks of R244 on core `c` for a task with `tiles` tile registers and `accs` accumulators? -/
def MCmd.passes (m : MCmd) (c tiles accs : Nat) : Bool :=
  let ta := bits m.word 8 4
  let tb := bits m.word 12 4
  decide (m.acc < accs) &&
  (if m.op = 4 || m.op = 7 then true
   else if m.op = 5 || m.op = 6 then
     decide (ta < tiles) && decide (m.da.rows ≤ 128) && decide (m.da.cols ≤ 128) && decide (m.da.fmt ≤ 3) && (m.op == 6 || m.da.fmt != 0)
   else
     let (M, N, K, K2) := m.shape
     decide (ta < tiles) && decide (tb < tiles) &&
     match effFormat m.da m.fmtA, effFormat m.db m.fmtB with
     | some f, some g =>
       let nbk := ceilDiv K 32
       let sa := if scaled f m.fmtC then nbk * M else 0
       let sb := if scaled g m.fmtC then nbk * N else 0
       pairAccepted c f g && decide (M ≤ 128) && decide (N ≤ if m.op = 3 then 192 else 128) && decide (K ≤ 256) && K == K2
         && (g != 7 || m.op == 1 || m.op == 3)
         && bits m.scnt 0 16 == sa && bits m.scnt 16 16 == sb
         && (sa == 0 || decide (m.sclA + sa ≤ 0x300000)) && (sb == 0 || decide (m.sclB + sb ≤ 0x300000))
     | _, _ => false)

/-- The further checks of a command word at the head of its queue (R205). -/
def MCmd.wellWorded (m : MCmd) : Bool :=
  bits m.word 32 32 == 0 && bits m.word 16 8 == 0 && decide (m.op ≤ 7) && m.op != 3
    && (if m.op = 4 || m.op = 7 then bits m.word 8 8 == 0 else if m.op = 5 || m.op = 6 then bits m.word 12 4 == 0 else true)

-- accumulators

/-- Row `i` of an accumulator. -/
def Accum.row (a : Accum) (i : Nat) : List Nat := a.rows.get (List.replicate 128 0) i

/-- Element (i, j). -/
def Accum.elem (a : Accum) (i j : Nat) : Nat := (a.row i).getD j 0

def Accum.setElem (a : Accum) (i j v : Nat) : Accum := { a with rows := a.rows.put i ((a.row i).set j v) }

/-- A base point (R224): the four vectors, the marks and the retained operands go; every element is +0. -/
def Accum.basePoint (a : Accum) : Accum :=
  { corr := a.corr, lastSt := a.lastSt, lastOp := a.lastOp }

/-- Bytes an accumulator retains (R224). -/
def Accum.retained (a : Accum) : Nat := a.kept + (a.ops.map (·.bytes)).foldl (· + ·) 0

/-- Rounding to 24 significant bits with an extended exponent range (R220). -/
def round24 (mode : Mode) : Val → Val
  | .fin s m e =>
    if m = 0 then .fin s m e else
    let q := Val.ilog m e - 23
    let (n, _) := quantize mode s m e q
    .fin s n q
  | v => v

/-- Add a group's exact sum and magnitude sum to a checksum entry and its magnitude (R220). -/
def addCheck (cs mag : Tbl Val) (k : Nat) (l : List Val) : Tbl Val × Tbl Val :=
  let z := Val.zero false
  let s := (sumVals .rne l).1
  let t := (sumVals .rne (l.map Val.abs)).1
  (cs.put k (round24 .rne (Val.add .rne (cs.get z k) (round24 .rne s)).1),
   mag.put k (round24 .rup (Val.add .rne (mag.get z k) (round24 .rup t)).1))

/-- The exact sum of the products of one group (R212). -/
def groupSum (a b : List Val) : Val := (sumVals .rne ((a.zip b).map fun x => (Val.mul x.1 x.2).1)).1

/-- One accumulate step (R212): the new element and whether a rounding overflowed. -/
def accumulate (c : Nat) (s : Val) : Nat × Bool :=
  let (g, f₁) := roundTo .fp32 .rne false s
  let (v, f₂) := roundTo .fp32 .rne false (Val.add .rne (decodeVal .fp32 c) (decodeVal .fp32 g)).1
  (v, (f₁ ||| f₂) &&& Flags.of != 0)

/-- Is an FP32 pattern a NaN or an infinity? -/
def nonFinite (b : Nat) : Bool := bits b 23 8 == 255

/-- Column `j` of a matrix of values. -/
def columnOf (m : List (List Val)) (j : Nat) : List Val := m.map fun r => r.getD j (.zero false)

/-- One group of an operation over its area (R212, R220): `a` holds the group's values per row, `b` per column. -/
def Accum.group (ac : Accum) (a b : List (List Val)) : Accum × List Nat :=
  let s := a.map fun r => b.map fun c => groupSum r c
  let (ac, ovf) := (List.range s.length).foldl (fun (ac, ovf) i =>
    let old := ac.row i
    let sums := s.getD i []
    let out := (List.range sums.length).map fun j => accumulate (old.getD j 0) (sums.getD j (.zero false))
    let new := out.map (·.1) ++ old.drop sums.length
    let bad := (List.range sums.length).filter fun j => nonFinite (new.getD j 0) && !nonFinite (old.getD j 0)
    let ovf := ovf ++ ((List.range sums.length).filter fun j => (out.getD j (0, false)).2).map fun j => i * 128 + j
    ({ ac with rows := ac.rows.put i new,
               nfRow := if bad.isEmpty || ac.nfRow.contains i then ac.nfRow else i :: ac.nfRow,
               nfCol := bad.foldl (fun l j => if l.contains j then l else j :: l) ac.nfCol }, ovf)) (ac, ([] : List Nat))
  let (cr, mr) := (List.range b.length).foldl (fun (x : Tbl Val × Tbl Val) j => addCheck x.1 x.2 j (columnOf s j)) (ac.csRow, ac.magRow)
  let (cc, mc) := (List.range s.length).foldl (fun (x : Tbl Val × Tbl Val) i => addCheck x.1 x.2 i (s.getD i [])) (ac.csCol, ac.magCol)
  ({ ac with csRow := cr, magRow := mr, csCol := cc, magCol := mc, groups := ac.groups + 1 }, ovf)

/-- Values `k0` to `k0 + 15` of each line. -/
def slice16 (k0 : Nat) (l : List (List Val)) : List (List Val) := l.map fun r => (r.drop k0).take 16

/-- The groups of K-block `b` (R215); `a` and `b` hold every value read so far. -/
def Accum.block (ac : Accum) (blk k : Nat) (a b : List (List Val)) : Accum × List Nat :=
  (List.range (ceilDiv (min 64 (k - 64 * blk)) 16)).foldl (fun (ac, ovf) g =>
    let (ac, o) := ac.group (slice16 (64 * blk + 16 * g) a) (slice16 (64 * blk + 16 * g) b)
    (ac, ovf ++ o)) (ac, ([] : List Nat))

/-- mma_update of one element over whole retained operands (R212, R222). -/
def updateElem (v : Nat) (a b : List Val) : Nat :=
  (List.range (ceilDiv a.length 16)).foldl (fun v g =>
    (accumulate v (groupSum ((a.drop (16 * g)).take 16) ((b.drop (16 * g)).take 16))).1) v

-- checks (R221, R222)

/-- Does a line of elements agree with its checksum: `n` groups, magnitude and mark (R221)? -/
def agrees (els : List Nat) (cs mag : Val) (n : Nat) (mark : Bool) : Bool :=
  mark ||
  (match cs with
   | .fin .. =>
     els.all (fun b => !nonFinite b) &&
       (let d := (Val.add .rne (sumVals .rne (els.map (decodeVal .fp32))).1 cs.negate).1
        let tol := (Val.mul (.fin false (n + 2) (-22)) mag).1
        Val.cmp d.abs tol != .gt)
   | _ => false)

def Accum.colAgrees (a : Accum) (j : Nat) : Bool :=
  agrees ((List.range 128).map fun i => a.elem i j) (a.csRow.get (.zero false) j) (a.magRow.get (.zero false) j) a.groups (a.nfCol.contains j)

def Accum.rowAgrees (a : Accum) (i : Nat) : Bool :=
  agrees (a.row i) (a.csCol.get (.zero false) i) (a.magCol.get (.zero false) i) a.groups (a.nfRow.contains i)

/-- replay (R222). -/
def Accum.replay (a : Accum) (i j : Nat) : Nat :=
  a.ops.foldl (fun v o => if i < o.m && j < o.n then updateElem v (o.a.getD i []) (o.b.getD j []) else v)
    ((a.base.get (List.replicate 128 0) i).getD j 0)

/-- check (R222): the elements corrected and the accumulator afterwards; none for an uncorrectable error. -/
def Accum.check (a : Accum) : Option (Nat × Accum) :=
  let cols := (List.range 128).filter fun j => !a.colAgrees j
  let rows := (List.range 128).filter fun i => !a.rowAgrees i
  match rows, cols with
  | [], [] => some (0, a)
  | [i], [j] =>
    if a.unret then none
    else
      let b := a.setElem i j (a.replay i j)
      if b.rowAgrees i && b.colAgrees j then some (1, b) else none
  | _, _ => none

/-- MLOAD's values become the base point (R214, R220): `vs` holds FP32 patterns by row; `kept` bytes are retained. -/
def Accum.load (a : Accum) (vs : List (List Nat)) (kept : Option Nat) : Accum :=
  let rows : Tbl (List Nat) := (List.range vs.length).map fun i => (i, (vs.getD i []) ++ List.replicate (128 - (vs.getD i []).length) 0)
  let b := { a.basePoint with rows := rows, base := rows, groups := 1, kept := kept.getD 0, unret := kept.isNone }
  let m := vs.map fun r => r.map (decodeVal .fp32)
  let width := ((vs.head?).map List.length).getD 0
  let (cr, mr) := (List.range width).foldl (fun (x : Tbl Val × Tbl Val) j => addCheck x.1 x.2 j (columnOf m j)) (([] : Tbl Val), ([] : Tbl Val))
  let (cc, mc) := (List.range vs.length).foldl (fun (x : Tbl Val × Tbl Val) i => addCheck x.1 x.2 i (m.getD i [])) (([] : Tbl Val), ([] : Tbl Val))
  { b with csRow := cr, magRow := mr, csCol := cc, magCol := mc,
           nfRow := (List.range vs.length).filter fun i => (vs.getD i []).any nonFinite,
           nfCol := (List.range width).filter fun j => vs.any fun r => nonFinite (r.getD j 0) }

-- operands (R202, R207, R211, R215)

def Operand.desc (o : Operand) : Desc := Desc.ofBits o.d

/-- Element (line r, k) of an operand: its window position. -/
def Operand.pos (o : Operand) (r k : Nat) : Nat × Nat := if o.byRow then o.desc.pos (o.first + r) k else o.desc.pos k (o.first + r)

/-- Bits per element of the effective format. -/
def Operand.size (o : Operand) : Nat := ((Format.ofCode o.fmt).map Format.width).getD 0

/-- Read `n` bytes of an operand's window, each aligned 4-byte word once (R202): the bytes' number and whether a word read now is
poisoned. -/
def State.operandBytes (s : State) (o : Operand) (off n : Nat) : Nat × Bool × Operand × State :=
  let (bs, p, o, s) := (List.range ((off + n - 1) / 4 + 1 - off / 4)).foldl (fun (l, p, (o : Operand), (s : State)) k =>
    let w := off / 4 + k
    match (o.words.get [] (w / 64)).look w with
    | some v => (l ++ toBytes 4 v, p, o, s)
    | none =>
      let (b, q, s) := s.windowBytes o.core o.space (w * 4) 4
      (l ++ b, p || q, { o with words := o.words.upd [] (w / 64) fun t => t.put w (ofBytes b) }, s)) (([] : List Byte), false, o, s)
  (ofBytes ((bs.drop (off % 4)).take n), p, o, s)

/-- A window byte of an operand without reading it for good: the captured word's, else the window's. -/
def State.operandPeek (s : State) (o : Operand) (off : Nat) : Byte :=
  let w := off / 4
  match (o.words.get [] (w / 64)).look w with
  | some v => BitVec.ofNat 8 (v / 2 ^ (8 * (off % 4)))
  | none => (s.windowBytes o.core o.space off 1).1.getD 0 0

/-- What reading a K-block of one line gives. -/
structure LineRead where
  vals   : List Val := []
  ins    : Events := {}
  poison : Bool := false
  bad    : Bool := false   -- a malformed VF8 block (R116)

/-- The scale of line r for block `kb` of 32 (R211): each scale byte is read once (R202). -/
def State.operandScale (s : State) (o : Operand) (K r kb : Nat) : Option Nat × Bool × Operand × State :=
  match o.scale with
  | none => (none, false, o, s)
  | some a =>
    let off := a + (o.first + r) * ceilDiv K 32 + kb
    match o.scales.look off with
    | some v => (some v, false, o, s)
    | none =>
      let (b, p, s) := s.windowBytes o.core o.space off 1
      (some (ofBytes b), p, { o with scales := o.scales.put off (ofBytes b) }, s)

/-- An element's value under its scale, and the events of reading it (R211, Table 4-12). -/
def scaledVal (f : Format) (b : Nat) (sc : Option Nat) : Val × Events :=
  match sc with
  | none => (decodeVal f b, inputEvents f b)
  | some c => ((Val.mul (decodeVal f b) (e5m3Value c)).1,
               { inputEvents f b with nanIn := (isNanBits f b || c == 255).toNat })

/-- Read the values of K-block `blk` of line `r` (R215). -/
def State.readOperandLine (s : State) (o : Operand) (K blk r : Nat) : LineRead × Operand × State :=
  let k0 := 64 * blk
  let n := min 64 (K - k0)
  let d := o.desc
  if o.fmt = 7 then
    let row := o.first + r
    let (e, p, o, s) := s.operandBytes o (d.ibase + 2 * (row * d.nb + blk)) 2
    let start := d.base + row * d.pitch
    let lo := e / 8
    let hi := min d.pitch (lo + 108)
    let st := (toBits (8 * (hi - lo)) (ofBytes ((List.range (hi - lo)).map fun i => s.operandPeek o (start + lo + i)))).drop (e % 8)
    match vf8DecodeBlock st (d.blockLen blk), vf8Length st 0 (d.blockLen blk) with
    | some (_, vs), some len =>
      let (_, q, o, s) := s.operandBytes o (start + lo) (ceilDiv (e % 8 + len) 8)
      let vs := vs.take n
      ({ vals := vs, ins := sumEvents (vs.map inputEventsVal), poison := p || q }, o, s)
    | _, _ => ({ poison := p, bad := true }, o, s)
  else
    let f := (Format.ofCode o.fmt).getD .fp64
    let (raw, p, o, s) :=
      if o.byRow && d.layout = 0 || !o.byRow && d.layout = 1 then
        let (off, b) := o.pos r k0
        let (v, p, o, s) := s.operandBytes o off (ceilDiv (b + n * o.size) 8)
        (splitBits o.size n (v / 2 ^ b), p, o, s)
      else
        (List.range n).foldl (fun (l, p, (o : Operand), (s : State)) k =>
          let (off, b) := o.pos r (k0 + k)
          let (v, q, o, s) := s.operandBytes o off (max 1 (o.size / 8))
          (l ++ [v / 2 ^ b % 2 ^ o.size], p || q, o, s)) (([] : List Nat), false, o, s)
    let (s0, p1, o, s) := s.operandScale o K r (2 * blk)
    let (s1, p2, o, s) := if 32 < n then s.operandScale o K r (2 * blk + 1) else (s0, false, o, s)
    let xs := ((List.range n).zip raw).map fun (k, b) => scaledVal f b (if k < 32 then s0 else s1)
    ({ vals := xs.map (·.1), ins := sumEvents (xs.map (·.2)), poison := p || p1 || p2 }, o, s)

/-- Read a K-block of every line of an operand: events, poison, a malformed block. The values join those read before. -/
def State.readOperand (s : State) (o : Operand) (K blk : Nat) : Events × Bool × Bool × Operand × State :=
  let (ls, e, p, b, o, s) := (List.range o.lines).foldl (fun (l, (e : Events), p, b, (o : Operand), (s : State)) r =>
    let (x, o, s) := s.readOperandLine o K blk r
    (l ++ [(o.vals.getD r []) ++ x.vals], e.add x.ins, p || x.poison, b || x.bad, o, s)) (([] : List (List Val)), ({} : Events), false, false, o, s)
  (e, p, b, if p || b then o else { o with vals := ls }, s)

/-- A span of an operand's window, for a task on core `c`. -/
def Operand.span (o : Operand) (c off len : Nat) : Span := ⟨windowVa c o.core off, len, false⟩

/-- The index entry of VF8 block `blk` of line `r`, as the window holds it. -/
def State.operandEntry (s : State) (o : Operand) (blk r : Nat) : Nat :=
  let off := o.desc.ibase + 2 * ((o.first + r) * o.desc.nb + blk)
  (s.operandPeek o off).toNat + 256 * (s.operandPeek o (off + 1)).toNat

/-- Where VF8 block `blk` of line `r` lies in its row's stream, as the window holds it: its first bit and the bit after its last;
a malformed block runs to the row's end (R116). -/
def State.operandStream (s : State) (o : Operand) (blk r : Nat) : Nat × Nat :=
  let d := o.desc
  let e := s.operandEntry o blk r
  let start := d.base + (o.first + r) * d.pitch
  let lo := e / 8
  let hi := min d.pitch (lo + 108)
  let st := toBits (8 * (hi - lo)) (ofBytes ((List.range (hi - lo)).map fun i => s.operandPeek o (start + lo + i)))
  (e, match vf8Length st (e % 8) (d.blockLen blk) with | some n => e + n | none => 8 * d.pitch)

/-- Some bits of the stream of line `r`, as a span. -/
def Operand.streamSpan (o : Operand) (c r lo hi : Nat) : Span :=
  o.span c (o.desc.base + (o.first + r) * o.desc.pitch + lo / 8) (ceilDiv hi 8 - lo / 8)

/-- The window bytes that K-block `blk` of an operand needs first: index entries for a VF8 operand, else its elements and scale
bytes, and no byte beside them (R216). -/
def Operand.spans (o : Operand) (c K blk : Nat) : List Span :=
  let d := o.desc
  let n := min 64 (K - 64 * blk)
  let run (x : Nat × Nat) (k : Nat) : Span := o.span c x.1 (ceilDiv (x.2 + k * o.size) 8)
  let scales := match o.scale with
    | none => []
    | some a => (List.range o.lines).map fun r => o.span c (a + (o.first + r) * ceilDiv K 32 + 2 * blk) (ceilDiv n 32)
  (if o.fmt = 7 then
    (List.range o.lines).map fun r => o.span c (d.ibase + 2 * ((o.first + r) * d.nb + blk)) 2
   else if o.byRow && d.layout = 0 || !o.byRow && d.layout = 1 then
    (List.range o.lines).map fun r => run (o.pos r (64 * blk)) n
   else if o.lines = 0 then []
   else (List.range n).map fun k => run (o.pos 0 (64 * blk + k)) o.lines) ++ scales

/-- The headers of a VF8 operand's blocks, once their index entries are at hand. -/
def State.headSpans (s : State) (o : Operand) (c blk : Nat) : List Span :=
  if o.fmt ≠ 7 then [] else
  ((List.range o.lines).map fun r => (r, s.operandEntry o blk r)).filterMap fun (r, e) =>
    if 8 * o.desc.pitch < e + 8 then none else some (o.streamSpan c r e (e + 8))

/-- The streams of a VF8 operand's blocks, once their headers are at hand. -/
def State.streamSpans (s : State) (o : Operand) (c blk : Nat) : List Span :=
  if o.fmt ≠ 7 then [] else
  ((List.range o.lines).map fun r => (r, s.operandStream o blk r)).filterMap fun (r, e, hi) =>
    if hi ≤ e then none else some (o.streamSpan c r e hi)

/-- The bytes of an operand that retention holds once the k below `K` have been read (R224): its logical lines, or its VF8 streams up
to the end of each row's last block with the index entries, and its scale bytes. -/
def State.operandKept (s : State) (o : Operand) (K : Nat) : Nat :=
  let d := o.desc
  let body :=
    if o.fmt = 7 then
      ((List.range o.lines).map fun r =>
        let ends := (List.range (ceilDiv K 64)).map fun b => (s.operandStream o b r).2
        ceilDiv (ends.foldl max 0) 8 + 2 * ends.length).foldl (· + ·) 0
    else if o.byRow then
      (if d.layout = 1 then K * ceilDiv (o.lines * o.size) 8 else o.lines * ceilDiv (K * o.size) 8)
    else if d.layout = 1 then o.lines * ceilDiv (K * o.size) 8 else K * ceilDiv (o.lines * o.size) 8
  body + (match o.scale with | some _ => o.lines * ceilDiv K 32 | none => 0)

end Sys2Proof.Machine
end

