-- ==== Sys2Proof/Machine/Partner.lean ====
section
/-! DEFINITION. The partner's service of commands, joint operations, and the matrix instructions (07_matrix_partner.md R201-R206,
R213-R219, R222-R239). -/
namespace Sys2Proof.Machine

def State.partner (s : State) (c : Nat) : Partner := (s.core c).partner
def State.modPartner (s : State) (c : Nat) (f : Partner → Partner) : State := s.modCore c fun x => { x with partner := f x.partner }
def State.modPRun (s : State) (c : Nat) (f : PRun → PRun) : State := s.modPartner c fun p => { p with run := p.run.map f }

/-- Change an accumulator of a task. -/
def Task.modAcc (t : Task) (k : Nat) (f : Accum → Accum) : Task := { t with accs := t.accs.upd {} k f }
def Task.acc (t : Task) (k : Nat) : Accum := t.accs.get {} k
def State.modAcc (s : State) (t : Tk) (k : Nat) (f : Accum → Accum) : State := s.onTask t fun x => x.modAcc k f

/-- The module's quad and cluster members of a core: (quad, c, m) (R227). -/
def jointPlace (core : Nat) : Nat × Nat × Nat := (quadNo core, clusterMember core, memberNo core)

/-- The cores of a quad. -/
def quadCores (q : Nat) : List Nat :=
  (List.range 32).map fun k => coreOf (q / 8) (4 * (q % 4) + k % 4) (8 * (q % 8 / 4) + k / 4)

-- completion (R205, R206, R213)

/-- A completion word (Table 7-2). -/
def completionWord (cycle tag status acc op : Nat) : Word :=
  word (cycle % 2 ^ 32 * 2 ^ 32 + tag % 256 * 2 ^ 24 + status * 2 ^ 16 + acc * 16 + op)

/-- Is a command that entered before `last` and names `acc` (or any, for 16: an MMAJ) still pending for the task at `p`? -/
def State.commandPending (s : State) (p : Pos) (acc last : Nat) : Bool :=
  let names (m : MCmd) : Bool := m.id < last && (if acc = 16 then m.op == 3 && !m.pushed else m.acc == acc)
  let x := s.slot p
  x.cmds.any names || (match x.mrun with | some r => names r.cmd | none => false) ||
    (match (s.partner (posCore p)).run with
     | some r => r.t == s.tk p && names r.cmd
     | none => false)

/-- The poison trap of a matrix instruction (R217). -/
def accTrap (acc : Nat) : Trap := { cause := 4, sub := 0, val := acc, deferred := false }

/-- A task leaves its joint group; the last one dissolves it (R232). -/
def State.leaveJoint (s : State) (p : Pos) : State :=
  let q := quadNo (posCore p)
  let n := (s.task p).joint
  let s := s.modTask p fun t => { t with jointIn := false }
  match s.joints.look q with
  | none => s
  | some g =>
    if !g.members.contains (s.tk p) then s else
    let g := { g with left := g.left ++ [(s.tk p, n)] }
    -- an MMAJ already at the head of another member's queue may complete now
    if g.left.length < g.members.length then
      g.members.foldl (fun s t => s.kickPartner (posCore t.pos)) { s with joints := s.joints.put q g }
    else { s with joints := s.joints.del q }.post s.cycle (tieAt (posCore p) p) .jointGroupForm (.jointForm q)

/-- Wake a task whose MWAIT or MLEAVE is over (R238). -/
def State.wakeMatrix (s : State) (p : Pos) : State :=
  if (s.slot p).st != .parked then s else
  match (s.task p).wait with
  | some (.matrixWait acc last) =>
    if s.commandPending p acc last then s
    else if ((s.task p).acc acc).pois then
      (s.finishBlocking p { Finish.plain with fault := some (accTrap acc) }).getD s
    else s.wakePast p (.matrixWait acc last)
  | some (.leave last) => if s.commandPending p 16 last then s else (s.leaveJoint p).wakePast p (.leave last)
  | _ => s

/-- A command of task `t` on core `c` has completed with a status (R205, R206, Table 7-7). -/
def State.completeCommand (s : State) (t : Tk) (m : MCmd) (status : Nat) : State :=
  let s := s.pendDone t m.id
  let s := if ((s.findTask t).map (·.nAccs)).getD 0 ≤ m.acc then s
    else s.modAcc t m.acc fun a => { a with lastSt := status, lastOp := m.op }
  let s := if m.pushed || m.op = 3 then
      let w := completionWord s.cycle (if m.pushed then bits m.word 24 8 else m.joint) status m.acc m.op
      (s.modSlot t.pos fun x => { x with comps := x.comps ++ [w], compsRes := x.compsRes - 1 }).wake t.pos (.pop 4)
    else s
  s.wakeMatrix t.pos

/-- The partner of a core is free and looks at its queues again. -/
def State.freePartner (s : State) (c : Nat) : State :=
  (s.modPartner c fun p => { p with run := none }).kickPartner c

/-- Was a row of an operand given a NaN? -/
def hasNan (l : List (List Val)) (i : Nat) : Bool := (l.getD i []).any Val.isNan

/-- The events of a finished operation of the multiply family (R213). -/
def PRun.events (r : PRun) (ac : Accum) : Events :=
  let new := (List.range r.a.lines).flatMap fun i =>
    let old := r.start.get (List.replicate 128 0) i
    let row := ac.row i
    ((List.range r.b.lines).filter fun j => isNanBits .fp32 (row.getD j 0) && !isNanBits .fp32 (old.getD j 0)).map fun j => (i, j)
  let nv := new.filter fun x => !hasNan r.a.vals x.1 && !hasNan r.b.vals x.2
  let fl : Flags := (if nv.isEmpty then 0 else Flags.nv) ||| (if r.ovf.isEmpty then 0 else Flags.of)
  (({ flags := fl, nan := new.length, of := r.ovf.eraseDups.length, nv := nv.length } : Events).add r.ins).add r.insB

/-- The multiply operation of a core's partner ends: its events, its retained operands, CHAIN and status (R213, R217, R224). A
member of a joint operation whose accumulator was poisoned before it gets status 4 and no effect: R231 lists statuses 0 and 3 only,
and R217 gives every later command this end (DEDUCED). -/
def State.endMultiply (s : State) (c : Nat) (r : PRun) (status : Nat) : State :=
  if r.skip then (s.freePartner c).completeCommand r.t r.cmd 4 else
  let s := s.onTask r.t fun t => t.modAcc r.cmd.acc fun a =>
    { a with chain := min 65535 (a.chain + 1), pois := a.pois || status == 4,
             ops := if r.keep then a.ops ++ [{ m := r.a.lines, n := r.b.lines, a := r.a.vals, b := r.b.vals, bytes := r.bytes }] else a.ops }
  let s := s.noteTk r.t (r.events (((s.findTask r.t).getD {}).acc r.cmd.acc))
  let s := if status = 4 then
      s.taskError c r.t { cycle := 0, code := 0x12, sev := 1, space := r.a.space }
    else s
  (s.freePartner c).completeCommand r.t r.cmd status

/-- The events of reading a member's own tb: its halves are streamed to members 2q and 2q + 1 of every cluster, so those of its own
cluster q have read both (R213, R228). -/
def ownSecond (runs : List (Nat × Option PRun)) (c : Nat) : Events :=
  (runs.filter fun x => clusterMember x.1 == clusterMember c && memberNo x.1 / 2 == clusterMember c).foldl (fun e x =>
    match x.2 with | some r => e.add r.insB | none => e) {}

/-- A piece of a joint operation is done; when all are, every member's command completes (R230, R231). -/
def State.endPiece (s : State) (c : Nat) (r : PRun) (status : Nat) : State :=
  let s := s.modPartner c fun p => { p with run := some { r with done := some status } }
  let runs := (quadCores (quadNo c)).map fun k => (k, (s.partner k).run)
  if runs.all fun x => match x.2 with | some r => r.done.isSome | none => false then
    runs.foldl (fun s x => match x.2 with
      | some r => s.endMultiply x.1 { r with insB := ownSecond runs x.1 } (r.done.getD 0)
      | none => s) s
  else s

/-- End a running multiply with a status. -/
def State.endRunMultiply (s : State) (c : Nat) (r : PRun) (status : Nat) : State :=
  if r.cmd.op = 3 then s.endPiece c r status else s.endMultiply c r status

/-- A matrix operation that reads a malformed VF8 block raises the task-level format fault (R116): the operation ends at the start of
that block with status 2, and the trap is deferred, its TRAPVAL the instruction that made the request; the task takes it at its next
boundary outside a handler (how it reaches the task is a DESIGN CHOICE, log entry 56). -/
def State.raiseLate (s : State) (t : Tk) (pc : Nat) : State :=
  let (id, s) := s.fresh
  let x : PTrap := { trap := { cause := 2, sub := 0, val := pc, deferred := true }, due := true, id := id, inHandler := false, pc := word pc }
  let s := s.onTask t fun k => { k with traps := insertTrap x k.traps }
  if s.isAt t then s.takeTraps t.pos else s

-- K-blocks (R215, R216)

/-- What the partner found when it reached for window bytes. -/
inductive Grasp where
  | ok (s : State)
  | later (s : State)      -- a refill is under way
  | fault (s : State)      -- a record went out; the operation waits for RESUME

/-- Reach some spans for the partner of core `c` on behalf of a task (R216). -/
def State.grasp (s : State) (c space : Nat) (r : PRun) (l : List Span) : Grasp :=
  let t := (s.findTask r.t).getD {}
  match State.reachAll r.t c space t.world (spanPages l) s with
  | .ok s => .ok s
  | .walk va _ s => .later (s.translated c space va).2
  | .refill core page va acc s =>
    .later (s.joinRefill core space page none none fun s =>
      s.sendRecord c { cycle := s.cycle, addr := va, pc := r.cmd.pc, cause := 0x42, behalf := true, acc := acc,
                       world := t.world, space := space, slot := r.t.pos })
  | .fault cause sub addr acc s => .fault (s.behalfFault r.t r.cmd.pc cause sub addr acc space t.world)

/-- Reach some spans, then those the first ones tell. -/
def Grasp.andThen (g : Grasp) (f : State → Grasp) : Grasp := match g with | .ok s => f s | x => x

/-- Reach the bytes of K-block `blk` of an operand: index entries before headers, headers before streams (R216). -/
def State.graspOperand (s : State) (c : Nat) (r : PRun) (o : Operand) : Grasp :=
  ((s.grasp c o.space r (o.spans c r.k r.block)).andThen fun s => s.grasp c o.space r (s.headSpans o c r.block)).andThen fun s =>
    s.grasp c o.space r (s.streamSpans o c r.block)

/-- The place of a partner's accesses at ordering points among those of a cycle (R336): its slot's own where all its tiles stand in its
core's scratchpad, else another core's. -/
def PRun.tie (r : PRun) (c : Nat) : Nat :=
  let owners := if r.cmd.op ≤ 3 then [r.a.core, r.b.core] else if r.cmd.op = 5 || r.cmd.op = 6 then [r.cmd.da.owner c] else []
  tieAt ((owners.find? (· != c)).getD c) r.t.pos

/-- The bytes that a stopped or running operation retains (R224). -/
def runKept (r : Option PRun) : Nat := match r with
  | some r => if r.keep then r.bytes else 0
  | none => 0

/-- The bytes retained by every task resident on a core, by their stopped operations, and by the operation its partner runs (R224). -/
def State.retention (s : State) (c : Nat) : Nat :=
  let tasks := (List.range 16).map fun k => (((s.task (mkPos c k)).accs.map fun a => a.2.retained).foldl (· + ·) 0) + runKept (s.slot (mkPos c k)).mrun
  tasks.foldl (· + ·) 0 + runKept (s.partner c).run

/-- Bytes of operand buffers that hold retained operands (R224). -/
def retentionSpace : Nat := 229376

/-- Retain an operation's operands, where they fit: if not, the accumulator is unretained until the next base point (R224). Space is
taken for the whole of them, as the section's walk has it of an operation that stops after one block (Table 7-11); a VF8 operand's end is
where its index and headers stand at each block. -/
def State.retain (s : State) (c : Nat) (r : PRun) : State :=
  if !r.keep then s else
  let bytes := s.operandKept r.a r.k + s.operandKept r.b r.k
  let s := s.modPRun c fun r => { r with bytes := 0 }
  if s.retention c + bytes ≤ retentionSpace then s.modPRun c fun r => { r with bytes := bytes }
  else (s.modPRun c fun r => { r with keep := false }).modAcc r.t r.cmd.acc fun a => { a with unret := true }

/-- The operation of a partner; none goes on once a reset of its core has begun (R474). -/
def Partner.runs? (q : Partner) (halted : Bool) : Option PRun := if halted then none else q.run

/-- Start the next K-block of the running operation of a core's partner: its operands are read, and it ends after its time
(R215, Table 7-9). -/
def State.startBlock (s : State) (c base : Nat) : State :=
  match (s.partner c).runs? (s.core c).halted with
  | none => s
  | some r =>
    let again (s : State) : State := s.post (s.cycle + 1) (r.tie c) .matrixOpStart (.matrixPhase c)
    let stop (s : State) : State := s.modPRun c fun r => { r with held := true }
    match (s.graspOperand c r r.a).andThen fun s => s.graspOperand c r r.b with
    | .later s => again s
    | .fault s => stop s
    | .ok s =>
      let (e₁, p₁, b₁, a, s) := s.readOperand r.a r.k r.block
      let (e₂, p₂, b₂, b, s) := s.readOperand r.b r.k r.block
      if p₁ || p₂ then s.endRunMultiply c r 4
      else if b₁ || b₂ then (s.endRunMultiply c r 2).raiseLate r.t r.cmd.pc
      else match s.budgeted (coreDie c) r.t [3] (r.area * min 64 (r.k - 64 * r.block)) with
      | none =>
        -- the words it has read it does not read again (R202)
        (s.modPRun c fun r => { r with a := { a with vals := r.a.vals }, b := { b with vals := r.b.vals } }).post s.nextPeriod
          (r.tie c) .matrixOpStart (.matrixPhase c)
      | some s =>
        let r := { r with a := a, b := b, ins := r.ins.add e₁, insB := r.insB.add e₂ }
        let s := (s.modPRun c fun _ => r).retain c r
        s.post (base + ceilDiv (r.area * min 64 (r.k - 64 * r.block)) r.rate) (r.tie c) .kBlockComplete (.matrixBlock c)

/-- An armed injection counts a block of its slot's accumulator, and strikes (R226). The blocks of a joint piece that is skipped count too
(DESIGN CHOICE, log entry 58). -/
def State.injectBlock (s : State) (c : Nat) (r : PRun) : State :=
  let e := (s.core c).errinj.toNat
  if bits e 60 4 ≠ 1 || bits e 56 4 ≠ posSlot r.t.pos || bits e 52 4 ≠ r.cmd.acc then s
  else
    let n := (s.core c).injCount + 1
    if n < bits e 17 16 then s.modCore c fun k => { k with injCount := n }
    else
      let i := bits e 45 7
      let j := bits e 38 7
      (s.modAcc r.t r.cmd.acc fun a => a.setElem i j (a.elem i j ^^^ 2 ^ bits e 33 5)).modCore c fun k => { k with errinj := 0, injCount := 0 }

/-- The matrix operation of a task: the one its partner runs for it, or the stopped one. -/
def State.matrixRun (s : State) (t : Tk) : Option PRun :=
  match (s.partner (posCore t.pos)).run with
  | some r => if r.t = t then some r else (s.slot t.pos).mrun
  | none => (s.slot t.pos).mrun

/-- Does an operation whose task is to be pre-empted stop at the block boundary it has reached? A joint operation stops at one boundary
for all its members, the first that none of them has passed (R218, R233). -/
def State.stopsHere (s : State) (r : PRun) : Bool :=
  (s.slot r.t.pos).preempt.isSome &&
  (r.cmd.op ≠ 3 ||
    match s.joints.look (quadNo (posCore r.t.pos)) with
    | none => true
    | some g => g.members.all fun t => t == r.t ||
      match s.matrixRun t with
      | some x => x.cmd.op ≠ 3 || x.done.isSome ||
        decide (x.block + ((s.partner (posCore t.pos)).run == some x && s.agenda.any fun e => e.msg == .matrixBlock (posCore t.pos)).toNat ≤ r.block)
      | none => true)

/-- Stop the operation of a core's partner at the boundary it has reached (R218). -/
def State.stopRun (s : State) (c : Nat) (r : PRun) : State :=
  (s.modSlot r.t.pos fun x => { x with mrun := some { r with held := false } }).freePartner c

/-- K_BLOCK_COMPLETE (R215): the block's groups are accumulated; the operation ends, stops for a pre-emption, or goes on. -/
def execKBlockComplete (s : State) : Out :=
  .next (match s.msg with
  | .matrixBlock c =>
    match (s.partner c).runs? (s.core c).halted with
    | none => s
    | some r =>
      let ac := ((s.findTask r.t).getD {}).acc r.cmd.acc
      let (ac, ovf) := if r.skip then (ac, []) else ac.block r.block r.k r.a.vals r.b.vals
      let r := { r with block := r.block + 1, ovf := r.ovf ++ ovf }
      let s := (s.modAcc r.t r.cmd.acc fun _ => ac).modPRun c fun _ => r
      let s := s.injectBlock c r
      if r.k ≤ 64 * r.block then s.endRunMultiply c r 0
      else if s.stopsHere r then s.stopRun c r
      else s.startBlock c s.cycle
  | _ => s)

-- starting operations (R203, R205, R214)

/-- An operand of a command for a task on core `c`. -/
def operandOf (d : BitVec 128) (fmt fmtC sc c space : Nat) (byRow : Bool) (first lines : Nat) : Operand :=
  let f := (effFormat (Desc.ofBits d) fmt).getD 0
  { d := d, fmt := f, scale := if scaled f fmtC then some sc else none, core := (Desc.ofBits d).owner c, space := space,
    byRow := byRow, first := first, lines := lines }

/-- Prepare a multiply: the elements before it, a base point for MMAS, and retention (R213, R214, R224), whose space is taken as
its blocks start (State.retain). -/
def State.beginMultiply (s : State) (c : Nat) (r : PRun) : State :=
  let start := (((s.findTask r.t).getD {}).acc r.cmd.acc).rows
  let s := if r.cmd.op = 2 then s.modAcc r.t r.cmd.acc Accum.basePoint else s
  let keep := !(((s.findTask r.t).getD {}).acc r.cmd.acc).unret && !r.skip
  s.modPartner c fun p => { p with run := some { r with start := start, keep := keep } }

/-- Bytes of a tile's logical lines. -/
def Desc.bytes (d : Desc) : Nat := d.lines * d.lineBytes

/-- Begin a command taken from its queue in this cycle (R203, R205, R241). -/
def State.beginCommand (s : State) (c : Nat) (p : Pos) (m : MCmd) : State :=
  let t := s.task p
  let tk := s.tk p
  let x := s.cycle + 1
  let d := m.da
  let run : PRun := { t := tk, cmd := m, a := operandOf m.ta m.fmtA m.fmtC m.sclA c t.space true 0 d.rows,
                      b := operandOf m.tb m.fmtB m.fmtC m.sclB c t.space (m.op == 1) 0 (if m.op = 1 then m.db.rows else m.db.cols),
                      k := d.cols }
  if m.pushed && !(m.wellWorded && m.passes c (if t.light then 0 else t.nTiles) t.nAccs) then
    (s.completeCommand tk m 2).kickPartner c
  else if (t.acc m.acc).pois && m.op ≠ 2 && m.op ≠ 4 && m.op ≠ 5 then (s.completeCommand tk m 4).kickPartner c
  else
    let later (due : Nat) : State :=
      (s.modPartner c fun q => { q with run := some run }).post due (run.tie c) .matrixCommandComplete (.matrixPhase c)
    if m.op = 4 then later (x + 8)
    else if m.op = 5 then later (x + 16 + ceilDiv d.bytes 128)
    else if m.op = 6 || m.op = 7 then later (x + 128)
    else
      let run := { run with rate := macRate run.a.fmt, area := run.a.lines * run.b.lines }
      (s.beginMultiply c run).startBlock c (x + 16)

/-- Are all members' n-th MMAJ commands at the heads of their queues (R229)? A member that is being restored first reloads its image and
continues a stopped operation (R219). -/
def State.jointAtHeads (s : State) (g : Joint) (n : Nat) : Bool :=
  g.members.all fun t => s.isAt t && (s.slot t.pos).preempt.isNone && (s.slot t.pos).mrun.isNone && decide ((s.slot t.pos).mready ≤ s.cycle) &&
    (match (s.slot t.pos).cmds.head? with
     | some m => m.op == 3 && !m.pushed && m.joint == n
     | none => false)

/-- What a partner does about the head of a slot's queue. -/
inductive Pick where
  | skip
  | poll                       -- earlier accesses of the task must complete first (R311)
  | take (m : MCmd)
  | resume (r : PRun)
  | joint (start : Bool)
  | closed (m : MCmd)

/-- Judge the queue of slot `k` of a core. -/
def State.pick (s : State) (c k : Nat) : Pick :=
  let p := mkPos c k
  let x := s.slot p
  if !x.resident || x.preempt.isSome || (s.core c).fenced || decide (s.cycle < x.mready) then .skip
  else match x.mrun, x.cmds.head? with
  | some r, _ => .resume r
  | none, none => .skip
  | none, some m =>
    if m.op = 3 && !m.pushed then
      match s.joints.look (quadNo c) with
      | none => .closed m
      | some g =>
        if !g.members.contains (s.tk p) || g.left.any fun l => l.2 ≤ m.joint then .closed m
        else if !s.jointAtHeads g m.joint then .skip
        else .joint (g.members.all fun t => (s.partner (posCore t.pos)).run.isNone)
    else
      let mine := x.task.pend.filter (·.id == m.id)
      let earlier := { x.task with pend := x.task.pend.filter fun a => decide (a.id < m.id) && !a.partner }
      if mine.any fun a => earlier.mustWait s.cycle a.write a.ranges then .poll else .take m

/-- A queue entry of a slot has become free. -/
def State.queueFreed (s : State) (p : Pos) : State := (s.wake p (.push 4)).wake p .matrixFull

/-- The partner of a core looks at its queues, from slot `k` on in service order (R203). -/
def State.serveQueues (c : Nat) : List Nat → State → State
  | [], s => s
  | k :: ks, s =>
    let p := mkPos c k
    let took (s : State) : State := (s.modPartner c fun q => { q with last := k })
    let popped (s : State) : State := (s.modSlot p fun x => { x with cmds := x.cmds.drop 1 }).queueFreed p
    match s.pick c k with
    | .skip => State.serveQueues c ks s
    | .poll => State.serveQueues c ks (s.post (s.cycle + 1) (tieAt c p) .matrixOpStart (.matrixOpStart c))
    | .take m => (popped (took s)).beginCommand c p m
    | .closed m => ((popped (took s)).completeCommand (s.tk p) m 3).kickPartner c
    | .joint start => if start then s.post s.cycle (tieAt c p) .jointOpStart (.jointStart (quadNo c)) else s
    | .resume r =>
      let s := ((took s).modSlot p fun x => { x with mrun := none }).modPartner c fun q => { q with run := some { r with held := false } }
      match r.done with
      | some st => s.endPiece c r st
      -- continuing after a stop: 16 cycles from the cycle after the reload, then the remaining blocks
      | none => s.startBlock c (s.cycle + 17)

/-- The slots of a core in service order after `last`: ascending, slot 0 after slot 14 (R203). -/
def serviceOrder (last : Nat) : List Nat := (List.range 15).map fun k => (last + 1 + k) % 15

/-- MATRIX_OP_START (R203): a partner takes its next operation, or tries the current block of the one it runs again. After a refill or a
RESUME the 16 cycles of going on (R241) count from the cycle of that look or RESUME (DESIGN CHOICE, log entry 58). -/
def execMatrixOpStart (s : State) : Out :=
  .next (match s.msg with
  | .matrixOpStart c =>
    let s := s.modPartner c fun p => { p with kicked := false }
    if (s.partner c).run.isSome || (s.core c).halted then s else State.serveQueues c (serviceOrder (s.partner c).last) s
  | .matrixPhase c =>
    match (s.partner c).runs? (s.core c).halted with
    | some r => if s.stopsHere r then s.stopRun c r else s.startBlock c (s.cycle + 16)
    | none => s
  | _ => s)

-- MZERO, MLOAD, MCHK, MDRAIN (R237)

/-- Read the tile of an MLOAD as FP32 patterns by row, with input events and poison. -/
def State.loadValues (s : State) (c space : Nat) (d : Desc) : List (List Nat) × Events × Bool × State :=
  (List.range d.rows).foldl (fun (l, (e : Events), p, (s : State)) i =>
    let (vs, q, s) := s.rowBits c space d i
    (l ++ [vs.map fun b => encodeVal .fp32 (decodeVal d.format b)], e.add (sumEvents (vs.map (inputEvents d.format))), p || q, s))
    (([] : List (List Nat)), ({} : Events), false, s)

/-- Write an accumulator to a tile, rounded in RMODE, in row order (R237). The accumulator's elements are no input elements of
R122's selectors 4 and 7, of which the spec does not speak here (DESIGN CHOICE, log entry 45). -/
def State.drainTile (s : State) (p : Pos) (space : Nat) (d : Desc) (mode : Mode) (a : Accum) : Events × State :=
  (List.range d.rows).foldl (fun ((e : Events), (s : State)) i =>
    let out := (List.range d.cols).map fun j => finish d.format mode false (decodeVal .fp32 (a.elem i j)) 0
    (e.add (sumEvents (out.map (·.2))), s.putRow p space d i (out.map (·.1)))) (({} : Events), s)

/-- The last phase of a command other than a multiply. -/
def State.finishCommand (s : State) (c : Nat) (r : PRun) : State :=
  let m := r.cmd
  let p := r.t.pos
  let t := (s.findTask r.t).getD {}
  let d := m.da
  let again (s : State) : State := s.post (s.cycle + 1) (r.tie c) .matrixCommandComplete (.matrixPhase c)
  let stop (s : State) : State := s.modPRun c fun r => { r with held := true }
  let done (s : State) (status : Nat) : State := (s.freePartner c).completeCommand r.t m status
  let rows (w : Bool) : List Span := (List.range d.rows).flatMap fun i => d.spans c i w
  if m.op = 4 then done (s.modAcc r.t m.acc Accum.basePoint) 0
  else if m.op = 5 then
    match s.grasp c t.space r (rows false) with
    | .later s => again s
    | .fault s => stop s
    | .ok s =>
      let (vs, e, q, s) := s.loadValues c t.space d
      if q then done ((s.modAcc r.t m.acc fun a => { a with pois := true }).taskError c r.t
          { cycle := 0, code := 0x12, sev := 1, space := t.space }) 4
      else
        let old := t.acc m.acc
        let new := (List.range vs.length).flatMap fun i => ((vs.getD i []).zip (old.row i)).filter fun x =>
          isNanBits .fp32 x.1 && !isNanBits .fp32 x.2
        let s := s.modAcc r.t m.acc Accum.basePoint
        let bytes := 4 * d.rows * d.cols
        let fits := decide (s.retention c + bytes ≤ retentionSpace)
        let s := s.modAcc r.t m.acc fun a => a.load vs (if fits then some bytes else none)
        done (s.noteTk r.t { e with nan := new.length }) 0
  else
    let corr (s : State) : State := if r.fixed = 0 then s else
      let s := s.noteTk r.t { corr := 1 }
      let l := s.cycle :: (s.partner c).fixes.filter fun x => s.cycle < x + 2 ^ 24
      if l.length < 16 then s.modPartner c fun q => { q with fixes := l }
      else (s.modPartner c fun q => { q with fixes := [] }).taskError c r.t { cycle := 0, code := 0x25, sev := 0, space := t.space }
    if m.op = 7 then done (corr s) r.fixed
    else
      match s.grasp c t.space r (rows true) with
      | .later s => again s
      | .fault s => stop s
      | .ok s =>
        let (e, s) := s.drainTile p t.space d (Mode.ofRmode m.rmode) (t.acc m.acc)
        let s := corr (s.noteTk r.t e)
        done (s.modAcc r.t m.acc Accum.basePoint) r.fixed

/-- The check of MCHK and MDRAIN (R222, R225): its correction lengthens the command; an uncorrectable error is uncontained and
the command never completes. -/
def State.checkCommand (s : State) (c : Nat) (r : PRun) : State :=
  let m := r.cmd
  match (((s.findTask r.t).getD {}).acc m.acc).check with
  | none => (s.modPRun c fun r => { r with held := true }).post s.cycle 0 .reset (.uncontained c 0 0x24 r.t.pos)
  | some (k, a) =>
    let s := s.modAcc r.t m.acc fun _ => { a with corr := k }
    let more := (if k = 1 then 32 + 16 * a.ops.length else 0) + (if m.op = 6 then ceilDiv m.da.bytes 128 else 0)
    let r := { r with fixed := k, block := 1 }
    let s := s.modPRun c fun _ => r
    if more = 0 then s.finishCommand c r
    else s.post (s.cycle + more) (r.tie c) .matrixCommandComplete (.matrixPhase c)

/-- MATRIX_COMMAND_COMPLETE (R237, R241): a phase of MZERO, MLOAD, MCHK or MDRAIN ends. -/
def execMatrixCommandComplete (s : State) : Out :=
  .next (match s.msg with
  | .matrixPhase c =>
    match (s.partner c).runs? (s.core c).halted with
    | none => s
    | some r => if (r.cmd.op = 6 || r.cmd.op = 7) && r.block = 0 then s.checkCommand c r else s.finishCommand c r
  | _ => s)

/-- The steward answered the partner's record: action 0 repeats the access (R494). -/
def State.resumePartner (s : State) (c : Nat) : State :=
  match (s.partner c).run with
  | none => s
  | some r =>
    if !r.held then s
    else (s.modPRun c fun r => { r with held := false }).post s.cycle (r.tie c)
      (if r.cmd.op ≤ 3 then .matrixOpStart else .matrixCommandComplete) (.matrixPhase c)

/-- Give up a task's operation and its queued commands (R494, R462). -/
def State.abandonPartner (s : State) (p : Pos) : State :=
  let c := posCore p
  let t := s.tk p
  let ended (a : PendAcc) : PendAcc := if a.partner && a.doneAt.isNone then { a with doneAt := some s.cycle } else a
  let s := s.modTask p fun t => { t with pend := t.pend.map ended }
  let s := s.modSlot p fun x => { x with cmds := [], comps := [], compsRes := 0, mrun := none }
  match (s.partner c).run with
  | some r => if r.t = t then s.freePartner c else s
  | none => s

-- joint operations (R227-R232)

/-- JOINT_OP_START (R229, R230): the partners of a quad compare what their members captured; all complete with status 3, or the
pieces start together. Formats of one cluster's A quarter and another's B quarter are not compared, and where Table 7-3 lacks the pair its
elements are multiplied as every other pair's are; a B quarter is read through the window of the first listed member of its cluster
(DESIGN CHOICE, log entry 58). -/
def execJointOpStart (s : State) : Out :=
  .next (match s.msg with
  | .jointStart q =>
    match s.joints.look q with
    | none => s
    | some g =>
      let heads := g.members.filterMap fun t => ((s.slot t.pos).cmds.head?).map fun m => (t, m)
      match heads with
      | [] => s
      | (_, m₀) :: _ =>
        if !s.jointAtHeads g m₀.joint || heads.any (fun x => (s.partner (posCore x.1.pos)).run.isSome) then s
        else
          let lead (k : Nat) : Option (Tk × MCmd) := heads.find? fun x => clusterMember (posCore x.1.pos) == k
          let same (m n : MCmd) : Bool :=
            m.ta == n.ta && m.tb == n.tb && m.fmtA == n.fmtA && m.fmtB == n.fmtB && m.fmtC == n.fmtC
              && m.sclA == n.sclA && m.sclB == n.sclB && m.scnt == n.scnt
          let ok := heads.all fun x =>
            (match lead (clusterMember (posCore x.1.pos)) with | some l => same l.2 x.2 | none => false) && x.2.da.cols == m₀.da.cols
          let s := heads.foldl (fun s x =>
            ((s.modSlot x.1.pos fun y => { y with cmds := y.cmds.drop 1 }).queueFreed x.1.pos).modPartner (posCore x.1.pos) fun q =>
              { q with last := posSlot x.1.pos }) s
          if !ok then heads.foldl (fun s x => (s.completeCommand x.1 x.2 3).kickPartner (posCore x.1.pos)) s
          else
            let runs := heads.filterMap fun x =>
              let c := posCore x.1.pos
              let m := memberNo c
              (lead (m / 2)).map fun b =>
                let first := 96 * (m % 2)
                let bc := posCore b.1.pos
                let run : PRun :=
                  { t := x.1, cmd := x.2,
                    a := operandOf x.2.ta x.2.fmtA x.2.fmtC x.2.sclA c (s.task x.1.pos).space true 0 x.2.da.rows,
                    b := operandOf b.2.tb b.2.fmtB b.2.fmtC b.2.sclB bc (s.task b.1.pos).space true first (min 96 (b.2.db.rows - first)),
                    k := x.2.da.cols, lead := 48, skip := ((s.task x.1.pos).acc x.2.acc).pois }
                (c, { run with rate := macRate run.a.fmt })
            let area := (runs.map fun x => x.2.a.lines * x.2.b.lines).foldl max 0
            let s := runs.foldl (fun s x => s.beginMultiply x.1 { x.2 with area := area }) s
            runs.foldl (fun s x => s.startBlock x.1 (s.cycle + 49)) s
  | _ => s)

/-- A task parked in MJOIN with a tag on a core, the lowest slot first. -/
def State.joiner (s : State) (c g : Nat) : Option Pos :=
  ((List.range 14).map fun k => mkPos c (k + 1)).find? fun p =>
    (s.slot p).st == .parked && (s.task p).wait == some (.join g) && (s.slot p).preempt.isNone

/-- Does a joint group stand in a quad, or has one been granted its cores (R233)? -/
def State.quadHeld (s : State) (q : Nat) : Bool :=
  (s.joints.look q).isSome || s.away.any fun g => g.members.any fun t => s.saved.any fun y =>
    y.t == t && (s.hub.deals.look y.task.deal).any fun d => d.grants.any fun x => x.2 == y.task.index && quadNo x.1 == q

/-- JOINT_GROUP_FORM (R227, R238): a quad without a group forms one of 32 joined tasks with one tag; of several tags that are complete at
once, that of the lowest slot of the quad's first core (DESIGN CHOICE, log entry 58). -/
def execJointGroupForm (s : State) : Out :=
  .next (match s.msg with
  | .jointForm q =>
    if s.quadHeld q then s else
    let cores := quadCores q
    let tags := (List.range 14).filterMap fun k =>
      match (cores.head?).map fun c => (s.task (mkPos c (k + 1))).wait with
      | some (some (.join tag)) => some tag
      | _ => none
    match tags.find? fun tag => cores.all fun c => (s.joiner c tag).isSome with
    | none => s
    | some tag =>
      let ps := cores.filterMap fun c => s.joiner c tag
      let g : Joint := { tag := tag, members := ps.map s.tk }
      let s := { s with joints := s.joints.put q g }
      ps.foldl (fun s p => (s.modTask p fun t => { t with jointIn := true, joint := 0 }).wakePast p (.join tag)) s
  | _ => s)

-- the instructions

/-- Tile registers the current task may name to the partner. -/
def State.matrixTiles (s : State) : Nat := if s.my.light || s.isLight s.cur then 0 else s.my.nTiles

/-- A class P instruction (R234): allotment, the poison trap, the other checks, overlap, room, entry. That the poison trap comes before
the other checks of R244 is the model's (DESIGN CHOICE, log entry 58). -/
def enterMatrix (op acc ta tb : Nat) (s : State) : State :=
  let t := s.my
  let c := posCore s.cur
  let m := captureCommand t (op + 16 * acc + 256 * ta + 4096 * tb) false 0
  if t.nAccs ≤ acc then s.formatFault 0
  else if (t.acc acc).pois && op ≠ 2 && op ≠ 4 && op ≠ 5 then s.trapUnissued (accTrap acc)
  else if !m.passes c s.matrixTiles t.nAccs then s.formatFault 0
  else
    let (rd, wr) := m.ranges c t.space
    let earlier := { t with pend := t.pend.filter fun a => !a.partner }
    if earlier.mustWait s.cycle false rd || earlier.mustWait s.cycle true wr then s.waitTurn
    else if !s.mySlot.commandRoom (op == 3) then s.park s.cur .matrixFull
    else
      let s := s.enterCommand s.cur m.word false (op == 3)
      let s := if op = 3 then s.setMy fun t => { t with joint := t.joint + 1 } else s
      s.advance

def execMma (c a b : TReg) (s : State) : Out := .next (enterMatrix 0 c.toNat a.toNat b.toNat s)
def execMmat (c a b : TReg) (s : State) : Out := .next (enterMatrix 1 c.toNat a.toNat b.toNat s)
def execMmas (c a b : TReg) (s : State) : Out := .next (enterMatrix 2 c.toNat a.toNat b.toNat s)

/-- MMAJ (R236, R239). Membership (SUB 11) is tested before the other checks of R244 (DESIGN CHOICE, log entry 58). -/
def execMmaj (c a b : TReg) (s : State) : Out :=
  .next (if !s.my.jointIn then s.formatFault 11 else enterMatrix 3 c.toNat a.toNat b.toNat s)

def execMzero (c : TReg) (s : State) : Out := .next (enterMatrix 4 c.toNat 0 0 s)
def execMload (c a : TReg) (s : State) : Out := .next (enterMatrix 5 c.toNat a.toNat 0 s)
def execMdrain (c a : TReg) (s : State) : Out := .next (enterMatrix 6 c.toNat a.toNat 0 s)
def execMchk (c : TReg) (s : State) : Out := .next (enterMatrix 7 c.toNat 0 0 s)

/-- The status word of an accumulator (Table 7-7), with the operation in flight and the queue of its task. -/
def statusWord (a : Accum) (acc : Nat) (run : Option PRun) (queue : List MCmd) : Nat :=
  let (op, kdone) := match run.filter fun r => r.cmd.acc == acc with
    | some r => (r.cmd.op, if r.cmd.op ≤ 3 then r.block else 0)
    | none => (15, 0)
  let queued := (queue.filter fun m => m.acc == acc).length
  a.chain * 2 ^ 48 + kdone * 2 ^ 40 + op * 2 ^ 36 + queued * 2 ^ 32 + a.pois.toNat * 2 ^ 25 + a.unret.toNat * 2 ^ 24
    + a.corr * 2 ^ 16 + a.lastSt * 2 ^ 8 + a.lastOp

/-- The status word of an accumulator of the task at `p`. -/
def State.accStatus (s : State) (p : Pos) (acc : Nat) : Nat :=
  let x := s.slot p
  statusWord (x.task.acc acc) acc (s.matrixRun (s.tk p)) x.cmds

/-- MSTAT (R238): the status word 24 cycles later. -/
def execMstat (c : TReg) (d : Reg) (s : State) : Out :=
  .next (if s.my.nAccs ≤ c.toNat then s.formatFault 0
    else
      let (id, s) := s.blockOpen
      s.postAt (s.cycle + 24) s.cur .classBCompletion (.mstat (s.tk s.cur) id c.toNat d))

/-- The end of an MSTAT: the status word as it stands then (DESIGN CHOICE, log entry 58), or the poison trap (R217). -/
def State.mstatDone (s : State) (t : Tk) (id acc : Nat) (d : Reg) : State :=
  if !s.isAt t then
    match s.saved.find? (·.t == t) with
    | some x => s.finishSaved (.blocking id) (Finish.value_ d (statusWord (x.task.acc acc) acc x.run x.cmds))
    | none => s
  else if ((s.task t.pos).acc acc).pois then s.completeWait t id (.blocking id) { Finish.plain with fault := some (accTrap acc) }
  else s.completeWait t id (.blocking id) (Finish.value_ d (s.accStatus t.pos acc))

/-- MWAIT (R238). -/
def execMwait (c : TReg) (s : State) : Out :=
  .next (if s.my.nAccs ≤ c.toNat then s.formatFault 0
    else if s.commandPending s.cur c.toNat s.nextId then s.park s.cur (.matrixWait c.toNat s.nextId)
    else s.block (s.cycle + 4) { Finish.plain with fault := if (s.my.acc c.toNat).pois then some (accTrap c.toNat) else none })

/-- MJOIN (R238, R239); on a light slot a format fault, as every matrix member (Table 16-2). -/
def execMjoin (r : Reg) (s : State) : Out :=
  .next (if s.isLight s.cur then s.formatFault 0
    else if s.my.jointIn then s.formatFault 11
    else with1 r s fun x s =>
      if x.toNat / 256 ≠ 0 then s.formatFault 0
      else (s.park s.cur (.join x.toNat)).post s.cycle (tieAt (posCore s.cur) s.cur) .jointGroupForm (.jointForm (quadNo (posCore s.cur))))

/-- MLEAVE (R238, R239). -/
def execMleave (s : State) : Out :=
  .next (if !s.my.jointIn then s.formatFault 11
    else if s.commandPending s.cur 16 s.nextId then s.park s.cur (.leave s.nextId)
    else (s.leaveJoint s.cur).block (s.cycle + 4) Finish.plain)

end Sys2Proof.Machine
end

