-- ==== Sys2Proof/Machine/MemCtl.lean ====
section
/-! DEFINITION. Fences, acknowledgements, maintenance, prefetch and monitors (08_memory_access.md R268-R275,
12_fences_and_home_slices.md R340, R341), and the completion of class B instructions (R277). -/
namespace Sys2Proof.Machine

-- fences

/-- Have the earlier loads of a task completed (R268 `.acq`)? -/
def Task.loadsDone (t : Task) (now : Nat) : Bool :=
  t.pend.all fun a => a.write || a.aside || (match a.doneAt with | some c => decide (c ≤ now) | none => false)

/-- Have the accesses a release or SCFENCE waits for completed by now (R323, R341 step 1)? -/
def Task.releaseDone (t : Task) (now : Nat) : Bool :=
  t.pend.all fun a => a.ackOnly || a.aside || (match a.doneAt with | some c => decide (c ≤ now) | none => false)

/-- Are every access and acknowledgement of a task there (R270, R341 step 3)? -/
def Task.allDone (t : Task) (now : Nat) : Bool :=
  t.pend.all fun a => match a.doneAt with | some c => decide (c ≤ now) | none => false

/-- Have the acknowledgements that WACK waits for arrived (R270)? -/
def Task.acked (t : Task) : Bool := t.pend.all fun a => !a.ackOnly || a.doneAt.isSome

/-- Park in a class B instruction whose end is looked for every cycle by the message `m` of its name. -/
def State.blockPoll (s : State) (m : Nat → Msg) : State :=
  let (id, s) := s.blockOpen
  s.postAt s.cycle s.cur .classBCompletion (m id)

/-- FENCE (R268, R340). It cancels what an earlier FENCE `.rel` left for a store (R332). -/
def execFence (sc : BitVec 3) (k : BitVec 2) (s : State) : Out :=
  let s := s.setMy fun t => { t with fenceRel := none }
  .next (s.blockPoll fun id => .fenceWait (s.tk s.cur) id sc.toNat k.toNat)

/-- SCFENCE (R269, R341). -/
def execScfence (sc : BitVec 3) (s : State) : Out :=
  .next (s.blockPoll fun id => .scfenceWait (s.tk s.cur) id sc.toNat)

/-- WACK (R270): with nothing outstanding, 4 cycles. -/
def execWack (s : State) : Out :=
  .next (if s.my.acked then s.block (s.cycle + 4) Finish.plain
    else s.blockPoll fun id => .wackWait (s.tk s.cur) id)

/-- The release part of a FENCE seals the hand, for the next store to write the record of (R332, R340), and ends the instruction. -/
def State.fenceSeal (s : State) (t : Tk) (id scope : Nat) (lost : Option Nat) : State :=
  let (num, s) := s.sealHand t.pos
  (s.modTask t.pos fun x => { x with fenceRel := some (num, scope, x.drains) }).completeWait t id (.blocking id)
    { Finish.plain with trap := lost.map lostTrap }

/-- What a FENCE does at s + 4 (R340): the acquire part's calls all at once; or the release part. That of `.ar` comes 4 cycles after
the acquire part has ended. Bit 2 of `kind` says that a releaser of the acquire part had been reset, and the bits above it at which
location's address (R477). -/
def State.fenceGo (s : State) (t : Tk) (id scope kind : Nat) : State :=
  if bit kind 0 then
    let recs := (s.task t.pos).notes.map fun n => (s.ownCore n.loc, n.va, n.record)
    match s.acquire t id scope s.cycle recs (.fence scope (bit kind 1)) with
    | some s => s
    | none =>
      let s := s.modTask t.pos fun x => { x with notes := [] }
      if bit kind 1 then s.postAt (s.cycle + 4) t.pos .classBCompletion (.fenceGo t id scope 2)
      else s.completeWait t id (.blocking id) Finish.plain
  else s.fenceSeal t id scope (if bit kind 2 then some (kind / 8) else none)

/-- The private instances of a task below the level of a scope (R341 step 4): those serving its core that do not cover it. -/
def State.privateBelow (s : State) (p : Pos) (scope : Nat) : List Inst :=
  (s.serving (s.task p).space (posCore p)).filter fun i => !s.covers i scope (posCore p)

/-- Would draining the task at a position write into a vcache under reconfiguration? Its write-backs park until that is over. -/
def State.drainStuck (s : State) (p : Pos) : Bool := s.instsStuck (s.serving (s.task p).space (posCore p))

/-- Have the task's earlier stores to global memory been applied, so that its drain finds their lines? -/
def Task.storesIn (t : Task) (now : Nat) : Bool :=
  t.pend.all fun a => !a.write || a.ackOnly || a.partner || t.runs.any (·.id == a.id) || a.doneAt.any (· ≤ now)

/-- Must the drain of the task at a position wait: for a store of its own that is on its way (DEDUCED, log entry 49), or for the end of
a reconfiguration? -/
def State.drainWaits (s : State) (p : Pos) : Bool := !(s.task p).storesIn s.cycle || s.drainStuck p

/-- The completion of a class B instruction (R277): its result is written and its slot issues at its next turn after; or an
instruction that waits for its task's accesses looks again (R340, R341, R270). -/
def fenceCompletion (s : State) : Out :=
  match s.msg with
  | .classBCompletion t id f =>
    .next (s.completeWait t id (((s.findTask t).map (·.waitOf id)).getD (.blocking id)) f)
  | .mstat t id acc d => .next (s.mstatDone t id acc d)
  | .fenceWait t id scope kind =>
    if !s.waitsFor t (.blocking id) then .next s
    else
      let x := s.task t.pos
      let ready := (!bit kind 0 || x.loadsDone s.cycle) && (!bit kind 1 || x.releaseDone s.cycle)
      .next (if ready then s.postAt (s.cycle + 4) t.pos .classBCompletion (.fenceGo t id scope kind)
        else s.postAt (s.cycle + 1) t.pos .classBCompletion (.fenceWait t id scope kind))
  | .fenceGo t id scope kind => .next (if s.waitsFor t (.blocking id) then s.fenceGo t id scope kind else s)
  | .scfenceWait t id scope =>
    if !s.waitsFor t (.blocking id) then .next s
    else if (s.task t.pos).releaseDone s.cycle && !s.drainStuck t.pos then
      let (w, s) := s.drain t.pos
      .next (s.postAt (s.cycle + 4 + w.cost) t.pos .classBCompletion (.scfenceCommit t id scope))
    else .next (s.postAt (s.cycle + 1) t.pos .classBCompletion (.scfenceWait t id scope))
  | .scfenceCommit t id scope =>
    if !s.waitsFor t (.blocking id) then .next s
    else if (s.task t.pos).allDone s.cycle then
      let (n, s) := s.emptyInsts (posCore t.pos) (s.privateBelow t.pos scope)
      .next (s.postAt (s.cycle + 8 + 2 * n) t.pos .classBCompletion (.classBCompletion t id Finish.plain))
    else .next (s.postAt (s.cycle + 1) t.pos .classBCompletion (.scfenceCommit t id scope))
  | .wackWait t id =>
    if !s.waitsFor t (.blocking id) then .next s
    else if (s.task t.pos).acked then
      .next (s.completeWait t id (.blocking id) Finish.plain)
    else .next (s.postAt (s.cycle + 1) t.pos .classBCompletion (.wackWait t id))
  | _ => .next s

-- maintenance

/-- The places of the pages of a range, or the stop of the first page that faults. -/
def placesOf : List Nat → State → List (Nat × Place) → Except State (List (Nat × Place) × State)
  | [], s, acc => .ok (acc, s)
  | va :: r, s, acc =>
    match s.resolve va false with
    | .stop s => .error s
    | .ok p s => placesOf r s (acc ++ [(va, p)])

/-- The first address of each 4 KiB page of a range, the range's own first address for the first. -/
def pagesOf (a n : Nat) : List Nat :=
  (List.range ((a + n - 1) / 4096 + 1 - a / 4096)).map fun k => if k = 0 then a else (a / 4096 + k) * 4096

/-- The lines of a range that lie in the page of `va`. -/
def linesIn (va stop : Nat) (p : Place) : List Nat :=
  let last := min stop ((va / 4096 + 1) * 4096)
  (List.range ((last - 1) / 128 + 1 - va / 128)).map fun k => p.loc / 128 + k

/-- Latency of the level of a scope for a line, home where the chain has none. -/
def State.levelLatency (s : State) (c : List Inst) (k core line : Nat) : Nat :=
  match (c)[k]? with
  | some i => i.latency core line
  | none => 60 + 2 * s.crossing core (line * 128)

/-- CLEAN and INVAL (R271) on every line of a range of the task's own chain. -/
def maintain (inval : Bool) (a b : Reg) (sc : BitVec 3) (s : State) : State :=
  with2 a b s fun x y s =>
    let va := x.toNat
    let n := y.toNat
    if n = 0 then s.block (s.cycle + 4) Finish.plain
    else if 2 ^ 32 < n || 2 ^ 57 < va + n || 0x1FFF * 2 ^ 44 < va + n then s.formatFaultAt 0 va
    else match placesOf (pagesOf va n) s [] with
      | .error s => s
      | .ok (ps, s) =>
        let core := posCore s.cur
        let units := ps.map fun (v, p) => (p.loc / 128, p.loc / 128 + (linesIn v (va + n) p).length)
        let stuck := ps.any fun (v, p) =>
          let c := if p.sync then [] else s.chain s.my.space core p.vc
          (linesIn v (va + n) p).any fun l => liftStuck s l (s.below c sc.toNat core) c
        if s.my.mustWait s.cycle true units || stuck then s.waitTurn
        else
          let (w, lat, s) := ps.foldl (fun st (v, p) =>
            let c := if p.sync then [] else st.2.2.chain st.2.2.my.space core p.vc
            let k := st.2.2.below c sc.toNat core
            (linesIn v (va + n) p).foldl (fun (w, lat, s) l =>
              let (w, s) := lift core k c l (w, s)
              let s := if inval then (removeCopies k c l (0, s)).2 else s
              (w, max lat (s.levelLatency c k core l), s)) st) (([] : Written), 0, s)
          s.block (s.cycle + lat + 2 * (w.map fun e => e.2.2).foldl (· + ·) 0) Finish.plain

def execClean (a b : Reg) (sc : BitVec 3) (s : State) : Out := .next (maintain false a b sc s)
def execInval (a b : Reg) (sc : BitVec 3) (s : State) : Out := .next (maintain true a b sc s)

/-- DISCARD (R272): every line of a tensor id in the space's vcaches goes, without write-back. -/
def execDiscard (a : Reg) (s : State) : Out :=
  .next (with1 a s fun x s =>
    let id := x.toNat
    if id = 0 || 4096 ≤ id then s.formatFault 0
    else
      let sp := s.my.space
      let gone := s.mem.vsets.flatMap fun x => match s.keyInst x.1 with
        | some i => if i.space = sp then (x.2.filter (·.tensor == id)).map fun y => (i, y.line) else []
        | none => []
      let s := s.modMem fun m =>
        { m with vsets := (m.vsets.map fun (k, l) =>
            (k, if k / 65536 / 1024 / 64 = sp then l.filter (·.tensor != id) else l)).filter fun e => !e.2.isEmpty }
      let s := gone.foldl (fun s (i, line) => s.lineGone i line) s
      s.block (s.cycle + 400 + gone.length) Finish.plain)

/-- PREF (R273): a line into the first vcache, or a scratchpad page; dropped where it would fault, wait or need the steward. -/
def execPref (a : Reg) (s : State) : Out :=
  .next (with1 a s fun x s =>
    let va := x.toNat
    let c := posCore s.cur
    let space := s.my.space
    match (if va % 128 = 0 then classify c va else .bad) with
    | .bad => s.advance
    | .scratch core off =>
      if s.diePart (coreDie core) ≠ s.diePart (coreDie c) then s.advance
      else match s.mem.wpages.look (wpageKey core space (off / 4096)) with
        | some w =>
          let faults := match s.refillLatency core space w.backing with | .error _ => true | .ok _ => false
          if w.bank.isSome || (s.core core).free.isEmpty || faults then s.advance
          else (s.joinRefill core space (off / 4096) none none id).advance
        | none => s.advance
    | .global va =>
      match s.tlbLook c space (va / 4096) with
        | none => s.advance
        | some (e, late, s) =>
          let p := s.globalPlace space s.my.world e late va
          if p.world != s.secure p.loc || p.sync then s.advance
          else
            let (id, s) := s.fresh
            let s := s.setMy fun t => t.addPend { id := id, write := false, ranges := [], ackOnly := false, aside := true }
            (s.startAcc { s.chainAcc id va 8 p false 0 false with pref := true }).advance)

-- monitors

/-- WAITA (R274): the word is read at its ordering point; the task's own bytes go there first (R310). -/
def execWaita (d a b : Reg) (s : State) : Out :=
  .next (with2 a b s fun x y s =>
    let va := x.toNat
    withAccess va 8 false true s fun p s => ownCopies p false s fun s =>
      let (id, s) := s.fresh
      let s := s.park s.cur (.monitor id)
      let r := s.request id va 8 p (.watch y.toNat) (some d)
      if p.scratch && p.owner == r.core then s.applyReq r p.loc else s.sendReq r.start r)

/-- WAKE (R275): every monitor on the line of A, as a write would reach it. -/
def execWake (a : Reg) (s : State) : Out :=
  .next (with1 a s fun x s => withPlace x.toNat false s fun p s =>
    let r := s.request 0 x.toNat 8 p (.posted 0 none) none
    (s.post (s.cycle + max 1 (s.half r false)) (tieAt (s.pointCore r) s.cur) .monitorWake (.monitorScan p.loc)).advance)

end Sys2Proof.Machine
end

