-- ==== Sys2Proof/Machine/Tiles.lean ====
section
/-! DEFINITION. Tile instructions: descriptors, issue, the run of units, restart points (06_tile_instructions.md R156-R199). -/
namespace Sys2Proof.Machine

-- what a task may name (R156)

/-- The number of tile registers the current task may name. -/
def State.tileCount (s : State) : Nat := if s.my.light || s.isLight s.cur then 0 else s.my.nTiles

/-- Go on only if every named tile register is allotted (R156). -/
def withTiles (ts : List TReg) (s : State) (k : State → State) : State :=
  if ts.all fun t => decide (t.toNat < s.tileCount) then k s else s.formatFault 0

-- descriptors (R170-R173)

/-- Give a tile register a descriptor if it is well formed (R33). -/
def setTile (t : TReg) (v : BitVec 128) (s : State) : State :=
  if (Desc.ofBits v).wf then (s.setMy fun x => { x with tiles := x.tiles.put t.toNat v }).advance
  else s.formatFault 0

/-- TDEF (R170). -/
def execTdef (t : TReg) (r : Reg) (s : State) : Out :=
  .next (withTiles [t] s fun s =>
    with2 r (if r.toNat < 24 then r + 1 else r) s fun lo hi s => setTile t (hi ++ lo) s)

/-- TSHAPE (R171). -/
def execTshape (t : TReg) (r : Reg) (s : State) : Out :=
  .next (withTiles [t] s fun s => with1 r s fun x s =>
    if x.toNat / 2 ^ 16 ≠ 0 then s.formatFault 0
    else setTile t (BitVec.ofNat 128 (setBits (s.my.tile t.toNat).toNat 48 16 x.toNat)) s)

/-- TBASE (R172). -/
def execTbase (t : TReg) (r : Reg) (s : State) : Out :=
  .next (withTiles [t] s fun s => with1 r s fun x s =>
    if x.toNat / 2 ^ 25 ≠ 0 then s.formatFault 0
    else setTile t (BitVec.ofNat 128 (setBits (s.my.tile t.toNat).toNat 0 25 x.toNat)) s)

/-- TGET of half 0 (R173). -/
def execTgetHalf0 (a : TReg) (r : Reg) (s : State) : Out :=
  .next (withTiles [a] s fun s => finishShort r (BitVec.ofNat 64 (s.my.tile a.toNat).toNat) s)

/-- TGET of half 1 (R173). -/
def execTgetHalf1 (a : TReg) (r : Reg) (s : State) : Out :=
  .next (withTiles [a] s fun s => finishShort r (BitVec.ofNat 64 ((s.my.tile a.toNat).toNat / 2 ^ 64)) s)

-- times (Table 6-14)

/-- Bytes of one unit of td. -/
def Desc.unitBytes (d : Desc) : Nat := if d.layout = 2 then d.pitch + 2 * d.nb else ceilDiv (d.cols * d.size) 8

/-- Fixed cycles of an operation, work per unit, work per cycle, and extra cycles per unit (Table 6-14). Those of moves are
in `runDelay`. -/
def TileRun.pace (r : TileRun) : Nat × Nat × Nat × Nat :=
  let d := r.td
  let a := r.ta
  match r.op with
  -- a unit of a column-major FP4 image moves its bytes whole (R497)
  | .ld | .st => (0, if d.layout = 1 then d.cols * max 1 (d.size / 8) else d.unitBytes, 64, 0)
  | .gath | .scat => (0, d.unitBytes, 64, 2)
  | .cpy | .fill | .trans | .rot => (0, d.unitBytes, 64, 0)
  | .float 4 | .special _ | .rand | .drop => (12, d.cols, 16, 0)
  | .reduce k => (16, if k = 2 || k = 4 then a.cols else a.rows * a.cols, 64, 0)
  | _ => (12, d.cols, 64, 0)

/-- The cycle in which unit `k` of a run is done, nominally. -/
def TileRun.unitTime (r : TileRun) (k : Nat) : Nat :=
  let (_, w, rate, extra) := r.pace
  let n := k + 1 - r.from_
  let work := if r.moved.isEmpty then n * w else ((r.moved.drop r.from_).take n).foldl (· + ·) 0
  r.base + extra * n + ceilDiv work rate

/-- The bytes that each unit of a VF8 TCPY moves (R177); none listed for other members, whose units are alike. -/
def State.runMoved (s : State) (c space : Nat) (r : TileRun) : List Nat :=
  match r.op with
  | .cpy => if r.td.layout ≠ 2 then [] else (List.range r.units).map fun i =>
      let (st, ix, _, _) := s.vf8Row c space r.ta i 0 true
      ceilDiv ((r.ta.vf8Ends st ix).foldl (fun m e => max m (e.getD 0)) 0) 8 + 2 * r.td.nb
  | _ => []

/-- The latency of the first access to a memory image (Table 1-11). -/
def State.imageLatency (s : State) (c space : Nat) (world : Bool) (va : Nat) (write : Bool) : Nat :=
  match s.placeNow c space world write va with
  | .error _ => 0
  | .ok pl =>
    -- a store reaches another core's port in one way's time
    if pl.scratch then (if pl.owner = c then 10 else if write then portHalf c pl.owner false else 2 * portHalf c pl.owner true)
    else
      let home := s.homeLatency (pl.loc / 128) + 2 * s.crossing c pl.loc
      if pl.sync then home
      else s.supplyLatency space c pl.vc (pl.loc / 128) (maskOf (pl.loc % 128) 1)

/-- The cycles from the start of a run to its first byte or element, for a task at `p`. -/
def State.runDelay (s : State) (p : Pos) (r : TileRun) : Nat :=
  let c := posCore p
  let t := s.task p
  let mem (va : Nat) (w : Bool) : Nat := s.imageLatency c t.space t.world va w
  let own := memberNo c
  match r.op with
  | .ld => mem r.x false
  | .st => mem r.x true
  | .gath => mem (s.indexedVa c t.space r.td r.ta r.x r.from_) false
  | .scat => mem (s.indexedVa c t.space r.td r.ta r.x r.from_) true
  | .fill => if r.td.core = own then 10 else 22
  | .cpy | .trans | .rot => if r.td.core = own && r.ta.core = own then 10 else 22
  | _ => r.pace.1

-- issue

/-- The core at which a span of a task of core `c` meets its ordering point, or the first set of its chain. -/
def State.spanPoint (s : State) (c space : Nat) (world : Bool) (x : Span) : Nat :=
  match s.placeNow c space world x.write x.va with
  | .error _ => c
  | .ok pl =>
    if pl.scratch then pl.owner
    else match (if pl.sync || (pl.posted && x.write) then [] else s.chain space c pl.vc) with
      | i :: _ => i.lineCore (pl.loc / 128)
      | [] => sliceCore (s.homeOf pl.loc)

/-- A tile instruction's unit falls due at a cycle. It is one event: at its own core's port it has its slot's place, and where it also
meets another core's, the place that its core has there (R336; log entry 2). -/
def State.postUnit (s : State) (at_ : Nat) (p : Pos) (r : TileRun) (k id : Nat) : State :=
  let c := posCore p
  let t := s.task p
  let own := (((s.unitSpans c t.space r k).map (s.spanPoint c t.space t.world)).find? (· != c)).getD c
  s.post at_ (tieAt own p) .longResultReady (.tileUnit (s.tk p) id)

-- counted messages (R397)

/-- The counted messages of the units of a run from unit `k` on: the other core for each line piece that a unit writes in a scratchpad
(log entry 54). -/
def State.runTargets (s : State) (c space : Nat) (r : TileRun) (k n : Nat) : List Nat :=
  (List.range n).flatMap fun j => ((s.unitSpans c space r (k + j)).filter (·.write)).flatMap fun x => match classify c x.va with
    | .scratch core _ => if core = c then [] else (linePieces x.va x.len).map fun _ => core
    | _ => []

/-- The units of a run from unit `k` on are to write: SENT counts their messages as it issues. -/
def State.countRun (s : State) (p : Pos) (r : TileRun) (k : Nat) : State :=
  let n := (s.runTargets (posCore p) (s.task p).space r k (r.units - k)).length
  if n = 0 then s else s.modCore (posCore p) fun c => { c with sent := (c.sent + n) % 2 ^ 32 }

/-- They are not to write any more, or not from here. -/
def State.uncountRun (s : State) (p : Pos) (r : TileRun) (k : Nat) : State :=
  let n := if r.sent then (s.runTargets (posCore p) (s.task p).space r k (r.units - k)).length else 0
  if n = 0 then s else s.modCore (posCore p) fun c => { c with sent := (c.sent + 2 ^ 32 - n % 2 ^ 32) % 2 ^ 32 }

/-- A task is saved: what its tile instructions are still to write is sent from where they go on. -/
def State.uncountRuns (s : State) (p : Pos) : State :=
  ((s.task p).runs.foldl (fun s r => s.uncountRun p r r.next) s).modTask p fun t =>
    { t with runs := t.runs.map fun r => { r with sent := false } }

/-- Unit `k` has written windows; a memory image's pieces are counted where they are applied. -/
def State.recvUnit (s : State) (p : Pos) (r : TileRun) (k : Nat) : State :=
  match r.op with
  | .st | .scat => s
  | _ => (s.runTargets (posCore p) (s.task p).space r k 1).foldl (fun s c => s.countRecv c) s

/-- Issue a class L tile instruction whose checks have passed (R161, R311): the first access is translated, earlier accesses
that overlap are waited for, and the run begins. -/
def startTile (la : Nat) (r : TileRun) (s : State) : State :=
  let p := s.cur
  let c := posCore p
  let space := s.my.space
  let world := s.my.world
  let from_ := if s.my.resume.isSome then s.my.tileFrom else 0
  let r := { r with from_ := from_, next := from_ }
  let first := if from_ < r.units then (s.unitSpans c space r from_).take 1 else []
  let go (s : State) : State :=
    let spans := (List.range (r.units - from_)).flatMap fun k => s.unitSpans c space r (from_ + k)
    let rd := s.spanUnits c space world spans false
    let wr := s.spanUnits c space world spans true
    if s.my.mustWait s.cycle false (rd ++ spanVirtual c space spans false) || s.my.mustWait s.cycle true (wr ++ spanVirtual c space spans true) then
      s.waitTurn
    else
      let (id, s) := s.fresh
      let r := { r with id := id, pc := s.my.pc, base := s.cycle + s.runDelay p r, moved := s.runMoved c space r }
      let s := s.startLong { id := id, pc := 0, dest := none, left := la }
      let s := s.setMy fun x =>
        { (x.addPend { id := id, write := false, ranges := rd, ackOnly := false }).addPend
            { id := id, write := true, ranges := wr, ackOnly := false } with runs := x.runs ++ [r] }
      (s.countRun p r from_).postUnit (if from_ < r.units then r.unitTime from_ else s.cycle) p r from_ id
  match first with
  | [] => go s
  | x :: _ => withPlace x.va x.write s fun _ s => go s

/-- A run of the current task before it starts. -/
def State.newRun (s : State) (op : TileOp) (d a b c : TReg) (x : Nat) (sat : Bool) : TileRun :=
  let dd := s.my.tile d.toNat
  { id := 0, pc := 0, op := op, d := dd, a := s.my.tile a.toNat, b := s.my.tile b.toNat, c := s.my.tile c.toNat,
    x := x, sat := sat, rmode := s.my.cr 0x16, scla := s.my.cr 0x13, from_ := 0, next := 0,
    units := (Desc.ofBits dd).rows, base := 0 }

/-- A tile instruction's checks and issue: allotment, formats and shapes (R156, R158, R160, R161). -/
def tileOp (op : TileOp) (named : List TReg) (d a b c : TReg) (x la : Nat) (sat : Bool) (s : State) : State :=
  withTiles named s fun s =>
    let r := s.newRun op d a b c x sat
    if op.checks r.td r.ta r.tb r.tc r.scla then startTile la r s else s.formatFault 0

/-- A member whose s field is the address of a memory image, which must be aligned (R174). -/
def tileImage (op : TileOp) (named : List TReg) (d a : TReg) (r : Reg) (la : Nat) (s : State) : State :=
  withTiles named s fun s => with1 r s fun x s =>
    let run := s.newRun op d a 0 0 x.toNat false
    if !op.checks run.td run.ta run.tb run.tc run.scla then s.formatFault 0
    else if x.toNat % run.td.imageAlign ≠ 0 then s.formatFaultAt 1 x.toNat
    else startTile la run s

/-- A member whose s field is the address of a parameter block (R196). -/
def tileParam (op : TileOp) (named : List TReg) (d a : TReg) (r : Reg) (la : Nat) (s : State) : State :=
  withTiles named s fun s => with1 r s fun x s =>
    match paramOff (posCore s.cur) x.toNat with
    | none => s.formatFaultAt 0 x.toNat
    | some off =>
      let run := s.newRun op d a 0 0 off false
      if !op.checks run.td run.ta run.tb run.tc run.scla then s.formatFault 0
      else if off % 8 ≠ 0 then s.formatFaultAt 1 x.toNat
      else startTile la run s

/-- A member whose s field is a scalar operand. -/
def tileScalar (op : TileOp) (named : List TReg) (d a : TReg) (r : Reg) (la : Nat) (sat : Bool) (s : State) : State :=
  withTiles named s fun s => with1 r s fun x s => tileOp op named d a 0 0 x.toNat la sat s

-- units (R165, R168, R169)

/-- Change a run of a task. -/
def Task.modRun (t : Task) (id : Nat) (f : TileRun → TileRun) : Task :=
  { t with runs := t.runs.map fun r => if r.id = id then f r else r }

/-- A run ends: its instruction completes, with the trap and TRES of a stop if it was stopped (R165, R166). -/
def State.endRun (s : State) (p : Pos) (r : TileRun) (stop : Option (Trap × Nat)) : State :=
  let s := s.modTask p fun t => { t with runs := t.runs.filter fun x => x.id != r.id }
  let s := match stop with
    | none => s
    | some (tr, done) => (s.uncountRun p r done).modTask p fun t => t.modOutst r.id fun o =>
        { o with fault := some tr, tres := some ((decide (done < r.units)).toNat * 2 ^ 31 + done % 512) }
  s.finishLong p r.id

/-- The deferred trap of a stopped tile instruction. -/
def TileRun.trap (r : TileRun) (cause : Nat) : Trap := { cause := cause, sub := 0, val := r.pc.toNat, deferred := true }

/-- Does a unit touch a scratchpad of a fenced core other than the task's own (R475)? -/
def State.touchesFenced (s : State) (c : Nat) (l : List Span) : Bool :=
  l.any fun x => match classify c x.va with
    | .scratch core _ => core != c && (s.core core).fenced
    | _ => false

/-- The record of a supervisor-level fault that a tile instruction of a slot has met is outstanding for the slot, and is sent unless the
page's record has been (R168, R447). -/
def State.recordRun (s : State) (p : Pos) (pc : Word) (cause sub addr acc : Nat) (told : Bool) : State :=
  let t := s.task p
  let r : FaultRec := { cycle := s.cycle, addr := addr, pc := pc.toNat, cause := cause, sub := sub, acc := acc,
                        world := t.world, space := t.space, slot := p }
  let s := s.modSlot p fun x => { x with pending? := some r }
  if told then s else s.sendRecord (posCore p) r

/-- A tile instruction meets a supervisor-level fault. A slot that is parked already has no turn to park at. -/
def State.faultRun (s : State) (p : Pos) (r : TileRun) (cause sub addr acc : Nat) (told : Bool) : State :=
  let s := s.modTask p fun t => t.modRun r.id fun x => { x with hold := some (.fault cause sub addr acc told) }
  let x := s.slot p
  if x.st == .parked && x.preempt.isNone && x.pending?.isNone then s.recordRun p r.pc cause sub addr acc told else s

/-- Run the next unit of a tile instruction of a resident task. -/
def State.stepRun (s : State) (p : Pos) (r : TileRun) : State :=
  let c := posCore p
  let t := s.task p
  let k := r.next
  let again (s : State) (d : Nat) : State :=
    s.postUnit (s.cycle + d) p r (s.task p |>.runs.find? (·.id == r.id) |>.elim k (·.next)) r.id
  let hold (s : State) (h : Option Hold) : State := s.modTask p fun t => t.modRun r.id fun x => { x with hold := h }
  let calling (s : State) : Bool := ((s.task p).runs.find? (·.id == r.id)).any fun x =>
    x.calls.any fun i => (s.task p).pend.any fun a => a.id == i && a.doneAt.isNone
  if r.units ≤ k then (if calling s then again s 1 else s.endRun p r none)
  else
    let spans := s.unitSpans c t.space r k
    if s.touchesFenced c spans then s.endRun p r (some (r.trap 4, k))
    else match State.reachAll (s.tk p) c t.space t.world (spanPages spans) s with
    | .walk va acc s => (hold s (some (.walk (va / 4096)))).joinWalk p t.space va acc fun w => { w with runs := w.runs ++ [s.tk p] }
    | .refill core page va acc s =>
      let s := s.joinRefill core t.space page none none fun s =>
        s.sendRecord c { cycle := s.cycle, addr := va, pc := r.pc.toNat, cause := 0x42, acc := acc, world := t.world, space := t.space, slot := p }
      again (hold s (some .refill)) 16
    | .fault cause sub addr acc s => s.faultRun p r cause sub addr acc false
    | .ok s =>
      if s.unitStuck c t.space t.world spans then
        again (if (s.slot p).st == .ready && s.unitFrozen c t.space t.world spans then s.park p (.frozen r.id) else s) 1
      else
      let s := s.wake p (.frozen r.id)
      let s := if r.hold = some .refill then (hold s none).wake p .refill else s
      match s.tileUnit p r k with
      | .poison s => s.endRun p r (some (r.trap 4, k))
      | .malformed s => s.endRun p r (some (r.trap 2, k))
      | .ok ev s =>
        let s := (s.noteAt p ev).recvUnit p r k
        let fl := r.flags ||| ev.flags
        let s := s.modTask p fun t => t.modRun r.id fun x => { x with next := k + 1, flags := fl, hold := none }
        let xen := ((t.outst.find? (·.id == r.id)).map (·.xen)).getD 0
        if fl &&& xen ≠ 0 then s.endRun p r (some (r.trap 3, k + 1))
        else if k + 1 = r.units then (if calling s then again s 1 else s.endRun p r none)
        else if (s.slot p).preempt.isSome then s.modTask p fun t => t.modRun r.id fun x => { x with cut := true }
        else again s (r.unitTime (k + 1) - s.cycle)

/-- The next unit of a named run is due. -/
def State.runUnit (s : State) (t : Tk) (id : Nat) : State :=
  if !s.isAt t then s
  else match (s.task t.pos).runs.find? (·.id == id) with
    | none => s
    | some r => if r.cut then s else s.stepRun t.pos r

/-- Let the runs of a task go on: after a fault was resolved, or after the task was restored (R168, R466). Nothing of it issues
until they complete. `at_` is the cycle from which a restored task's runs go on. -/
def State.resumeRuns (s : State) (p : Pos) (restored : Bool) (at_ : Nat) : State :=
  let rs := (s.task p).runs
  rs.foldl (fun s r =>
    if !restored && r.hold = some .refill then s else
    let r' := { r with hold := none, cut := false, from_ := if restored then r.next else r.from_ }
    let r' := if restored then { r' with base := at_ + s.runDelay p r' } else r'
    let s := if r.sent then s else s.countRun p r' r'.next
    let r' := { r' with sent := true }
    let s := s.modTask p fun t => (t.modRun r.id fun _ => r')
    let s := if restored then s.modTask p fun t => t.modOutst r.id fun o => { o with left := 0 } else s
    s.postUnit (max (at_ + 1) (r'.unitTime r'.next)) p r' r'.next r.id) s

/-- Give up what is left of the runs that a fault stopped: RESUME with action 1 (R462). -/
def State.dropRuns (s : State) (p : Pos) : State :=
  ((s.task p).runs.filter fun r => match r.hold with | some (.fault ..) => true | _ => false).foldl (fun s r =>
    (s.uncountRun p r r.next).endRun p r none) s

/-- A tile instruction that met a supervisor-level fault, or waits for a refill, parks its slot at the slot's next turn (R168). -/
def State.parkForRun (s : State) : Option State :=
  match s.my.runs.find? fun r => match r.hold with | some (.fault ..) | some .refill => true | _ => false with
  | none => none
  | some r => match r.hold with
    | some (.fault cause sub addr acc told) => some ((s.park s.cur .fault).recordRun s.cur r.pc cause sub addr acc told)
    | some .refill => some (s.park s.cur .refill)
    | _ => none

/-- LONG_RESULT_READY (R127): a class L result is written, or the next unit of a tile instruction is done (R162). -/
def execLongResultReady (s : State) : Out :=
  match s.msg with
  | .longResultReady t id => .next (if s.isAt t then s.finishLong t.pos id else s)
  | .tileUnit t id => .next (s.runUnit t id)
  | _ => .next s

-- moving tiles (R174-R180)

def execTld (t : TReg) (r : Reg) (n : BitVec 4) (s : State) : Out := .next (tileImage .ld [t] t t r n.toNat s)
def execTst (t : TReg) (r : Reg) (n : BitVec 4) (s : State) : Out := .next (tileImage .st [t] t t r n.toNat s)
def execTgath (t a : TReg) (r : Reg) (n : BitVec 4) (s : State) : Out := .next (tileImage .gath [t, a] t a r n.toNat s)
def execTscat (t a : TReg) (r : Reg) (n : BitVec 4) (s : State) : Out := .next (tileImage .scat [t, a] t a r n.toNat s)
def execTcpy (t a : TReg) (n : BitVec 4) (s : State) : Out := .next (tileOp .cpy [t, a] t a 0 0 0 n.toNat false s)
def execTfill (t : TReg) (r : Reg) (n : BitVec 4) (s : State) : Out := .next (tileScalar .fill [t] t t r n.toNat false s)
def execTtrans (t a : TReg) (n : BitVec 4) (s : State) : Out := .next (tileOp .trans [t, a] t a 0 0 0 n.toNat false s)
def execTrot (t a : TReg) (r : Reg) (n : BitVec 4) (s : State) : Out := .next (tileScalar .rot [t, a] t a r n.toNat false s)

-- elementwise floating point (Table 6-7)

def execTadd (d a b : TReg) (x : BitVec 1) (n : BitVec 4) (s : State) : Out :=
  .next (tileOp (.float 0) [d, a, b] d a b 0 0 n.toNat (x == 1) s)
def execTsub (d a b : TReg) (x : BitVec 1) (n : BitVec 4) (s : State) : Out :=
  .next (tileOp (.float 1) [d, a, b] d a b 0 0 n.toNat (x == 1) s)
def execTmul (d a b : TReg) (x : BitVec 1) (n : BitVec 4) (s : State) : Out :=
  .next (tileOp (.float 2) [d, a, b] d a b 0 0 n.toNat (x == 1) s)
def execTfma (d a b c : TReg) (x : BitVec 1) (n : BitVec 4) (s : State) : Out :=
  .next (tileOp (.float 3) [d, a, b, c] d a b c 0 n.toNat (x == 1) s)
def execTdiv (d a b : TReg) (x : BitVec 1) (n : BitVec 4) (s : State) : Out :=
  .next (tileOp (.float 4) [d, a, b] d a b 0 0 n.toNat (x == 1) s)
def execTmax (d a b : TReg) (n : BitVec 4) (s : State) : Out := .next (tileOp (.float 5) [d, a, b] d a b 0 0 n.toNat false s)
def execTmin (d a b : TReg) (n : BitVec 4) (s : State) : Out := .next (tileOp (.float 6) [d, a, b] d a b 0 0 n.toNat false s)
def execTabs (d a : TReg) (n : BitVec 4) (s : State) : Out := .next (tileOp (.float 7) [d, a] d a 0 0 0 n.toNat false s)
def execTneg (d a : TReg) (n : BitVec 4) (s : State) : Out := .next (tileOp (.float 8) [d, a] d a 0 0 0 n.toNat false s)

-- special functions (Table 6-8)

def execTexp (d a : TReg) (x : BitVec 1) (n : BitVec 4) (s : State) : Out :=
  .next (tileOp (.special 0) [d, a] d a 0 0 0 n.toNat (x == 1) s)
def execTlog (d a : TReg) (x : BitVec 1) (n : BitVec 4) (s : State) : Out :=
  .next (tileOp (.special 1) [d, a] d a 0 0 0 n.toNat (x == 1) s)
def execTrsq (d a : TReg) (x : BitVec 1) (n : BitVec 4) (s : State) : Out :=
  .next (tileOp (.special 2) [d, a] d a 0 0 0 n.toNat (x == 1) s)
def execTrcp (d a : TReg) (x : BitVec 1) (n : BitVec 4) (s : State) : Out :=
  .next (tileOp (.special 3) [d, a] d a 0 0 0 n.toNat (x == 1) s)
def execTtanh (d a : TReg) (x : BitVec 1) (n : BitVec 4) (s : State) : Out :=
  .next (tileOp (.special 4) [d, a] d a 0 0 0 n.toNat (x == 1) s)
def execTerf (d a : TReg) (x : BitVec 1) (n : BitVec 4) (s : State) : Out :=
  .next (tileOp (.special 5) [d, a] d a 0 0 0 n.toNat (x == 1) s)

-- integer tiles (R185)

def execTiadd (d a b : TReg) (x : BitVec 1) (n : BitVec 4) (s : State) : Out :=
  .next (tileOp (.int 0) [d, a, b] d a b 0 0 n.toNat (x == 1) s)
def execTisub (d a b : TReg) (x : BitVec 1) (n : BitVec 4) (s : State) : Out :=
  .next (tileOp (.int 1) [d, a, b] d a b 0 0 n.toNat (x == 1) s)
def execTimul (d a b : TReg) (x : BitVec 1) (n : BitVec 4) (s : State) : Out :=
  .next (tileOp (.int 2) [d, a, b] d a b 0 0 n.toNat (x == 1) s)
def execTand (d a b : TReg) (n : BitVec 4) (s : State) : Out := .next (tileOp (.int 3) [d, a, b] d a b 0 0 n.toNat false s)
def execTor (d a b : TReg) (n : BitVec 4) (s : State) : Out := .next (tileOp (.int 4) [d, a, b] d a b 0 0 n.toNat false s)
def execTxor (d a b : TReg) (n : BitVec 4) (s : State) : Out := .next (tileOp (.int 5) [d, a, b] d a b 0 0 n.toNat false s)
def execTshl (d a b : TReg) (n : BitVec 4) (s : State) : Out := .next (tileOp (.int 6) [d, a, b] d a b 0 0 n.toNat false s)
def execTshr (d a b : TReg) (n : BitVec 4) (s : State) : Out := .next (tileOp (.int 7) [d, a, b] d a b 0 0 n.toNat false s)

-- scalar broadcast (R188)

def execTadds (d a : TReg) (r : Reg) (x : BitVec 1) (n : BitVec 4) (s : State) : Out :=
  .next (tileScalar (.scalar 0) [d, a] d a r n.toNat (x == 1) s)
def execTmuls (d a : TReg) (r : Reg) (x : BitVec 1) (n : BitVec 4) (s : State) : Out :=
  .next (tileScalar (.scalar 1) [d, a] d a r n.toNat (x == 1) s)
def execTfmas (d a : TReg) (r : Reg) (x : BitVec 1) (n : BitVec 4) (s : State) : Out :=
  .next (tileScalar (.scalar 2) [d, a] d a r n.toNat (x == 1) s)
def execTmaxs (d a : TReg) (r : Reg) (n : BitVec 4) (s : State) : Out :=
  .next (tileScalar (.scalar 3) [d, a] d a r n.toNat false s)

-- compare, select, reduce (R186, R187, R189)

def execTcmp (d a b : TReg) (k : BitVec 3) (n : BitVec 4) (s : State) : Out :=
  .next (tileOp (.cmp k.toNat) [d, a, b] d a b 0 0 n.toNat false s)
def execTsel (d a b c : TReg) (n : BitVec 4) (s : State) : Out :=
  .next (tileOp .sel [d, a, b, c] d a b c 0 n.toNat false s)
def execTrsum (d a : TReg) (n : BitVec 4) (s : State) : Out := .next (tileOp (.reduce 2) [d, a] d a 0 0 0 n.toNat false s)
def execTcsum (d a : TReg) (n : BitVec 4) (s : State) : Out := .next (tileOp (.reduce 3) [d, a] d a 0 0 0 n.toNat false s)
def execTrmax (d a : TReg) (n : BitVec 4) (s : State) : Out := .next (tileOp (.reduce 4) [d, a] d a 0 0 0 n.toNat false s)
def execTcmax (d a : TReg) (n : BitVec 4) (s : State) : Out := .next (tileOp (.reduce 5) [d, a] d a 0 0 0 n.toNat false s)
def execTsum (d a : TReg) (n : BitVec 4) (s : State) : Out := .next (tileOp (.reduce 6) [d, a] d a 0 0 0 n.toNat false s)

-- conversion and packing (R190-R194)

def execTcvt (d a : TReg) (r : BitVec 3) (x : BitVec 1) (n : BitVec 4) (s : State) : Out :=
  .next (tileOp (.cvt r.toNat) [d, a] d a 0 0 0 n.toNat (x == 1) s)
def execTpack (d a : TReg) (n : BitVec 4) (s : State) : Out := .next (tileOp .pack [d, a] d a 0 0 0 n.toNat false s)
def execTunpack (d a : TReg) (n : BitVec 4) (s : State) : Out := .next (tileOp .unpack [d, a] d a 0 0 0 n.toNat false s)

-- random numbers (R197, R198)

def execTrand (d : TReg) (r : Reg) (n : BitVec 4) (s : State) : Out := .next (tileParam .rand [d] d d r n.toNat s)
def execTdrop (d a : TReg) (r : Reg) (n : BitVec 4) (s : State) : Out := .next (tileParam .drop [d, a] d a r n.toNat s)

end Sys2Proof.Machine
end

