-- ==== Sys2Proof/Machine/Scheduler.lean ====
section
/-! DEFINITION. The hardware queue scheduler of the hub: user queues, hardware queue slots, intake, mapping, placement, aging,
slices, counters and completion records (14_scheduler.md R357-R372, R499; 16_light_tasks.md R402, R405). -/
namespace Sys2Proof.Machine

def State.modHub (s : State) (f : Hub → Hub) : State := { s with hub := f s.hub }
def State.deal (s : State) (e : Nat) : Option ActiveDeal := s.hub.deals.look e
def State.modDeal (s : State) (e : Nat) (f : ActiveDeal → ActiveDeal) : State :=
  s.modHub fun h => match h.deals.look e with
    | some d => { h with deals := h.deals.put e (f d) }
    | none => h
def State.hwSlot (s : State) (k : Nat) : HwSlot := s.hub.slots.get {} k
def State.modHwSlot (s : State) (k : Nat) (f : HwSlot → HwSlot) : State :=
  s.modHub fun h => { h with slots := h.slots.upd {} k f }

-- fields of a deal record (Table 14-1)

def ActiveDeal.pc (d : ActiveDeal) : Nat := bits d.record 0 64
def ActiveDeal.args (d : ActiveDeal) : Nat := bits d.record 64 64
def ActiveDeal.recordVa (d : ActiveDeal) : Nat := bits d.record 128 64
def ActiveDeal.tableVa (d : ActiveDeal) : Nat := bits d.record 192 64
def ActiveDeal.dim (d : ActiveDeal) (k : Nat) : Nat := bits d.record (256 + 16 * k) 16 + 1
def ActiveDeal.blk (d : ActiveDeal) (k : Nat) : Nat := bits d.record (304 + 16 * k) 16 + 1
def ActiveDeal.priority (d : ActiveDeal) : Nat := bits d.record 352 8
def ActiveDeal.slice (d : ActiveDeal) : Nat := 1024 * bits d.record 360 16
def ActiveDeal.budget (d : ActiveDeal) : Nat := bits d.record 376 3
def ActiveDeal.restart (d : ActiveDeal) : Bool := bit d.record 379
def ActiveDeal.light (d : ActiveDeal) : Bool := bit d.record 380
def ActiveDeal.cls (d : ActiveDeal) : Nat := bits d.record 381 2
def ActiveDeal.depv (d : ActiveDeal) : Bool := bit d.record 383
def ActiveDeal.dep (d : ActiveDeal) : Nat := bits d.record 384 14
def ActiveDeal.map_ (d : ActiveDeal) : Nat := bits d.record 398 2
def ActiveDeal.tiles (d : ActiveDeal) : Nat := bits d.record 400 5
def ActiveDeal.accs (d : ActiveDeal) : Nat := bits d.record 405 5
def ActiveDeal.pages (d : ActiveDeal) : Nat := bits d.record 410 10
def ActiveDeal.windows (d : ActiveDeal) : Nat := bits d.record 420 11
def ActiveDeal.percore (d : ActiveDeal) : Nat := bits d.record 431 4

/-- The number of tasks of a deal. -/
def ActiveDeal.total (d : ActiveDeal) : Nat := d.dim 0 * d.dim 1 * d.dim 2

/-- The coordinate of a task index (R364). -/
def ActiveDeal.coord (d : ActiveDeal) (n : Nat) : List Nat := [n % d.dim 0, n / d.dim 0 % d.dim 1, n / d.dim 0 / d.dim 1]

-- user queues (Table 14-2)

/-- The address of a queue's descriptor. Each partition has a queue table of its own (R452), and a queue is named here by its
partition * 65536 + its number there (DESIGN CHOICE, log entry 43). -/
def State.queueAddr (s : State) (q : Nat) : Nat := s.hub.queueBase.get 0 (q / 65536) + 64 * (q % 65536)

/-- A queue's descriptor; none is valid before the table's base is given, nor where it names another partition. -/
def State.queueDesc (s : State) (q : Nat) : Nat :=
  if (s.hub.queueBase.look (q / 65536)).isNone then 0
  else
    let d := s.bytesAt (s.queueAddr q) 64
    if bits d 157 2 = q / 65536 then d else 0

def queueRing (d : Nat) : Nat := bits d 0 64
def queueTail (d : Nat) : Nat := bits d 64 32
def queueHead (d : Nat) : Nat := bits d 96 32
def queueSize (d : Nat) : Nat := 2 ^ bits d 128 5

/-- Does a queue exist with records to take? A ring size outside 1 to 16 makes no queue. -/
def queuePending (d : Nat) : Bool :=
  bit d 135 && 1 ≤ bits d 128 5 && bits d 128 5 ≤ 16 && queueTail d != queueHead d

/-- A write of the hub at a line's home: every copy is probed away, the bytes are applied, monitors wake (R352). -/
def State.hubWrite (s : State) (loc n v : Nat) : State :=
  let lines := (List.range ((loc + n - 1) / 128 + 1 - loc / 128)).map (loc / 128 + ·)
  let s := lines.foldl (fun s l => (s.probe l).2) s
  let s := s.putBytesAt loc n v
  lines.foldl (fun s l => (s.bufWrite l (decide (loc ≤ l * 128) && decide (l * 128 + 128 ≤ loc + n))).wakeMonitors (l * 128)) s

/-- A hub write that is made as a copy write is (R352, R363): its lines take their next sequence tags, and no release record of the
words it writes is left. -/
def State.hubCopyWrite (s : State) (loc n v : Nat) : State :=
  let s := (List.range ((loc + n - 1) / 128 + 1 - loc / 128)).foldl (fun s k => s.nextTag (loc / 128 + k)) (s.hubWrite loc n v)
  (List.range (n / 8)).foldl (fun s k => s.clearRecord (loc + 8 * k)) s

-- virtual addresses at the hub

/-- The place of a global address for the hub, in a space with a world; the cause and SUB of a fault. -/
def State.hubPlace (s : State) (space : Nat) (world write : Bool) (va : Nat) : Except (Nat × Nat) Place :=
  match classify 0 va with
  | .global va =>
    match (s.walkFrom space va 5 0 (s.space space).root).2.1 with
    | .fault sub => .error (0x40, sub)
    | .leaf t =>
      let pl := s.globalPlace space world t 0 va
      if write && !s.mayWrite t (va / 4096) then .error (0x41, 0)
      else if pl.world != s.secure pl.loc then .error (0x41, 1)
      else .ok pl
  | _ => .error (0x40, 4)

/-- The pieces of a range within single pages. -/
def pieces (va n : Nat) : List (Nat × Nat) :=
  (pagesOf va n).map fun a => (a, min (va + n) ((a / 4096 + 1) * 4096) - a)

/-- Places of a range's pieces, or the first fault with its address. -/
def State.hubPlaces (s : State) (space : Nat) (world write : Bool) (va n : Nat) : Except (Nat × Nat × Nat) (List (Place × Nat)) :=
  (pieces va n).foldl (fun r (a, k) => match r with
    | .error e => .error e
    | .ok l => match s.hubPlace space world write a with
      | .error (c, sub) => .error (c, sub, a)
      | .ok pl => .ok (l ++ [(pl, k)])) (.ok [])

/-- Bytes of a range as they stand at home, and whether a line of it holds poison. -/
def State.hubBytes (s : State) (space : Nat) (world : Bool) (va n : Nat) : Except (Nat × Nat × Nat) (Nat × Bool) :=
  match s.hubPlaces space world false va n with
  | .error e => .error e
  | .ok ps =>
    let bs := ps.flatMap fun (pl, k) => s.mem.bytes.bytes pl.loc k
    .ok (ofBytes bs, ps.any fun (pl, k) => s.rangePoisoned pl.loc k)

/-- A supervisor-level fault record that the scheduler raises for a deal: BEHALF 1, PC 0, SLOT on die 4 (R363, R499). -/
def State.schedulerFault (s : State) (e : Nat) (d : ActiveDeal) (cause sub addr acc : Nat) : State :=
  let s := s.postHub (s.cycle + 140) .faultRecordDelivery (.faultRecordDelivery
    [s.cycle, addr, 0, cause, sub, 1, acc, d.world.toNat, d.space, 4 * 4096, 0, d.part])
  if cause = 0x41 ∧ sub = 1 then
    let c := (4 / s.module_.parts * d.part) * 256
    s.errorEvent c { cycle := 0, code := 0x50, sev := 5, addr := s.physical c d.space addr, deal := e, space := d.space, world := d.world }
  else s

-- eligible cores and the mapping (R364)

/-- The cores of a partition whose quads match a class. -/
def State.classCores (s : State) (part cls : Nat) : List Nat :=
  (List.range 1024).filter fun c => s.diePart (coreDie c) == part && (cls == 0 || (cls == 2) == isBroad c)

/-- The eligible ones among them now. -/
def State.eligibleCores (s : State) (part cls : Nat) : List Nat :=
  (s.classCores part cls).filter fun c => !(s.core c).ineligible

/-- The core of a task under a list of eligible cores (Table 14-6). -/
def ActiveDeal.coreUnder (d : ActiveDeal) (elig : List Nat) (n : Nat) : Option Nat :=
  let at_ (k : Nat) : Option Nat := elig[k % elig.length]?
  match d.map_ with
  | 0 => at_ (n / d.percore)
  | 1 =>
    let c := d.coord n
    let b (k : Nat) : Nat := c.getD k 0 / d.blk k
    let g (k : Nat) : Nat := d.dim k / d.blk k
    at_ (b 0 + g 0 * (b 1 + g 1 * b 2))
  | _ => d.table[n]?

/-- The core of a task of a mapped deal. -/
def ActiveDeal.coreOf (d : ActiveDeal) (n : Nat) : Option Nat := d.coreUnder d.elig n

/-- The least index from `n` on that a deal maps to a core. -/
def ActiveDeal.findFrom (d : ActiveDeal) (c : Nat) : Nat → Nat → Option Nat
  | 0, _ => none
  | fuel + 1, n => if d.total ≤ n then none else if d.coreOf n = some c then some n else d.findFrom c fuel (n + 1)

/-- The next task of a deal for a core: one that came back, else the next of its coordinate space (R365, R369). -/
def ActiveDeal.nextFor (d : ActiveDeal) (c : Nat) : Option Returned :=
  match d.back.find? (·.core == c) with
  | some r => some r
  | none =>
    let n := d.cursor.get 0 c
    (d.findFrom c (d.total - n) n).map fun n => { index := n, core := c, redo := false }

/-- Does a deal's placement of a task resume a saved one? -/
def State.savedTask (s : State) (e n : Nat) : Option Saved := s.saved.find? fun x => x.task.deal == e && x.task.index == n

-- resources of a core (R365)

/-- The occupied task slots of a core. -/
def State.occupied (s : State) (c : Nat) : List Pos :=
  ((List.range 14).map fun k => mkPos c (k + 1)).filter fun p => (s.slot p).st != .empty

/-- Placement events sent to a core and not STARTed, with their deals. -/
def State.grantsOn (s : State) (c : Nat) : List ActiveDeal :=
  s.hub.deals.flatMap fun (_, d) => (d.grants.filter (·.1 == c)).map fun _ => d

/-- Tasks of a deal that count against PERCORE on a core: the scheduler's placements, resident or granted. -/
def State.residentOf (s : State) (e : Nat) (d : ActiveDeal) (c : Nat) : Nat :=
  ((s.occupied c).filter fun p => (s.task p).deal == e && (!d.light || (s.task p).placed)).length + (d.grants.filter (·.1 == c)).length

/-- Empty slots of a kind on a core beyond the grants of earlier events. -/
def State.freeSlots (s : State) (c : Nat) (light : Bool) : Nat :=
  ((List.range 14).filter fun k => (s.slot (mkPos c (k + 1))).st == .empty && (s.core c).isLight (k + 1) == light).length
    - ((s.grantsOn c).filter (·.light == light)).length

/-- Does a task of a deal fit a core now: a free slot of its kind, PERCORE, accumulators, pages and window stack? -/
def State.fits (s : State) (e : Nat) (d : ActiveDeal) (c : Nat) : Bool :=
  let l := s.hub.limits.get {} d.part
  let held := (s.occupied c).filterMap fun p => s.deal (s.task p).deal
  let all := held ++ s.grantsOn c
  let sum (f : ActiveDeal → Nat) : Nat := (all.map f).foldl (· + ·) 0
  decide (s.residentOf e d c < d.percore) && decide (0 < s.freeSlots c d.light)
    && decide (sum ActiveDeal.accs + d.accs ≤ l.accs) && decide (sum ActiveDeal.pages + d.pages ≤ l.pages)
    && decide ((sum ActiveDeal.windows + d.windows) * 64 ≤ l.wstack)

-- priorities (R367, R368)

/-- Effective priority of a deal. -/
def ActiveDeal.eff (d : ActiveDeal) : Nat := d.priority + d.credit

/-- Has a deal a task that waits for placement anywhere? -/
def ActiveDeal.waits (d : ActiveDeal) : Bool := d.placed < d.total || !d.back.isEmpty

/-- Is deal `a` served before deal `b` on a core (R368)? -/
def servedBefore (c : Nat) (a b : Nat × ActiveDeal) : Bool :=
  let last (d : ActiveDeal) : Nat := match d.lastOn.look c with | some n => n + 1 | none => 0
  if a.2.eff ≠ b.2.eff then decide (b.2.eff < a.2.eff)
  else if last a.2 ≠ last b.2 then decide (last a.2 < last b.2)
  else decide (a.1 < b.1)

/-- The first of some deals in the order of R368. -/
def firstDeal (c : Nat) : List (Nat × ActiveDeal) → Option (Nat × ActiveDeal)
  | [] => none
  | x :: r => match firstDeal c r with
    | none => some x
    | some y => some (if servedBefore c y x then y else x)

/-- Is the task a joint group's, which is restored with the others of its group only (R233)? -/
def State.jointTask (s : State) (e n : Nat) : Bool :=
  match s.savedTask e n with
  | some x => x.task.jointIn && (s.joints.any (fun g => g.2.members.contains x.t) || s.away.any fun g => g.members.contains x.t)
  | none => false

/-- Deals whose next task waits for a core, of one slot kind. -/
def State.waitingOn (s : State) (c : Nat) (light : Bool) : List (Nat × ActiveDeal) :=
  if (s.core c).ineligible then [] else
  s.hub.deals.filter fun (e, d) => d.phase == .ready && d.mapped && d.light == light && d.waits &&
    (match d.nextFor c with
     | some r => !(r.redo == false && s.jointTask e r.index)
     | none => false)

-- placement (R365)

/-- A placement event's word (Table 14-7): KIND 1, or 4 for a saved task. -/
def eventWord (kind slot deal index : Nat) : Word := word (kind * 2 ^ 60 + slot * 2 ^ 56 + deal * 2 ^ 48 + index % 2 ^ 48)

/-- The scheduler's hold on a queue's HEAD: it advances, and the slot turns to the next record or falls idle (Table 14-3). -/
def State.advanceQueue (s : State) (k : Nat) : State :=
  let q := (s.hwSlot k).queue
  let d := s.queueDesc q
  let s := s.hubWrite (s.queueAddr q + 12) 4 ((queueHead d + 1) % 2 ^ 32)
  let d := s.queueDesc q
  if queuePending d then
    (s.modHwSlot k fun x => { x with st := .bound, entry := none, used := s.cycle }).modHub (fun h => { h with entryQ := h.entryQ ++ [k] })
      |>.postHub s.cycle .dealIntake (.dealBegin k)
  else
    let s := s.modHwSlot k fun x => { x with st := .idle, entry := none, used := s.cycle }
    if s.hub.waiting.isEmpty then s else s.postHub s.cycle .queueSlotBind .queueSlotBind

/-- Aging counts from now, while a task of the deal waits (R367). -/
def State.restartAging (s : State) (e : Nat) : State :=
  match s.deal e with
  | none => s
  | some d =>
    if !d.aging then s
    else
      let (n, s) := s.fresh
      let s := s.modDeal e fun d => { d with stamp := n }
      if d.waits then s.postHub (s.cycle + 64 * d.slice) .agingTick (.agingTick e n) else s

/-- A task waits to be placed again; if none of its deal did, aging counts from now. -/
def State.giveBack (s : State) (e : Nat) (r : Returned) : State :=
  let idle := (s.deal e).any fun d => !d.waits
  let s := s.modDeal e fun d => { d with back := r :: d.back }
  if idle then s.restartAging e else s

/-- A task ends with error without running again: the deal's counts (R478). -/
def State.endTask (s : State) (e : Nat) (err : Bool) : State :=
  s.postHub s.cycle .completionRecordWrite (.taskEnded e err)

/-- Does a re-executed task still see its snapshot (R478 step 2)? -/
def State.snapshotHolds (s : State) (d : ActiveDeal) : Bool :=
  match s.hubBytes d.space d.world d.args 256 with
  | .ok (v, _) => v == d.snap
  | .error _ => d.snap == 0

/-- Send the placement event of a task to a core. -/
def State.place (s : State) (e : Nat) (d : ActiveDeal) (r : Returned) (c : Nat) : State :=
  let came := d.back.contains r
  let resume := (s.savedTask e r.index).isSome && !r.redo
  let d' := { d with back := d.back.erase r, grants := d.grants ++ [(c, r.index)], credit := 0, lastOn := d.lastOn.put c s.cycle,
                     placed := d.placed + (if came then 0 else 1), live := d.live + (if came then 0 else 1),
                     cursor := if came then d.cursor else d.cursor.put c (r.index + 1) }
  if r.redo && !s.snapshotHolds d then
    let s := s.modDeal e fun d => { d with back := d.back.erase r }
    let x : ErrRec := { cycle := s.cycle, code := 0x51, sev := 1, deal := e, index := r.index, space := d.space, world := d.world, part := d.part }
    (s.postHub s.cycle .errorRecordDelivery (.errorRecord x)).endTask e true
  else
    let s := (s.modDeal e fun _ => d').restartAging e
    let s := s.postHub (s.cycle + hubTravel c) .placementEvent (.placement c (eventWord (if resume then 4 else 1) 0 e r.index))
    if came then s
    else if d'.placed = d'.total then s.advanceQueue d.slot
    else s.modHwSlot d.slot fun x => { x with st := .dispatching, used := s.cycle }

/-- The bytes of a saved task's retained operands. -/
def Saved.retained (x : Saved) : Nat := (x.task.accs.map fun a => a.2.retained).foldl (· + ·) 0 + runKept x.run

/-- Has a core's partner free retention space for every retained operand of a saved task, beside those of the tasks resident there and of
the saved ones granted to it and not STARTed (R219)? -/
def State.imageFits (s : State) (e : Nat) (r : Returned) (c : Nat) : Bool :=
  match (if r.redo then none else s.savedTask e r.index) with
  | none => true
  | some x =>
    let coming := s.hub.deals.flatMap fun (k, d) => (d.grants.filter (·.1 == c)).filterMap fun g => (s.savedTask k g.2).map Saved.retained
    decide (s.retention c + coming.foldl (· + ·) 0 + x.retained ≤ retentionSpace)

/-- Do all conditions of R365 hold for a deal's next task on a core? -/
def State.placeable (s : State) (c : Nat) (x : Nat × ActiveDeal) : Bool :=
  s.fits x.1 x.2 c && (x.2.nextFor c).any fun r => s.imageFits x.1 r c

/-- The number of a deal's tasks that wait for a core, up to what PERCORE lets in. -/
def State.waitCount (s : State) (e : Nat) (d : ActiveDeal) (c : Nat) : Nat :=
  let room := d.percore - s.residentOf e d c
  let back := (d.back.filter (·.core == c)).length
  let rec fresh (fuel n : Nat) : Nat := match fuel with
    | 0 => 0
    | fuel + 1 => match d.findFrom c (d.total - n) n with
      | some m => 1 + fresh fuel (m + 1)
      | none => 0
  min room (back + fresh room (d.cursor.get 0 c))

/-- Tasks of a core whose slice has ended (R369), with their deal's effective priority. -/
def State.expired (s : State) (c : Nat) (light : Bool) : List (Pos × Nat × Nat) :=
  (s.occupied c).filterMap fun p =>
    let x := s.slot p
    match s.deal x.task.deal with
    | some d =>
      if x.resident && x.preempt.isNone && d.light == light && x.task.sliceEnd ≤ s.cycle && x.task.wait != some .exiting
          && x.task.wait != some .migrate then some (p, d.eff, x.task.sliceEnd)
      else none
    | none => none

/-- The first expired task to be pre-empted (R369). -/
def firstExpired : List (Pos × Nat × Nat) → Option (Pos × Nat × Nat)
  | [] => none
  | x :: r => match firstExpired r with
    | none => some x
    | some y =>
      some (if y.2.1 < x.2.1 || (y.2.1 == x.2.1 && (y.2.2 < x.2.2 || (y.2.2 == x.2.2 && x.1 < y.1))) then y else x)

/-- Pre-empt one expired task for each task that waits with an effective priority not below it (R369). -/
def State.demandOn (c : Nat) (light : Bool) : Nat → State → State
  | 0, s => s
  | fuel + 1, s =>
    match firstExpired (s.expired c light) with
    | none => s
    | some (p, prio, _) =>
      let asked := ((s.occupied c).filter fun q => (s.slot q).preempt.isSome && (s.core c).isLight (posSlot q) == light).length
      let waits := ((s.waitingOn c light).filter fun x => prio ≤ x.2.eff).map fun x => s.waitCount x.1 x.2 c
      if waits.foldl (· + ·) 0 ≤ asked then s
      else
        let s := s.modSlot p fun x => { x with preempt := some s.cycle }
        State.demandOn c light fuel (s.postAt s.cycle p .preempt (.preempt p))

-- joint groups (R233)

/-- The core of a quad at the place that a core has in its own quad. -/
def quadPeer (q c : Nat) : Nat := (quadCores q).getD (((quadCores (quadNo c)).findIdx? (· == c)).getD 0) 0

/-- The members of a joint group that are saved and wait to be placed, each with its deal's entry. -/
def State.jointBack (s : State) (g : Joint) : List (Saved × Returned) :=
  g.members.filterMap fun t =>
    if g.left.any (·.1 == t) then none
    else match s.saved.find? (·.t == t) with
      | none => none
      | some x => ((s.deal x.task.deal).bind fun d => d.back.find? fun r => r.index == x.task.index && !r.redo).map fun r => (x, r)

/-- Can a joint group's waiting members all be placed in a quad now? -/
def State.jointFits (s : State) (l : List (Saved × Returned)) (q : Nat) : Bool :=
  l.all fun (x, r) =>
    let c := quadPeer q (posCore x.t.pos)
    let e := x.task.deal
    isBroad c == isBroad (posCore x.t.pos) && !(s.core c).ineligible && !(s.core c).halted &&
      (match s.deal e with
       | some d => d.phase == .ready && (s.classCores d.part d.cls).contains c && s.fits e d c && s.imageFits e r c
       | none => false)

/-- Place a joint group's waiting members in a quad. -/
def State.placeGroup (s : State) (l : List (Saved × Returned)) (q : Nat) : State :=
  l.foldl (fun s (x, r) =>
    match s.deal x.task.deal with
    | some d => s.place x.task.deal d r (quadPeer q (posCore x.t.pos))
    | none => s) s

/-- The quad on which a joint group can be restored as a unit now: its own one while it stands there, else the one it left, else the
lowest one that no other group holds (R233). -/
def State.jointQuad (s : State) (at_ : Option Nat) (g : Joint) : Option Nat :=
  let l := s.jointBack g
  match at_ with
  | some q => if !l.isEmpty && s.jointFits l q then some q else none
  | none =>
    let own := quadNo (posCore ((g.members.head?.map (·.pos)).getD 0))
    if l.isEmpty || l.length + g.left.length < g.members.length then none
    else (own :: List.range 32).find? fun q => !s.quadHeld q && s.jointFits l q

/-- The joint groups that can be restored now, each with its quad. -/
def State.jointsReady (s : State) : List (Joint × Nat) :=
  (s.joints.filterMap fun x => (s.jointQuad (some x.1) x.2).map (x.2, ·)) ++ s.away.filterMap fun g => (s.jointQuad none g).map (g, ·)

/-- The deal of a joint group's member that a restore on a quad places on a core. -/
def State.jointDealOn (s : State) (c : Nat) (g : Joint × Nat) : Option (Nat × ActiveDeal) :=
  ((s.jointBack g.1).find? fun x => quadPeer g.2 (posCore x.1.t.pos) == c).bind fun x => (s.deal x.1.task.deal).map fun d => (x.1.task.deal, d)

/-- Give a core's free resources away, in the order of R368 among the deals that can take them, at most `fuel` times. A joint group is
restored as a unit in the place of its member's deal (R233). -/
def State.placeOn (c : Nat) : Nat → State → State
  | 0, s => s
  | fuel + 1, s =>
    let groups := s.jointsReady.filterMap fun g => (s.jointDealOn c g).map fun x => (x, g)
    match firstDeal c (((s.waitingOn c false ++ s.waitingOn c true).filter (s.placeable c)) ++ groups.map (·.1)) with
    | none => s
    | some (e, d) =>
      match groups.find? fun x => x.1.1 == e with
      | some (_, g, q) => State.placeOn c fuel (s.placeGroup (s.jointBack g) q)
      | none => match d.nextFor c with
        | none => s
        | some r => State.placeOn c fuel (s.place e d r c)

/-- Look at a core whose resources, or whose waiting deals, have changed. -/
def State.schedule (s : State) (c : Nat) : State :=
  if s.hub.deals.isEmpty then s else
  let s := State.placeOn c 28 s
  -- a quad that has become free for a group may be another one
  let s := s.jointsReady.foldl (fun s g => if s.jointsReady.contains g then s.placeGroup (s.jointBack g.1) g.2 else s) s
  State.demandOn c true 14 (State.demandOn c false 14 s)

/-- Look at every core on which a deal's tasks may be placed. -/
def State.scheduleDeal (s : State) (e : Nat) : State :=
  match s.deal e with
  | some d => if d.mapped then (if d.map_ = 2 then d.table.eraseDups else d.elig).foldl State.schedule s else s
  | none => s

/-- PLACEMENT_EVENT (R365): the event reaches the banker's q7, waiting while it is full. -/
def execPlacementEvent (s : State) : Out :=
  match s.msg with
  | .placement c w =>
    .next (if s.partHalted (s.diePart (coreDie c)) then s
      else if 16 ≤ (s.slot (mkPos c 0)).evq.length then s.postHub (s.cycle + 1) .placementEvent (.placement c w)
      else s.putEvent (mkPos c 0) 16 w)
  | _ => .next s

-- completion records (R363, R376, R405)

/-- The completion record (Table 14-5). -/
def completionRecord (cycle : Nat) (d : ActiveDeal) : Nat :=
  let status := if d.code ≠ 0 then 2 else if d.errs = 0 then 1 else 3
  (d.first.getD 0) % 2 ^ 64 * 2 ^ 192 + min 65535 d.reexec * 2 ^ 176 + d.errs % 2 ^ 48 * 2 ^ 128 + d.tasks % 2 ^ 48 * 2 ^ 80
    + d.code * 2 ^ 72 + status * 2 ^ 64 + cycle % 2 ^ 64

/-- A deal is over when every task has been placed and none is live. -/
def State.checkDone (s : State) (e : Nat) : State :=
  match s.deal e with
  | some d =>
    if d.phase == .ready && d.mapped && d.placed == d.total && d.live == 0 && d.back.isEmpty then
      (s.modDeal e fun d => { d with phase := .ended }).postHub s.cycle .completionRecordWrite (.completionWrite e)
    else s
  | none => s

/-- Write a deal's completion record and free its entry, or try again 65 536 cycles later (R363). -/
def State.writeCompletion (s : State) (e : Nat) : State :=
  match s.deal e with
  | none => s
  | some d =>
    if s.partHalted d.part then s else
    let va := d.recordVa / 16 * 16
    match s.hubPlaces d.space d.world true va 64 with
    | .error (cause, sub, _) =>
      let s := if d.told then s else s.schedulerFault e d cause sub d.recordVa 1
      (s.modDeal e fun d => { d with told := true }).postHub (s.cycle + 65536) .completionRecordRetry (.completionWrite e)
    | .ok ps =>
      let v := completionRecord s.cycle d
      let (s, _) := ps.foldl (fun (s, v) (pl, k) => (s.hubCopyWrite pl.loc k (v % 2 ^ (8 * k)), v / 2 ^ (8 * k))) (s, v)
      let s := s.mapCores fun k => { k with started := k.started.filter (· != e) }
      let s := s.modHub fun h => { h with deals := h.deals.del e }
      match s.hub.entryQ with
      | [] => s
      | k :: _ => s.postHub s.cycle .dealIntake (.dealBegin k)

/-- COMPLETION_RECORD_WRITE (R363, R405): a task of a deal has ended, or a deal's record is written. -/
def execCompletionRecordWrite (s : State) : Out :=
  match s.msg with
  | .taskEnded e err =>
    .next ((s.modDeal e fun d => { d with live := d.live - 1, tasks := d.tasks + (!err).toNat, errs := d.errs + err.toNat }).checkDone e)
  | .completionWrite e => .next (s.writeCompletion e)
  | _ => .next s

/-- COMPLETION_RECORD_RETRY (R363). -/
def execCompletionRecordRetry (s : State) : Out :=
  match s.msg with
  | .completionWrite e => .next (s.writeCompletion e)
  | _ => .next s

-- queues and hardware queue slots (R359-R361)

/-- Bind a queue to a slot: its head record goes to intake as soon as an active-deal entry is free (R499). -/
def State.bindQueue (s : State) (k q : Nat) : State :=
  ((s.modHwSlot k fun _ => { st := .bound, queue := q, entry := none, used := s.cycle }).modHub
    fun h => { h with entryQ := h.entryQ ++ [k] }).postHub s.cycle .dealIntake (.dealBegin k)

/-- NOTIFY_WORD (R359): a TAIL has been written. -/
def execNotifyWord (s : State) : Out :=
  match s.msg with
  | .notifyWord q =>
    .next (
      if !queuePending (s.queueDesc q) then s
      else match s.hub.slots.find? fun x => x.2.queue == q && x.2.st != .free with
        | some (k, x) => if x.st == .idle then s.bindQueue k q else s
        | none =>
          if s.hub.waiting.contains q then s
          else (s.modHub fun h => { h with waiting := h.waiting ++ [q] }).postHub s.cycle .queueSlotBind .queueSlotBind)
  | _ => .next s

/-- The slot that a waiting queue takes: a free one, else the idle one used least recently (R361). -/
def State.slotForQueue (s : State) : Option Nat :=
  match (List.range 64).find? fun k => (s.hwSlot k).st == .free with
  | some k => some k
  | none =>
    let idle := (List.range 64).filter fun k => (s.hwSlot k).st == .idle
    idle.find? fun k => idle.all fun j => (s.hwSlot k).used ≤ (s.hwSlot j).used

/-- QUEUE_SLOT_BIND (R361): the queue that has waited longest takes a slot. -/
def execQueueSlotBind (s : State) : Out :=
  .next (match s.hub.waiting, s.slotForQueue with
    | q :: r, some k =>
      let s := (s.modHub fun h => { h with waiting := r }).bindQueue k q
      if r.isEmpty then s else s.postHub s.cycle .queueSlotBind .queueSlotBind
    | _, _ => s)

-- intake (R362, R499)

/-- Is a record malformed (code 1)? -/
def ActiveDeal.malformed (d : ActiveDeal) : Bool :=
  let blk := bits d.record 304 48
  d.record / 2 ^ 435 != 0 || d.pc % 4 != 0 || d.recordVa % 16 != 0 || d.tableVa % 2 != 0 || d.slice == 0 || d.percore == 0
    || decide (14 < d.percore) || decide (d.windows < 4) || decide (1024 < d.windows) || decide (768 < d.pages) || decide (16 < d.accs)
    || decide (16 < d.tiles) || d.map_ == 3 || d.cls == 3 || (d.light && (d.tiles != 0 || d.accs != 0))
    || (blk != 0 && d.map_ != 1) || (d.tableVa != 0 && d.map_ != 2)

/-- Does a queue's space fail it (R441)? -/
def State.spaceFails (s : State) (d : ActiveDeal) : Bool :=
  let sp := s.space d.space
  !sp.valid || sp.part != d.part || sp.world != d.world

/-- The first of checks 1 to 8 that fails (Table 14-4), 0 if none. -/
def State.intakeCode (s : State) (d : ActiveDeal) : Nat :=
  let l := s.hub.limits.get {} d.part
  lowestCode [(1, d.malformed || s.spaceFails d), (2, d.depv && (s.hub.counters.get {} d.dep).owner != some d.space),
    (3, (s.classCores d.part d.cls).isEmpty), (4, decide (l.slots < d.percore)), (5, decide (l.tiles < d.tiles)),
    (6, decide (l.accs < d.percore * d.accs)), (7, decide (l.pages < d.percore * d.pages)),
    (8, decide (l.wstack < d.percore * d.windows * 64))]
where
  /-- The first code whose condition holds. -/
  lowestCode (l : List (Nat × Bool)) : Nat := ((l.find? (·.2)).map (·.1)).getD 0

/-- What reading the mapping gives (check 9, R499). -/
inductive MapRes where
  | ok (table : List Nat)
  | reject (code : Nat)
  | fault (cause sub addr : Nat)

/-- Check 9 under a set of eligible cores, with the mapping table where MAP is 2. -/
def State.checkMap (s : State) (d : ActiveDeal) (elig : List Nat) : MapRes :=
  if d.map_ = 1 then
    if allBelow 3 fun k => d.dim k % d.blk k == 0 then .ok [] else .reject 9
  else if d.map_ = 2 then
    match s.hubBytes d.space d.world d.tableVa (2 * d.total) with
    | .error (cause, sub, addr) => .fault cause sub addr
    | .ok (v, poison) =>
      let t := (List.range d.total).map fun n => bits v (16 * n) 16
      if poison then .reject 10
      else if t.all elig.contains then .ok t else .reject 9
  else .ok []

/-- Reject a deal whole. -/
def State.reject (s : State) (e code : Nat) : State :=
  match s.deal e with
  | none => s
  | some d =>
    let s := s.modDeal e fun d => { d with phase := .ended, code := code, told := false }
    (((s.tally 7 d.part 1).advanceQueue d.slot)).postHub s.cycle .completionRecordWrite (.completionWrite e)

/-- E and the mapping of a deal are fixed (R364). -/
def State.mapDeal (s : State) (e : Nat) (elig table : List Nat) : State :=
  s.modDeal e fun d => { d with mapped := true, elig := elig, table := table, told := false }

/-- A deal's tasks may be placed once its mapping is fixed. -/
def State.startPlacing (s : State) (e : Nat) : State :=
  match s.deal e with
  | some d => if d.phase == .ready && d.mapped then (s.restartAging e).scheduleDeal e else s
  | none => s

/-- A deal becomes ready. -/
def State.makeReady (s : State) (e : Nat) (counted : Bool) : State :=
  match s.deal e with
  | none => s
  | some d =>
    let s := s.modDeal e fun d => { d with phase := .ready, counted := counted }
    (s.modHwSlot d.slot fun x => { x with st := .ready }).startPlacing e

/-- A deal that passed intake meets its counter (R372, Table 14-3). -/
def State.meetCounter (s : State) (e : Nat) : State :=
  match s.deal e with
  | none => s
  | some d =>
    if !d.depv then s.makeReady e false
    else
      let k := s.hub.counters.get {} d.dep
      if k.held.isSome then s.modDeal e fun d => { d with phase := .busy }
      else if k.value = 0 then s.makeReady e true
      else
        let s := s.modHub fun h => { h with counters := h.counters.put d.dep { k with held := some e } }
        (s.modDeal e fun d => { d with phase := .held }).modHwSlot d.slot fun x => { x with st := .held }

/-- Busy deals meet their counter again, one after another, until it holds one of them. -/
def State.freeCounter (s : State) (k : Nat) : State :=
  (s.hub.deals.filter fun x => x.2.phase == .busy && x.2.dep == k).foldl (fun s x =>
    if (s.hub.counters.get {} k).held.isSome then s else s.meetCounter x.1) s

/-- A deal that passed intake while no core of its class was eligible gets its mapping, or is rejected (R364). -/
def State.fixMapping (s : State) (e : Nat) : State :=
  match s.deal e with
  | none => s
  | some d =>
    let elig := s.eligibleCores d.part d.cls
    if d.phase == .reading || d.phase == .table || d.phase == .ended || d.mapped || elig.isEmpty then s
    else match s.checkMap d elig with
      | .reject code =>
        let s := s.reject e code
        if d.phase != .held then s
        else (s.modHub fun h => { h with counters := h.counters.upd {} d.dep fun k => { k with held := none } }).freeCounter d.dep
      | .fault cause sub addr =>
        let s := if d.told then s else s.schedulerFault e d cause sub addr 0
        (s.modDeal e fun d => { d with told := true }).postHub (s.cycle + 65536) .tableReadRetry (.tableReadRetry e)
      | .ok t => (s.mapDeal e elig t).startPlacing e

/-- The checks of a deal's intake, made whole (R362). Where a core of its class is eligible, the last of them fixes the mapping
(R364). -/
def State.intake (s : State) (e : Nat) : State :=
  match s.deal e with
  | none => s
  | some d =>
    let code := s.intakeCode d
    if code ≠ 0 then s.reject e code
    else
      let elig := s.eligibleCores d.part d.cls
      match (if elig.isEmpty then MapRes.ok [] else s.checkMap d elig) with
      | .reject code => s.reject e code
      | .fault cause sub addr =>
        let s := if d.told then s else s.schedulerFault e d cause sub addr 0
        (s.modDeal e fun d => { d with told := true, phase := .table }).postHub (s.cycle + 65536) .tableReadRetry (.tableReadRetry e)
      | .ok t =>
        let s := if elig.isEmpty then s else s.mapDeal e elig t
        -- the input snapshot of a restartable deal (R478)
        let snap := if !d.restart then 0 else match s.hubBytes d.space d.world d.args 256 with
          | .ok (v, _) => v
          | .error _ => 0
        (s.modDeal e fun d => { d with snap := snap, told := false }).meetCounter e

/-- The lowest free active-deal entry. -/
def State.freeEntry (s : State) : Option Nat := (List.range 256).find? fun e => (s.hub.deals.look e).isNone

/-- DEAL_INTAKE (R499, R362, R370): the slot bound longest gets an entry and its record is read; the record reaches the
scheduler; 40 cycles later, and what a mapping table adds, its checks are made whole. -/
def execDealIntake (s : State) : Out :=
  match s.msg with
  | .dealBegin _ =>
    -- a halted partition's slots wait (R456)
    .next (match s.hub.entryQ.find? (fun k => !s.partHalted ((s.hwSlot k).queue / 65536)), s.freeEntry with
      | some k, some e =>
        let q := (s.hwSlot k).queue
        let r := s.hub.entryQ.erase k
        let d := s.queueDesc q
        let loc := queueRing d + 64 * (queueHead d % queueSize d)
        let x : ActiveDeal := { slot := k, queue := q, space := bits d 144 12, part := bits d 157 2, world := bit d 156, aging := bit d 134, ceil := bits d 136 8 }
        let s := s.modHub fun h => { h with entryQ := r, deals := h.deals.put e x }
        let s := s.modHwSlot k fun x => { x with entry := some e }
        let lat := s.homeLatency (loc / 128)
        let s := (s.homeRead (loc / 128)).2.postHub (s.cycle + lat) .dealIntake (.dealRecord e)
        match r with
        | [] => s
        | k' :: _ => s.postHub s.cycle .dealIntake (.dealBegin k')
      | _, _ => s)
  | .dealRecord e =>
    .next (match s.deal e with
      | none => s
      | some d =>
        if s.partHalted d.part then s else
        let qd := s.queueDesc d.queue
        let rec_ := s.bytesAt (queueRing qd + 64 * (queueHead qd % queueSize qd)) 64
        let d := { d with record := rec_ }
        let extra := if d.map_ ≠ 2 then 0 else
          ceilDiv d.total 32 + (match s.hubPlace d.space d.world false d.tableVa with
            | .ok pl => s.homeLatency (pl.loc / 128)
            | .error _ => 0)
        (s.modDeal e fun _ => d).postHub (s.cycle + 40 + extra) .dealIntake (.dealCheck e))
  | .dealCheck e => .next (if (s.deal e).any fun d => s.partHalted d.part then s else s.intake e)
  | _ => .next s

/-- TABLE_READ_RETRY (R499): a mapping table that faulted is read again. -/
def execTableReadRetry (s : State) : Out :=
  match s.msg with
  | .tableReadRetry e => .next (match s.deal e with
      | some d => if s.partHalted d.part then s else if d.phase == .table then s.intake e else s.fixMapping e
      | none => s)
  | _ => .next s

/-- DEAL_MAPPING_FIX (R364): a core of the class of a deal without a mapping has become eligible. -/
def execDealMappingFix (s : State) : Out :=
  match s.msg with
  | .mappingFix e => .next (s.fixMapping e)
  | _ => .next s

/-- AGING_TICK (R367): a deal of which a task has waited for 64 slices without a placement gains one. -/
def execAgingTick (s : State) : Out :=
  match s.msg with
  | .agingTick e stamp =>
    .next (match s.deal e with
      | some d =>
        if d.stamp ≠ stamp || d.phase != .ready || !d.waits then s
        else
          let s := s.modDeal e fun d => { d with credit := min (d.ceil - d.priority) (d.credit + 1) }
          (s.postHub (s.cycle + 64 * d.slice) .agingTick (.agingTick e stamp)).scheduleDeal e
      | none => s)
  | _ => .next s

/-- SLICE_EXPIRY (R369): a task's slice has ended; it is pre-empted if work that is not below it waits. -/
def execSliceExpiry (s : State) : Out :=
  match s.msg with
  | .sliceExpiry t end_ =>
    .next (if s.isAt t && (s.task t.pos).sliceEnd = end_ then s.schedule (posCore t.pos) else s)
  | _ => .next s

-- counters (R372)

/-- The core at which a die's counter unit and channel agent stand. -/
def unitCore (die : Nat) : Nat := coreOf die 8 8

/-- Apply one request at a counter: DEPINIT's value, or a decrement (R372). -/
def State.applyCounter (s : State) (k : Nat) (dec : Bool) (v : Nat) : State :=
  let c := s.hub.counters.get {} k
  let s := if dec && c.value = 0 then s.tally 8 (k / 4096) 1 else s
  let c := { c with value := if dec then c.value - 1 else v }
  let s := s.modHub fun h => { h with counters := h.counters.put k c }
  match c.held with
  | some e =>
    if c.value ≠ 0 then s
    else
      let s := s.modHub fun h => { h with counters := h.counters.put k { c with held := none } }
      (s.makeReady e true).freeCounter k
  | none => s

/-- COUNTER_REQUEST_ARRIVAL (R372): a DEPINIT or DEPDEC arrives at its counter unit. -/
def execCounterRequestArrival (s : State) : Out :=
  match s.msg with
  | .counterRequest k dec v => .next (if s.partHalted (s.diePart (k / 4096)) then s else s.applyCounter k dec v)
  | _ => .next s

/-- DEPINIT and DEPDEC once their operands are read (R380). -/
def depMember (a : Nat) (dec : Bool) (v : Nat) (s : State) : State :=
  if a / 2 ^ 14 ≠ 0 || v / 2 ^ 16 ≠ 0 then s.formatFault 0
  else if (s.hub.counters.get {} a).owner ≠ some s.my.space || s.diePart (a / 4096) ≠ s.diePart (coreDie (posCore s.cur)) then s.formatFault 9
  else if dec && (!s.my.accessesDone s.cycle || s.drainStuck s.cur) then
    -- the release of R354 waits as R323 says
    s.waitTurn
  else
    let (w, s) := if dec then s.drain s.cur else ([], s)
    let c := posCore s.cur
    let u := unitCore (a / 4096)
    let h := routeHops c u
    let far := if coreDie c = coreDie u then 0 else 80
    let from_ := s.cycle + w.cost
    (s.post (from_ + 10 + 2 * h + far) (tieAt u s.cur) .counterRequestArrival (.counterRequest a dec v)).block
      (from_ + 20 + 4 * h + 2 * far) Finish.plain

def execDepinit (a b : Reg) (s : State) : Out := .next (with2 a b s fun x y s => depMember x.toNat false y.toNat s)
def execDepdec (a : Reg) (s : State) : Out := .next (with1 a s fun x s => depMember x.toNat true 0 s)

-- LAUNCH (R379)

/-- LAUNCH: after the drain, the record's bytes are on their way to the ring. -/
def execLaunch (d a b : Reg) (s : State) : Out :=
  .next (with2 a b s fun x y s =>
    let va := x.toNat
    if va % 64 ≠ 0 then s.formatFaultAt 1 va
    else if y.toNat / 2 ^ 16 ≠ 0 then s.formatFault 0
    else withAccess va 64 false false s fun p s =>
      if s.drainWaits s.cur then s.waitTurn else
      let c := posCore s.cur
      let (w, s) := s.drain s.cur
      let ((line, poison, _), s) :=
        if p.scratch then
          let (v, q, s) := s.readScratch p.owner s.my.space p.off p.loc 64
          ((BitVec.ofNat 1024 v, q, 0), s)
        else readLine c (if p.sync then [] else s.chain s.my.space c p.vc) (p.loc / 128) (maskOf (p.loc % 128) 64) p.tensor p.world s
      let rec_ := if p.scratch then line.toNat else bits line.toNat (8 * (p.loc % 128)) 512
      let (id, s) := s.blockOpen
      s.postAt (s.cycle + w.cost + 200) s.cur .classBCompletion (.launch (s.tk s.cur) id y.toNat rec_ poison va d))

/-- The end of a LAUNCH: the record is appended and TAIL advances, or a status says why not. TAIL is obtained by reservation: while
another holds it, the LAUNCH waits (R263). A halted partition's is discarded (R456). -/
def State.launched (s : State) (t : Tk) (id number rec_ : Nat) (poison : Bool) (va : Nat) (dest : Reg) : State :=
  let part := s.diePart (coreDie (posCore t.pos))
  let q := part * 65536 + number
  if s.partHalted part then s else
  let d := s.queueDesc q
  let space := ((s.findTask t).map (·.space)).getD 0
  let ok := bit d 135 && bit d 133 && bits d 144 12 == space && 1 ≤ bits d 128 5 && bits d 128 5 ≤ 16
  let full := (queueTail d + 2 ^ 32 - queueHead d) % 2 ^ 32 == queueSize d
  let fin (v : Nat) : Finish := Finish.value_ dest v
  if poison then s.completeWait t id (.blocking id) { fin 0 with fault := some (poisonTrap va) }
  else if !ok then s.completeWait t id (.blocking id) (fin 2)
  else if full then s.completeWait t id (.blocking id) (fin 1)
  else if (s.mem.resv.look ((s.queueAddr q + 8) / 8)).isSome then
    s.postAt (s.cycle + 1) t.pos .classBCompletion (.launch t id number rec_ poison va dest)
  else
    let s := s.hubWrite (queueRing d + 64 * (queueTail d % queueSize d)) 64 rec_
    let s := s.hubWrite (s.queueAddr q + 8) 4 ((queueTail d + 1) % 2 ^ 32)
    s.completeWait t id (.blocking id) (fin 0)

end Sys2Proof.Machine
end

