-- ==== Sys2Proof/Machine/SysRegs.lean ====
section
/-! DEFINITION. Control registers and system instructions (01_machine.md R38-R43, 19_traps_and_preemption.md R463, R467-R471,
04_number_formats.md R122, 07_matrix_partner.md R226, 15_waiting_and_barriers.md R385, 20_containment_and_recovery.md R473, R481). -/
namespace Sys2Proof.Machine

/-- FEAT0 to FEAT3: what the hardware offers, reserved bits 0 (Table 21-3). -/
def featWord (k : Nat) : Word :=
  match k with
  | 0 => Config.offeredFeatures 0 &&& 3
  | 1 => Config.offeredFeatures 1 &&& 0x3FFFFFFFF
  | _ => 0

/-- QCFG at core reset: LOCK 0, rectangle 0 to 15 (Table 15-2). -/
def qcfgReset : Word := word 0xFF00

/-- QCFGn of a core. -/
def Core.qcfgReg (c : Core) (n : Nat) : Nat := (c.qcfg.get qcfgReset n).toNat

/-- The value of control register `c` as position `p` reads it (Table 1-9). On a light slot per-task registers hold their
start values (Table 16-2). -/
def State.crRead (s : State) (p : Pos) (c : Nat) : Nat :=
  let t := s.task p
  let k := s.core (posCore p)
  let light := s.isLight p
  if c = 0 then
    let v := if light then (crReset 0).toNat else t.cr 0
    setBits (setBits v 3 1 light.toNat) 0 1 (if posSlot p = 0 then 1 else 0)
  else if c < 0x80 then (if light then (crReset c).toNat else t.cr c)
  else if c = 0x80 then s.cycle
  else if c = 0x81 then p
  else if c ≤ 0x84 then (if light then 0 else t.coord.getD (c - 0x82) 0)
  else if c = 0xC0 then t.space
  else if c = 0xC1 then t.world.toNat
  else if c ≤ 0x803 then k.qcfgReg (c - 0x800)
  else if c = 0x810 then k.cordon.toNat
  else if c = 0x820 then k.errinj.toNat
  else if c = 0x844 then s.module_.faccept.toNat
  else (featWord (c - 0x840)).toNat

/-- A per-task register as it holds `v`: bits above its width are dropped (R40); none for a reserved value
(R40, R122, R208, R458, R489). STATUS keeps its read-only fields (R42). -/
def crFilter (old c v : Nat) : Option Nat :=
  if c = 0 then
    if bits v 32 16 = 0 then none
    else some (setBits (setBits (setBits old 32 16 (bits v 32 16)) 23 1 (bits v 23 1)) 8 5 (bits v 8 5))
  else if c = 1 then some (v / 4 * 4 % 2 ^ 57)
  else if c = 3 then some (bits v 0 17)
  else if c ≤ 4 then some v
  else if c = 5 then some (bits v 31 1 * 2 ^ 31 + bits v 0 9)
  else if c = 0x10 || c = 0x11 then (if bits v 0 5 ≤ 0x0B then some (bits v 0 5) else none)
  else if c = 0x12 then (if bits v 0 5 = 0 || bits v 0 5 = 0x0B then some (bits v 0 5) else none)
  else if c = 0x13 || c = 0x14 then (if bits v 0 2 = 0 then some (bits v 0 22) else none)
  else if c = 0x15 then some (bits v 0 32)
  else if c = 0x16 then (if bits v 0 3 ≤ 4 then some (bits v 0 3) else none)
  else if c = 0x20 then some (bits v 0 5)
  else if c ≤ 0x2C then some (bits v 0 32)
  else if c ≤ 0x2F then (if bits v 28 4 ≤ 7 then some (bits v 0 32) else none)
  else if c ≤ 0x47 then (if bits v 0 16 ≤ 8 then some (bits v 0 16) else none)
  else some v

/-- Does a written QCFG hold an ordered rectangle (Table 15-2)? -/
def qcfgValid (v : Nat) : Bool := bits v 0 4 ≤ bits v 8 4 && bits v 4 4 ≤ bits v 12 4

/-- Is a written CORDON free of reserved values for core `c` (R473)? -/
def cordonValid (c v : Nat) : Bool :=
  !bit v 63 ||
    (bits v 0 4 + bits v 8 4 ≤ 15 && bits v 4 4 + bits v 12 4 ≤ 15
      && bits v 0 4 ≤ coreX c && coreX c ≤ bits v 0 4 + bits v 8 4
      && bits v 4 4 ≤ coreY c && coreY c ≤ bits v 4 4 + bits v 12 4)

/-- Is a write of ERRINJ refused (R226, R481)? -/
def errinjRefused (v : Nat) : Bool :=
  let tg := bits v 60 4
  let slot := bits v 56 4
  if tg = 0 then false
  else if tg = 1 then slot = 0 || slot = 15 || bits v 17 16 = 0
  else 6 ≤ tg

/-- The event an accepted ERRINJ write causes (R226, R481). -/
def errinjEvent (v : Nat) : Instr :=
  match bits v 60 4 with
  | 1 => .errinjAccumulator
  | 2 => .errinjScratchpadWord
  | 3 => .errinjRegister
  | 4 => .errinjVcacheLine
  | 5 => .errinjCordonReset
  | _ => .errinjDisarm

/-- Write control register `c`; none for a reserved value (R40). Only slot 0 reaches numbers from 0x800 (R39). -/
def State.crWrite (s : State) (p : Pos) (c v : Nat) : Option State :=
  let core := posCore p
  if c < 0x800 then
    if s.isLight p then some s
    else (crFilter ((s.task p).cr c) c v).map fun v => s.modTask p fun t => t.setCr c v
  else if c ≤ 0x803 then
    if !qcfgValid v then none
    else
      let s := s.modCore core fun k =>
        { k with qcfg := k.qcfg.put (c - 0x800) (word (bits v 63 1 * 2 ^ 63 + bits v 0 16)) }
      some (if bit v 62 then s.postAt s.cycle (mkPos core 0) .qcfgDefault (.qcfgDefault core (c - 0x800)) else s)
  else if c = 0x810 then
    if !cordonValid core v then none
    else some (s.modCore core fun k => { k with cordon := word (bits v 63 1 * 2 ^ 63 + bits v 0 16) })
  else if errinjRefused v then
    some (s.behalfFault (s.tk p) (s.task p).pc.toNat 0x41 4 0 3 (s.task p).space (s.task p).world)
  else some (s.postAt s.cycle (mkPos core 0) (errinjEvent v) (.errinj core (word v)))

/-- Does a position reach register `c` at all (R39, R463)? -/
def crAllowed (p : Pos) (c : Nat) : Bool := c < 0x800 || posSlot p == 0

/-- CRRD (R463). -/
def execCrrd (d : Reg) (r : BitVec 12) (s : State) : Out :=
  .next (if !crAllowed s.cur r.toNat then s.noIssue 0x41 3 0 3
    else finishShort d (word (s.crRead s.cur r.toNat)) s)

/-- A control-register write by `f` of the old value and A (R463). FACCEPT is written by no slot. -/
def crUpdate (f : Nat → Nat → Nat) (a : Reg) (r : BitVec 12) (s : State) : Out :=
  let c := r.toNat
  .next (
    if !crAllowed s.cur c || (0x840 ≤ c && c ≤ 0x844) then s.noIssue 0x41 3 0 3
    else with1 a s fun x s =>
      match s.crWrite s.cur c (f (s.crRead s.cur c) x.toNat) with
      | some s => s.advance
      | none => s.formatFault 0)

def execCrwr (a : Reg) (r : BitVec 12) (s : State) : Out := crUpdate (fun _ x => x) a r s
def execCrset (a : Reg) (r : BitVec 12) (s : State) : Out := crUpdate (fun o x => o ||| x) a r s
def execCrclr (a : Reg) (r : BitVec 12) (s : State) : Out :=
  crUpdate (fun o x => o &&& (2 ^ 64 - 1 - x)) a r s

/-- COORD (14_scheduler.md R378). -/
def execCoord (d : Reg) (k : BitVec 2) (s : State) : Out :=
  .next (finishShort d (word (if s.isLight s.cur then 0 else s.my.coord.getD k.toNat 0)) s)

/-- TRAP (R467): a software trap, TRAPPC the next instruction. -/
def execTrap (c : BitVec 12) (s : State) : Out :=
  let tr : Trap := { cause := 1, sub := 0, val := c.toNat, deferred := false }
  .next (
    if s.my.inTrap || s.my.cr 1 = 0 || s.isLight s.cur then s.trapAt tr
    else if !s.my.settled then s.waitTurn
    else s.advance.trapAfter s.cur s.my.pc tr)

/-- ERET (R468). -/
def execEret (s : State) : Out :=
  .next (if !s.my.inTrap then s.formatFault 12 else s.trapReturn.takeTraps s.cur)

/-- IFLUSH (R469): completes 40 cycles after issue. -/
def execIflush (s : State) : Out :=
  .next ((s.setMySlot fun x => { x with fetchTr := [] }).block (s.cycle + 40) Finish.plain)

/-- IDLE (R470): parks until q7 holds a word. -/
def execIdle (s : State) : Out :=
  .next (if s.mySlot.evq.isEmpty then s.park s.cur .idle else s.advance)

/-- BRK (R471). -/
def execBrk (c : BitVec 12) (s : State) : Out := .next (s.supFault s.cur 0x4B 0 0 3 c.toNat)

/-- ERRINJ_DISARM (R226). -/
def execErrinjDisarm (s : State) : Out :=
  match s.msg with
  | .errinj c _ => .next (s.modCore c fun k => { k with errinj := 0, injCount := 0 })
  | _ => .next s

/-- ERRINJ as it holds a word: reserved bits read 0 (Table 7-5, R9). -/
def errinjHeld (v : Word) : Word := word (v.toNat / 2 ^ 17 * 2 ^ 17)

/-- ERRINJ_ACCUMULATOR (R226): the injector is armed and counts blocks from here. -/
def execErrinjAccumulator (s : State) : Out :=
  match s.msg with
  | .errinj c v => .next (s.modCore c fun k => { k with errinj := errinjHeld v, injCount := 0 })
  | _ => .next s

end Sys2Proof.Machine
end

