-- ==== Sys2Proof/Machine/Waits.lean ====
section
/-! DEFINITION. Neighbour channels, barrier wires, the termination probe, the flush probe and gathered events
(15_waiting_and_barriers.md R384-R400). -/
namespace Sys2Proof.Machine

-- channels (R384-R387)

/-- CHANNEL_WORD_ARRIVAL (R384, R397): a word enters the partner's inbound queue. -/
def execChannelWordArrival (s : State) : Out :=
  match s.msg with
  | .channelWordArrival q m w far =>
    if (s.core (posCore q)).fenced then .next (s.setEndpoint q m fun e => { e with coming := e.coming - 1 }) else
    let s := s.setEndpoint q m fun e => { e with coming := e.coming - 1, inbound := e.inbound ++ [w] }
    let s := if far then s.countRecv (posCore q) else s
    .next (s.wake q (.pop m))
  | _ => .next s

/-- QTRY (R387). -/
def State.portState (s : State) (p : Pos) (n : Nat) : Nat :=
  let x := s.slot p
  let c := posCore p
  let held :=
    if n < 4 then (s.endpoint p n).inbound.length
    else if n = 4 then x.comps.length
    else if n = 5 then x.returns.length
    else if n = 6 then
      if !s.isLight p then 0
      else ((s.core c).arrivals.filter (·.taker.isNone)).length
    else x.evq.length
  let free :=
    if n < 4 then s.channelRoom p n
    else if n = 4 then min (8 - x.cmds.length) (8 - (x.comps.length + x.compsRes))
    else if n = 5 then 4 - x.mailbox.length
    else if n = 6 then 0
    else if posSlot p = 0 then 16 - (s.core c).outq.length
    else 16 - (s.slot (mkPos c 0)).evq.length
  let unb := n < 4 && (s.channelPartner p n).isNone
  if n = 6 && !s.isLight p then 0 else min 255 held + 256 * free + 65536 * unb.toNat

def execQtry (d a : Reg) (s : State) : Out := .next (finishShort d (word (s.portState s.cur (a.toNat - 24))) s)

/-- Break an endpoint's channel: its partner becomes unbound, and pushes that waited there are accepted (R386). -/
def State.breakChannel (s : State) (p : Pos) (n : Nat) : State :=
  let s := match s.channelPartner p n with
    | some (q, m) => (s.setEndpoint q m fun e => { e with pair := .unbound }).wake q (.push m)
    | none => s
  (s.setEndpoint p n fun e => { e with pair := .unbound }).wake p (.push n)

/-- Pair two endpoints in one step. -/
def State.pairChannel (s : State) (p : Pos) (n : Nat) (q : Pos) (m : Nat) : State :=
  let s := (s.breakChannel p n).breakChannel q m
  (s.setEndpoint p n fun e => { e with pair := .to q m }).setEndpoint q m fun e => { e with pair := .to p n }

/-- Does a core lie in the rectangle of a QCFG register (Table 15-2)? -/
def qcfgAdmits (v c : Nat) : Bool :=
  bits v 0 4 ≤ coreX c && coreX c ≤ bits v 8 4 && bits v 4 4 ≤ coreY c && coreY c ≤ bits v 12 4

/-- Does the channel agent refuse a request (R386)? Slots 0 and 15 have no endpoint to rebind. -/
def State.channelRefused (s : State) (p : Pos) (n : Nat) (space a : Nat) : Bool :=
  let c := posCore p
  let mine := (s.core c).qcfgReg n
  let locked (v : Nat) : Bool := bit v 63
  if posSlot p = 0 || posSlot p = 15 || locked mine then true
  else if bit a 14 then false
  else
    let tc := coreOf (coreDie c) (bits a 0 4) (bits a 4 4)
    let q := mkPos tc (bits a 8 4)
    let m := bits a 12 2
    let his := (s.core tc).qcfgReg m
    locked his || !qcfgAdmits mine tc || !qcfgAdmits his c || !(s.slot q).resident || (s.task q).space != space || (q == p && m == n)

/-- QCFG (R386): the request goes to the channel agent of the die. -/
def execQcfg (a : Reg) (n : BitVec 2) (s : State) : Out :=
  .next (with1 a s fun x s =>
    let v := x.toNat
    let slot := bits v 8 4
    if v / 2 ^ 15 ≠ 0 || (if bit v 14 then bits v 0 14 ≠ 0 else slot = 0 || slot = 15) then s.formatFault 0
    else
      let c := posCore s.cur
      let u := unitCore (coreDie c)
      let h := hops c u
      let (id, s) := s.blockOpen
      s.post (s.cycle + 10 + 2 * h) (tieAt u s.cur) .channelAgentRequest (.channelAgent (s.tk s.cur) id n.toNat v (s.cycle + 20 + 4 * h)))

/-- CHANNEL_AGENT_REQUEST (R386). A request whose issuer has left its slot finds no task to rebind for and is refused. -/
def execChannelAgentRequest (s : State) : Out :=
  match s.msg with
  | .channelAgent t id n a done =>
    let x := (s.findTask t).getD {}
    let p := t.pos
    let refused := s.channelRefused p n x.space a
    let s := if refused then s
      else if bit a 14 then s.breakChannel p n
      else s.pairChannel p n (mkPos (coreOf (coreDie (posCore p)) (bits a 0 4) (bits a 4 4)) (bits a 8 4)) (bits a 12 2)
    let f : Finish := if refused then
        { Finish.plain with trap := some { cause := 2, sub := 7, val := x.pc.toNat, deferred := false } }
      else Finish.plain
    .next (s.postAt done p .classBCompletion (.classBCompletion t id f))
  | _ => .next s

/-- QCFG_DEFAULT (R385): endpoint n of every task slot of the core is paired as by default again. -/
def execQcfgDefault (s : State) : Out :=
  match s.msg with
  | .qcfgDefault c n =>
    .next ((List.range 14).foldl (fun s k =>
      let p := mkPos c (k + 1)
      let s := s.breakChannel p n
      match adjacent c n with
      | none => s
      | some c' =>
        let q := mkPos c' (k + 1)
        let m := (n + 2) % 4
        let s := s.breakChannel q m
        (s.setEndpoint p n fun e => { e with pair := .default }).setEndpoint q m fun e => { e with pair := .default }) s)
  | _ => .next s

-- barrier wires (R388-R395)

/-- The kind, members and slots of a barrier descriptor (Table 15-3). -/
def barKind (d : Nat) : Nat := bits d 0 2
def barMemb (d : Nat) : Nat := bits d 48 16
def barSlots (d : Nat) : Nat := bits d 32 15

/-- The bit of MEMB that stands for a core. -/
def barIndex (d c : Nat) : Nat := if barKind d = 0 then coreX c else coreY c

/-- Is a descriptor acceptable from a position (R388)? -/
def barValid (d : Nat) (p : Pos) : Bool :=
  barKind d != 3 && bits d 2 31 == 0 && !bit d 47 && barSlots d != 0 && bit (barSlots d) (posSlot p)
    && bit (barMemb d) (barIndex d (posCore p))

/-- The wire of a kind for a core. -/
def barWire (kind c : Nat) : Nat := coreDie c * 48 + (if kind = 0 then coreY c else if kind = 1 then 16 + coreX c else 32)

/-- The member cores of a descriptor on a wire. -/
def barCores (wire d : Nat) : List Nat :=
  let die := wire / 48
  let k := wire % 48
  let on := onesOf 16 (barMemb d)
  if k < 16 then on.map fun x => coreOf die x k
  else if k < 32 then on.map fun y => coreOf die (k - 16) y
  else on.flatMap fun y => (List.range 16).map fun x => coreOf die x y

/-- The kind of a wire. -/
def wireKind (wire : Nat) : Nat := if wire % 48 < 16 then 0 else if wire % 48 < 32 then 1 else 2

def State.wire (s : State) (w : Nat) : Wire := s.wires.get {} w
def State.modWire (s : State) (w : Nat) (f : Wire → Wire) : State := { s with wires := s.wires.upd {} w f }

/-- A core's unit of a kind. -/
def State.barUnit (s : State) (c kind : Nat) : BarUnit := (s.core c).bars.get {} kind
def State.modBarUnit (s : State) (c kind : Nat) (f : BarUnit → BarUnit) : State :=
  s.modCore c fun k => { k with bars := k.bars.upd {} kind f }

/-- Has every member core arrived (R389)? -/
def State.allArrived (s : State) (wire d : Nat) : Bool :=
  (barCores wire d).all fun c => (onesOf 16 (barSlots d)).all (s.barUnit c (wireKind wire)).arrived.contains

/-- A status for a member that waits, at once. -/
def State.barStatus (s : State) (b : BarWait) (status : Nat) : State :=
  s.completeWait b.t b.id (.barrier b.id) (Finish.value_ b.dest status)

/-- A refused BARA: the mismatch trap after it (R393). -/
def barMismatch (b : BarWait) : Finish :=
  { Finish.plain with trap := some { cause := 2, sub := 8, val := b.pc.toNat, deferred := false } }

/-- An arrival, or a BARW's wait, reaches its wire (R389-R393). A slot that has arrived does not arrive again: its BARW waits for the
generation's end, whatever its descriptor, and another arrival of it for the next generation (R391; log entry 53). -/
def State.arrive (s : State) (wire d : Nat) (b : BarWait) : State :=
  let w := s.wire wire
  let kind := wireKind wire
  let p := b.t.pos
  let here := (s.barUnit (posCore p) kind).arrived.contains (posSlot p)
  let wait (s : State) : State :=
    let s := s.modWire wire fun w => { w with waits := w.waits ++ [b] }
    match b.expiry with
    | some e => s.post (max (e + 1) (s.cycle + 1)) 1 .barrierTimeout (.barrierTimeout wire b.id (max e s.cycle))
    | none => s
  if here then
    if b.kind = 0 then wait s else s.modWire wire fun w => { w with later := w.later ++ [(d, b)] }
  else if w.latch.any (· != d) then
    if b.kind = 1 then s.completeWait b.t b.id (.barrier b.id) (barMismatch b) else s.barStatus b 2
  else
    let s := s.modWire wire fun w => { w with latch := some d }
    let s := s.modBarUnit (posCore p) kind fun u => { u with arrived := posSlot p :: u.arrived }
    let s := if b.kind = 1 then
        (s.modWire wire fun w => { w with waits := w.waits ++ [b] }).postAt (s.cycle + 4) p .classBCompletion (.classBCompletion b.t b.id Finish.plain)
      else wait s
    let at_ := s.cycle + (if kind = 2 then 14 else 6)
    if (s.wire wire).due.isNone && s.allArrived wire d then
      (s.modWire wire fun w => { w with due := some at_ }).post at_ 0 .barrierComplete (.barrierComplete wire w.stamp)
    else s

/-- Insert an arrival by its position, the order in which a wire takes those of one cycle (R336, R393). -/
def insertArrival (x : Nat × Nat × BarWait) : List (Nat × Nat × BarWait) → List (Nat × Nat × BarWait)
  | [] => [x]
  | y :: r => if x.2.2.t.pos < y.2.2.t.pos then x :: y :: r else y :: insertArrival x r

/-- An arrival comes to its wire in this cycle, at whose end those of the cycle are taken in order. -/
def State.offer (s : State) (wire d : Nat) (b : BarWait) : State :=
  (s.modWire wire fun w => { w with coming := insertArrival (s.cycle, d, b) w.coming }).post (s.cycle + 1) 0 .classBCompletion (.barrierArrivals wire)

/-- The arrivals of the cycle that has ended are taken. -/
def State.takeArrivals (s : State) (wire : Nat) : State :=
  let l := (s.wire wire).coming.filter (·.1 < s.cycle)
  l.foldl (fun s x => s.asOf x.1 fun s => s.arrive wire x.2.1 x.2.2)
    (s.modWire wire fun w => { w with coming := w.coming.filter (s.cycle ≤ ·.1) })

/-- A generation ends: every member's unit flips, and arrivals that waited for the next one arrive now (R390-R393). -/
def State.endGeneration (s : State) (wire d : Nat) (aband : Bool) : State :=
  let later := (s.wire wire).later
  let s := (barCores wire d).foldl (fun s c => s.modBarUnit c (wireKind wire) fun u => { gen := !u.gen, aband := aband, arrived := [] }) s
  let s := s.modWire wire fun w => { stamp := w.stamp + 1, coming := w.coming }
  later.foldl (fun s x => s.offer wire x.1 x.2) s

/-- Sums of gathered counters, exact in 64 bits (R400). -/
def gatherSums (bs : List BarWait) : List Nat :=
  (List.range 8).map fun k => (bs.map fun b => b.sums.getD k 0).foldl (· + ·) 0 % 2 ^ 64

/-- BARRIER_COMPLETE (R390): the members waiting receive status 0, those among them that came in the last cycle. -/
def execBarrierComplete (s : State) : Out :=
  match s.msg with
  | .barrierComplete wire stamp =>
    let s := if (s.wire wire).coming.isEmpty then s else s.takeArrivals wire
    let w := s.wire wire
    .next (match w.latch with
      | some d =>
        if w.stamp ≠ stamp || w.due ≠ some s.cycle then s
        else
          let gs := w.waits.filter (·.kind == 2)
          let exc := gs.foldl (fun e b => e ||| b.exc) 0
          let s := w.waits.foldl (fun s b =>
            if b.kind = 0 then s.barStatus b 0
            else if b.kind = 2 then s.postAt (s.cycle + 20) b.t.pos .classBCompletion
              (.gatherWrite b.t b.id b.dest (posCore b.t.pos) b.space b.block (gatherSums gs) exc)
            else s) s
          s.endGeneration wire d false
      | none => s)
  | _ => .next s

/-- An instance is abandoned (R392): its waiting members receive status 1, and the generation ends. -/
def State.abandon (s : State) (wire d : Nat) : State :=
  let s := (s.wire wire).waits.foldl (fun s b =>
    if b.kind = 1 then s
    else
      let tr : Trap := { cause := 6, sub := 0, val := b.pc.toNat, deferred := false }
      s.completeWait b.t b.id (.barrier b.id) { Finish.value_ b.dest 1 with trap := if b.btotrap then some tr else none }) s
  s.endGeneration wire d true

/-- BARRIER_TIMEOUT (R392): unless every member core had arrived, the instance is abandoned as of its expiry cycle. The expiry is that
of a waiting arrival: one that has been withdrawn has none (R395). -/
def execBarrierTimeout (s : State) : Out :=
  match s.msg with
  | .barrierTimeout wire id at_ =>
    let w := s.wire wire
    .next (match w.latch with
      | some d => if w.due.isSome || !w.waits.any (·.id == id) then s else s.asOf at_ fun s => s.abandon wire d
      | none => s)
  | _ => .next s

/-- Start an arrival: at once when every earlier access has completed and been acknowledged, else as soon as it has (R389). A BARW of a
slot that has arrived is no arrival, and waits at once (R391). -/
def State.startArrival (s : State) (d : Nat) (b : Nat → BarWait) : State :=
  let (id, s) := s.fresh
  let s := s.park s.cur (.barrier id)
  let wire := barWire (barKind d) (posCore s.cur)
  let again := (b id).kind == 0 && (s.barUnit (posCore s.cur) (wireKind wire)).arrived.contains (posSlot s.cur)
  if again || s.my.allDone s.cycle then s.offer wire d (b id)
  else s.postAt (s.cycle + 1) s.cur .classBCompletion (.barWait wire d (b id))

/-- An arrival that waits for its task's accesses looks again. -/
def State.barPoll (s : State) (wire d : Nat) (b : BarWait) : State :=
  if !s.waitsFor b.t (.barrier b.id) then s
  else if (s.task b.t.pos).allDone s.cycle then s.offer wire d b
  else s.postAt (s.cycle + 1) b.t.pos .classBCompletion (.barWait wire d b)

/-- BARW (R396). -/
def execBarw (d a b : Reg) (s : State) : Out :=
  .next (with2 a b s fun x y s =>
    let v := x.toNat
    let n := y.toNat
    if !barValid v s.cur || n / 2 ^ 32 ≠ 0 then s.formatFault 0
    else s.startArrival v fun id =>
      { t := s.tk s.cur, id := id, kind := 0, dest := d, expiry := if n = 0 then none else some (s.cycle + n), pc := s.my.pc,
        btotrap := bit (s.my.cr 0) 23 })

/-- BARA (R396). -/
def execBara (a : Reg) (s : State) : Out :=
  .next (with1 a s fun x s =>
    let v := x.toNat
    if !barValid v s.cur then s.formatFault 0
    else s.startArrival v fun id => { t := s.tk s.cur, id := id, kind := 1, pc := s.my.pc })

/-- BARQ (R396, Table 15-6). -/
def execBarq (d a : Reg) (s : State) : Out :=
  .next (with1 a s fun x s =>
    let k := barKind x.toNat
    if k = 3 then s.formatFault 0
    else
      let u := s.barUnit (posCore s.cur) k
      let v := u.gen.toNat + 2 * (u.arrived.contains (posSlot s.cur)).toNat + 4 * u.aband.toNat + 16 * u.arrived.length
      s.block (s.cycle + 8) (Finish.value_ d v))

-- rectangles

/-- The cores of a rectangle operand of a die in ring order (R398); none where it leaves the die. -/
def rectCores (die v : Nat) : Option (List Nat) :=
  let x0 := bits v 0 4
  let y0 := bits v 4 4
  let w := bits v 8 4 + 1
  let h := bits v 12 4 + 1
  if 16 < x0 + w || 16 < y0 + h then none
  else some ((List.range h).flatMap fun j =>
    let row := (List.range w).map fun i => coreOf die (x0 + i) (y0 + j)
    if j % 2 = 0 then row else row.reverse)

/-- The ring of a probe: from the issuer round to the last core before it. -/
def probeRing (c : Nat) (l : List Nat) : List Nat := (l.dropWhile (· != c)) ++ l.takeWhile (· != c)

/-- Hops along a list of cores. -/
def pathHops : List Nat → Nat
  | a :: b :: r => hops a b + pathHops (b :: r)
  | _ => 0

/-- PROBE (R398). -/
def execProbe (d a : Reg) (s : State) : Out :=
  .next (with1 a s fun x s =>
    let v := x.toNat
    let c := posCore s.cur
    match rectCores (coreDie c) v with
    | none => s.formatFault 0
    | some l =>
      if v / 2 ^ 32 ≠ 0 || !l.contains c then s.formatFault 0
      else
        let (id, s) := s.blockOpen
        s.postAt s.cycle s.cur .probeCircuitEnd (.probeVisit (s.tk s.cur) id v (bits v 16 16) 1 0 0 false d))

/-- PROBE_CIRCUIT_END (R398): the circuit reaches its next core, or returns to the issuer and ends. -/
def execProbeCircuitEnd (s : State) : Out :=
  match s.msg with
  | .probeVisit t id rect maxc n k sum black d =>
    let c := posCore t.pos
    let ring := probeRing c ((rectCores (coreDie c) rect).getD [])
    .next (match ring[k]? with
      | some q =>
        let u := s.core q
        let sum := (sum + u.sent + 2 ^ 32 - u.recv) % 2 ^ 32
        let s := s.modCore q fun u => { u with black := false }
        s.postAt (s.cycle + 4 + 2 * hops q (ring.getD (k + 1) c)) t.pos .probeCircuitEnd
          (.probeVisit t id rect maxc n (k + 1) sum (black || u.black) d)
      | none =>
        if sum = 0 && !black then s.postAt (s.cycle + 4) t.pos .classBCompletion (.classBCompletion t id (Finish.value_ d n))
        else if n = maxc then s.postAt (s.cycle + 4) t.pos .classBCompletion (.classBCompletion t id (Finish.value_ d 0))
        else s.postAt s.cycle t.pos .probeCircuitEnd (.probeVisit t id rect maxc (n + 1) 0 0 false d))
  | _ => .next s

/-- DRAIN (R399). -/
def execDrain (a : Reg) (s : State) : Out :=
  .next (with1 a s fun x s =>
    let v := x.toNat
    let c := posCore s.cur
    match rectCores (coreDie c) v with
    | none => s.formatFault 0
    | some l =>
      if v / 2 ^ 16 ≠ 0 then s.formatFault 0
      else
        let (id, s) := s.blockOpen
        let far := (l.map (hops c)).foldl max 0
        s.postAt (s.cycle + 8 + 3 * l.length + 4 * far) s.cur .classBCompletion (.drainWait (s.tk s.cur) id v s.cycle))

/-- Is a request of core `c`, named before `id`, one to some cores or their home slices? -/
def State.reqToward (s : State) (c id : Nat) (l : List Nat) (r : PortReq) : Bool :=
  r.core == c && decide (r.id < id) && l.contains (s.pointCore r)

/-- The same of an access, at the level it has reached or at its line's home. -/
def State.accToward (s : State) (c id : Nat) (l : List Nat) (a : Acc) : Bool :=
  a.core == c && decide (a.id < id) && (l.contains (sliceCore (s.homeOf (a.line * 128))) ||
    (match (s.chain a.space a.core a.first)[a.level]? with
     | some i => l.contains (i.lineCore a.line)
     | none => false))

/-- The same of a write-back from a set on core `c` that left before cycle `at_`, or that a transaction parks. -/
def State.backToward (s : State) (c at_ : Nat) (l : List Nat) (x : Pending) : Bool :=
  match x.msg with
  | .writeBackArrival space vc idx line _ _ _ _ _ =>
    match (s.space space).vcs.look vc with
    | none => false
    | some d =>
      let i : Inst := ⟨space, vc, idx, d⟩
      let from_ := i.lineCore line
      let (to_, travel) := match s.above i with
        | j :: _ => (j.lineCore line, setTravel from_ (j.lineCore line))
        | [] => (sliceCore (s.homeOf (line * 128)), 30 + s.crossing from_ (line * 128))
      from_ == c && l.contains to_ && (s.backFrozen space vc idx || decide (x.due - travel < at_))
  | _ => false

/-- Is something in flight, or held back where it has arrived, from a core toward some cores, that the flushes of a DRAIN named `id`
and issued in cycle `at_` travel behind (R399)? -/
def State.inFlight (s : State) (c id at_ : Nat) (l : List Nat) : Bool :=
  s.agenda.any (fun x => x.msg.req?.any (s.reqToward c id l) || s.backToward c at_ l x || match x.msg with
    | .vcacheAccessArrival a | .homeFill a => s.accToward c id l a
    | _ => false)
  || s.mem.refills.any (fun x => x.reqs.any (s.reqToward c id l))
  || s.mem.fills.any (fun x => x.waiting.any (s.accToward c id l))
  || s.spaces.any fun x => x.2.parked.any (s.accToward c id l)

/-- A DRAIN's answers are all back once nothing it must follow is in flight. -/
def State.drainPoll (s : State) (t : Tk) (id rect at_ : Nat) : State :=
  let c := posCore t.pos
  let l := (rectCores (coreDie c) rect).getD []
  if s.inFlight c id at_ l then
    s.postAt (s.cycle + 1) t.pos .classBCompletion (.drainWait t id rect at_)
  else s.completeWait t id (.blocking id) Finish.plain

-- gathered events (R400)

/-- EVGATH (R400): the snapshot, then the arrival. -/
def execEvgath (d a : Reg) (s : State) : Out :=
  .next (with1 a s fun x s =>
    let va := x.toNat
    let c := posCore s.cur
    match classify c va with
    | .scratch owner off =>
      if owner ≠ c then s.formatFaultAt 0 va
      else withAccess va 128 false false s fun p s =>
        let (v, poison, s) := s.readScratch c s.my.space off p.loc 128
        let desc := bits v 0 64
        let n := bits v 64 64
        if poison then s.trapAt (poisonTrap va)
        else if !barValid desc s.cur || n / 2 ^ 32 ≠ 0 || bits v 133 59 ≠ 0 || bits v 192 320 ≠ 0 then s.formatFaultAt 0 va
        else
          let t := s.my
          let count (k : Nat) : Nat := if k < 5 then t.cr (0x28 + k) else t.cr (0x28 + k) % 2 ^ 28
          s.startArrival desc fun id =>
            { t := s.tk s.cur, id := id, kind := 2, dest := d, expiry := if n = 0 then none else some (s.cycle + n), block := off,
              space := t.space, sums := (List.range 8).map count, exc := t.cr 0x20, pc := t.pc, btotrap := bit (t.cr 0) 23 }
    | .global _ => if va % 128 ≠ 0 then s.formatFaultAt 1 va else s.formatFaultAt 4 va
    | .bad => s.formatFaultAt (if va % 128 ≠ 0 then 1 else 0) va)

/-- The sums of a completed gather are written to a participant's block, its page refilled first if it must be, and its
instruction ends with 0. -/
def State.gatherDone (s : State) (t : Tk) (id : Nat) (d : Reg) (core space off : Nat) (sums : List Nat) (exc : Nat) : State :=
  match s.bankLoc core space off with
  | some _ =>
    let s := s.putScratch 6 t.pos core space (off + 16) (toBytes 8 exc)
    let s := s.putScratch 6 t.pos core space (off + 64) (sums.flatMap (toBytes 8))
    s.completeWait t id (.barrier id) (Finish.value_ d 0)
  | none =>
    if (s.mem.wpages.look (wpageKey core space (off / 4096))).isSome then
      (s.joinRefill core space (off / 4096) none none fun s => s).postAt (s.cycle + 1) t.pos .classBCompletion
        (.gatherWrite t id d core space off sums exc)
    else s.completeWait t id (.barrier id) (Finish.value_ d 0)

end Sys2Proof.Machine
end

