-- ==== Sys2Proof/Machine/Light.lean ====
section
/-! DEFINITION. Light units, light task records, migration and SPAWN (16_light_tasks.md R402-R414, 13_ordering_dies_and_engines.md
R349). Records that come in one cycle are placed in the order of R317 after that cycle's issues, so that a SPAWN's comes before
one from elsewhere. -/
namespace Sys2Proof.Machine

-- records (Table 16-3)

/-- The words of a record. -/
def lightWords (t : Task) (pc kind parent lineage : Nat) : List Word :=
  ((List.range 7).map fun k => t.sreg (k + 1)) ++
    [word pc, word (lineage * 2 ^ 40),
     word (t.space * 2 ^ 52 + t.world.toNat * 2 ^ 51 + t.deal * 2 ^ 40 + kind * 2 ^ 38 + parent)] ++ List.replicate 6 0

/-- The record of a resident light task that leaves its slot. -/
def State.recordFor (s : State) (p : Pos) (kind : Nat) (regions : List Region) (whole : Bool) : LightRec :=
  let t := s.task p
  { words := lightWords t t.pc.toNat kind 0 t.lineage, index := t.index, budget := t.budget, placed := t.placed, regions := regions,
    whole := whole, pend := t.pend.filter fun a => a.ackOnly && a.doneAt.isNone, origin := s.tk p }

/-- Is a write on its way to its ordering point, or its acknowledgement on its way back? -/
def State.unacked (s : State) (id : Nat) : Bool :=
  let on (m : Msg) : Bool := match m with
    | .remoteStoreAck _ i | .postedWriteAck _ i => i == id
    | m => m.req?.any (·.id == id)
  s.agenda.any (fun x => on x.msg) || s.mem.refills.any fun x => x.reqs.any (·.id == id)

-- placing records (R407)

/-- Kitty records, those on their way to the queue included. -/
def Core.kittyLen (c : Core) : Nat := c.kitty.length + c.refills.length

/-- Would a record be refused? -/
def Core.refuses (c : Core) : Bool :=
  c.fenced || c.halted || !((c.arrivals.length < 48 && c.kittyLen = 0) || (c.ken && c.kittyLen < 1024))

/-- The address of the kitty's record `n`. -/
def Core.kittyAt (c : Core) (n : Nat) : Nat := c.kbase + 128 * (n % 1024)

/-- Move kitty records toward the queue while it has free entries, as of cycle `at_`. -/
def State.refillArrivals (s : State) (c : Nat) (at_ : Nat) : State :=
  let k := s.core c
  let n := min k.kitty.length (48 - (k.arrivals.length + k.refills.length))
  if n = 0 then s else
  let s := s.modCore c fun k => { k with kitty := k.kitty.drop n, refills := k.refills ++ k.kitty.take n }
  (List.range n).foldl (fun s _ => s.postAt (at_ + 200) (mkPos c 0) .kittyRefill (.kittyRefill c true)) s

/-- Place a record that came in cycle `at_`; none when it is refused. -/
def State.placeRecord (s : State) (c : Nat) (r : LightRec) (at_ : Nat) : Option State :=
  let k := s.core c
  if k.refuses then none
  else if k.arrivals.length < 48 && k.kittyLen = 0 then
    some ((s.modCore c fun k => { k with arrivals := k.arrivals ++ [{ r with entered := at_, taker := none }] }).wakeCore c (.pop 6))
  else
    let s := s.hubWrite (k.kittyAt k.kitTail) 128 (ofBytes (r.words.flatMap fun w => toBytes 8 w.toNat))
    some ((s.modCore c fun k => { k with kitty := k.kitty ++ [r], kitTail := k.kitTail + 1 }).refillArrivals c at_)

/-- KITTY_REFILL (R407): an entry of the queue has become free, or a record enters it, read from the kitty. -/
def execKittyRefill (s : State) : Out :=
  match s.msg with
  | .kittyRefill c false => .next (s.refillArrivals c s.cycle)
  | .kittyRefill c true =>
    let k := s.core c
    .next (match k.refills with
      | [] => s
      | r :: rest =>
        let v := s.bytesAt (k.kittyAt (k.kitTail - k.kittyLen)) 128
        let r := { r with words := (List.range 16).map fun i => word (bits v (64 * i) 64), entered := s.cycle, taker := none }
        (s.modCore c fun k => { k with refills := rest, arrivals := k.arrivals ++ [r] }).wakeCore c (.pop 6))
  | _ => .next s

/-- A reservation of an arrival record is cancelled: whoever waits for a record finds it (R409). -/
def State.cancelArrival (s : State) (p : Pos) : State :=
  if (s.slot p).q6n = 0 then s else
  let s := s.modSlot p fun x => { x with q6n := 0 }
  (s.modCore (posCore p) fun c =>
    { c with arrivals := c.arrivals.map fun y => if y.taker = some (posSlot p) then { y with taker := none } else y }).wakeCore (posCore p) (.pop 6)

-- travel

/-- Transit time of a record between light units (R411). -/
def lightTransit (a b : Nat) : Nat := if coreDie a = coreDie b then 10 + 2 * hops a b else 180

/-- Send a record that its origin slot holds to a light unit. -/
def State.sendRecordTo (s : State) (t : Tk) (home : Nat) : State :=
  match (s.slot t.pos).shipped.find? (·.origin == t) with
  | none => s
  | some r =>
    let n := if home = posCore t.pos then 0 else lightTransit (posCore t.pos) home
    s.post (s.cycle + n + 1) (tieAt home t.pos) .lightRecordArrival (.lightRecord home r)

/-- A record that has been accepted is held no more (R411). -/
def State.dropShipped (s : State) (t : Tk) : State :=
  s.modSlot t.pos fun x => { x with shipped := x.shipped.filter (·.origin != t) }

/-- A light task's record takes it out of its slot, which is empty then. -/
def State.shipRecord (s : State) (t : Tk) (home kind : Nat) (regions : List Region) (whole : Bool) : State :=
  let p := t.pos
  let r := s.recordFor p kind regions whole
  let s := s.cancelArrival p
  let s := s.modSlot p fun x => { x with st := .empty, shipped := x.shipped ++ [r], pending? := none, answer := none, preempt := none, endRes := false, task := { x.task with wait := none } }
  ((s.wake (mkPos (posCore p) 0) (.push 7)).sendRecordTo t home).schedule (posCore p)

/-- Have the waits of R376 step 1 ended: L results, matrix commands and copy requests? -/
def State.quiet (s : State) (p : Pos) : Bool :=
  let t := s.task p
  let me := s.tk p
  t.settled && t.runs.isEmpty && (s.slot p).cmds.isEmpty && (s.slot p).mailbox.isEmpty
    && (t.pend.all fun a => !a.partner || a.doneAt.any (· ≤ s.cycle))
    && ((s.core (posCore p)).dealer.busy.all fun a => a.t != me) && (t.tags.all fun x => (s.hub.copies.look x.2).all (·.outcome.isSome))

/-- MIGRATION_SHIP (R411): a migrating task waits, drains and, issue + 4 + W, is sent. -/
def execMigrationShip (s : State) : Out :=
  match s.msg with
  | .migrationShip t home _ =>
    .next (
      if !s.waitsFor t .migrate then s
      else if !(s.quiet t.pos && (s.task t.pos).releaseDone s.cycle && !s.drainStuck t.pos) then s.postAt (s.cycle + 1) t.pos .migrationShip s.msg
      else
        let s := s.revoke t
        let x := s.task t.pos
        let (w, s) := s.drain t.pos
        s.postAt (s.cycle + 4 + w.cost) t.pos .migrationShip (.migrationSend t home (x.hand.map (·.region)) x.ws))
  | .migrationSend t home rs whole => .next (if s.waitsFor t .migrate then s.shipRecord t home 2 rs whole else s)
  | _ => .next s

/-- LIGHT_PREEMPT_RECORD (R412): a pre-empted light task goes to the tail of its own core's light unit, unless the steward has ended
it meanwhile (R462). -/
def execLightPreemptRecord (s : State) : Out :=
  match s.msg with
  | .lightPreempt t rs whole => .next (if s.isAt t && (s.slot t.pos).preempt.isSome then s.shipRecord t (posCore t.pos) 3 rs whole else s)
  | _ => .next s

/-- LIGHT_RECORD_ARRIVAL (R407, R411, R413): a record is placed or refused, and its origin answered; or a SPAWN's record is
placed, unless four of its task's children are unstarted. -/
def execLightRecordArrival (s : State) : Out :=
  match s.msg with
  | .lightRecord c r =>
    let o := r.origin.pos
    let (ok, s) := match s.placeRecord c r (s.cycle - 1) with
      | some s => (true, s)
      | none => (false, s)
    .next (
      if c = posCore o then
        if ok then s.dropShipped r.origin
        else s.postAt (s.cycle - 1 + 256) o .recordResend (.recordResend r.origin c)
      else s.postAt (s.cycle - 1 + lightTransit c (posCore o)) o .migrationAnswer (.migrationAnswer r.origin c ok))
  | .lightSpawn t id d done words =>
    let c := posCore t.pos
    let k := s.core c
    let x := (s.findTask t).getD {}
    let mine (r : LightRec) : Bool := r.kind == 1 && r.parent == x.lineage
    let n := ((k.arrivals ++ k.kitty ++ k.refills).filter mine).length
    let tag := 2 ^ 23 + 2 ^ 13 * c + k.spawns
    let r : LightRec := { words := words.set 8 (word (tag * 2 ^ 40)), index := x.index, budget := x.budget, origin := t }
    let (st, s) := if 4 ≤ n then (1, s) else match s.placeRecord c r (s.cycle - 1) with
      | none => (2, s)
      | some s =>
        (0, (s.modCore c fun k => { k with spawns := (k.spawns + 1) % 8192 }).modDeal x.deal fun d => { d with live := d.live + 1 })
    .next (s.postAt (max s.cycle done) t.pos .classBCompletion (.classBCompletion t id (Finish.value_ d st)))
  | _ => .next s

/-- MIGRATION_ANSWER (R411). -/
def execMigrationAnswer (s : State) : Out :=
  match s.msg with
  | .migrationAnswer t home ok =>
    .next (if ok then s.dropShipped t else s.postAt (s.cycle + 256) t.pos .recordResend (.recordResend t home))
  | _ => .next s

/-- RECORD_RESEND (R411). -/
def execRecordResend (s : State) : Out :=
  match s.msg with
  | .recordResend t home => .next (s.sendRecordTo t home)
  | _ => .next s

-- dispatch (R408)

/-- The record an empty light slot takes at its turn. -/
def State.dispatchable (s : State) (p : Pos) : Option LightRec :=
  let x := s.slot p
  if x.st != .empty || !x.shipped.isEmpty || !s.isLight p then none
  else (s.core (posCore p)).arrivals.find? fun r => r.taker.isNone && r.entered < s.cycle

/-- The next SERIAL of a position, when a task starts there (Table 11-2). -/
def Slot.nextSerial (x : Slot) : Slot :=
  let n := (x.serial + 1) % 65536
  { x with serial := n, lost := if n = 0 then none else x.lost }

/-- The lines of some regions in every instance of a space that serves a core, dirty bytes lifted home first (R349); the lines
removed. -/
def State.dropServing (s : State) (space core : Nat) (rs : List Region) : Nat × State :=
  let is := (s.parentsFirst (s.serving space core)).reverse
  rs.foldl (fun ks r => (List.range 4).foldl (fun ks j => is.foldl (fun (k, s) i =>
    let (_, s) := lift core 9 (i :: s.above i) (r.p * 4 + j) (([] : Written), s)
    removeCopies 1 [i] (r.p * 4 + j) (k, s)) ks) ks) (0, s)

/-- The regions that travelled with a record, or the whole-space mark, are applied at dispatch (R349 step 2); the lines removed. -/
def State.applyRegions (s : State) (p : Pos) (rs : List Region) (whole : Bool) : Nat × State :=
  let t := s.task p
  if whole then s.selfInvalidate t.space (posCore p) else s.dropServing t.space (posCore p) rs

/-- Would that write into a vcache under reconfiguration? -/
def State.regionsStuck (s : State) (p : Pos) (space : Nat) (rs : List Region) (whole : Bool) : Bool :=
  let is := s.serving space (posCore p)
  if whole then s.instsStuck is
  else rs.any fun r => (List.range 4).any fun j => is.any fun i => liftStuck s (r.p * 4 + j) 9 (i :: s.above i)

/-- LIGHT_DISPATCH (R408). The slot's turn issues nothing and is idle (R17); words left in its q7 stay (R366). -/
def execLightDispatch (s : State) : Out :=
  match s.msg with
  | .lightDispatch p =>
    .next (match s.dispatchable p with
      | none => s
      | some r =>
        -- step 2 of R349, or the self-invalidation of R354, waits for a reconfiguration's end
        if s.regionsStuck p r.space r.regions (r.whole || r.kind == 1) then s else
        let c := posCore p
        let s := ((s.idleTurn c).modCore c fun k => { k with arrivals := k.arrivals.erase r }).postAt s.cycle (mkPos c 0) .kittyRefill (.kittyRefill c false)
        let slice := ((s.deal r.deal).map (·.slice)).getD 0
        let regs := (List.range 7).foldl (fun (t : Task) k => t.setSreg (k + 1) (r.words.getD k 0)) {}
        let t : Task := { regs with
          pc := word (r.field 7 0 64), space := r.space, world := r.world, deal := r.deal, index := r.index, budget := r.budget,
          light := true, lineage := r.lineage, placed := r.kind == 3 && r.placed, sliceEnd := s.cycle + slice,
          pend := r.pend.filter fun a => s.unacked a.id }
        let s := s.modSlot p fun x => { x.nextSerial with st := .ready, task := t, notBefore := s.cycle + 1, q6n := 0, fetchTr := [] }
        let s := s.postHub (s.cycle + slice) .sliceExpiry (.sliceExpiry (s.tk p) (s.cycle + slice))
        -- a task of a deal that a counter released reads what came before the release (R354)
        if r.kind = 1 && !((s.deal r.deal).any (·.counted)) then s
        else
          let (n, s) := if r.kind = 1 then s.selfInvalidate r.space c else s.applyRegions p r.regions r.whole
          s.modSlot p fun x => { x with notBefore := s.cycle + 8 + 2 * n + 1 })
  | _ => .next s

-- SPAWN (R413)

/-- SPAWN: its registers are read at issue; after the drain, the record comes to its core's light unit. -/
def execSpawn (d a : Reg) (s : State) : Out :=
  .next (with1 a s fun x s =>
    let v := x.toNat
    if !s.isLight s.cur then s.formatFault 10
    else if v % 4 ≠ 0 || v / 2 ^ 57 ≠ 0 then s.formatFault 1
    else if s.drainWaits s.cur then s.waitTurn
    else
      let words := lightWords s.my v 1 s.my.lineage 0
      let (w, s) := s.drain s.cur
      let (id, s) := s.blockOpen
      let at_ := s.cycle + w.cost
      s.post (at_ + 1) (posSlot s.cur) .lightRecordArrival (.lightSpawn (s.tk s.cur) id d (at_ + 8) words))

-- configuration (R403)

/-- A refusal record for a slot (R486, Table 20-3). -/
def State.refuseSlot (s : State) (p : Pos) : State := s.errorEvent (posCore p) { cycle := 0, code := 0x50, sev := 5, slot := p }

/-- LIGHT_UNIT_CONFIG (R403). A change of LMASK is ignored for a slot that is not empty or holds a record for sending. -/
def execLightUnitConfig (s : State) : Out :=
  match s.msg with
  | .lightUnitConfig part c v =>
    .next (
      if s.diePart (coreDie c) ≠ part then s.refuseSlot (mkPos c 0)
      else
        let s := (List.range 14).foldl (fun s i =>
          let k := i + 1
          let p := mkPos c k
          let on := bit v k
          if bit (s.core c).lmask k = on then s
          else if (s.slot p).st == .empty && (s.slot p).shipped.isEmpty then
            s.modCore c fun x => { x with lmask := setBits x.lmask k 1 on.toNat }
          else s.refuseSlot p) s
        ((s.modCore c fun x => { x with kbase := bits v 81 35 * 2 ^ 17, ken := bit v 0 }).refillArrivals c s.cycle).schedule c)
  | _ => .next s

end Sys2Proof.Machine
end

