-- ==== Sys2Proof/Machine/Dealer.lean ====
section
/-! DEFINITION. The dealer: copy mailboxes, acceptance, running copies, promises (17_copy_and_collectives.md R415-R430;
13_ordering_dies_and_engines.md R350-R354; 14_scheduler.md R377). -/
namespace Sys2Proof.Machine

def State.modDealer (s : State) (c : Nat) (f : Dealer → Dealer) : State := s.modCore c fun k => { k with dealer := f k.dealer }
def State.modCopy (s : State) (k : Nat) (f : Copy → Copy) : State :=
  s.modHub fun h => match h.copies.look k with
    | some x => { h with copies := h.copies.put k (f x) }
    | none => h

-- engine reads

/-- The pieces of a range within single 128-byte lines. -/
def engPieces (va n : Nat) : List (Nat × Nat) :=
  if n = 0 then [] else
  (List.range ((va + n - 1) / 128 + 1 - va / 128)).map fun k =>
    let a := if k = 0 then va else (va / 128 + k) * 128
    (a, min (va + n) ((a / 128 + 1) * 128) - a)

/-- Latency of a scratchpad access from a core: a read's, or a write's until it reaches the owner's port (Table 1-11, R250). -/
def scratchLatency (c owner : Nat) (write : Bool := false) : Nat :=
  if c = owner then 10 else if write then portHalf c owner false else 2 * portHalf c owner true

/-- What an engine of a core reads: bytes, whether they hold poison, and the latency of the slowest level that supplied them. -/
structure EngineRead where
  v      : Nat := 0
  bits   : Nat := 0
  poison : Bool := false
  late   : Nat := 0

/-- Read a range for a task as its load would; the fault met and its address otherwise. -/
def State.engineRead (s : State) (c space : Nat) (world : Bool) (va n : Nat) : Except (Nat × Nat × Nat) (EngineRead × State) :=
  (engPieces va n).foldl (fun r (a, k) => match r with
    | .error e => .error e
    | .ok (x, s) =>
      let (walk, s) := match classify c a with | .global g => s.translated c space g | _ => (0, s)
      match s.placeNow c space world false a with
      | .error (cause, sub) => .error (cause, sub, a)
      | .ok p =>
        if p.scratch then
          let late := scratchLatency c p.owner
          let (v, q, s) := s.readScratch p.owner space p.off p.loc k
          .ok ({ v := x.v + v * 2 ^ x.bits, bits := x.bits + 8 * k, poison := x.poison || q, late := max x.late late }, s)
        else
          let chain := if p.sync then [] else s.chain space c p.vc
          let late := if p.sync then s.homeLatency (p.loc / 128) + 2 * s.crossing c p.loc
            else s.supplyLatency space c p.vc (p.loc / 128) (maskOf (p.loc % 128) k)
          let ((d, q, _), s) := readLine c chain (p.loc / 128) (maskOf (p.loc % 128) k) p.tensor p.world s
          .ok ({ v := x.v + bits d.toNat (8 * (p.loc % 128)) (8 * k) * 2 ^ x.bits, bits := x.bits + 8 * k, poison := x.poison || q,
                 late := max x.late (late + walk) }, s)) (.ok ({}, s))

-- descriptors (Table 17-2)

/-- A dimension of a copy: count, source stride, destination stride. -/
abbrev CopyDim := Nat × Int × Int

def copySrc (d : Nat) : Nat := bits d 0 64
def copyDst (d : Nat) : Nat := bits d 64 64
def copyDep (d : Nat) : Nat := bits d 288 14
def copyDepv (d : Nat) : Bool := bit d 302
def copyDetach (d : Nat) : Bool := bit d 303
def copyPeer (d : Nat) : Nat := bits d 304 16
def copyNdim (d : Nat) : Nat := bits d 128 4

/-- The element size and dimensions, innermost first. A CPY is bytes of rows. -/
def copyDims (kind d : Nat) : Nat × List CopyDim :=
  if kind = 1 then
    (2 ^ bits d 132 2, (List.range (copyNdim d)).map fun k =>
      let e := bits d (512 + 128 * k) 128
      (bits e 0 32, signed 48 (bits e 32 48), signed 48 (bits e 80 48)))
  else (bits d 128 32, [(bits d 160 32, signed 48 (bits d 192 48), signed 48 (bits d 240 48))])

/-- The descriptor's length. -/
def copyDescLen (kind d : Nat) : Nat := if kind = 1 then 64 + 16 * copyNdim d else 64

/-- The extent of one side: first address and first address after, as integers. -/
def copyExtent (base es : Nat) (dims : List CopyDim) (dst : Bool) : Int × Int :=
  dims.foldl (fun (lo, hi) (n, ss, ds) =>
    let x := ((n : Int) - 1) * (if dst then ds else ss)
    (lo + min 0 x, hi + max 0 x)) ((base : Int), (base : Int) + (es : Int))

/-- The class of an address of a copy: the host window is named by its physical addresses (Table 18-1; log entry 14), and with a
peer every destination outside the scratchpad aperture is an address in the peer's fabric window (R421). -/
inductive CopyClass where
  | global | host | fabric | bad
  | scratch (core : Nat)
  deriving DecidableEq, Repr

def copyClass (c va : Nat) (peer : Bool) : CopyClass :=
  if va / 2 ^ 44 = 8 && !peer then .host
  else match classify c va with
    | .global _ => if peer then .fabric else .global
    | .scratch core _ => .scratch core
    | .bad => .bad

/-- Does a range from one address to another keep within the class of its ends? A scratchpad range lies in one window, and no global one
passes over the host window. -/
def CopyClass.whole (x : CopyClass) (a b : Nat) : Bool :=
  match x with
  | .global => decide (b < 2 ^ 47) == decide (a < 2 ^ 47)
  | .scratch _ => a / 2 ^ 22 == b / 2 ^ 22
  | .host | .fabric => true
  | .bad => false

/-- The class of a whole range, from its lowest byte to its highest; bad where it mixes classes or passes 2^57 (Table 17-3; log
entry 57). -/
def extentClass (c : Nat) (e : Int × Int) (peer : Bool) : CopyClass :=
  if e.1 < 0 || (2 ^ 57 : Int) < e.2 then .bad
  else
    let a := copyClass c e.1.toNat peer
    if a = copyClass c (e.2 - 1).toNat peer && a.whole e.1.toNat (e.2 - 1).toNat then a else .bad

/-- The fabric port that a core's partition has routed to a peer module (R421). -/
def State.routeOf (s : State) (c peer : Nat) : Option Nat := s.hub.routed.look (s.diePart (coreDie c) * 65536 + peer)

/-- The lowest failing code of Table 17-3, 0 if none. -/
def State.copyCode (s : State) (c space : Nat) (kind d : Nat) (poison : Bool) : Nat :=
  let (es, dims) := copyDims kind d
  let peer := copyPeer d ≠ 0
  let sc := extentClass c (copyExtent (copySrc d) es dims false) false
  let dc := extentClass c (copyExtent (copyDst d) es dims true) peer
  let malformed := bits d 320 192 ≠ 0 || dims.any (·.1 == 0) || es = 0 ||
    (kind = 1 && (copyNdim d = 0 || 12 < copyNdim d || bits d 134 26 ≠ 0 || bits d 160 128 ≠ 0))
  let isScratch (x : CopyClass) : Bool := match x with | .scratch _ => true | _ => false
  if poison then 5
  else if malformed then 1
  else if sc = .bad || dc = .bad || (peer && isScratch dc) || (kind = 2 && !isScratch dc) then 2
  else if copyDepv d && (s.hub.counters.get {} (copyDep d)).owner ≠ some space then 3
  else if peer && (s.routeOf c (copyPeer d)).isNone then 4
  else 0

/-- The moves of a copy in order: source address, destination address, bytes (R420). -/
def copyRuns (es : Nat) : List CopyDim → Int → Int → List (Nat × Nat × Nat)
  | [], a, b => [(a.toNat, b.toNat, es)]
  | (n, ss, ds) :: r, a, b =>
    -- the last dimension of the list is the outermost
    outer r.reverse ((n, ss, ds)) a b
where
  /-- Run the dimensions of a list from the outermost inwards, the innermost last. -/
  outer : List CopyDim → CopyDim → Int → Int → List (Nat × Nat × Nat)
    | [], (n, ss, ds), a, b => (List.range n).map fun (i : Nat) => ((a + (i : Int) * ss).toNat, (b + (i : Int) * ds).toNat, es)
    | (n, ss, ds) :: r, z, a, b => (List.range n).flatMap fun (i : Nat) => outer r z (a + (i : Int) * ss) (b + (i : Int) * ds)

/-- A copy's moves. -/
def Copy.runs (x : Copy) : List (Nat × Nat × Nat) :=
  let (es, dims) := copyDims x.kind x.desc
  copyRuns es dims (copySrc x.desc) (copyDst x.desc)

/-- The total of bytes moved. -/
def copyBytes (kind d : Nat) : Nat :=
  let (es, dims) := copyDims kind d
  dims.foldl (fun n x => n * x.1) es

/-- The lines, by address / 128, that a side of some moves touches, ascending. -/
def runLines (rs : List (Nat × Nat)) : List Nat :=
  ((rs.flatMap fun (a, n) => (List.range ((a + n - 1) / 128 + 1 - a / 128)).map (a / 128 + ·)).foldl
    (fun (t : Tbl Unit) l => t.put l ()) []).map (·.1)

/-- The parts of moves that write a destination line: source, offset in the line, bytes. -/
def lineMoves (rs : List (Nat × Nat × Nat)) (line : Nat) : List (Nat × Nat × Nat) :=
  rs.filterMap fun (a, b, n) =>
    let lo := max b (line * 128)
    let hi := min (b + n) (line * 128 + 128)
    if lo < hi then some (a + (lo - b), lo - line * 128, hi - lo) else none

-- latencies (R423)

/-- The latency of the level that holds a copy's first source or destination byte (R423). -/
def State.copyLatency (s : State) (c space va : Nat) (peer write : Bool) : Nat :=
  match copyClass c va peer with
  | .host => 1200
  | .fabric => 600
  | .scratch core => scratchLatency c core write
  | _ => match s.translateNow c space va with
    | .ok t => s.homeLatency (t.phys va / 128) + 2 * s.crossing c (t.phys va)
    | .error _ => 200

/-- Ls + Ld from a source and a destination byte. -/
def State.copyLead (s : State) (x : Copy) (src dst : Nat) : Nat :=
  let peer := copyPeer x.desc ≠ 0
  s.copyLatency x.core x.space src false false + s.copyLatency x.core x.space dst peer true + (if peer then 400 else 0)

/-- A promise word (R423). -/
def promiseWord (e tag : Nat) : Nat := 64 * ceilDiv e 64 + tag

-- the requester, wherever it is

/-- Has a task made a copy, or the request that is to become it? -/
def Task.made (t : Task) (key tag : Nat) : Bool := t.asking == some key || t.tags.look tag == some key

/-- The task that has made a copy: resident under the name it bears now, or saved. -/
def State.copyOwner (s : State) (key tag : Nat) : Option (Tk × Task) :=
  match s.slots.find? fun x => x.2.task.made key tag && x.2.st != .empty with
  | some (p, x) => some (s.tk p, x.task)
  | none => (s.saved.find? fun y => y.task.made key tag).map fun y => (y.t, y.task)

/-- Change it. -/
def State.onOwner (s : State) (key tag : Nat) (f : Task → Task) : State :=
  match s.copyOwner key tag with
  | some (t, _) => if s.saved.any (·.t == t) then s.onTask t f else s.modTask t.pos f
  | none => s

-- acceptance (R416, R498)

/-- Does a slot hold a whole request that the dealer may take now? -/
def State.takeable (s : State) (p : Pos) : Bool :=
  let x := s.slot p
  match x.mailbox with
  | [] => false
  | w :: r =>
    x.resident && (bits w.word.toNat 0 2 ≠ 2 || !r.isEmpty) && (w.by_.isSome || x.returns.length < 4)
      && decide (x.task.tags.length < 64)

/-- The next slot in order after the one last served. -/
def State.dealerNext (s : State) (c : Nat) : Option Pos :=
  let last := (s.core c).dealer.last
  ((List.range 14).map fun k => mkPos c ((last + k) % 14 + 1)).find? s.takeable

/-- A record raised on the requester's behalf at a descriptor or ring address. -/
def State.dealerFault (s : State) (a : Accepting) (cause sub addr acc space : Nat) (world : Bool) : State :=
  ((s.behalfFault a.t a.pc.toNat cause sub addr acc space world).alsoRefuse (posCore a.t.pos) a.t space world addr cause sub).modDealer (posCore a.t.pos) fun d =>
    { d with busy := some { a with held := true } }

/-- Take the next request and begin to read its descriptor. -/
def State.dealerScan (s : State) (c : Nat) : State :=
  let k := s.core c
  if k.dealer.busy.isSome || !(!k.fenced && !k.halted) || 4096 ≤ k.dealer.spill.length then s
  else match s.dealerNext c with
    | none => s
    | some p =>
      match (s.slot p).mailbox with
      | [] => s
      | w :: r =>
        let t := s.task p
        let (key, s) := s.fresh
        let kind := bits w.word.toNat 0 2
        let a : Accepting := { slot := posSlot p, t := s.tk p, pc := t.pc, kind := kind, va := w.word.toNat / 64 * 64,
                               cmd := (r.head?.map (·.word)).getD 0, by_ := w.by_, before := w.before, space := t.space, world := t.world,
                               budget := t.budget, bad := kind = 3 || bits w.word.toNat 2 4 ≠ 0, key := key }
        ((s.modTask p fun t => { t with asking := some key }).modDealer c fun d =>
          { d with busy := some a, last := posSlot p }).postAt s.cycle p .dealerAccept (.dealerRead c)

/-- The units of overlap of a range of virtual addresses for a core's task; a page without a translation has none. -/
def State.rangeUnits (s : State) (c space : Nat) (world : Bool) (l : List Nat) : List (Nat × Nat) :=
  l.filterMap fun v =>
    match classify c (v * 128) with
    | .scratch core _ => let off := bits (v * 128) 0 22; some (scratchUnit core space off, scratchUnit core space (off + 124) + 1)
    | _ => match s.placeNow c space world false (v * 128) with
      | .ok p => some (p.loc / 128, p.loc / 128 + 1)
      | .error _ => none

/-- Exact units of the bytes of some ranges, of scratchpad addresses by word and of global ones by line. -/
def State.copyUnits (s : State) (c space : Nat) (world : Bool) (rs : List (Nat × Nat)) : List (Nat × Nat) :=
  rs.flatMap fun (a, n) => match classify c a with
    | .scratch core _ => let off := bits a 0 22; [(scratchUnit core space off, scratchUnit core space (off + n - 1) + 1)]
    | _ => s.rangeUnits c space world (runLines [(a, n)])

/-- Steps 2 and 3 of R351 for source and destination ranges: dirty lines of the hand's entries that the source meets go home, and
the requester's copies of destination lines are lifted and removed. The time they take (R498). -/
def State.releaseRanges (s : State) (hand : List HandEntry) (c space : Nat) (world : Bool) (src dst : List (Nat × Nat)) : Nat × State :=
  let meets (e : HandEntry) : Bool := src.any fun (a, n) => decide (e.region.v * 512 < a + n) && decide (a < e.region.v * 512 + 512)
  let (w, s) := (hand.filter meets).foldl (fun (ws : Written × State) e =>
    let ch := ws.2.regionChain space c e.region.v
    (List.range 4).foldl (fun ws j => lift c 9 ch (e.region.p * 4 + j) ws) ws) (([] : Written), s)
  let (w, n, s) := (runLines dst).foldl (fun (ws : Written × Nat × State) v =>
    let (w, n, s) := ws
    match classify c (v * 128) with
    | .global _ =>
      match s.placeNow c space world false (v * 128) with
      | .ok pl =>
        let ch := s.chain space c pl.vc
        let (w, s) := lift c 9 ch (pl.loc / 128) (w, s)
        let (n, s) := removeCopies 9 ch (pl.loc / 128) (n, s)
        (w, n, s)
      | .error _ => (w, n, s)
    | _ => (w, n, s)) (w, 0, s)
  (w.cost + 8 + 2 * n, s)

/-- Would those steps write into a vcache under reconfiguration (R328)? -/
def State.rangesStuck (s : State) (hand : List HandEntry) (c space : Nat) (world : Bool) (src dst : List (Nat × Nat)) : Bool :=
  let meets (e : HandEntry) : Bool := src.any fun (a, n) => decide (e.region.v * 512 < a + n) && decide (a < e.region.v * 512 + 512)
  (hand.any fun e => meets e && (List.range 4).any fun j => liftStuck s (e.region.p * 4 + j) 9 (s.regionChain space c e.region.v)) ||
    (runLines dst).any fun v => match classify c (v * 128) with
      | .global _ => (match s.placeNow c space world false (v * 128) with
        | .ok pl => liftStuck s (pl.loc / 128) 9 (s.chain space c pl.vc)
        | .error _ => false)
      | _ => false

/-- A task as a request sees it that was made before its accesses named `before` and above. -/
def Task.asOf (t : Task) (before : Nat) : Task := { t with pend := t.pend.filter (·.id < before) }

/-- Must a copy or collective request of a task wait for one of its earlier accesses (R351 step 1, R350)? Earlier loads of either range
count as well as stores. -/
def State.rangesWait (s : State) (t : Task) (before c space : Nat) (world : Bool) (src dst : List (Nat × Nat)) : Bool :=
  (t.asOf before).mustWait s.cycle true (s.copyUnits c space world (src ++ dst))
    || (t.asOf before).pend.any fun x => x.partner && x.doneAt.all (s.cycle < ·)

-- the descriptor (R416 steps 1 and 2)

/-- The bytes of a request's descriptor, as a load of the requester reads them; none while an earlier access of the requester's that
writes them is to complete (R311, R164). -/
def State.descRead (s : State) (c : Nat) (a : Accepting) (t : Task) : Except (Nat × Nat × Nat) (Option (EngineRead × State)) :=
  let waits (n : Nat) : Bool := (t.asOf a.before).mustWait s.cycle false (s.copyUnits c a.space a.world [(a.va, n)])
  if waits 64 then .ok none
  else match s.engineRead c a.space a.world a.va 64 with
    | .error e => .error e
    | .ok (h, s₁) =>
      let n := copyNdim h.v
      if a.bad || a.kind ≠ 1 || n = 0 || 12 < n || h.poison then .ok (some (h, s₁))
      else if waits (64 + 16 * n) then .ok none
      else match s₁.engineRead c a.space a.world (a.va + 64) (16 * n) with
        | .error e => .error e
        | .ok (m, s) =>
          .ok (some ({ v := h.v + m.v * 2 ^ 512, bits := h.bits + m.bits, poison := h.poison || m.poison, late := max h.late m.late }, s))

/-- Read the descriptor and make the checks; a request that fails one skips step 4 (R416, R498). -/
def State.dealerRead (s : State) (c : Nat) : State :=
  match (s.core c).dealer.busy with
  | none => s
  | some a =>
    if a.held then s else
    let again (s : State) : State := s.postAt (s.cycle + 1) a.t.pos .dealerAccept (.dealerRead c)
    match s.descRead c a (((s.copyOwner a.key 64).map (·.2)).getD {}) with
    | .error (cause, sub, addr) =>
      if cause = 0x42 then
        match classify c addr with
        | .scratch core off => again (s.joinRefill core a.space (off / 4096) none none fun s => s)
        | _ => s
      else s.dealerFault a cause sub addr 0 a.space a.world
    | .ok none => again s
    | .ok (some (h, s)) =>
      let code := if a.bad then 1 else s.copyCode c a.space a.kind h.v h.poison
      let s := s.modDealer c fun x => { x with busy := some { a with desc := h.v, code := code } }
      if code ≠ 0 then s.postAt (s.cycle + h.late + 4) a.t.pos .dealerAccept (.dealerAccept c)
      else s.postAt (s.cycle + h.late) a.t.pos .dealerAccept (.dealerWait c)

/-- The tag of a request that has passed the checks: the lowest that its task has free (R416 step 3). -/
def State.dealerTag (s : State) (c : Nat) (a : Accepting) : Option (Accepting × State) :=
  match a.tag with
  | some _ => some (a, s)
  | none =>
    let t := ((s.copyOwner a.key 64).map (·.2)).getD {}
    match (List.range 64).find? fun k => (t.tags.look k).isNone with
    | none => none
    | some g =>
      let a := { a with tag := some g }
      some (a, (s.onOwner a.key 64 fun t => { t with asking := none, tags := t.tags.put g a.key }).modDealer c fun d => { d with busy := some a })

/-- Steps 3 and 4 of R416: assign the tag, wait for earlier overlapping accesses, and release the ranges. -/
def State.dealerWait (s : State) (c : Nat) : State :=
  match (s.core c).dealer.busy with
  | none => s
  | some a =>
    let again (s : State) : State := s.postAt (s.cycle + 1) a.t.pos .dealerAccept (.dealerWait c)
    match s.dealerTag c a with
    | none => again s
    | some (a, s) =>
      let (who, t) := (s.copyOwner a.key (a.tag.getD 64)).getD (a.t, {})
      let here := posCore who.pos
      let (es, dims) := copyDims a.kind a.desc
      let rs := copyRuns es dims (copySrc a.desc) (copyDst a.desc)
      -- the host window has no home slice and no copies in vcaches (R292)
      let near (l : List (Nat × Nat)) : List (Nat × Nat) := l.filter fun x => copyClass c x.1 false != .host
      let src := near ((a.va, copyDescLen a.kind a.desc) :: rs.map fun x => (x.1, x.2.2))
      let dst := if copyPeer a.desc = 0 then near (rs.map fun x => x.2) else []
      if s.rangesWait t a.before c a.space a.world src dst || s.rangesStuck t.hand here a.space a.world src dst then again s
      else
        let (n, s) := s.releaseRanges t.hand here a.space a.world src dst
        s.postAt (s.cycle + n + 4) a.t.pos .dealerAccept (.dealerAccept c)

/-- The copy ahead of the next one accepted. -/
def State.lastCopy (s : State) (c : Nat) : Option Copy :=
  let d := (s.core c).dealer
  match (d.queue ++ d.spill).getLast? with
  | some k => s.hub.copies.look k
  | none => none

/-- The request leaves the mailbox and its result goes to whoever made it (R415, R417). One that fails holds no tag. -/
def State.dealerAnswer (s : State) (c : Nat) (a : Accepting) (v : Nat) : State :=
  let p := mkPos c a.slot
  let s := s.onOwner a.key (a.tag.getD 64) fun t =>
    { t with asking := if t.asking = some a.key then none else t.asking, tags := if v < 64 then t.tags.filter (·.2 != a.key) else t.tags }
  let s := s.modSlot p fun x => { x with mailbox := x.mailbox.drop (if a.kind = 2 then 2 else 1) }
  let s := match a.by_ with
    | some (id, d) => s.postAt (s.cycle + 4) p .classBCompletion (.classBCompletion a.t id (Finish.value_ d v))
    | none => (s.modSlot p fun x => { x with returns := x.returns ++ [word v] }).wake p (.pop 5)
  ((s.wake p (.push 5)).modDealer c fun d => { d with busy := none }).kickDealer c

/-- The cycle of acceptance: queue or spill ring, and promise (R416 steps 5 and 6). A ring entry is written with the requester's world
(R451). -/
def State.dealerAccept (s : State) (c : Nat) : State :=
  match (s.core c).dealer.busy with
  | none => s
  | some a =>
    if a.code ≠ 0 then s.dealerAnswer c a a.code
    else
      let tag := a.tag.getD 0
      let key := a.key
      let x : Copy := { t := a.t, core := c, pc := a.pc, kind := a.kind, space := a.space, world := a.world, budget := a.budget, desc := a.desc,
                        cmd := a.cmd, tag := tag, promise := 0, est := 0, lines := [] }
      let x := { x with lines := runLines (x.runs.map (·.2)) }
      let f := ((s.lastCopy c).map (·.est)).getD 0
      let e := max s.cycle f + s.copyLead x (copySrc a.desc) (copyDst a.desc) + ceilDiv (copyBytes a.kind a.desc) 64
      let x := { x with est := e, promise := promiseWord e tag }
      let done (s : State) : State :=
        let s := s.modHub fun h => { h with copies := h.copies.put key x }
        (s.dealerAnswer c a x.promise).postAt s.cycle a.t.pos .copyRun (.copyStart c)
      let d := (s.core c).dealer
      if d.queue.length < 32 && d.spill.isEmpty then done (s.modDealer c fun d => { d with queue := d.queue ++ [key] })
      else
        let va := d.base + 64 * (d.spillN % 4096)
        match s.hubPlace d.space a.world true va with
        | .error _ => s.dealerFault a 0x43 0 va 1 d.space a.world
        | .ok pl =>
          -- the layout of a spilled record is not the architecture's: its bytes are free values (log entry 7)
          let (v, s) := s.freeVal
          done ((s.hubWrite pl.loc 64 (v % 2 ^ 512)).modDealer c fun d => { d with spill := d.spill ++ [key], spillN := d.spillN + 1 })

/-- DEALER_ACCEPT (R416). -/
def execDealerAccept (s : State) : Out :=
  match s.msg with
  | .dealerScan c => .next (s.dealerScan c)
  | .dealerRead c => .next (s.dealerRead c)
  | .dealerWait c => .next (s.dealerWait c)
  | .dealerAccept c => .next (s.dealerAccept c)
  | _ => .next s

-- running copies (R422, R426)

/-- The place of a line of a side of a copy. -/
inductive CopyPlace where
  | at_ (p : Place)
  | window
  | refill (core page : Nat)
  | lost                                   -- scratchpad of a fenced cordon (R475)
  | fault (cause sub : Nat)

def State.copyPlace (s : State) (x : Copy) (va : Nat) (write : Bool) : CopyPlace :=
  match copyClass x.core va (write && copyPeer x.desc ≠ 0) with
  | .host | .fabric => .window
  | .scratch core =>
    if (s.core core).fenced then .lost
    else match s.placeNow x.core x.space x.world write va with
      | .error (0x42, _) => .refill core (bits va 0 22 / 4096)
      | .error (cause, sub) => .fault cause sub
      | .ok p => .at_ p
  | _ => match s.placeNow x.core x.space x.world write va with
    | .ok p => .at_ p
    | .error (cause, sub) => .fault cause sub

/-- The dealer reads a source line at its home or its owner's port; host memory is not the machine's, so its bytes are free
values (log entry 7). -/
def State.copyRead (s : State) (x : Copy) (line : Nat) (pl : CopyPlace) : BitVec 1024 × Bool × State :=
  match pl with
  | .at_ p =>
    if p.scratch then
      let (v, q, s) := s.readScratch p.owner x.space p.off p.loc 128
      (BitVec.ofNat 1024 v, q, s)
    else (s.homeLine (p.loc / 128), s.poisoned p.loc, (s.homeRead (p.loc / 128)).2)
  | _ => let (v, s) := s.freeVal; (BitVec.ofNat 1024 v, false, s)

/-- A copy write at home of a task's dealer or a combining engine: every copy is probed away, the bytes are applied together, and
the line takes its next sequence tag; the ring records an entry for each aligned 8-byte word (R352, Table 12-2). The probe's time,
which its acknowledgement waits for (R294). -/
def State.copyWrite (s : State) (space : Nat) (p : Pos) (line : Nat) (mask : BitVec 128) (d : BitVec 1024) (poison : Bool) : Nat × State :=
  let (n, s) := s.probe line
  let s := (s.mergeHome line mask d poison).nextTag line
  (probeCost n, (List.range 16).foldl (fun s k =>
    let m := bits mask.toNat (8 * k) 8
    if m = 0 then s else (s.traceHome (line * 128 + 8 * k) space 7 p 8 (s.bytesAt (line * 128 + 8 * k) 8)).clearRecord (line * 128 + 8 * k)) s)

/-- Free a copy's tag and forget the copy. A request of its task that waits for a tag may be accepted (R416 step 3). -/
def State.freeCopy (s : State) (k tag : Nat) : State :=
  let who := s.copyOwner k tag
  let s := (s.onOwner k tag fun t => { t with tags := t.tags.del tag }).modHub fun h => { h with copies := h.copies.del k }
  match who with | some (t, _) => s.kickDealer (posCore t.pos) | none => s

/-- The copy that runs is over: its counter, its tag if it is detached, and the next copy of the queue (R424). -/
def State.copyEnds (s : State) (k : Nat) : State :=
  match s.hub.copies.look k with
  | none => s
  | some x =>
    let s := s.modCopy k fun x => { x with outcome := some (if x.failed then 2 else if x.carried then 1 else 0), src := [] }
    let s := if copyDepv x.desc then s.applyCounter (copyDep x.desc) true 0 else s
    let s := if copyDetach x.desc then s.freeCopy k x.tag else s
    let s := s.modDealer x.core fun d => { d with queue := d.queue.erase k, running := false }
    let s := if (s.core x.core).dealer.spill.isEmpty then s else s.postAt s.cycle x.t.pos .spillRingReturn (.spillReturn x.core)
    s.postAt s.cycle x.t.pos .copyRun (.copyStart x.core)

/-- A copy's next line falls due: the dealer is slot 15 of its core at the line's ordering point (R336). -/
def State.postLine (s : State) (at_ k : Nat) (x : Copy) (l : Nat) : State :=
  let own := match s.copyPlace x (l * 128) true with
    | .at_ p => if p.scratch then p.owner else sliceCore (s.homeOf p.loc)
    | _ => x.core
  s.post at_ (tieAt own (mkPos x.core 15)) .copyRun (.copyLine x.core k)

/-- What moving a line of a copy draws on, by budget kind (R371): copy bytes, and the link and stacked-memory bytes of its two sides. -/
def State.lineTraffic (s : State) (x : Copy) (l : Nat) : List (Nat × Nat) :=
  let ms := lineMoves x.runs l
  let n := (ms.map (·.2.2)).foldl (· + ·) 0
  let side (va n : Nat) (write : Bool) : List (Nat × Nat) := match s.copyPlace x va write with
    | .at_ p => if p.scratch then (if coreDie p.owner = coreDie x.core then [] else [(1, n)]) else (s.homeKinds x.core p.loc).map fun k => (k, n)
    | _ => []
  (0, n) :: side (l * 128) n true ++ ms.flatMap fun m => side m.1 m.2.2 false

/-- A line of a copy starts and is to be written in cycle `at_`: its budgets are charged now, and where one is used up, or moves are held
back (R490; log entry 9), the copy stands still until the next period (R422, R371). -/
def State.startLine (s : State) (at_ k : Nat) (x : Copy) (l : Nat) (first : Bool) : State :=
  let part := s.diePart (coreDie x.core)
  let t := s.lineTraffic x l
  if t.any (fun y => s.overBudget part x.budget y.1) || (s.module_.holdBack && !first) then
    (s.modCopy k fun x => { x with throttled := s.nextPeriod }).postAt s.nextPeriod x.t.pos .budgetPeriod (.copyStart x.core)
  else (t.foldl (fun s y => s.charge part x.budget y.1 y.2) s).postLine at_ k x l

/-- A copy's last line is written: it is over when its writes are acknowledged (R353), by the peer where they went to one (R421). -/
def State.copyWritten (s : State) (k : Nat) (x : Copy) : State :=
  let at_ := max s.cycle x.acked
  if copyPeer x.desc ≠ 0 then s
  else if x.kind = 2 then s.postAt at_ x.t.pos .cpymFollowOn (.followOn k) else s.postAt at_ x.t.pos .copyComplete (.copyComplete k)

/-- Time the lines from now: the first byte's latencies, then 64 bytes a cycle. -/
def State.copyResume (s : State) (k : Nat) : State :=
  match s.hub.copies.look k with
  | none => s
  | some x =>
    match x.lines[x.next]? with
    | none => s.copyWritten k x
    | some l =>
      let ms := lineMoves x.runs l
      let n := (ms.map (·.2.2)).foldl (· + ·) 0
      let lead := s.copyLead x ((ms.head?.map (·.1)).getD 0) (l * 128 + (ms.head?.map (·.2.1)).getD 0)
      (s.modCopy k fun x => { x with base := s.cycle + lead, moved := 0, throttled := 0 }).startLine (s.cycle + lead + ceilDiv n 64) k x l true

/-- A copy stops for a fault at the 4 KiB destination boundary at or below it, and waits for the steward; its record is sent unless the
page's has been (R447). -/
def State.copyFault (s : State) (k : Nat) (x : Copy) (l cause sub addr acc : Nat) (told : Bool := false) : State :=
  let back := (x.lines.findIdx? fun y => y / 32 == l / 32).getD x.next
  let s := s.modCopy k fun x => { x with held := true, next := min x.next back }
  if told then s else s.behalfFault x.t x.pc.toNat cause sub addr acc x.space x.world

/-- Must a copy wait for a walk to reach an address (R445)? -/
def State.copyMisses (s : State) (x : Copy) (va : Nat) (write : Bool) : Bool :=
  copyClass x.core va (write && copyPeer x.desc ≠ 0) == .global && (s.tlbLook x.core x.space (va / 4096)).isNone

/-- A copy write leaves by the host port, or by the fabric port routed to its peer (R421). -/
def State.sendOut (s : State) (k : Nat) (x : Copy) (addr : Nat) (bs : List Byte) (poison : Bool) : State :=
  let peer := copyPeer x.desc
  let w : OutWrite := { copy := k, peer := peer, port := if peer = 0 then 0 else (s.routeOf x.core peer).getD 0, addr := addr, bytes := bs, poison := poison }
  { s with module_ := { s.module_ with out := s.module_.out ++ [w] } }

/-- An error record of a copy names its requester (R499). -/
def State.copyError (s : State) (k : Nat) (x : Copy) (e : ErrRec) : State :=
  s.taskError x.core (((s.copyOwner k x.tag).map (·.1)).getD x.t) e

/-- Apply a copy's next line, if nothing stops it: a refill, or a fault. -/
def State.copyLine (s : State) (c k : Nat) : State :=
  match s.hub.copies.look k with
  | none => s
  | some x =>
    if x.held || x.outcome.isSome || (s.core c).stopped || !((s.core c).dealer.queue.head? == some k) then s else
    match x.lines[x.next]? with
    | none => s
    | some l =>
        let ms := lineMoves x.runs l
        let n := (ms.map (·.2.2)).foldl (· + ·) 0
        let again (s : State) : State := s.postLine (s.cycle + 1) k x l
        let fails (s : State) (cause sub addr acc : Nat) : State :=
          (((s.behalfFault x.t x.pc.toNat cause sub addr acc x.space x.world).alsoRefuse c x.t x.space x.world addr cause sub).modCopy k fun x => { x with failed := true }).postAt (max s.cycle x.acked) x.t.pos
            .copyComplete (.copyComplete k)
        -- source lines not read yet
        let need := (runLines (ms.map fun m => (m.1, m.2.2))).filter fun v => (x.src.look v).isNone
        let walk (s : State) (v : Nat) (write : Bool) : State :=
          s.joinWalk (mkPos c 15) x.space (v * 128) write.toNat fun w => { w with copies := w.copies ++ [k] }
        let bad := need.findSome? fun v => match s.copyPlace x (v * 128) false with
          | .fault cause sub => some (v, some (cause, sub), none)
          | .refill core page => some (v, none, some (core, page))
          | .lost => some (v, none, none)
          | _ => none
        match need.find? fun v => s.copyMisses x (v * 128) false with
        | some v => walk s v false
        | none =>
        if s.copyMisses x (l * 128) true then walk s l true else
        match bad, s.copyPlace x (l * 128) true with
        | some (v, some (cause, sub), _), _ =>
          if cause = 0x41 then fails s cause sub (v * 128) 0 else s.copyFault k x l cause sub (v * 128) 0
        | some (_, none, some (core, page)), _ => again (s.joinRefill core x.space page none none fun s => s)
        | some (v, none, none), _ => fails s 0x41 0 (v * 128) 0
        | none, .fault cause sub =>
          if cause = 0x41 then fails s cause sub (l * 128) 1 else s.copyFault k x l cause sub (l * 128) 1
        | none, .refill core page => again (s.joinRefill core x.space page none none fun s => s)
        | none, .lost => fails (s.copyError k x { cycle := 0, code := 0x21, sev := 1, addr := l * 128, space := x.space, world := x.world })
            0x41 0 (l * 128) 1
        | none, dst =>
          let (src, s) := need.foldl (fun (a : Tbl (BitVec 1024 × Bool) × State) v =>
            let (d, q, s) := a.2.copyRead x v (a.2.copyPlace x (v * 128) false)
            (a.1.put v (d, q), s)) (x.src, s)
          let (mask, d, poison) := ms.foldl (fun (a : Nat × Nat × Bool) (m : Nat × Nat × Nat) =>
            (List.range m.2.2).foldl (fun (a : Nat × Nat × Bool) i =>
              let from_ := m.1 + i
              let (ln, q) := src.get (0, false) (from_ / 128)
              let b := bits ln.toNat (8 * (from_ % 128)) 8
              (setBits a.1 (m.2.1 + i) 1 1, setBits a.2.1 (8 * (m.2.1 + i)) 8 b, a.2.2 || q)) a) (0, 0, false)
          -- the writer is the dealer (R16, R336)
          let me := mkPos c 15
          let (ack, s) := match dst with
            | .at_ p =>
              if p.scratch then
                -- one aligned 8-byte word at a time, at the owner's port
                let s := (List.range 16).foldl (fun (s : State) k =>
                  let on := (List.range 8).filter fun i => bit mask (8 * k + i)
                  match on.head?, on.getLast? with
                  | some lo, some hi =>
                    let (old, _, s) := s.windowBytes p.owner x.space (p.off + 8 * k + lo) (hi + 1 - lo)
                    let new := (List.range (hi + 1 - lo)).map fun i =>
                      if bit mask (8 * k + lo + i) then BitVec.ofNat 8 (bits d (8 * (8 * k + lo + i)) 8) else old.getD i 0
                    s.putScratch 7 me p.owner x.space (p.off + 8 * k + lo) new
                  | _, _ => s) s
                -- a line written whole is clean of poison (R476)
                (0, if poison then s.setPoison (p.loc / 128) true else if mask = 2 ^ 128 - 1 then s.setPoison (p.loc / 128) false else s)
              else s.copyWrite x.space me (p.loc / 128) (BitVec.ofNat 128 mask) (BitVec.ofNat 1024 d) poison
            | _ =>
              let bs := (List.range 128).filterMap fun i => if bit mask i then some (BitVec.ofNat 8 (bits d (8 * i) 8)) else none
              (0, s.sendOut k x (l * 128 + (((onesOf 128 mask).head?).getD 0)) bs poison)
          let moved := x.moved + n
          let acked := max x.acked (s.cycle + ack)
          let s := s.modCopy k fun x => { x with next := x.next + 1, src := src, carried := x.carried || poison, moved := moved, acked := acked }
          match x.lines[x.next + 1]? with
          | some l' =>
            let n' := ((lineMoves x.runs l').map (·.2.2)).foldl (· + ·) 0
            s.startLine (max s.cycle (x.base + ceilDiv (moved + n') 64)) k x l' false
          | none => s.copyWritten k { x with acked := acked }

/-- Start the copy at the head of a core's queue, or go on with it (R422). -/
def State.copyStart (s : State) (c : Nat) : State :=
  let k := s.core c
  if k.fenced || k.halted || k.stopped then s else
  match k.dealer.queue.head? with
  | none => s
  | some q =>
    match s.hub.copies.look q with
    | none => s
    | some x =>
      if x.held then s
      else if k.dealer.running && (x.throttled = 0 || s.cycle < x.throttled) then s
      else (s.modDealer c fun d => { d with running := true }).copyResume q

/-- COPY_RUN (R422): a copy starts, resumes, or applies its next line. -/
def execCopyRun (s : State) : Out :=
  match s.msg with
  | .copyStart c => .next (s.copyStart c)
  | .copyLine c k => .next (s.copyLine c k)
  | _ => .next s

/-- BUDGET_PERIOD (R371): a period of 12 500 cycles begins, and what was throttled goes on. -/
def execBudgetPeriod (s : State) : Out :=
  match s.msg with
  | .copyStart c => .next (s.copyStart c)
  | _ => .next s

/-- COPY_COMPLETE (R424). A peer copy is over when its peer acknowledges the last write, which comes in from outside the module
(R421). -/
def execCopyComplete (s : State) : Out :=
  match s.msg with
  | .copyComplete k => .next (s.copyEnds k)
  | .peerAck k =>
    .next (match s.hub.copies.look k with
      | some x => if copyPeer x.desc ≠ 0 && x.lines.length ≤ x.next && x.outcome.isNone && !x.failed then s.copyEnds k else s
      | none => s)
  | _ => .next s

/-- CPYM_FOLLOW_ON (R425): the command enters the requester's matrix queue once there is room. -/
def execCpymFollowOn (s : State) : Out :=
  match s.msg with
  | .followOn k =>
    .next (match s.hub.copies.look k with
      | none => s
      | some x =>
        match s.slots.find? fun y => y.2.resident && y.2.task.tags.look x.tag == some k with
        | some (p, y) =>
          if y.commandRoom true then (s.enterCommand p x.cmd.toNat true true (some x.pc.toNat)).postAt s.cycle x.t.pos .copyComplete (.copyComplete k)
          else s.postAt (s.cycle + 1) x.t.pos .cpymFollowOn (.followOn k)
        | none => s.postAt (s.cycle + 1) x.t.pos .cpymFollowOn (.followOn k))
  | _ => .next s

/-- SPILL_RING_RETURN (R418): the oldest spilled copy moves back into the queue. -/
def execSpillRingReturn (s : State) : Out :=
  match s.msg with
  | .spillReturn c =>
    let d := (s.core c).dealer
    .next (match d.spill with
      | k :: r => if d.queue.length < 32 then
          ((s.modDealer c fun d => { d with queue := d.queue ++ [k], spill := r }).postAt s.cycle (mkPos c 15) .copyRun (.copyStart c)).kickDealer c
        else s
      | [] => s)
  | _ => .next s

-- promises (R427, R428, R353)

/-- The copies of virtual lines in the chain of the task at a position are lifted and removed. -/
def State.dropLines (s : State) (p : Pos) (vs : List Nat) : State :=
  let c := posCore p
  let t := s.task p
  vs.foldl (fun s v =>
    match classify c (v * 128) with
    | .global _ =>
      match s.placeNow c t.space t.world false (v * 128) with
      | .ok pl =>
        let ch := s.chain t.space c pl.vc
        let (_, s) := lift c 9 ch (pl.loc / 128) (([] : Written), s)
        (removeCopies 9 ch (pl.loc / 128) (0, s)).2
      | .error _ => s
    | _ => s) s

/-- A task observes that engines have written virtual lines: no older copy of one is left in its chain (R353, R355), nor in the chain
it is restored with. -/
def State.observe (s : State) (t : Tk) (vs : List Nat) : State :=
  if s.isAt t then s.dropLines t.pos vs
  else { s with saved := s.saved.map fun y => if y.t = t then { y with drops := y.drops ++ vs } else y }

/-- The lines that the observer of a copy's completion acquires: none of the host window or a fabric window (R352). -/
def Copy.observed (x : Copy) : List Nat := x.lines.filter fun l => copyClass x.core (l * 128) (copyPeer x.desc ≠ 0) == .global

/-- The copy of the task at a position whose promise word is `v`. -/
def State.promised (s : State) (p : Pos) (v : Nat) : Option (Nat × Copy) :=
  (s.task p).tags.findSome? fun (_, k) => match s.hub.copies.look k with
    | some x => if x.promise = v then some (k, x) else none
    | none => none

/-- The end of a SLEEP at a position: a copy's completion is observed, or its promise missed (R427). -/
def State.slept (s : State) (p : Pos) (v : Nat) : State :=
  match s.promised p v with
  | none => s.asPos p State.advance
  | some (k, x) =>
    if x.outcome.isSome then ((s.dropLines p x.observed).freeCopy k x.tag).asPos p State.advance
    else if (s.task p).inTrap then s.asPos p State.advance
    else (s.asPos p State.advance).trapAfter p (s.task p).pc { cause := 7, sub := 0, val := v, deferred := false }

/-- SLEEP (R377, R427). -/
def execSleep (a : Reg) (s : State) : Out :=
  .next (with1 a s fun x s =>
    let v := x.toNat
    if v ≤ s.cycle then s.slept s.cur v
    else (s.park s.cur (.sleep v ((s.promised s.cur v).map (·.1)))).post v 50000 .sleepExpiry (.sleepExpiry (s.tk s.cur) v))

/-- SLEEP_EXPIRY (R427): the task may issue from this cycle on. -/
def execSleepExpiry (s : State) : Out :=
  match s.msg with
  | .sleepExpiry t v =>
    .next (match (s.task t.pos).wait with
      | some (.sleep till _) =>
        if s.isAt t && till = v && (s.slot t.pos).st == .parked then
          let s := (s.unpark t.pos).modSlot t.pos fun x => { x with notBefore := s.cycle }
          s.slept t.pos v
        else s
      | _ => s)
  | _ => .next s

/-- CPYQ (R428). -/
def execCpyq (d a : Reg) (s : State) : Out :=
  .next (with1 a s fun x s =>
    let (id, s) := s.blockOpen
    s.postAt (s.cycle + 40) s.cur .classBCompletion (.copyQuery (s.tk s.cur) id (bits x.toNat 0 6) d))

/-- The estimate of a copy from its remaining bytes (R428). -/
def State.copyEstimate (s : State) (k : Nat) (x : Copy) : Nat :=
  let q := (s.core x.core).dealer.queue ++ (s.core x.core).dealer.spill
  let ahead := (q.takeWhile (· != k)).getLast?
  let f := match ahead with | some j => ((s.hub.copies.look j).map (·.est)).getD 0 | none => 0
  let c := max s.cycle x.throttled
  let left := x.lines.drop x.next
  let bytes := left.foldl (fun n l => n + ((lineMoves x.runs l).map (·.2.2)).foldl (· + ·) 0) 0
  let first := left.head?.bind fun l => (lineMoves x.runs l).head?.map fun m => (m.1, l * 128 + m.2.1)
  let lead := match first with | some (a, b) => s.copyLead x a b | none => 0
  max c f + lead + ceilDiv bytes 64

/-- CPYQ's answer (R428). -/
def State.copyQueried (s : State) (t : Tk) (id tag : Nat) (d : Reg) : State :=
  let fin (v : Nat) (s : State) : State := s.completeWait t id (.blocking id) (Finish.value_ d v)
  match (s.findTask t).bind (·.tags.look tag) with
  | none => fin 3 s
  | some k =>
    match s.hub.copies.look k with
    | none => fin 3 s
    | some x =>
      match x.outcome with
      | some v => fin v ((s.observe t x.observed).freeCopy k tag)
      | none =>
        let e := s.copyEstimate k x
        fin (promiseWord e tag) (s.modCopy k fun x => { x with est := e, promise := promiseWord e tag })

-- the request members (R429)

/-- A CPY, CPYM or CPYD pushes its request once its task's matrix commands have completed (R350) and the mailbox has room. -/
def State.mailPush (s : State) (t : Tk) (id : Nat) (ws : List Word) (d : Reg) : State :=
  if !s.waitsFor t (.mailbox id) then s
  else
    let x := s.slot t.pos
    if x.task.pend.any (fun a => a.partner && a.doneAt.all (s.cycle < ·)) || 4 < x.mailbox.length + ws.length then
      s.postAt (s.cycle + 1) t.pos .classBCompletion (.mailPush t id ws d)
    else
      let mail := (List.range ws.length).map fun k => { word := ws.getD k 0, before := s.nextId, by_ := if k = 0 then some (id, d) else none : MailWord }
      (s.modSlot t.pos fun x => { x with mailbox := x.mailbox ++ mail }).kickDealer (posCore t.pos)

/-- The common start of CPY, CPYM and CPYD. -/
def copyMember (d : Reg) (ws : List Word) (s : State) : State :=
  let (id, s) := s.fresh
  (s.park s.cur (.mailbox id)).postAt s.cycle s.cur .classBCompletion (.mailPush (s.tk s.cur) id ws d)

/-- The request word of a descriptor address and a kind (Table 17-1). An address that is not a multiple of 64 leaves its low bits
where the checks find them (code 1). -/
def requestWord (a : Word) (kind : Nat) : Word :=
  word (a.toNat / 64 * 64 + (if a.toNat % 64 = 0 then kind else 60 + kind))

def execCpy (d a : Reg) (s : State) : Out := .next (with1 a s fun x s => copyMember d [requestWord x 0] s)
def execCpym (d a b : Reg) (s : State) : Out := .next (with2 a b s fun x y s => copyMember d [requestWord x 2, y] s)
def execCpyd (d a : Reg) (s : State) : Out := .next (with1 a s fun x s => copyMember d [requestWord x 1] s)

end Sys2Proof.Machine
end

