-- ==== Sys2Proof/Machine/Lifecycle.lean ====
section
/-! DEFINITION. The life of a task: START, EXIT, REAP, and the banker's words to the steward (14_scheduler.md R366, R373-R376,
16_light_tasks.md R402, R405, 19_traps_and_preemption.md R466, 07_matrix_partner.md R219, R233, 10_ordering_alone_and_in_core.md R313). -/
namespace Sys2Proof.Machine

-- START (R373, R374)

/-- Accumulators allotted to the tasks that occupy a core's slots (R37). -/
def State.accsHeld (s : State) (c : Nat) : Nat := ((s.occupied c).map fun p => (s.task p).nAccs).foldl (· + ·) 0

/-- The initial state of a deal's task (R24, R33, R402). -/
def ActiveDeal.firstTask (d : ActiveDeal) (e n : Nat) : Task :=
  let t := (({} : Task).setSreg 1 (word d.args)).setSreg 2 (if d.light then word n else 0)
  { t with
    pc := word d.pc, space := d.space, world := d.world, coord := d.coord n, deal := e, index := n, nTiles := d.tiles, nAccs := d.accs,
    depth := d.windows, budget := d.budget, restart := d.restart, light := d.light, lineage := if d.light then n % 2 ^ 23 else 0,
    placed := true }

/-- The bytes of a save image (R218). -/
def imageBytes (t : Task) (cmds : List MCmd) (comps : List Word) (res : Nat) (run : Option PRun) : Nat :=
  t.nAccs * (65536 + 4096 + 64) + (t.accs.map fun a => a.2.retained).foldl (· + ·) 0 + runKept run + 64 * cmds.length + 8 * (comps.length + res)

/-- An operand of a stopped operation, for the core its task is restored on: the tile's owner is a member of that core's cluster,
and a joint operation's other operand lies at the same place of that core's quad (R233). -/
def Operand.moved (o : Operand) (c : Nat) (joint : Bool) : Operand :=
  { o with core := if joint then quadPeer (quadNo c) o.core else o.desc.owner c }

/-- A stopped operation, for the task it is restored with. -/
def PRun.moved (r : PRun) (t : Tk) : PRun :=
  let j := r.cmd.op == 3
  { r with t := t, a := r.a.moved (posCore t.pos) j, b := r.b.moved (posCore t.pos) j, held := false }

/-- The accesses of a task's queued commands, for the core it is restored on. -/
def movedPend (c space : Nat) (cmds : List MCmd) (a : PendAcc) : PendAcc :=
  match (if a.partner then cmds.find? (·.id == a.id) else none) with
  | some m => { a with ranges := if a.write then (m.ranges c space).2 else (m.ranges c space).1 }
  | none => a

/-- Name a restored member anew in its joint group, which comes back to the quad with its first member (R233). -/
def State.rejoin (s : State) (old new : Tk) : State :=
  let q := quadNo (posCore new.pos)
  let rename (g : Joint) : Joint := { g with members := g.members.map fun t => if t = old then new else t }
  match s.away.find? fun g => g.members.contains old with
  | some g => { s with away := s.away.erase g, joints := s.joints.put q (rename g) }
  | none => { s with joints := s.joints.map fun x => (x.1, if x.2.members.contains old then rename x.2 else x.2) }

/-- The hand of a task restored on another core counts as released at the old core, whose dirty lines of it go up to where the two
chains meet, and acquired here (R313). The lines removed. -/
def State.transferHand (s : State) (old : Nat) (p : Pos) : Nat × State :=
  let t := s.task p
  let c := posCore p
  if old = c then (0, s)
  else if t.ws then (s.drainAll t.space old).2.selfInvalidate t.space c
  else
    let m (e : HandEntry) : Nat × Nat := s.meetingFor t.space old (some (t.space, c)) e.region.v
    let s := t.hand.foldl (fun s e => (List.range 4).foldl (fun s j =>
      (lift old (m e).1 (s.regionChain t.space old e.region.v) (e.region.p * 4 + j) (([] : Written), s)).2) s) s
    s.dropRegions p (t.hand.map fun e => { e.region with below := (m e).2 })

/-- Would that write into a vcache under reconfiguration? -/
def State.restoreStuck (s : State) (p : Pos) (y : Saved) : Bool :=
  let old := posCore y.t.pos
  let c := posCore p
  let n := y.task.space
  if old = c then false
  else if y.task.ws then s.instsStuck (s.serving n old ++ s.serving n c)
  else y.task.hand.any fun e => (List.range 4).any fun j => [old, c].any fun k => liftStuck s (e.region.p * 4 + j) 9 (s.regionChain n k e.region.v)

/-- Waits that go on in the context store, and with the restored task (Table 15-1). -/
def Wait.keeps : Wait → Bool
  | .barrier _ | .coll _ | .reconfig _ | .blocking _ | .fault => true
  | _ => false

/-- What is left of a start once a task stands in its slot: the slice, the first START of the deal, its lines, and the slot's
first turn. -/
def State.startSlot (s : State) (e n c : Nat) (d : ActiveDeal) (p : Pos) (first : Nat) : State :=
  let end_ := s.cycle + d.slice
  let s := (s.modTask p fun t => { t with sliceEnd := end_ }).postHub end_ .sliceExpiry (.sliceExpiry (s.tk p) end_)
  let s := s.modDeal e fun d => { d with grants := d.grants.erase (c, n), first := some (d.first.getD s.cycle) }
  let fresh := !(s.core c).started.contains e
  let s := if fresh then s.modCore c fun k => { k with started := e :: k.started } else s
  let (k, s) := if fresh || (d.counted && first = 0) then s.selfInvalidate d.space c else (0, s)
  let ready := max first (if fresh || (d.counted && first = 0) then s.cycle + 8 + 2 * k else 0)
  -- the slot's mailbox may hold requests (R44, R415)
  (s.modSlot p fun x => { x with notBefore := max (s.cycle + 20) ready + 1 }).kickDealer c

/-- START of a new task. -/
def State.startNew (s : State) (e n : Nat) (d : ActiveDeal) (p : Pos) : State :=
  let s := s.modSlot p fun x =>
    { x.nextSerial with st := .ready, task := d.firstTask e n, pending? := none, answer := none, preempt := none, endRes := false, cmds := [], comps := [],
                        compsRes := 0, mrun := none, mready := 0, q6n := 0, fetchTr := [] }
  let s := if 0 < d.redone.get 0 n then s.modDeal e fun d => { d with reexec := d.reexec + 1 } else s
  s.startSlot e n (posCore p) d p 0

/-- Resume a saved task in its new slot (R466, R219). Its first issue waits for the context, the image, the hand and its tile
instructions. -/
def State.startSaved (s : State) (e n : Nat) (d : ActiveDeal) (p : Pos) (y : Saved) : State :=
  let c := posCore p
  let s := { s with saved := s.saved.filter fun z => z.t != y.t }
  let s := s.modSlot p Slot.nextSerial
  let me := s.tk p
  let img := ceilDiv (imageBytes y.task y.cmds y.comps y.compsRes y.run) 128
  let stays := y.task.wait.any Wait.keeps
  let s := s.modSlot p fun x =>
    { x with
      st := if stays then .parked else .ready, parkedAt := s.cycle, pending? := y.pending?, answer := none, preempt := none, endRes := false,
      -- a fault recorded by the save is taken before the first issue (R86)
      task := { y.task with wait := if stays then y.task.wait else none, placed := true,
                            traps := (y.task.traps.map fun x => { x with due := true }),
                            pend := y.task.pend.map (movedPend c y.task.space y.cmds) },
      cmds := y.cmds, comps := y.comps, compsRes := y.compsRes, mrun := y.run.map (·.moved me), mready := s.cycle + 1 + img, q6n := 0, fetchTr := [] }
  let s := if y.task.jointIn then s.rejoin y.t me else s
  let (k, s) := s.transferHand (posCore y.t.pos) p
  let s := s.dropLines p y.drops
  let first := max (max (s.cycle + 20 + 96) (s.cycle + 1 + img)) (s.cycle + 8 + 2 * k)
  let s := s.startSlot e n c d p first
  let s := if y.pending?.isSome then s else s.resumeRuns p true (first + 1)
  let s := match y.result, y.task.wait with
    | some f, some w => s.postAt first p .classBCompletion (.classBCompletion me w.name f)
    | _, _ => s
  let s := match y.answer with
    | some 0 => s.postAt s.cycle p .resumeRetry (.resumeRetry me)
    | some 1 => s.postAt s.cycle p .resumeSkip (.resumeSkip me)
    | some _ => s.postAt s.cycle p .resumeEnd (.resumeEnd me)
    | none => s
  s.post (s.cycle + 1 + img) (tieAt c p) .matrixOpStart (.matrixOpStart c)

/-- Does START of a word's task fail one of its checks? -/
def State.startMisuse (s : State) (p : Pos) (d : ActiveDeal) (y : Option Saved) (resume : Bool) : Bool :=
  (s.slot p).st != .empty || s.isLight p != d.light || (resume && y.isNone)
    || 16 < s.accsHeld (posCore p) + (match y with | some y => y.task.nAccs | none => d.accs)

/-- START. A KIND other than 1 or 4, or a SLOT that names no task slot, is a reserved value (R373). -/
def execStart (a : Reg) (s : State) : Out :=
  .next (if posSlot s.cur ≠ 0 then s.noIssue 0x41 3 0 3
    else with1 a s fun x s =>
      let kind := bits x.toNat 60 4
      let k := bits x.toNat 56 4
      let e := bits x.toNat 48 8
      let n := bits x.toNat 0 48
      let p := mkPos (posCore s.cur) k
      if (kind ≠ 1 && kind ≠ 4) || k = 0 || k = 15 then s.formatFault 0
      else match s.deal e with
        | none => s.supFault s.cur 0x49 0 0 3
        | some d =>
          let y := if kind = 4 then s.savedTask e n else none
          if s.startMisuse p d y (kind == 4) then s.supFault s.cur 0x49 0 0 3
          else if y.any (s.restoreStuck p) then s.waitTurn
          else
            let s := match y with
              | some y => s.startSaved e n d p y
              | none => s.startNew e n d p
            s.block (s.cycle + 20) Finish.plain)

-- REAP (R375)

/-- Empty a slot whose task is gone, its queue-port words and channels staying with it (R44). -/
def Slot.emptied (x : Slot) : Slot :=
  { x with st := .empty, task := {}, pending? := none, answer := none, preempt := none, endRes := false, cmds := [], comps := [], compsRes := 0,
           mrun := none, q6n := 0, fetchTr := [] }

/-- REAP. -/
def execReap (d a : Reg) (s : State) : Out :=
  .next (if posSlot s.cur ≠ 0 then s.noIssue 0x41 3 0 3
    else with1 a s fun x s =>
      let k := bits x.toNat 0 4
      let c := posCore s.cur
      let p := mkPos c k
      if x.toNat / 16 ≠ 0 || k = 0 || k = 15 then s.formatFault 0
      else if (s.slot p).st != .exited then s.block (s.cycle + 8) (Finish.value_ d 0)
      else
        let t := s.task p
        let s := s.modSlot p fun x => { x.emptied with evq := [] }
        let s := ((s.endTask t.deal t.err).schedule c)
        s.block (s.cycle + 8) (Finish.value_ d (eventWord 2 k t.deal t.index).toNat))

-- EXIT (R376, R405)

/-- A task's monitor and its requests that wait anywhere are freed (R376). -/
def State.freeWaits (s : State) (t : Tk) : State :=
  s.modMem fun m => { m with monitors := m.monitors.filter (·.t != t), feWait := m.feWait.filter (·.t != t) }

/-- Look whether step 1 of an exit is over; then the drain, and the push at s + 4 + W. -/
def State.exitPoll (s : State) (t : Tk) : State :=
  if !s.waitsFor t .exiting then s
  else if !s.quiet t.pos || s.drainWaits t.pos then s.postAt (s.cycle + 1) t.pos .exitEventPush (.exitWait t)
  else
    let s := (s.revoke t).freeWaits t
    let (w, s) := s.drain t.pos
    s.postAt (s.cycle + 4 + w.cost) t.pos .exitEventPush (.exitPush t none)

/-- A task that has ended leaves its joint group and its q6 record. -/
def State.leaves (s : State) (p : Pos) : State :=
  let s := s.cancelArrival p
  if (s.task p).jointIn then s.leaveJoint p else s

/-- EXIT_EVENT_PUSH: the slot is exited, its KIND 2 event at the banker, when q7 has room; for its last place the event comes after a
lower slot's push of the same cycle (R317). A light slot is empty at once. -/
def execExitEventPush (s : State) : Out :=
  match s.msg with
  | .exitWait t => .next (s.exitPoll t)
  | .exitPush t asOf =>
    .next (s.asOf (asOf.getD s.cycle) fun s =>
      let p := t.pos
      let x := s.task p
      let banker := mkPos (posCore p) 0
      if !s.waitsFor t .exiting then s
      else if s.isLight p then
        let s := ((s.leaves p).modSlot p fun y => { y.emptied with evq := [] }).wake banker (.push 7)
        (s.endTask x.deal x.err).schedule (posCore p)
      else if asOf.isNone && s.eventTight banker then s.post (s.cycle + 1) 0 .exitEventPush (.exitPush t (some s.cycle))
      else if 16 ≤ (s.slot banker).evq.length then s.postAt (s.cycle + 1) p .exitEventPush (.exitPush t none)
      else
        let s := (s.leaves p).modSlot p fun y =>
          { y with st := .exited, preempt := none, endRes := false, task := { y.task with wait := none } }
        -- a KIND 6 word for it is discarded now (R366)
        let s := s.wake banker (.push 7)
        s.putEvent banker (posSlot p) (eventWord 2 (posSlot p) x.deal x.index))
  | _ => .next s

/-- EXIT: the task issues no more, and the waits of step 1 begin. -/
def execExit (s : State) : Out := .next ((s.park s.cur .exiting).exitPoll (s.tk s.cur))

-- the banker's words to the steward (R366, R493)

/-- OUTBOUND_EVENT_DELIVERY: the hub takes the oldest word of a core's outbound event queue; it reaches the steward's queue. -/
def execOutboundEventDelivery (s : State) : Out :=
  match s.msg with
  | .outboundEventDelivery c =>
    .next (match (s.core c).outq with
      | [] => s
      | w :: r =>
        let s := s.modCore c fun k => { k with outq := r }
        (s.wake (mkPos c 0) (.push 7)).postHub (s.cycle - 1 + hubTravel c) .outboundEventDelivery (.stewardEvent c w))
  | .stewardEvent c w =>
    .next (if s.partHalted (s.diePart (coreDie c)) then s
      else s.modHub fun h => { h with events := h.events.upd [] (s.diePart (coreDie c)) (· ++ [(c, w)]) })
  | _ => .next s

end Sys2Proof.Machine
end

