-- ==== Sys2Proof/Machine/Vcaches.lean ====
section
/-! DEFINITION. The vcache instructions and the configuration agents (09_virtual_caches.md R282-R284, R298-R308). -/
namespace Sys2Proof.Machine

-- words of the instructions

/-- The definition a definition word and a rectangle word give (Tables 9-1, 9-2). -/
def vcDefOf (a b : Nat) : VcDef :=
  { parent := bits a 16 7, place := bits a 13 3, log2s := bits a 8 5, die := bits b 16 3, h := bits b 12 4, w := bits b 8 4,
    y0 := bits b 4 4, x0 := bits b 0 4 }

/-- The binding of a base and an attribute word (Table 9-6). -/
def bindingOfWords (a b : Nat) : Binding :=
  { base := bits a 12 45, pages := bits b 0 36, tensor := bits b 48 12, vc := bits b 42 6, sync := bit b 41, posted := bit b 40,
    packed := bit b 39, migrate := bit b 38, world := bit b 37 }

def parentReserved (p : Nat) : Bool := decide (66 ≤ p)

/-- Do the operands of a member hold a reserved value (R307)? -/
def vcReserved (op a b : Nat) : Bool :=
  match op with
  | 0 => a / 2 ^ 23 != 0 || bits a 6 2 != 0 || parentReserved (bits a 16 7) || decide (4 ≤ bits a 13 3) || decide (17 ≤ bits a 8 5)
      || (if bits a 13 3 = 3 then b / 2 ^ 19 != 0 || decide (4 ≤ bits b 16 3) else b != 0)
  | 1 => a / 64 != 0 || b / 128 != 0 || parentReserved b
  | 2 => a / 64 != 0 || decide (17 ≤ b)
  | 3 => a / 2 ^ 57 != 0 || bits a 0 12 != 0 || bit b 36 || bits b 0 36 == 0 || (bit b 41 && bit b 40)
  | 4 => a / 16 != 0
  | _ => a / 64 != 0

-- judging (R283, R284, Table 9-9)

/-- Is a placement valid in a domain (R283)? -/
def placementOk (dom : List Nat) (d : VcDef) : Bool :=
  if d.place = 2 then
    allBelow 4 fun e => !domainMeets dom e || allBelow 32 fun k => dom.contains (e * 32 + k)
  else if d.place = 3 then
    let n := (d.w + 1) * (d.h + 1)
    decide (d.x0 + d.w + 1 ≤ 16) && decide (d.y0 + d.h + 1 ≤ 16) && [1, 2, 4, 8, 16, 32, 64, 128, 256].contains n
      && (List.range n).all fun j => dom.contains (clusterNo (coreOf d.die (d.x0 + j % (d.w + 1)) (d.y0 + j / (d.w + 1))))
  else true

/-- Vcaches on the chain from a parent code up. -/
def Space.depthUp (sp : Space) : Nat → Nat → Nat
  | 0, _ => 0
  | fuel + 1, p => if 64 ≤ p then 0 else match sp.vcs.look p with
    | none => 0
    | some d => 1 + Space.depthUp sp fuel d.parent

/-- Vcaches on the longest chain below, and with, a vcache. -/
def Space.depthDown (sp : Space) : Nat → Nat → Nat
  | 0, _ => 1
  | fuel + 1, v => 1 + ((sp.vcs.filter fun x => x.2.parent == v).map fun x => Space.depthDown sp fuel x.1).foldl max 0

/-- Does the chain from a parent code up meet vcache `v`? -/
def Space.meets (sp : Space) (v : Nat) : Nat → Nat → Bool
  | 0, _ => true
  | fuel + 1, p => if 64 ≤ p then false else p == v || (match sp.vcs.look p with
    | none => false
    | some d => Space.meets sp v fuel d.parent)

/-- Is a parent code allowed for vcache `v` of a placement (R284)? -/
def Space.parentOk (sp : Space) (v place p : Nat) : Bool :=
  if 64 ≤ p then true
  else match sp.vcs.look p with
    | none => false
    | some d => decide (place ≤ d.place) && !sp.meets v 9 p && decide (sp.depthUp 9 p + sp.depthDown 8 v ≤ 8)

/-- Sets of one instance that a core holds. -/
def setsOn (d : VcDef) (dom : List Nat) (core : Nat) : Nat :=
  let n := 2 ^ d.log2s
  let share (m k : Nat) : Nat := (n + (m - 1) - k) / m
  if d.place = 0 then (if dom.contains (clusterNo core) then n else 0)
  else if d.place = 1 then (if dom.contains (clusterNo core) then share 8 (memberNo core) else 0)
  else if d.place = 2 then (if domainMeets dom (coreDie core) then share 256 (core % 256) else 0)
  else if coreDie core = d.die && d.x0 ≤ coreX core && coreX core ≤ d.x0 + d.w && d.y0 ≤ coreY core && coreY core ≤ d.y0 + d.h then
    share ((d.w + 1) * (d.h + 1)) ((coreY core - d.y0) * (d.w + 1) + (coreX core - d.x0))
  else 0

/-- The cores of a domain. -/
def domainCores (dom : List Nat) : List Nat := dom.flatMap fun k => (List.range 8).map fun j => clusterCore (clusterBase k) j

/-- Do some definitions fit every core's grant (R280)? -/
def Space.grantOk (sp : Space) (vcs : Tbl VcDef) : Bool :=
  (domainCores sp.domain).all fun c =>
    decide ((vcs.map fun x => setsOn x.2 sp.domain c).foldl (· + ·) 0 ≤ sp.grants.get 0 c)

/-- The lowest status that applies, 0 if none (R307). -/
def lowest (l : List (Nat × Bool)) : Nat := ((l.find? (·.2)).map (·.1)).getD 0

/-- Does a region meet another binding, the aperture, or pass 2^57 (R298)? -/
def Space.regionBad (sp : Space) (x : Binding) : Bool :=
  decide (2 ^ 45 < x.base + x.pages) || decide (0x1FFF * 2 ^ 32 < x.base + x.pages)
    || sp.binds.any fun y => decide (y.2.base < x.base + x.pages) && decide (x.base < y.2.base + y.2.pages)

/-- The CQUERY word (Table 9-10). -/
def Space.queryWord (sp : Space) (v : Nat) : Nat :=
  match sp.vcs.look v with
  | none => 0
  | some d =>
    2 ^ 63 + (1 + sp.depthUp 8 d.parent) * 2 ^ 36 + (sp.binds.filter fun x => x.2.vc == v).length * 2 ^ 31
      + (sp.vcs.filter fun x => x.2.parent == v).length * 2 ^ 24 + d.parent * 2 ^ 16 + d.place * 2 ^ 13 + d.log2s * 2 ^ 8 + v

/-- The status of an instruction (R308). -/
def Space.judge (sp : Space) (j : AgentJob) : Nat :=
  let v := j.a % 64
  let undefined_ := (sp.vcs.look v).isNone
  let df := (sp.vcs.look v).getD { parent := 64, place := 0, log2s := 0 }
  match j.op with
  | 0 =>
    let d := vcDefOf j.a j.b
    lowest [(1, !undefined_), (2, !placementOk sp.domain d), (3, !sp.parentOk v d.place d.parent), (4, !sp.grantOk (sp.vcs.put v d))]
  | 1 => lowest [(1, undefined_), (3, !sp.parentOk v df.place j.b), (4, !sp.grantOk (sp.vcs.put v { df with parent := j.b }))]
  | 2 => lowest [(1, undefined_), (4, !sp.grantOk (sp.vcs.put v { df with log2s := j.b }))]
  | 3 =>
    let x := bindingOfWords j.a j.b
    lowest [(1, (sp.vcs.look x.vc).isNone), (6, (sp.binds.look (bits j.b 60 4)).isSome), (7, sp.regionBad x), (8, x.world && !j.world)]
  | 4 => lowest [(6, (sp.binds.look j.a).isNone)]
  | 5 => sp.queryWord v
  | _ => lowest [(1, undefined_), (5, v == 0 || (sp.binds.any fun x => x.2.vc == v) || sp.vcs.any fun x => x.2.parent == v)]

-- the transaction (R300, R304)

/-- The leaves that map some pages of a space, holes skipped. -/
def State.leavesIn (s : State) (space stop : Nat) : Nat → Nat → List Tlb
  | 0, _ => []
  | fuel + 1, page =>
    if stop ≤ page then []
    else match s.walkFrom space (page * 4096) 5 0 (s.space space).root with
      | (_, .leaf t, _) => t :: State.leavesIn s space stop fuel (t.page + t.count)
      | (n, _, _) =>
        let span := 2 ^ (levelLow (n - 1) - 12)
        State.leavesIn s space stop fuel ((page / span + 1) * span)

/-- Step 3 on one instance (R300): its dirty lines go up its old chain until the lowest level on both chains holds them. Its W. -/
def State.transactUp (s : State) (i : Inst) (newUp : List Inst) (dirty : List Nat) : Nat × State :=
  let old := s.above i
  -- M is the lowest level on both chains; counted as instances below it
  let (below, _) := meeting old newUp
  let (w, s) := dirty.foldl (fun ws l => lift i.aCore (below + 1) (i :: old) l ws) (([] : Written), s)
  (w.cost, s)

/-- Step 4 for one instance (R300): copies of its lines on the new chain below M write their own dirty bytes up to M and go. Their
number. -/
def State.transactNew (s : State) (i : Inst) (newUp : List Inst) (dirty : List Nat) : Nat × State :=
  let (_, belowNew) := meeting (s.above i) newUp
  dirty.foldl (fun (k, s) l =>
    let (_, s) := lift i.aCore belowNew newUp l (([] : Written), s)
    removeCopies belowNew newUp l (k, s)) (0, s)

/-- Steps 3 to 5 of a transaction on every instance of `v` at once (R300, R304), restricted to the lines `mine` picks: step 3 on all,
then step 4 on all, so that a step 4 value remains (R301); `drop` removes the lines of `v` afterwards. The time W + I. -/
def State.transact (s : State) (space v : Nat) (newUp : Nat → List Inst) (mine : Nat → Bool) (drop : Bool) : Nat × State :=
  let s := s.flushSpace space
  let jobs := ((s.space space).instances space v).map fun i =>
    let lines := (s.linesOf i).filter mine
    (i, lines, lines.filter fun l => match s.vline i l with | some y => y.dirty != 0 | none => false)
  let (w, s) := jobs.foldl (fun (w, s) (i, _, dirty) =>
    let (w', s) := s.transactUp i (newUp i.aCore) dirty
    (max w w', s)) (0, s)
  let s := s.flushSpace space
  let (k, s) := jobs.foldl (fun (k, s) (i, _, dirty) =>
    let (k', s) := s.transactNew i (newUp i.aCore) dirty
    (k + k', s)) (0, s)
  let s := if drop then jobs.foldl (fun s (i, lines, _) => lines.foldl (fun s l => s.dropVline i l) s) s else s
  (w + (if k = 0 then 0 else 60 + 2 * k), s)

/-- The most sets of a vcache that one core holds (the s of R305's Z). -/
def Space.mostSets (sp : Space) (d : VcDef) : Nat := ((domainCores sp.domain).map fun c => setsOn d sp.domain c).foldl max 0

/-- The first vcache and chain of a region's binding: empty where accesses allocate nowhere (R289). -/
def State.bindChain (s : State) (space : Nat) (x : Option Binding) (core : Nat) : List Inst :=
  match x with
  | some b => if b.sync then [] else s.chain space core b.vc
  | none => s.chain space core 0

/-- Carry an instruction of status 0 out: its time beyond max(a, E) + 20 (R305: W + I + Z), and the state. -/
def State.carryOut (s : State) (space : Nat) (j : AgentJob) : Nat × State :=
  let sp := s.space space
  let v := j.a % 64
  let df := (sp.vcs.look v).getD { parent := 64, place := 0, log2s := 0 }
  match j.op with
  | 0 => (0, s.modSpace space fun sp => { sp with vcs := sp.vcs.put v (vcDefOf j.a j.b) })
  | 1 =>
    let up (core : Nat) : List Inst := if j.b < 64 then sp.chain space core 8 j.b else []
    let (n, s) := s.transact space v up (fun _ => true) false
    (n, s.modSpace space fun sp => { sp with vcs := sp.vcs.put v { df with parent := j.b } })
  | 2 | 6 =>
    let up (core : Nat) : List Inst := if df.parent < 64 then sp.chain space core 8 df.parent else []
    let (n, s) := s.transact space v up (fun _ => true) true
    let s := s.modSpace space fun sp =>
      { sp with vcs := if j.op = 2 then sp.vcs.put v { df with log2s := j.b } else sp.vcs.del v }
    (n + ceilDiv (sp.mostSets df) 16, s)
  | 3 | 4 =>
    let slot := if j.op = 3 then bits j.b 60 4 else j.a
    let bind := if j.op = 3 then bindingOfWords j.a j.b else (sp.binds.look slot).getD (bindingOfWords 0 0)
    let old := if j.op = 3 then 0 else bind.vc
    let new := if j.op = 3 then bind.vc else 0
    let set_ (s : State) : State := s.modSpace space fun sp =>
      { sp with binds := if j.op = 3 then sp.binds.put slot bind else sp.binds.del slot }
    let held := ((sp.instances space old).any fun i => !(s.linesOf i).isEmpty)
    if (old = new && !bind.sync) || !held then (0, set_ s)
    else
      let leaves := s.leavesIn space (bind.base + bind.pages) (bind.pages + 1) bind.base
      let mine (l : Nat) : Bool := leaves.any fun t =>
        t.frame ≤ l / 32 && l / 32 < t.frame + t.count && bind.base ≤ t.page + (l / 32 - t.frame)
          && t.page + (l / 32 - t.frame) < bind.base + bind.pages
      let up (core : Nat) : List Inst := s.bindChain space (if j.op = 3 then some bind else none) core
      let (n, s) := s.transact space old up mine true
      (n, set_ s)
  | _ => (0, s)

/-- Does an instruction of status 0 freeze a vcache while it runs (R300 step 1, R304)? The vcache and the region. -/
def Space.freezes (sp : Space) (j : AgentJob) : Option (Nat × Option (Nat × Nat)) :=
  match j.op with
  | 1 | 2 | 6 => some (j.a % 64, none)
  | 3 =>
    let x := bindingOfWords j.a j.b
    if x.vc = 0 && !x.sync then none else some (0, some (x.base, x.pages))
  | 4 => match sp.binds.look j.a with
    | some x => if x.vc = 0 && !x.sync then none else some (x.vc, some (x.base, x.pages))
    | none => none
  | _ => none

/-- Finish step 2 onward of the instruction in hand: steps 3 to 5 now, step 6 when their time has passed (R305). -/
def State.agentSteps (s : State) (space : Nat) (j : AgentJob) : State :=
  let (n, s) := s.carryOut space j
  (s.modSpace space fun sp => { sp with waiting := false }).postHub (s.cycle + n + 20) .reconfigResume (.reconfigResume space)

/-- The agent takes its next instruction (R303, R305). -/
def State.agentTake (s : State) (space : Nat) : State :=
  let sp := s.space space
  match sp.jobs with
  | [] => s
  | j :: _ =>
    let st := sp.judge j
    let s := s.modSpace space fun sp => { sp with taken := true, status := st }
    -- a world refusal also writes a refusal record (R299)
    let s := if j.op = 3 && st = 8 then s.refuseWorld (posCore j.t.pos) j.t 0 space j.world else s
    if j.op = 5 || st ≠ 0 then s.postHub (s.cycle + 20) .reconfigResume (.reconfigResume space)
    else match sp.freezes j with
      | none => s.agentSteps space j
      | some (v, r) =>
        let s := s.modSpace space fun sp => { sp with frozen := [v], frozenRegion := r, waiting := true }
        if s.entered space then s else s.agentSteps space j

/-- CONFIG_AGENT_TAKE (R303, R305): an instruction arrives at its space's agent, which takes it when it is free; or the last
access that had entered the vcache has completed and the transaction goes on. -/
def execConfigAgentTake (s : State) : Out :=
  match s.msg with
  | .configArrive space t id op a b dest world =>
    let s := s.modSpace space fun sp => { sp with jobs := sp.jobs ++ [{ t := t, id := id, op := op, a := a, b := b, dest := dest, world := world }] }
    .next (if (s.space space).taken then s else s.agentTake space)
  | .configAgentTake space =>
    match (s.space space).jobs with
    | j :: _ => .next (if (s.space space).waiting && !s.entered space then s.agentSteps space j else s)
    | [] => .next s
  | _ => .next s

/-- RECONFIG_RESUME (R300 step 6, R305): at T − 100 parked accesses resume from their start under the new chain, and the agent
takes its next instruction. -/
def execReconfigResume (s : State) : Out :=
  match s.msg with
  | .reconfigResume space =>
    let sp := s.space space
    match sp.jobs with
    | [] => .next s
    | j :: rest =>
      let s := s.modSpace space fun sp =>
        { sp with jobs := rest, taken := false, frozen := [], frozenRegion := none, parked := [], waiting := false }
      let s := sp.parked.foldl State.restartAcc s
      let s := s.postAt (s.cycle + 100) j.t.pos .vcacheStatusWrite (.vcacheStatusWrite j.t j.id sp.status j.dest)
      .next (s.agentTake space)
  | _ => .next s

/-- VCACHE_STATUS_WRITE (R305, R306): the status is written to d at T, to the saved context of a task pre-empted meanwhile. -/
def execVcacheStatusWrite (s : State) : Out :=
  match s.msg with
  | .vcacheStatusWrite t id st dest =>
    .next (match s.waitPlace t (.reconfig id) with
      | some p =>
        match s.finishBlocking p (Finish.value_ dest st) with
        | some s => s
        | none => s.postAt (s.cycle + 1) p .vcacheStatusWrite (.vcacheStatusWrite t id st dest)
      | none => s.finishSaved (.reconfig id) (Finish.value_ dest st))
  | _ => .next s

-- the instructions (R308)

/-- Issue a vcache instruction: operands read and checked, then on its way to the agent (R305, R307). -/
def vcacheMember (op : Nat) (d : Reg) (srcs : List Reg) (s : State) : State :=
  withSrcs srcs s fun vs s =>
    let a := (vs.getD 0 0).toNat
    let b := (vs.getD 1 0).toNat
    if vcReserved op a b then s.formatFault 0
    else
      let (id, s) := s.fresh
      let t := s.tk s.cur
      let task := s.my
      (s.park s.cur (.reconfig id)).postAt (s.cycle + 100) s.cur .configAgentTake
        (.configArrive task.space t id op a b d task.world)

def execCdef (d a b : Reg) (s : State) : Out := .next (vcacheMember 0 d [a, b] s)
def execCparent (d a b : Reg) (s : State) : Out := .next (vcacheMember 1 d [a, b] s)
def execCresize (d a b : Reg) (s : State) : Out := .next (vcacheMember 2 d [a, b] s)
def execCbind (d a b : Reg) (s : State) : Out := .next (vcacheMember 3 d [a, b] s)
def execCunbind (d a : Reg) (s : State) : Out := .next (vcacheMember 4 d [a] s)
def execCquery (d a : Reg) (s : State) : Out := .next (vcacheMember 5 d [a] s)
def execCdrop (d a : Reg) (s : State) : Out := .next (vcacheMember 6 d [a] s)

end Sys2Proof.Machine
end

