-- ==== Sys2Proof/Machine/Agents.lean ====
section
/-! DEFINITION. Translations and their removal, the hub's translation agent, bank pages, and the settings that stewards make
through the hub (18_translation_and_isolation.md R441-R449, 19_traps_and_preemption.md R465, 21_module.md R486, R492). -/
namespace Sys2Proof.Machine

-- the end of a walk (R442, R447)

/-- A walk for some requesters has found a leaf: the caches of their cores hold it, and they go on. -/
def State.walked (s : State) (w : Walk) (e : Tlb) : State :=
  let enter (s : State) (c : Nat) : State := (s.enterClusterTlb c e).enterCoreTlb c e
  let s := w.slots.foldl (fun s t => (enter s (posCore t.pos)).wake t.pos .walk) s
  let s := w.runs.foldl (fun s t =>
    let s := enter s (posCore t.pos)
    ((s.task t.pos).runs.filter fun r => r.hold == some (.walk w.page)).foldl (fun s r =>
      (s.modTask t.pos fun x => x.modRun r.id fun y => { y with hold := none }).postUnit s.cycle t.pos r r.next r.id) s) s
  w.copies.foldl (fun s k => match s.hub.copies.look k with
    | some x => match x.lines[x.next]? with
      | some l => (enter s x.core).postLine s.cycle k x l
      | none => s
    | none => s) s

/-- A walk for some requesters has faulted: every one of them stops, and the first sends the one record of the page. -/
def State.walkFaults (s : State) (w : Walk) (sub : Nat) : State :=
  let s := match w.slots with
    | [] => s
    | t :: r =>
      let s := s.supFault t.pos 0x40 sub w.va w.acc
      r.foldl (fun s u => (s.modSlot u.pos fun x => { x with pending? := (s.slot t.pos).pending? }).park u.pos .fault) s
  let (told, s) := w.runs.foldl (fun (told, (s : State)) t =>
    ((s.task t.pos).runs.filter fun r => r.hold == some (.walk w.page)).foldl (fun (told, (s : State)) r =>
      (true, s.faultRun t.pos r 0x40 sub w.va w.acc told)) (told, s)) (!w.slots.isEmpty, s)
  (w.copies.foldl (fun (told, (s : State)) k => match s.hub.copies.look k with
    | some x => (true, s.copyFault k x (x.lines.getD x.next 0) 0x40 sub w.va w.acc told)
    | none => (told, s)) (told, s)).2

/-- TRANSLATION_WALK (R442, R447): a walk ends, and those that still wait for it go on or stop. -/
def execTranslationWalk (s : State) : Out :=
  match s.msg with
  | .translationWalk space page =>
    match s.mem.walks.find? fun w => w.space == space && w.page == page with
    | none => .next s
    | some w =>
      let die := coreDie (posCore w.by_)
      let s := (s.modMem fun m => { m with walks := m.walks.filter fun x => x != w }).nextWalk die
      let w := { w with slots := w.slots.filter fun t => s.waitsFor t .walk, runs := w.runs.filter s.isAt }
      match s.walk die space w.va with
      | (_, .leaf e, ts) =>
        let s := s.modMem fun m => { m with walkerTlb := m.walkerTlb.upd [] die fun l =>
          ((ts.map fun x => (space, walkKey x.1 w.va, x.2)) ++ l.filter fun y =>
            !ts.any fun x => y.1 == space && y.2.1 == walkKey x.1 w.va).take 256 }
        .next (s.walked w e)
      | (_, .fault sub, _) => .next (s.walkFaults w sub)
  | _ => .next s

-- removing translations (R448)

/-- Does a range of pages meet another? -/
def pagesMeet (a n b m : Nat) : Bool := decide (a < b + m) && decide (b < a + n)

/-- Does a walker-cache entry of a space cover some page of a range? Its key is the level of its table and the address bits above. -/
def walkerMeets (space page count : Nat) (x : Nat × Nat × Nat) : Bool :=
  let span := 2 ^ (levelLow (x.2.1 % 8 - 1) - 12)
  x.1 == space && pagesMeet (x.2.1 / 8 * span) span page count

/-- The translations of a range of a space's pages that some cache holds. -/
def State.cachedTlbs (s : State) (space page count : Nat) : List Tlb :=
  let hit (t : Tlb) : Bool := t.space == space && pagesMeet t.page t.count page count
  (((s.cores.flatMap fun x => x.2.tlb) ++ s.mem.clusterTlb.flatMap (·.2)).filter hit).eraseDups

/-- Remove every translation-cache and walker entry of a range, and restart the walks in flight for its pages. -/
def State.shootDown (s : State) (space page count : Nat) : State :=
  let keep (t : Tlb) : Bool := !(t.space == space && pagesMeet t.page t.count page count)
  let s := s.mapCores fun k => { k with tlb := k.tlb.filter keep }
  let s := s.modMem fun m =>
    { m with clusterTlb := m.clusterTlb.map fun x => (x.1, x.2.filter keep),
             walkerTlb := m.walkerTlb.map fun x => (x.1, x.2.filter fun y => !walkerMeets space page count y) }
  let walking (x : Pending) : Bool := match x.msg with
    | .translationWalk sp pg => sp == space && pagesMeet pg 1 page count
    | _ => false
  let again := s.agenda.filter walking
  let s := { s with agenda := s.agenda.filter fun x => !walking x }
  again.foldl (fun s x => match x.msg with
    | .translationWalk sp pg =>
      let n := (s.walkFrom sp (pg * 4096) 5 0 (s.space sp).root).1
      s.post (s.cycle + 40 + 60 * n) x.tie x.ev x.msg
    | _ => s) s

/-- The bytes that translations map. -/
def tlbSpans (l : List Tlb) : List (Nat × Nat) := l.map fun t => (t.frame * 4096, t.count * 4096)

/-- Does an address lie in some spans? -/
def inSpans (l : List (Nat × Nat)) (a : Nat) : Bool := l.any fun x => decide (x.1 ≤ a) && decide (a < x.1 + x.2)

/-- Does a message carry an access of a space to some spans? -/
def Msg.reaches (space : Nat) (l : List (Nat × Nat)) : Msg → Bool
  | .vcacheAccessArrival a | .homeFill a | .lineFill a _ _ _ => a.space == space && inSpans l (a.line * 128)
  | .reservationGrant r _ _ _ => r.space == space && !r.scratch && inSpans l r.loc
  | m => m.req?.any fun r => r.space == space && !r.scratch && inSpans l r.loc

/-- Is an access of a space to some spans still to complete? -/
def State.inUse (s : State) (space : Nat) (l : List (Nat × Nat)) : Bool :=
  s.agenda.any (fun x => x.msg.reaches space l)
    || s.mem.fills.any (fun x => x.waiting.any fun a => a.space == space && inSpans l (a.line * 128))
    || (s.space space).parked.any (fun a => inSpans l (a.line * 128))
    || s.mem.resv.any fun x => (!x.2.hold && inSpans l (x.1 * 8)) || x.2.queue.any fun r => r.space == space && !r.scratch && inSpans l r.loc

/-- Lift every dirty byte of some spans home and remove their lines from every instance; the lines removed. -/
def State.evictSpans (s : State) (l : List (Nat × Nat)) : Nat × State :=
  let s := s.flushBacks fun _ _ _ n => inSpans l (n * 128)
  let held := ((s.mem.vsets.flatMap fun x => x.2.map (·.line)).filter fun n => inSpans l (n * 128)).eraseDups
  held.foldl (fun (k, s) n =>
    let (m, s) := s.probe n
    (k + m, s)) (0, s)

/-- TLBINV (R448). -/
def execTlbinv (a : Reg) (e : BitVec 1) (s : State) : Out :=
  .next (if posSlot s.cur ≠ 0 then s.noIssue 0x41 3 0 3
    else with1 a s fun x s =>
      let space := bits x.toNat 0 12
      let page := bits x.toNat 12 45
      if x.toNat / 2 ^ 57 ≠ 0 then s.formatFault 0
      else if (s.space space).part ≠ s.diePart (coreDie (posCore s.cur)) then s.noIssue 0x41 3 0 3
      else
        let removed := s.cachedTlbs space page 1
        let s := s.shootDown space page 1
        let (id, s) := s.blockOpen
        s.postAt s.cycle s.cur .classBCompletion (.tlbinvWait (s.tk s.cur) id space page (e == 1) (tlbSpans removed)))

/-- A TLBINV looks whether the accesses have completed; then the lines of the frames that the removed translations named, and the leaf
now in the table names, leave, and it completes 300 cycles later, plus 2 for each. -/
def State.tlbinvPoll (s : State) (t : Tk) (id space page : Nat) (evict : Bool) (l : List (Nat × Nat)) : State :=
  if s.inUse space l then s.postAt (s.cycle + 1) t.pos .classBCompletion (.tlbinvWait t id space page evict l)
  else
    let now := match s.walkFrom space (page * 4096) 5 0 (s.space space).root with
      | (_, .leaf e, _) => tlbSpans [e]
      | _ => []
    let (n, s) := if evict then s.evictSpans (l ++ now).eraseDups else (0, s)
    s.postAt (s.cycle + 300 + 2 * n) t.pos .classBCompletion (.classBCompletion t id Finish.plain)

-- bank pages (R492, R279)

/-- Does a core keep a bank page for a window page? -/
def State.bankTaken (s : State) (core page : Nat) : Bool :=
  s.mem.wpages.any (fun x => x.1 / 1024 / 4096 == core && x.2.bank == some page)
    || s.mem.refills.any fun r => r.core == core && r.running && r.bank == page

/-- A bank page enters a core's list; refills that wait take pages in the order they began to wait. -/
def State.pageEnters (s : State) (core page : Nat) : State :=
  let s := s.modCore core fun k => { k with free := k.free ++ [page] }
  (s.mem.refills.filter fun r => r.core == core && !r.running).foldl (fun s r => s.beginRefill r.core r.space r.page) s

/-- PAGEFREE (R492). -/
def execPagefree (s : State) : Out :=
  match s.msg with
  | .issued k m => .next (s.command k .pagefree m)
  | .pagefree part core page =>
    .next (if s.diePart (coreDie core) ≠ part || 768 ≤ page || (s.core core).bankUse.get 0 (page / 4) ≠ 1 || s.bankTaken core page
        || (s.core core).free.contains page then s.refuseSteward part 0
      else s.pageEnters core page)
  | _ => .next s

/-- PAGETAKE (R492). -/
def execPagetake (s : State) : Out :=
  match s.msg with
  | .issued k m => .next (s.command k .pagetake m)
  | .pagetake part core page =>
    .next (if s.diePart (coreDie core) ≠ part then s.refuseSteward part 0
      else s.modCore core fun k => { k with free := k.free.erase page })
  | _ => .next s

-- unpinning (R465, R256, R253)

/-- Write the 4 KiB of a pinned bank page to a frame at home, as a copy write, each line with its poison (R352, R291). -/
def State.writePage (s : State) (base loc : Nat) : State :=
  let v := s.bytesAt base 4096
  (List.range 32).foldl (fun s k =>
    (s.hubCopyWrite (loc + 128 * k) 128 (v / 2 ^ (1024 * k) % 2 ^ 1024)).setPoison (loc / 128 + k) (s.poisoned (base + 128 * k))) s

/-- Write the full/empty image of a pinned bank page at home (R253). -/
def State.writeImage (s : State) (base loc : Nat) : State :=
  let img := ((List.range 1024).filter fun k => !s.mem.empties.contains (base / 4 + k)).foldl (fun n k => n + 2 ^ k) 0
  (s.hubCopyWrite loc 128 img).setPoison (loc / 128) false

/-- A write-back of the translation agent to a global address of a space: a copy write, so that it needs a writable mapping of a frame
that is not executable, of the space's world (R352, R97, R444, R451). Where it has none, nothing is written; a record names the fault,
as for a copy, and a world refusal has its own (DESIGN CHOICE, log entry 55). -/
def State.writeBacking (s : State) (space va : Nat) (go : Nat → State → State) : State :=
  match s.placeNow 0 space (s.space space).world true va with
  | .ok pl => if pl.scratch then s else go pl.loc s
  | .error (cause, sub) =>
    let sp := s.space space
    let s := s.postHub (s.cycle + 140) .faultRecordDelivery (.faultRecordDelivery
      [s.cycle, va, 0, cause, sub, 1, 1, sp.world.toNat, space, 4 * 4096, 0, sp.part])
    if cause = 0x41 ∧ sub = 1 then
      let e : ErrRec := { cycle := s.cycle, code := 0x50, sev := 5, addr := s.physical 0 space va, space := space, world := sp.world, part := sp.part }
      s.postHub s.cycle .errorRecordDelivery (.errorRecord e)
    else s

/-- Write a pinned page and its full/empty image back, to its backing and shadow addresses (R465 steps 2 and 3). -/
def State.savePage (s : State) (space : Nat) (w : WPage) (base : Nat) : State :=
  let s := if w.dirty then s.writeBacking space w.backing fun loc s => s.writePage base loc else s
  match w.shadow with
  | some a => if w.feDirty then s.writeBacking space a fun loc s => s.writeImage base loc else s
  | none => s

/-- Waiters on an unpinned page are refused, not counting against FERETRY, and go out again (R256). -/
def State.refuseWaiters (s : State) (core space page : Nat) : State :=
  let mine (r : PortReq) : Bool := r.owner == core && r.space == space && r.off / 4096 == page
  let l := s.mem.feWait.filter mine
  let s := s.modMem fun m => { m with feWait := m.feWait.filter fun r => !mine r }
  l.foldl (fun s r =>
    let s' := s.sendReq (s.cycle + s.half r r.op.reads) r
    if r.counted && r.tries = 0 then s'.modCore r.core fun c => { c with sent := (c.sent + 2 ^ 32 - 1) % 2 ^ 32 } else s') s

/-- Unpin a window page: its bytes go home, its bank page to the core's list (R465). -/
def State.unpinPage (s : State) (core space page : Nat) (save : Bool) : State :=
  let key := wpageKey core space page
  match s.mem.wpages.look key with
  | none => s
  | some w => match w.bank with
    | none => s
    | some b =>
      let base := scratchLoc core b 0
      let s := if save then s.savePage space w base else s
      let s := s.modMem fun m =>
        { m with wpages := m.wpages.put key { w with bank := none, dirty := false, feDirty := false },
                 empties := m.empties.filter fun e => e < base / 4 || base / 4 + 1024 ≤ e,
                 errWords := m.errWords.filter fun e => e < base / 4 || base / 4 + 1024 ≤ e,
                 poison := m.poison.filter fun l => l < base / 128 || base / 128 + 32 ≤ l }
      let s := s.rekeyPage core base (parkedBase key)
      (s.refuseWaiters core space page).pageEnters core b

/-- Do some spans of an engine on core `c` reach a window page? -/
def spansReach (c core page : Nat) (l : List Span) : Bool :=
  l.any fun x => match classify c x.va with
    | .scratch k off => k == core && decide (off / 4096 ≤ page) && decide (page ≤ (off + x.len - 1) / 4096)
    | _ => false

/-- Is an access to a pinned page still to complete (R465 step 1): a request on its way to the page or an answer on its way back, a
read-modify-write between its two steps or a HOLD's reservation, a tile instruction, a matrix operation or a copy in progress that has
still to reach it? What a fault, a refill or the steward holds up has no access under way. -/
def State.pageBusy (s : State) (core space page : Nat) : Bool :=
  match (s.mem.wpages.look (wpageKey core space page)).bind (·.bank) with
  | none => false
  | some b =>
    let mine (r : PortReq) : Bool := r.scratch && r.owner == core && r.space == space && r.off / 4096 == page
    let unit := scratchUnit core space (page * 4096)
    (s.mem.resv.any fun x => x.1 / 512 == scratchLoc core b 0 / 4096)
      || (s.agenda.any fun x => x.msg.req?.any mine || (match x.msg with | .reservationGrant r _ _ _ => mine r | _ => false))
      || (s.slots.any fun (p, x) => x.resident && (
          (x.task.space == space && x.task.runs.any fun r => r.hold.isNone && !r.cut
            && (List.range (r.units - r.next)).any fun k => spansReach (posCore p) core page (s.unitSpans (posCore p) space r (r.next + k)))
          || x.task.pend.any fun a => a.doneAt.any (s.cycle < ·) && a.ranges.any fun g => decide (g.1 < unit + 1024) && decide (unit < g.2)))
      || (s.cores.any fun (_, k) => k.partner.run.any fun r => !r.held && (s.findTask r.t).any fun t => t.pend.any fun a =>
            a.id == r.cmd.id && a.ranges.any fun g => decide (g.1 < unit + 1024) && decide (unit < g.2))
      || (s.hub.copies.any fun (k, x) => x.space == space && !x.held && x.throttled == 0 && x.outcome.isNone
          && (s.core x.core).dealer.queue.head? == some k && (x.lines.drop x.next).any fun l =>
            spansReach x.core core page [⟨l * 128, 128, true⟩]
              || (lineMoves x.runs l).any fun m => spansReach x.core core page [⟨m.1, m.2.2, false⟩])

/-- Does the translation agent serve another command? It serves them one at a time (R449). -/
def State.agentBusy (s : State) : Bool :=
  s.agenda.any fun x => match x.msg with
    | .unmapWait .. | .unpinEnd .. => true
    | _ => false

/-- UNPIN (R465). It completes 200 cycles after the agent takes it, and 64 more where the page is written. -/
def execUnpin (s : State) : Out :=
  match s.msg with
  | .issued k m => .next (s.command k .unpin m)
  | .unpin part core space page =>
    .next (if s.diePart (coreDie core) ≠ part || (s.space space).part ≠ part then s.refuseSteward part 0
      else if s.agentBusy then s.postHub (s.cycle + 1) .unpin (.unpin part core space page)
      else
        let dirty := match s.mem.wpages.look (wpageKey core space page) with | some w => w.bank.isSome && w.dirty | none => false
        s.postHub (s.cycle + 200 + (if dirty then 64 else 0)) .unpin (.unpinEnd core space page))
  | .unpinEnd core space page =>
    .next (if s.pageBusy core space page then s.postHub (s.cycle + 1) .unpin (.unpinEnd core space page)
      else s.unpinPage core space page true)
  | _ => .next s

-- UNMAP (R449)

/-- The address of the leaf entry that maps an address, from table `tab` of level `l` down. -/
def State.leafAt (s : State) (va : Nat) : Nat → Nat → Nat → Option Nat
  | 0, _, _ => none
  | fuel + 1, l, tab =>
    let at_ := tab + 8 * bits va (levelLow l) (levelBits l)
    let e := s.bytesAt at_ 8
    if !bit e 0 then none else if bit e 1 then some at_ else State.leafAt s va fuel (l + 1) (bits e 9 43 * 512)

/-- Write V := 0 at home into every leaf of a range (step 2). A SPAN block's leaves are its sixteen entries. -/
def State.clearLeaves (s : State) (space page count : Nat) (l : List Tlb) : State :=
  l.foldl (fun s t =>
    let pages := if t.count = 16 then ((List.range 16).map (t.page + ·)).filter fun k => page ≤ k && k < page + count else [max page t.page]
    pages.foldl (fun s k => match s.leafAt (k * 4096) 5 0 (s.space space).root with
      | some a => s.hubWrite a 8 (setBits (s.bytesAt a 8) 0 1 0)
      | none => s) s) s

/-- Pinned window pages whose backing lies in a range of the space's pages: core and window page (step 1). -/
def State.pinnedIn (s : State) (space page count : Nat) : List (Nat × Nat) :=
  (s.mem.wpages.filter fun x => x.1 / 1024 % 4096 == space && x.2.bank.isSome && page ≤ x.2.backing / 4096 && x.2.backing / 4096 < page + count).map
    fun x => (x.1 / 1024 / 4096, x.1 % 1024)

/-- Revoke every HOLD on a location of some spans (step 3, R266). -/
def State.revokeSpans (s : State) (l : List (Nat × Nat)) : State :=
  (s.mem.resv.filter fun x => x.2.hold && inSpans l (x.1 * 8)).foldl (fun s x => s.revokeAt x.1) s

/-- The agent's answer to an UNMAP. -/
def State.unmapReply (s : State) (status count : Nat) : State := s.modHub fun h => { h with replies := h.replies ++ [(status, count)] }

/-- A forced page (step 4): its 4 KiB are written to the frame its backing had in the range, its image to the frame its shadow had
there, or where its shadow is still mapped, and the page is unpinned. -/
def State.forcePage (s : State) (space core page : Nat) (back shadow : Option Nat) : State :=
  match s.mem.wpages.look (wpageKey core space page) with
  | none => s
  | some w => match w.bank with
    | none => s
    | some b =>
      let base := scratchLoc core b 0
      let s := match back with | some loc => s.writePage base loc | none => s
      let s := match w.shadow, shadow with
        | some _, some loc => s.writeImage base loc
        | some a, none => s.writeBacking space a fun loc s => s.writeImage base loc
        | none, _ => s
      s.unpinPage core space page false

/-- The first location under some translations that a write-back to an address may reach: a writable frame that is not executable, of
the space's world (R97, R444, R451). -/
def State.frameOf (s : State) (space : Nat) (l : List Tlb) (va : Nat) : Option Nat :=
  match l.find? fun t => t.page ≤ va / 4096 && va / 4096 < t.page + t.count with
  | some t =>
    let pl := s.globalPlace space (s.space space).world t 0 va
    if s.mayWrite t (va / 4096) && pl.world == s.secure pl.loc then some pl.loc else none
  | none => none

/-- The forced pages of an UNMAP, one after another, each once its accesses have completed (step 4): those still to be done. -/
def State.forcePages (space : Nat) : List (Nat × Nat × Option Nat × Option Nat) → State → List (Nat × Nat × Option Nat × Option Nat) × State
  | [], s => ([], s)
  | x :: r, s => if s.pageBusy x.1 space x.2.1 then (x :: r, s) else State.forcePages space r (s.forcePage space x.1 x.2.1 x.2.2.1 x.2.2.2)

/-- Every leaf of every space. -/
def State.allLeaves (s : State) : List Tlb :=
  s.spaces.flatMap fun x => if x.2.valid then s.leavesIn x.1 (2 ^ 45) (2 ^ 45) 0 else []

/-- Is a frame mapped writable in some space? -/
def State.frameWritable (s : State) (l : List Tlb) (f : Nat) : Bool := l.any fun t => t.w && t.frame ≤ f && f < t.frame + t.count

/-- Is some frame that is mapped executable mapped writable as well? No setting of a steward may bring that about (R97). -/
def State.codeWritable (s : State) : Bool :=
  !s.codeFrames.isEmpty && s.codeFrames.any (s.frameWritable s.allLeaves)

/-- Does a range meet a frame that is mapped executable (R97)? -/
def State.meetsCode (s : State) (addr n : Nat) : Bool := s.codeFrames.any fun f => decide (addr / 4096 ≤ f) && decide (f ≤ (addr + n - 1) / 4096)

/-- Slots that run words fetched from frames that lose their executable mapping keep those words (R469). -/
def State.keepWords (s : State) (gone : Nat → Bool) : State :=
  { s with slots := s.slots.map fun (p, x) =>
      (p, if x.fetchTr.any fun f => f.words.isEmpty && gone f.frame then
          { x with fetchTr := x.fetchTr.map fun f =>
              if f.words.isEmpty && gone f.frame then { f with words := (List.range 1024).map fun k => s.bytesAt (f.frame * 4096 + 4 * k) 4 } else f }
        else x) }

/-- Frames of some spans that no leaf maps executable any more are no longer known to the scanner (R97). -/
def State.forgetScans (s : State) (l : List (Nat × Nat)) : State :=
  if !s.module_.scanned.any fun f => inSpans l (f * 4096) then s
  else
    let xs := s.allLeaves.filter (·.x)
    let keep (f : Nat) : Bool := !inSpans l (f * 4096) || xs.any fun t => t.frame ≤ f && f < t.frame + t.count
    let s := s.keepWords fun f => s.module_.scanned.contains f && !keep f
    { s with module_ := { s.module_ with scanned := s.module_.scanned.filter keep } }

/-- UNMAP, and its look whether the accesses of the range have completed. -/
def execUnmap (s : State) : Out :=
  match s.msg with
  | .issued k m => .next (s.command k .unmap m)
  | .unmap part space page count force evict =>
    .next (if (s.space space).part ≠ part then s.refuseSteward part 0
      else if s.agentBusy then s.postHub (s.cycle + 1) .unmap (.unmap part space page count force evict)
      else if count = 0 || 2 ^ 32 < count || 2 ^ 45 < page + count || 4096 ≤ space then s.unmapReply 2 0
      else
        let pins := s.pinnedIn space page count
        if !pins.isEmpty && !force then s.unmapReply 1 pins.length
        else
          let leaves := s.leavesIn space (page + count) count page
          let tlbs := (leaves ++ s.cachedTlbs space page count).eraseDups
          let s := s.clearLeaves space page count leaves
          let s := s.shootDown space page count
          let s := s.revokeSpans (tlbSpans tlbs)
          -- the forced pages go where the range's leaves had them
          let pins := pins.filterMap fun x => (s.mem.wpages.look (wpageKey x.1 space x.2)).map fun w =>
            (x.1, x.2, s.frameOf space tlbs w.backing, w.shadow.bind (s.frameOf space tlbs))
          s.postHub s.cycle .unmap (.unmapWait space page count evict (tlbSpans tlbs) pins))
  | .unmapWait space page count evict spans pins =>
    let again (s : State) (l : List (Nat × Nat × Option Nat × Option Nat)) : State :=
      s.postHub (s.cycle + 1) .unmap (.unmapWait space page count evict spans l)
    .next (if s.inUse space spans then again s pins
      else match State.forcePages space pins s with
        | ([], s) => ((if evict then (s.evictSpans spans).2 else s).forgetScans spans).unmapReply 0 0
        | (l, s) => again s l)
  | _ => .next s

-- the steward's settings (R486)

/-- A space's entry (Table 18-2). A space that comes to exist starts empty; vcache 0 and the domain follow with its shape. -/
def State.writeSpace (s : State) (n v : Nat) : State :=
  s.modSpace n fun sp =>
    let sp := if sp.valid then sp else {}
    { sp with valid := bit v 0, root := bits v 13 39 * 8192, part := bits v 3 2, world := bit v 2 }

/-- Tasks that were to return to a core that takes none now go elsewhere: a saved one to the lowest eligible core of its partner's
kind (R219), a re-executed one by its deal's mapping over the eligible cores (R478). -/
def State.rehome (s : State) : State :=
  let move (e : Nat) (d : ActiveDeal) (r : Returned) : Returned :=
    if !(s.core r.core).ineligible && !(s.core r.core).halted then r
    else if r.redo then { r with core := (d.coreUnder (s.eligibleCores d.part d.cls) r.index).getD r.core }
    else if (s.savedTask e r.index).isSome then
      match (s.eligibleCores d.part d.cls).find? fun k => isBroad k == isBroad r.core && !(s.core k).halted with
      | some k => { r with core := k }
      | none => r
    else r
  s.modHub fun h => { h with deals := h.deals.map fun x => (x.1, { x.2 with back := x.2.back.map (move x.1 x.2) }) }

/-- A core's eligible mark changes (R364): saved tasks that were to return there go elsewhere, deals without a mapping get one. -/
def State.setEligible (s : State) (c : Nat) (on : Bool) : State :=
  let s := (s.modCore c fun k => { k with ineligible := !on }).rehome
  let s := (s.hub.deals.filter fun x => !x.2.mapped).foldl (fun s x =>
    s.postHub s.cycle .dealMappingFix (.mappingFix x.1)) s
  s.hub.deals.foldl (fun s x => if x.2.back.isEmpty then s else (x.2.back.map (·.core)).eraseDups.foldl State.schedule s) (s.schedule c)

/-- May a bank change its use (R279)? None of its pages may be pinned or listed, and what is left must hold the granted slices. -/
def State.bankFree (s : State) (core bank : Nat) : Bool :=
  let k := s.core core
  let vc := (k.bankUse.filter fun x => x.2 == 2 && x.1 != bank).length
  (allBelow 4 fun i => !s.bankTaken core (4 * bank + i) && !k.free.contains (4 * bank + i)) &&
    (k.bankUse.get 0 bank != 2 || decide ((s.spaces.map fun x => x.2.grants.get 0 core).foldl (· + ·) 0 ≤ 32 * vc))

/-- Do a space's grants leave every core's grants within its vcache slices (R280)? -/
def State.grantsFit (s : State) (n : Nat) (grants : Tbl Nat) : Bool :=
  grants.all fun x =>
    let others := ((s.spaces.filter (·.1 != n)).map fun y => y.2.grants.get 0 x.1).foldl (· + ·) 0
    decide (others + x.2 ≤ 32 * ((s.core x.1).bankUse.filter (·.2 == 2)).length)

/-- Map a window page (R247, R253). A page pinned so has every word full (R251), and no image of it stands anywhere yet. -/
def State.mapWindow (s : State) (core space page backing : Nat) (shadow bank : Option Nat) : State :=
  let s := match bank with
    | some b =>
      let base := scratchLoc core b 0
      (s.modMem fun m => { m with empties := m.empties.filter fun e => e < base / 4 || base / 4 + 1024 ≤ e }).modCore core fun k =>
        { k with free := k.free.erase b }
    | none => s
  s.modMem fun m => { m with wpages := m.wpages.put (wpageKey core space page) { backing := backing, shadow := shadow, bank := bank, feDirty := bank.isSome } }

/-- The partition of a mappable frame. -/
def State.framePart (s : State) (loc : Nat) : Option Nat :=
  (List.range 4).find? fun p => p < s.module_.parts && s.frameAllowed p loc 1

/-- Is every byte of a range in a partition's memory? -/
def State.inPart (s : State) (part addr n : Nat) : Bool :=
  isMappable addr && isMappable (addr + n - 1) &&
    allBelow ((addr + n - 1) / 4096 + 1 - addr / 4096) fun k => s.framePart ((addr / 4096 + k) * 4096) == some part

/-- May a fabric port reach some bytes of memory (R452, log entry 14)? -/
def State.fabricReaches (s : State) (p addr n : Nat) : Bool := s.inPart (s.module_.portPart.get 0 p) addr n

/-- The world of a steward core, fixed at boot (R450). -/
def State.stewardWorld (s : State) (k : Nat) : Bool := s.module_.stewards.getD k false

/-- The words that define a vcache as the hub reads them from a steward: reserved bits are ignored (R9). -/
def stewardWords (a b : Nat) : Nat × Nat :=
  (setBits (bits a 0 23) 6 2 0, if bits a 13 3 = 3 then bits b 0 19 else 0)

/-- What a space's instances hold goes home, and they hold nothing more. -/
def State.emptySpace (s : State) (n : Nat) : State :=
  s.mem.vsets.foldl (fun s x => match s.keyInst x.1 with
    | some i => if i.space ≠ n then s else x.2.foldl (fun s y =>
        let (_, s) := lift i.aCore 9 (i :: s.above i) y.line (([] : Written), s)
        s.dropVline i y.line) s
    | none => s) s

/-- Make the setting of a steward of a partition and a world; none where it touches another partition's entry or memory, a frame of the
other world (R451), holds a value the spec does not allow, or would map a frame writable that is mapped executable (R97). Reserved bits
are ignored (R9). -/
def State.setHub (s : State) (part : Nat) (world : Bool) (r : HubReg) : Option State :=
  let mine (core : Nat) : Bool := core < 1024 && s.diePart (coreDie core) == part
  match r with
  | .queueTable b => some (s.modHub fun h => { h with queueBase := h.queueBase.put part b })
  | .spaceEntry n v =>
    let v := v.toNat
    if 4096 ≤ n || bits v 3 2 ≠ part || ((s.space n).valid && (s.space n).part ≠ part) then none
    else some (s.writeSpace n v) |>.filter fun u => !u.codeWritable
  | .spaceShape n dom grants a b =>
    let sp := s.space n
    let (a, b) := stewardWords a b
    let d := vcDefOf a b
    let grants := grants.foldl (fun (t : Tbl Nat) x => t.put x.1 x.2) []
    let vcs := sp.vcs.put 0 d
    let new : Space := { sp with domain := dom, grants := grants, vcs := vcs }
    if sp.part ≠ part || !(dom.all fun k => k < 128 && s.diePart (k / 32) == part) || vcReserved 0 a b || bits a 0 6 ≠ 0
        || !(vcs.all fun x => placementOk dom x.2) || !sp.parentOk 0 d.place d.parent || !new.grantOk vcs || !s.grantsFit n grants then none
    else some ((s.emptySpace n).modSpace n fun sp => { sp with domain := dom, grants := grants, vcs := sp.vcs.put 0 d })
  | .limits p sl ti ac pa ws =>
    if p ≠ part then none
    else
      -- what waited for the limits is looked at again (R365)
      let s := s.modHub fun h => { h with limits := h.limits.put p { slots := sl, tiles := ti, accs := ac, pages := pa, wstack := ws } }
      some (if s.hub.deals.isEmpty then s else (s.classCores p 0).foldl State.schedule s)
  | .budget p cls kind lim =>
    if p ≠ part || 8 ≤ cls || 4 ≤ kind || 2 ^ 32 ≤ lim then none
    else some (s.modHub fun h => { h with budgets := h.budgets.put (budgetKey p cls kind) lim })
  | .counterOwner k o =>
    if 4 * 4096 ≤ k || s.diePart (k / 4096) ≠ part || o.any (fun n => (s.space n).part ≠ part) then none
    else some (s.modHub fun h => { h with counters := h.counters.upd {} k fun c => { c with owner := o } })
  | .eligible c on => if mine c then some (s.setEligible c on) else none
  | .bankUse c b u =>
    if !mine c || 192 ≤ b || 5 ≤ u || !s.bankFree c b then none else some (s.modCore c fun k => { k with bankUse := k.bankUse.put b u })
  | .mapWindow c sp page backing sh bank =>
    let bad := match bank with
      | some b => 768 ≤ b || (s.core c).bankUse.get 0 (b / 4) ≠ 1 || s.bankTaken c b
      | none => false
    if !mine c || (s.space sp).part ≠ part || 768 ≤ page || backing % 4096 ≠ 0 || sh.any (· % 128 ≠ 0) || bad
        || ((s.mem.wpages.look (wpageKey c sp page)).any (·.bank.isSome)) then none
    else some (s.mapWindow c sp page backing sh bank)
  | .unmapWindow c sp page =>
    if !mine c || ((s.mem.wpages.look (wpageKey c sp page)).any (·.bank.isSome)) then none
    else some (s.modMem fun m => { m with wpages := m.wpages.del (wpageKey c sp page) })
  | .spillRing c sp b => if mine c && (s.space sp).part == part then some (s.modDealer c fun d => { d with space := sp, base := b }) else none
  | .group p n ms ps =>
    if p ≠ part || 4096 ≤ n || ms.isEmpty || 16384 < ms.length || !(ms.all fun x => mine x.1 && 1 ≤ x.2 && x.2 ≤ 14) then none
    else some (s.modHub fun h => { h with groups := h.groups.put (p * 4096 + n) { members := ms, peers := ps } })
  | .peerRoute p port on =>
    if p = 0 || 65536 ≤ p || 12 ≤ port || s.module_.portPart.get 0 port ≠ part then none
    else some (s.modHub fun h => { h with routed := if on then h.routed.put (part * 65536 + p) port else h.routed.del (part * 65536 + p) })
  | .corrected on => some (s.modHub fun h => { h with corrected := (if on then [part] else []) ++ h.corrected.filter (· != part) })
  | .cxlWindow lo hi =>
    if hi ≤ lo || !isStacked (hi - 1) || bits lo 37 2 ≠ bits (hi - 1) 37 2 || s.framePart lo ≠ some part
        || s.module_.window.any (fun x => s.framePart x.1 ≠ some part) then none
    else some { s with module_ := { s.module_ with window := some (lo, hi) } }
  | .memory loc n v =>
    if 8 < n || n = 0 || loc % 8 + n > 8 || s.framePart loc ≠ some part || s.secure loc != world || s.meetsCode loc n then none
    else some (s.hubWrite loc n (v % 2 ^ (8 * n))) |>.filter fun u => !u.codeWritable

/-- HUB_REGISTER_WRITE (R486): a steward's setting, or its refusal. -/
def execHubRegisterWrite (s : State) : Out :=
  match s.msg with
  | .hubWrite k r =>
    let part := s.stewardPart k
    let addr := match r with | .memory loc _ _ => loc | _ => 0
    .next (if 8 ≤ k then s else (s.setHub part (s.stewardWorld k) r).getD (s.refuseSteward part addr))
  | _ => .next s

/-- TRACE_RING_CONTROL (R344): a steward turns a port's or a home slice's ring on or off. -/
def execTraceRingControl (s : State) : Out :=
  match s.msg with
  | .traceRing part slice n on =>
    let die := if slice then n / 32 else coreDie n
    .next (if (if slice then 128 else 1024) ≤ n || s.diePart die ≠ part then s.refuseSteward part 0
      else if slice then s.modMem fun m => { m with rings := m.rings.upd {} n fun g => { g with on := on } }
      else s.modCore n fun c => { c with ring := { c.ring with on := on } })
  | _ => .next s

end Sys2Proof.Machine
end

