-- ==== Sys2Proof/Machine/Collective.lean ====
section
/-! DEFINITION. Collectives (17_copy_and_collectives.md R431-R437, 13_ordering_dies_and_engines.md R355). -/
namespace Sys2Proof.Machine

-- the descriptor (Table 17-5)

def collSrc (d : Nat) : Nat := bits d 0 64
def collDst (d : Nat) : Nat := bits d 64 64
def collCount (d : Nat) : Nat := bits d 160 32
def collFmt (d : Nat) : Nat := bits d 200 8
def collOp (d : Nat) : Nat := bits d 208 4
def collGroup (d : Nat) : Nat := bits d 212 12
def collRoot (d : Nat) : Nat := bits d 240 16
def collSeq (d : Nat) : Nat := bits d 256 32
def collTimeout (d : Nat) : Nat := bits d 288 32

/-- Bytes of an element of a format code. -/
def fmtBytes (f : Nat) : Nat := ((Format.ofCode f).map Format.width).getD 0 / 8

/-- May an operation use a format (Table 17-5)? -/
def collFmtOk (op f : Nat) : Bool :=
  if op = 0 then [1, 2, 3, 9, 10].contains f
  else if op ≤ 2 then [0, 1, 2, 3, 9, 10].contains f
  else f ≤ 11 && f != 6 && f != 7

def State.modColl (s : State) (k : Nat) (f : Coll → Coll) : State :=
  s.modHub fun h => match h.colls.look k with
    | some x => { h with colls := h.colls.put k (f x) }
    | none => h

/-- The key of an instance. -/
def collKey (part group seq : Nat) : Nat := (part * 4096 + group) * 2 ^ 32 + seq

/-- A group, and the rank of a position in it. -/
def State.collGroupOf (s : State) (part g : Nat) : Group := s.hub.groups.get {} (part * 4096 + g)
def Group.rankOf (g : Group) (p : Pos) : Option Nat := g.members.findIdx? fun m => m == (posCore p, posSlot p)

/-- Is an instance in flight: not done and not failed? -/
def Coll.inFlight (x : Coll) : Bool := x.st != .done && x.st != .failed

/-- Does a member read a SRC? Of a broadcast only the root does. -/
def collReads (d rank : Nat) : Bool := collOp d != 4 || rank == collRoot d

/-- The ranks of a group: its members, then its peer modules, one rank each (DESIGN CHOICE, log entry 48). -/
def Group.ranks (g : Group) : Nat := g.members.length + g.peers.length

/-- Bytes of a member's result. -/
def collResultBytes (d ranks : Nat) : Nat := collCount d * fmtBytes (collFmt d) * (if collOp d = 3 then ranks else 1)

/-- Is a buffer's address usable: 64-byte aligned, global or of one scratchpad window up to its end (R432, Table 8-1)? -/
def collBuffer (c a n : Nat) : Bool :=
  a % 64 == 0 && (match classify c a, classify c (a + n - 1) with
    | .global _, .global _ => true
    | .scratch _ _, .scratch _ _ => a / 2 ^ 22 == (a + n - 1) / 2 ^ 22
    | _, _ => false)

/-- The lowest code that a COLL meets, 0 if none (R434). Reserved fields of Table 17-5 are ignored (R9); a reserved value of OP or FMT, a
COUNT out of range, and a ROOT that names no rank or is not zero where there is no root are malformed (DESIGN CHOICE, log entry 48). -/
def State.collCode (s : State) (p : Pos) (d : Nat) : Nat :=
  let c := posCore p
  let part := s.diePart (coreDie c)
  let g := s.collGroupOf part (collGroup d)
  let rank := g.rankOf p
  let n := g.ranks
  let op := collOp d
  let own := collCount d * fmtBytes (collFmt d)
  let malformed := 4 < op || !collFmtOk op (collFmt d) || collCount d = 0 || 2 ^ 21 < collCount d
    || (if op = 4 then n ≤ collRoot d && n ≠ 0 else collRoot d ≠ 0)
    || !collBuffer c (collDst d) (collResultBytes d n) || (collReads d (rank.getD 0) && !collBuffer c (collSrc d) own)
  if malformed then 1
  else match rank with
    | none => 2
    | some r =>
      match s.hub.colls.look (collKey part (collGroup d) (collSeq d)) with
      | none =>
        let flying := (s.hub.colls.filter fun x => x.2.part == part && x.2.group == collGroup d && x.2.inFlight).length
        if 4 ≤ flying then 4 else 0
      | some x =>
        -- an instance that failed before its first contribution has no shape yet
        if x.parts.isEmpty && x.peers.isEmpty then 0
        else if x.op ≠ op || x.fmt ≠ collFmt d || x.count ≠ collCount d || x.root ≠ collRoot d then 3
        else if x.parts.any (·.rank == r) then 5 else 0

-- the ends of CWAITs (R436)

/-- A task's hold on an instance ends; the last member's takes the instance along. -/
def State.endHold (s : State) (t : Tk) (va k : Nat) : State :=
  let s := s.onTask t fun x => { x with colls := x.colls.del va }
  match s.hub.colls.look k with
  | none => s
  | some x =>
    if (s.collGroupOf x.part x.group).members.length ≤ x.ended + 1 then s.modHub fun h => { h with colls := h.colls.del k }
    else s.modColl k fun x => { x with ended := x.ended + 1 }

/-- The contribution of a task to an instance, though it has been saved and restored since. -/
def State.partOf (s : State) (t : Tk) (x : Coll) : Option CollPart :=
  let u := (s.findTask t).getD {}
  (x.parts.find? (·.t == t)).or (x.parts.find? fun y => y.deal == u.deal && y.index == u.index)

/-- The acquire of R355: no older copy of a result line is left in a task's chain. -/
def State.collObserved (s : State) (t : Tk) (x : Coll) : State :=
  match s.partOf t x with
  | none => s
  | some y => s.observe t (runLines [(y.dst, x.result.length * fmtBytes x.fmt)])

/-- The name that a task in a CWAIT bears now. -/
def State.waiter (s : State) (t : Tk) (id : Nat) : Tk :=
  match s.waitPlace t (.coll id) with
  | some p => s.tk p
  | none => ((s.saved.find? fun y => y.task.wait == some (.coll id)).map (·.t)).getD t

/-- A task's CWAIT returns 0 or 1 and its hold ends. -/
def State.cwaitEnd (s : State) (k : Nat) (x : Coll) (t : Tk) (id : Nat) (d : Reg) (code : Nat) : State :=
  let t := s.waiter t id
  let va := (((s.findTask t).map (·.colls)).getD []).find? fun y => y.2 == k
  let s := if code = 0 then s.collObserved t x else s
  let s := match va with | some (va, _) => s.endHold t va k | none => s
  s.completeWait t id (.coll id) (Finish.value_ d code)

-- COLL (R434)

/-- A COLL parks and its descriptor is read. -/
def execColl (d a : Reg) (s : State) : Out :=
  .next (with1 a s fun x s =>
    let va := x.toNat
    if va % 64 ≠ 0 then s.block s.cycle (Finish.value_ d 1)
    else withAccess va 64 false false s fun _ s =>
      let late := match s.engineRead (posCore s.cur) s.my.space s.my.world va 64 with
        | .ok (e, _) => e.late
        | .error _ => 0
      let pc := s.my.pc.toNat
      let (id, s) := s.blockOpen
      s.postAt (s.cycle + late) s.cur .classBCompletion (.collRead (s.tk s.cur) id va pc d 0))

/-- The place of every line of a buffer, or the first fault. -/
def State.bufferFault (s : State) (c space : Nat) (world write : Bool) (a n : Nat) : Option (Nat × Nat × Nat) :=
  (runLines [(a, n)]).findSome? fun v => match s.placeNow c space world write (v * 128) with
    | .ok _ => none
    | .error (cause, sub) => some (cause, sub, v * 128)

/-- The elements of a buffer as the combining engines read them, at homes and owners' ports, and whether they hold poison. -/
def State.bufferRead (s : State) (c space : Nat) (world : Bool) (a n w : Nat) : List Nat × Bool × State :=
  let (v, _, q, s) := (engPieces a (n * w)).foldl (fun (acc : Nat × Nat × Bool × State) x =>
    let (v, k, q, s) := acc
    match s.placeNow c space world false x.1 with
    | .error _ => (v, k + x.2, q, s)
    | .ok p =>
      let (b, q', s) := if p.scratch then s.readScratch p.owner space p.off p.loc x.2
        else (s.bytesAt p.loc x.2, s.poisoned p.loc, (s.homeRead (p.loc / 128)).2)
      (v + b * 2 ^ (8 * k), k + x.2, q || q', s)) (0, 0, false, s)
  (splitBits (8 * w) n v, q, s)

/-- When an instance whose last contribution has come commits, counted from now (R437). -/
def Group.commitTime (g : Group) : Nat :=
  let h := (g.members.map fun m => hops m.1 (unitCore (coreDie m.1))).foldl max 0
  let dies := ((List.range 4).filter fun d => g.members.any fun m => coreDie m.1 == d).length
  20 + 2 * h + 160 * (dies - 1) + (if g.peers.isEmpty then 0 else 400)

/-- An instance whose every contribution is there commits later. -/
def State.collFull (s : State) (k : Nat) : State :=
  match s.hub.colls.look k with
  | none => s
  | some x =>
    let g := s.collGroupOf x.part x.group
    if x.st == .open_ && x.parts.length == g.members.length && g.peers.all (fun q => x.peers.any (·.1 == q)) then
      (s.modColl k fun x => { x with st := .full }).postHub (s.cycle + g.commitTime) .collCommit (.collCommit k)
    else s

/-- An instance fails before commit: partials are discarded and every CWAIT returns 1 (R435). -/
def State.collFail (s : State) (k : Nat) : State :=
  match s.hub.colls.look k with
  | none => s
  | some x =>
    if x.st != .open_ && x.st != .full then s
    else
      let s := s.modColl k fun x => { x with st := .failed, waits := [], parts := x.parts.map fun p => { p with data := [] } }
      x.waits.foldl (fun s w => s.cwaitEnd k x w.1 w.2.1 w.2.2 1) s

/-- A member's contribution enters its instance, which fails where a line of it holds poison (R476) or a member's cordon is fenced
(R475). -/
def State.contribute (s : State) (t : Tk) (va d : Nat) (p : CollPart) (poison : Bool) : State :=
  let part := s.diePart (coreDie (posCore t.pos))
  let k := collKey part (collGroup d) (collSeq d)
  let new : Coll := { part := part, group := collGroup d, seq := collSeq d, op := collOp d, fmt := collFmt d, count := collCount d, root := collRoot d }
  let s := s.modHub fun h => { h with colls := h.colls.upd new k fun x => { x with parts := x.parts ++ [p] } }
  let s := s.onTask t fun x => { x with colls := x.colls.put va k }
  if poison || (s.collGroupOf part (collGroup d)).members.any (fun m => (s.core m.1).fenced) then s.collFail k else s.collFull k

/-- A COLL's stages: its descriptor and checks, the steps of R351, its SRC, its end. -/
def State.collStage (s : State) (t : Tk) (id va pc : Nat) (dest : Reg) (stage : Nat) : State :=
  if !s.waitsFor t (.blocking id) then s
  else
    let p := t.pos
    let c := posCore p
    let x := s.task p
    let again (at_ n : Nat) (s : State) : State := s.postAt at_ p .classBCompletion (.collRead t id va pc dest n)
    let fault (e : Nat × Nat × Nat) (acc : Nat) : State :=
      if e.1 = 0x42 then
        match classify c e.2.2 with
        | .scratch core off => again (s.cycle + 1) stage (s.joinRefill core x.space (off / 4096) none none fun s => s)
        | _ => s
      else (s.supFault p e.1 e.2.1 e.2.2 acc).alsoRefuse c t x.space x.world e.2.2 e.1 e.2.1
    match s.engineRead c x.space x.world va 64 with
    | .error e => fault e 0
    | .ok (e, s₁) =>
      let d := e.v
      let n := (s.collGroupOf (s.diePart (coreDie c)) (collGroup d)).ranks
      let rank := ((s.collGroupOf (s.diePart (coreDie c)) (collGroup d)).rankOf p).getD 0
      let own := collCount d * fmtBytes (collFmt d)
      let src := if collReads d rank then [(collSrc d, own)] else []
      let dst := [(collDst d, collResultBytes d n)]
      if stage = 0 then
        let s := s₁
        if e.poison then s.completeWait t id (.blocking id) { Finish.plain with fault := some (poisonTrap va) }
        else
          let code := s.collCode p d
          if code ≠ 0 then s.completeWait t id (.blocking id) (Finish.value_ dest code)
          else if s.rangesWait x s.nextId c x.space x.world ((va, 64) :: src) dst || s.rangesStuck x.hand c x.space x.world ((va, 64) :: src) dst then again (s.cycle + 1) 0 s
          else
            let (cost, s) := s.releaseRanges x.hand c x.space x.world ((va, 64) :: src) dst
            again (s.cycle + cost) 1 s
      else if stage = 1 then
        match (src.findSome? fun b => s.bufferFault c x.space x.world false b.1 b.2), s.bufferFault c x.space x.world true (collDst d) (collResultBytes d n) with
        | some e, _ => fault e 0
        | none, some e => fault e 1
        | none, none =>
          let late := if src.isEmpty then 0 else s.copyLatency c x.space (collSrc d) false false + ceilDiv own 64
          again (s.cycle + late) 2 s
      else
        -- the instance may have changed since the checks
        let code := s.collCode p d
        if code ≠ 0 then s.completeWait t id (.blocking id) (Finish.value_ dest code)
        else
          let (data, q, s) := if src.isEmpty then ([], false, s) else s.bufferRead c x.space x.world (collSrc d) (collCount d) (fmtBytes (collFmt d))
          let s := s.contribute t va d { rank := rank, t := t, deal := x.deal, index := x.index, space := x.space, world := x.world, dst := collDst d, data := data } q
          s.completeWait t id (.blocking id) (Finish.value_ dest 0)

-- results (R433, R435)

/-- The result elements of a reduction over some patterns of one element. -/
def collCombine (op f : Nat) (l : List Nat) : Nat :=
  let fm := (Format.ofCode f).getD .fp64
  let vs := l.map (decodeVal fm)
  if fm.isInt then
    let ns := vs.map valInt
    let v := match ns with
      | [] => 0
      | x :: r => if op = 0 then ns.foldl (· + ·) 0 else if op = 1 then r.foldl max x else r.foldl min x
    intBits fm.width v
  else
    let v := if op = 0 then (sumVals .rne vs).1 else if op = 1 then maxVals vs else match vs with | [] => .nan | x :: r => r.foldl tileMin x
    (roundTo fm .rne false v).1

/-- The result of an instance whose every contribution is there. A peer's contribution to a reduction is the patterns of all its members,
so that the sum is exact over every member (R433); to a gather, or as a broadcast's root, it is its rank's elements. -/
def Coll.combined (x : Coll) (g : Group) : List Nat :=
  let byRank := (List.range x.parts.length).map fun r => ((x.parts.find? (·.rank == r)).map (·.data)).getD []
  let peers := g.peers.map fun q => ((x.peers.find? (·.1 == q)).map (·.2)).getD []
  let ranks := byRank ++ peers.map fun l => l.headD []
  if x.op = 3 then ranks.flatten
  else if x.op = 4 then ranks.getD x.root []
  else (List.range x.count).map fun i => collCombine x.op x.fmt ((byRank ++ peers.flatten).map fun l => l.getD i 0)

/-- COLL_COMMIT (R435, R437): an instance commits; or a peer module's contribution or failure comes in. -/
def execCollCommit (s : State) : Out :=
  match s.msg with
  | .collCommit k =>
    .next (match s.hub.colls.look k with
      | some x =>
        if x.st != .full then s
        else
          let r := x.combined (s.collGroupOf x.part x.group)
          (s.modColl k fun x => { x with st := .committed, result := r }).postHub (s.cycle + 60 + ceilDiv (r.length * fmtBytes x.fmt) 64)
            .collResultWrite (.collWrite k)
      | none => s)
  | .collPeer part g seq peer fail (op, fmt, count, root) data =>
    let k := collKey part g seq
    -- the first contribution fixes the instance, though it is a peer's (R434)
    let new : Coll := { part := part, group := g, seq := seq, op := op, fmt := fmt, count := count, root := root }
    let s := if (s.hub.colls.look k).isSome then s else s.modHub fun h => { h with colls := h.colls.put k new }
    .next (if fail then s.collFail k
      else (s.modColl k fun x => if x.st == .open_ then { x with peers := x.peers ++ [(peer, data)] } else x).collFull k)
  | _ => .next s

/-- Write a result buffer at homes, or at its owner's port (R352). -/
def State.bufferWrite (s : State) (p : CollPart) (w : Nat) (r : List Nat) : State :=
  let c := posCore p.t.pos
  let v := joinBits (8 * w) r
  (engPieces p.dst (r.length * w)).foldl (fun s x =>
    let bs := bits v (8 * (x.1 - p.dst)) (8 * x.2)
    match s.placeNow c p.space p.world true x.1 with
    | .error _ => s
    | .ok pl =>
      -- a store into a fenced cordon is lost (R475)
      if pl.scratch && (s.core pl.owner).fenced then
        s.taskError c p.t { cycle := 0, code := 0x21, sev := 1, addr := x.1, space := p.space, world := p.world }
      else if pl.scratch then s.putScratch 7 p.t.pos pl.owner p.space pl.off (toBytes x.2 bs)
      else
        (s.copyWrite p.space p.t.pos (pl.loc / 128) (maskOf (pl.loc % 128) x.2) (BitVec.ofNat 1024 (bs * 2 ^ (8 * (pl.loc % 128)))) false).2) s

/-- Write a member's result buffer, all of it or, while a page of it is not there, nothing: no buffer holds a mixture (R435). A page
without a translation leaves one record with the steward, an unpinned window page is refilled, and the write is tried again. -/
def State.resultWrite (s : State) (k : Nat) (x : Coll) (p : CollPart) : State :=
  let c := posCore p.t.pos
  let mark (f : CollPart → CollPart) (s : State) : State :=
    s.modColl k fun x => { x with parts := x.parts.map fun q => if q.rank = p.rank then f q else q }
  if p.written then s
  else match s.bufferFault c p.space p.world true p.dst (x.result.length * fmtBytes x.fmt) with
    | none => mark (fun q => { q with written := true }) (s.bufferWrite p (fmtBytes x.fmt) x.result)
    | some (cause, sub, va) =>
      match classify c va with
      | .scratch core off =>
        if cause = 0x42 && !(s.mem.refills.any fun r => r.core == core && r.space == p.space && r.page == off / 4096) then
          s.joinRefill core p.space (off / 4096) none none fun s => s
        else s
      | _ =>
        if p.told then s
        else mark (fun q => { q with told := true }) ((s.behalfFault p.t 0 cause sub va 1 p.space p.world).alsoRefuse c p.t p.space p.world va cause sub)

/-- COLL_RESULT_WRITE (R435, R437): every member's buffer has been written, and CWAITs return. -/
def execCollResultWrite (s : State) : Out :=
  match s.msg with
  | .collWrite k =>
    .next (match s.hub.colls.look k with
      | some x =>
        if x.st != .committed then s
        else
          let s := x.parts.foldl (fun s p => s.resultWrite k x p) s
          if ((s.hub.colls.look k).map (·.parts)).any (·.any (!·.written)) then s.postHub (s.cycle + 1) .collResultWrite (.collWrite k)
          else
            let s := s.modColl k fun x => { x with st := .done, waits := [] }
            x.waits.foldl (fun s w => s.cwaitEnd k x w.1 w.2.1 w.2.2 0) s
      | none => s)
  | _ => .next s

/-- Fail every instance before commit that has a member on one of some cores. -/
def State.collsFail (s : State) (cores : List Nat) : State :=
  (s.hub.colls.filter fun x => (s.collGroupOf x.2.part x.2.group).members.any fun m => cores.contains m.1).foldl (fun s x => s.collFail x.1) s

-- CWAIT (R436)

/-- CWAIT: an instance that is over answers at once; else the task parks, for TIMEOUT cycles if the descriptor gives any. -/
def execCwait (d a : Reg) (s : State) : Out :=
  .next (with1 a s fun x s =>
    let va := x.toNat
    match s.my.colls.look va with
    | none => s.block s.cycle (Finish.value_ d 3)
    | some k =>
      match s.hub.colls.look k with
      | none => (s.setMy fun t => { t with colls := t.colls.del va }).block s.cycle (Finish.value_ d 3)
      | some x =>
        if x.st == .done then ((s.collObserved (s.tk s.cur) x).endHold (s.tk s.cur) va k).block s.cycle (Finish.value_ d 0)
        else if x.st == .failed then (s.endHold (s.tk s.cur) va k).block s.cycle (Finish.value_ d 1)
        else withPlace va false s fun _ s =>
          match s.engineRead (posCore s.cur) s.my.space s.my.world va 64 with
          | .error (cause, sub, addr) => (s.supFault s.cur cause sub addr 0).alsoRefuse (posCore s.cur) (s.tk s.cur) s.my.space s.my.world addr cause sub
          | .ok (e, s) =>
            let (id, s) := s.fresh
            let s := s.park s.cur (.coll id)
            let s := s.modColl k fun x => { x with waits := x.waits ++ [(s.tk s.cur, id, d)] }
            if collTimeout e.v = 0 then s
            else s.post (s.cycle + collTimeout e.v) 50000 .cwaitTimeout (.cwaitTimeout (s.tk s.cur) id d))

/-- CWAIT_TIMEOUT (R436): the instance still runs. -/
def execCwaitTimeout (s : State) : Out :=
  match s.msg with
  | .cwaitTimeout t id d =>
    .next (match s.hub.colls.find? fun x => x.2.waits.any fun w => w.1 == t && w.2.1 == id with
      | some (k, _) =>
        (s.modColl k fun x => { x with waits := x.waits.filter fun w => !(w.1 == t && w.2.1 == id) }).completeWait t id (.coll id) (Finish.value_ d 2)
      | none => s)
  | _ => .next s

end Sys2Proof.Machine
end

