-- ==== Sys2Proof/Machine/Completion.lean ====
section
/-! DEFINITION. CLASS_B_COMPLETION: the completion of every class B instruction, and the looks again of those that wait
(08_memory_access.md R277, 15_waiting_and_barriers.md R382, R383). -/
namespace Sys2Proof.Machine

/-- CLASS_B_COMPLETION: an instruction's result is written and its slot issues at its first turn after; or an instruction that
waits for something else looks again. -/
def execClassBCompletion (s : State) : Out :=
  match s.msg with
  | .launch t id q r poison va d => .next (s.launched t id q r poison va d)
  | .barWait wire desc b => .next (s.barPoll wire desc b)
  | .barrierArrivals wire => .next (s.takeArrivals wire)
  | .gatherWrite t id d core space off sums exc => .next (s.gatherDone t id d core space off sums exc)
  | .drainWait t id rect at_ => .next (s.drainPoll t id rect at_)
  | .copyQuery t id tag d => .next (s.copyQueried t id tag d)
  | .collRead t id va pc d stage => .next (s.collStage t id va pc d stage)
  | .mailPush t id ws d => .next (s.mailPush t id ws d)
  | .tlbinvWait t id space page evict spans => .next (s.tlbinvPoll t id space page evict spans)
  | _ => fenceCompletion s

end Sys2Proof.Machine
end

