-- ==== Sys2Proof/Machine/Preempt.lean ====
section
/-! DEFINITION. Pre-emption, the save of a task, and the steward's RESUME (15_waiting_and_barriers.md R382, R383, R395,
19_traps_and_preemption.md R462, R464, R494, 07_matrix_partner.md R218, R233, 08_memory_access.md R256, 16_light_tasks.md R412). -/
namespace Sys2Proof.Machine

-- withdrawing a task from its wait (Table 15-1)

/-- The request of a name that is on its way to its ordering point, waits there, or is on its way back refused. -/
def State.requestOf (s : State) (t : Tk) (id : Nat) : Option PortReq :=
  let mine (r : PortReq) : Bool := r.t == t && r.id == id
  (s.agenda.findSome? fun x => x.msg.req?.filter mine).or ((s.mem.feWait.find? mine).or
    ((s.mem.refills.findSome? fun x => x.reqs.find? mine).or (s.mem.resv.findSome? fun x => x.2.queue.find? mine)))

/-- A request that is still at its requester: its address is being translated, or its owner has refused it and it is to be sent again
(R255). -/
def Msg.unsent (t : Tk) (id : Nat) : Msg → Option PortReq
  | .sendOut r => if r.t = t && r.id == id && (match r.op with | .release _ _ => false | _ => true) then some r else Option.none
  | _ => Option.none

/-- Withdraw a request that is still at its requester. -/
def State.dropUnsent (s : State) (t : Tk) (id : Nat) : State :=
  match s.agenda.findSome? fun x => x.msg.unsent t id with
  | none => s
  | some r =>
    let s := { s with agenda := s.agenda.filter fun x => (x.msg.unsent t id).isNone }
    let s := ((s.uncountSent r).refundFence r).onTask t fun k => { k with pend := k.pend.filter (·.id != id) }
    (s.wakeTk t (.fullEmpty id)).wakeTk t (.grant id)

/-- Withdraw a request: at its requester, if it is still there; else by a message that follows it to its ordering point
(R256, R263). -/
def State.sendWithdrawal (s : State) (t : Tk) (id : Nat) : State :=
  let s := s.dropUnsent t id
  match s.requestOf t id with
  | none => s
  | some r => s.post (s.cycle + s.half r r.op.reads) (tieAt (s.pointCore r) t.pos) .remoteAccessArrival (.withdraw t id)

/-- A WAITA is withdrawn: its monitor is freed, or its read is called off (R274). -/
def State.dropMonitor (s : State) (t : Tk) (id : Nat) : State :=
  let reads (m : Msg) : Bool := m.req?.any fun r => r.t == t && r.id == id
  if (s.mem.monitors.any fun m => m.t == t && m.id == id) || s.agenda.any (fun x => reads x.msg) then
    let s := s.modMem fun m => { m with monitors := m.monitors.filter fun m => !(m.t == t && m.id == id) }
    ({ s with agenda := s.agenda.filter fun x => !reads x.msg }).wakeTk t (.monitor id)
  else s

/-- Is this message the look again of a barrier instruction that has not arrived? -/
def barAsks (id : Nat) : Msg → Bool
  | .barWait _ _ b => b.id == id
  | _ => false

/-- A barrier instruction that has not arrived, or waits for the next generation, is withdrawn; an arrival stands (R395). -/
def State.dropBarrier (s : State) (t : Tk) (id : Nat) : State :=
  let early := s.agenda.any (fun x => barAsks id x.msg) || s.wires.any fun x => x.2.later.any fun l => l.2.id == id
  if !early then s
  else
    let wires := s.wires.map fun x => (x.1, { x.2 with later := x.2.later.filter fun l => l.2.id != id })
    ({ s with wires := wires, agenda := s.agenda.filter fun x => !barAsks id x.msg }).wakeTk t (.barrier id)

/-- Is this message the push of a copy instruction's request, not made yet? -/
def mailAsks (id : Nat) : Msg → Bool
  | .mailPush _ i _ _ => i == id
  | _ => false

/-- A task being pre-empted or ended is withdrawn from its wait as Table 15-1 states. What completes first is left to complete. A window move
of a CALL's or RET's own two turns counts as done, and the restored task uses no turn more for it (DESIGN CHOICE, log entry 61). -/
def State.withdrawWait (s : State) (p : Pos) : State :=
  let t := s.tk p
  match (if (s.slot p).st == .parked then (s.task p).wait else none) with
  | none => s
  | some w => match w with
    | .pop _ | .push _ | .sleep _ _ | .matrixFull | .matrixWait _ _ | .join _ | .leave _ | .idle | .walk | .refill | .window _ => s.unpark p
    | .fullEmpty id => s.sendWithdrawal t id
    | .grant id => s.sendWithdrawal t id
    | .monitor id => s.dropMonitor t id
    | .barrier id => s.dropBarrier t id
    | .mailbox id =>
      if s.agenda.any fun x => mailAsks id x.msg then
        ({ s with agenda := s.agenda.filter fun x => !mailAsks id x.msg }).unpark p
      else s
    | .blocking _ | .coll _ | .reconfig _ | .frozen _ | .fault | .migrate | .exiting => s

-- settling (Table 19-8)

/-- Does a class B instruction of a name go on while its task is saved: a PROBE or a DRAIN (Table 15-1)? -/
def State.probing (s : State) (id : Nat) : Bool :=
  s.agenda.any fun x => match x.msg with
    | .probeVisit _ i _ _ _ _ _ _ _ | .drainWait _ i _ _ => i == id
    | _ => false

/-- Has the work of a task on its core settled: L results written, tile instructions stopped, its wait over or one that goes on? -/
def State.coreSettled (s : State) (p : Pos) : Bool :=
  let t := s.task p
  let stopped (r : TileRun) : Bool := r.cut || r.hold.isSome
  (t.outst.all fun o => o.doneAt.isSome || t.runs.any fun r => r.id == o.id && stopped r) && t.runs.all stopped && t.storesIn s.cycle &&
    (match (if (s.slot p).st == .parked then t.wait else none) with
     | none => true
     | some w => match w with
       | .fault => true
       -- a light task has nowhere to save a status: its instruction completes (R412)
       | .barrier _ | .coll _ | .reconfig _ => !t.light
       | .blocking id => !t.light && s.probing id
       | _ => false)

/-- Does the partner run nothing for the task at `p`? -/
def State.partnerSettled (s : State) (p : Pos) : Bool :=
  match (s.partner (posCore p)).run with
  | some r => r.t != s.tk p
  | none => true

/-- A multiply that waits for the steward is at a block boundary already (R216, R218). -/
def State.stopHeld (s : State) (p : Pos) : State :=
  let c := posCore p
  match (s.partner c).run with
  | some r =>
    -- a piece that has ended waits for the others (R233)
    if r.t = s.tk p && r.cmd.op ≤ 3 && ((r.held && s.stopsHere r) || r.done.isSome) then s.stopRun c r else s
  | none => s

-- the save

/-- Write the dirty lines of a task's hand home, its entries kept (R464). -/
def State.liftHand (s : State) (p : Pos) : Written × State :=
  let t := s.task p
  if t.ws then s.drainAll t.space (posCore p)
  else
    t.hand.foldl (fun ws e =>
      (List.range 4).foldl (fun ws j => lift (posCore p) 9 (ws.2.regionChain t.space (posCore p) e.region.v) (e.region.p * 4 + j) ws) ws)
      (([] : Written), s)

/-- Would that, or a light task's drain, write into a vcache under reconfiguration? -/
def State.saveStuck (s : State) (p : Pos) : Bool :=
  let t := s.task p
  if t.ws || t.light then s.drainStuck p
  else t.hand.any fun e => (List.range 4).any fun j => liftStuck s (e.region.p * 4 + j) 9 (s.regionChain t.space (posCore p) e.region.v)

/-- The save of a task whose work has settled: `at_` is when the core's work had, `stop` when the partner had (R464 steps 3 and 4).
A light task drains and becomes a record instead (R412). -/
def State.beginSave (s : State) (p : Pos) (at_ stop : Nat) : State :=
  let t := s.tk p
  let s := s.revoke t
  let x := s.slot p
  -- the save reads every register
  let s := if x.task.struck.isEmpty then s else s.post s.cycle 0 .reset (.uncontained (posCore p) 0 0x23 p)
  if x.task.light then
    let (w, s) := s.drain p
    s.postAt (max s.cycle (max at_ stop + 4 + w.cost)) p .lightPreemptRecord (.lightPreempt t (x.task.hand.map (·.region)) x.task.ws)
  else
    let (w, s) := s.liftHand p
    let img := ceilDiv (imageBytes x.task x.cmds x.comps x.compsRes x.mrun) 128
    s.postAt (max s.cycle (max (max at_ stop + 96 + w.cost) (stop + 1 + img))) p .preemptSaveComplete (.preemptSaveComplete t none)

/-- Take steps 1 and 2 of an exit with error, now that nothing of the task stands in the way (R462). -/
def State.endNow (s : State) (p : Pos) : State :=
  let s := s.dropRuns p
  let s := s.modSlot p fun x => { x with pending? := none, preempt := none, endRes := false, task := { x.task with err := true } }
  (s.park p .exiting).exitPoll (s.tk p)

/-- Look whether a task's work has settled, as of cycle `now`; the cycles at which the core's and the partner's part had are kept. -/
def State.settlePoll (s : State) (p : Pos) (now : Nat) (core part : Option Nat) : State :=
  let x := s.slot p
  if !x.resident || (x.preempt.isNone && !x.endRes) then s
  else
    let s := match (if x.st == .parked then x.task.wait else none) with
      | some (.fullEmpty id) => s.dropUnsent (s.tk p) id
      | _ => s
    let core := core.or (if s.coreSettled p then some now else none)
    let part := part.or (if x.endRes || s.partnerSettled p then some now else none)
    match core, part with
    | some a, some b =>
      if x.endRes then s.endNow p
      else if s.saveStuck p then s.post (if now < s.cycle then s.cycle else s.cycle + 1) 30000 .preempt (.preemptPoll p core part)
      else s.beginSave p a b
    | _, _ => s.post (if now < s.cycle then s.cycle else s.cycle + 1) 30000 .preempt (.preemptPoll p core part)

/-- Settling begins, in the cycle after the demand (R383: what falls in the demand's own cycle takes effect first). A task that
exits or migrates goes its way. -/
def State.settle (s : State) (p : Pos) : State :=
  let x := s.slot p
  if !x.resident || x.task.wait == some .exiting || x.task.wait == some .migrate then s.modSlot p fun x => { x with preempt := none, endRes := false }
  else
    let s := (s.withdrawWait p).revoke (s.tk p)
    let s := if x.endRes then s else s.stopHeld p
    s.settlePoll p (s.cycle - 1) none none

/-- Demand the pre-emption of the task at `p` in this cycle, and of its joint group's other members (R233). -/
def State.demand (s : State) (p : Pos) : State :=
  let ask (s : State) (p : Pos) : State :=
    let x := s.slot p
    if !x.resident || x.endRes || s.agenda.any (fun e => e.msg == .preemptGo p) || x.preempt.any (· < s.cycle) then s
    else (s.modSlot p fun x => { x with preempt := some s.cycle }).post (s.cycle + 1) 0 .preempt (.preemptGo p)
  let s := ask s p
  if !(s.task p).jointIn then s
  else match s.joints.look (quadNo (posCore p)) with
    | none => s
    | some g => if !g.members.contains (s.tk p) then s else (g.members.filter fun t => s.isAt t && (s.task t.pos).jointIn).foldl (fun s t => ask s t.pos) s

/-- PREEMPT (R464, R369): a demand, or a look whether a task's work has settled. -/
def execPreempt (s : State) : Out :=
  match s.msg with
  | .issued k m => .next (s.command k .preempt m)
  | .preempt p => .next (s.demand p)
  | .preemptGo p => .next (s.settle p)
  | .preemptPoll p core part => .next (s.settlePoll p s.cycle core part)
  | _ => .next s

/-- The core a saved task is to be placed on: the one it left, while that is eligible; else the lowest eligible one of its
partner's kind (R219, R466). -/
def State.returnCore (s : State) (d : ActiveDeal) (c : Nat) : Nat :=
  if !(s.core c).ineligible && !(s.core c).halted then c
  else ((s.eligibleCores d.part d.cls).find? fun k => isBroad k == isBroad c && !(s.core k).halted).getD c

/-- A task's joint group is saved with its deal (R233). -/
def State.groupAway (s : State) (p : Pos) : State :=
  if !(s.task p).jointIn then s
  else
    let q := quadNo (posCore p)
    match s.joints.look q with
    | some g => if g.members.contains (s.tk p) then { s with joints := s.joints.del q, away := s.away ++ [g] } else s
    | none => s

/-- PREEMPT_SAVE_COMPLETE (R464 step 5): the context stands in the store, the slot is empty, and the banker gets a KIND 3 event; for
the last place of q7 it comes after a lower slot's push of the same cycle (R317). -/
def execPreemptSaveComplete (s : State) : Out :=
  match s.msg with
  | .preemptSaveComplete t asOf =>
    .next (s.asOf (asOf.getD s.cycle) fun s =>
      let p := t.pos
      let c := posCore p
      let banker := mkPos c 0
      if !s.isAt t || (s.slot p).preempt.isNone then s
      else if asOf.isNone && s.eventTight banker then s.post (s.cycle + 1) 0 .preemptSaveComplete (.preemptSaveComplete t (some s.cycle))
      else if 16 ≤ (s.slot banker).evq.length then s.postAt (s.cycle + 1) p .preemptSaveComplete (.preemptSaveComplete t none)
      else
        let s := (s.groupAway p).uncountRuns p
        let x := s.slot p
        let y : Saved := { t := t, task := x.task, pending? := x.pending?, cmds := x.cmds, comps := x.comps, compsRes := x.compsRes, run := x.mrun,
                           answer := x.answer }
        let s := ((s.cancelArrival p).modSlot p Slot.emptied).wake banker (.push 7)
        let s := { s with saved := s.saved ++ [y] }
        let e := x.task.deal
        let back := match s.deal e with
          | some d => s.returnCore d c
          | none => c
        let s := s.giveBack e { index := x.task.index, core := back, redo := false }
        ((s.putEvent banker (posSlot p) (eventWord 3 (posSlot p) e x.task.index)).schedule c).schedule back)
  | _ => .next s

-- RESUME (R462, R494)

/-- Resolve the record of a parked slot: 0 retry, 1 skip, 2 end. A tile instruction goes on from its unit, or is given up. -/
def State.resolveSlot (s : State) (p : Pos) (act : Nat) : State :=
  if act = 2 then s.endNow p
  else
    let parked := (s.task p).wait == some .fault
    let ofRun := (s.task p).runs.any fun r => match r.hold with | some (.fault ..) => true | _ => false
    let s := s.modSlot p fun x => { x with pending? := none }
    if act = 0 then
      let s := s.resumeRuns p ((s.task p).runs.any (·.cut)) s.cycle
      if parked then s.unpark p else s
    else
      let s := s.dropRuns p
      if !parked then s
      else if ofRun then s.unpark p
      else (s.asPos p State.advance).unpark p

/-- Let the engines of a core repeat the accesses that faulted for the slot at `p` (R494), those of one task where the SERIAL named is
not the resident's. -/
def State.resumeEngines (s : State) (p : Pos) (who : Option Tk) : State :=
  let c := posCore p
  let mine (t : Tk) : Bool := t.pos == p && who.all (· == t)
  let s := match (s.partner c).run with
    | some r => if mine r.t then s.resumePartner c else s
    | none => s
  let s := match (s.core c).dealer.busy with
    | some a =>
      if a.held && mine a.t then
        (s.modDealer c fun d => { d with busy := some { a with held := false } }).postAt s.cycle p .dealerAccept
          (if a.tag.isNone then .dealerRead c else .dealerAccept c)
      else s
    | none => s
  (s.hub.copies.filter fun x => x.2.held && mine x.2.t).foldl (fun s x =>
    (s.modCopy x.1 fun y => { y with held := false }).copyResume x.1) s

/-- Give up what the engines of a core hold for the slot at `p` (R494). -/
def State.abandonEngines (s : State) (p : Pos) : State :=
  let c := posCore p
  let s := match (s.partner c).run with
    | some r => if r.t.pos = p && r.held then s.abandonPartner p else s
    | none => s
  let s := match (s.core c).dealer.busy with
    | some a => if a.held && a.slot = posSlot p then s.dealerAnswer c a 2 else s
    | none => s
  (s.hub.copies.filter fun x => x.2.held && x.2.t.pos == p).foldl (fun s x =>
    (s.modCopy x.1 fun y => { y with held := false, failed := true }).postAt s.cycle p .copyComplete (.copyComplete x.1)) s

/-- A RESUME takes effect at the slot and SERIAL it names. With the slot's own record outstanding it resolves that; else 0
continues the engines' work, and 2 abandons it and ends the task, withdrawn first from any wait. For a saved task it applies at
the restore. Anything else is discarded. -/
def State.resume (s : State) (t : Tk) (act : Nat) : State :=
  let p := t.pos
  if s.saved.any (·.t == t) then
    let s := { s with saved := s.saved.map fun y => if y.t = t && y.pending?.isSome then { y with answer := some act } else y }
    if act = 0 then s.resumeEngines p (some t) else s
  else if (s.slot p).serial ≠ t.serial then s
  else if s.isAt t && (s.slot p).pending?.isSome then
    if (s.slot p).preempt.isSome then
      -- being saved with its record: it applies at the restore
      s.modSlot p fun x => { x with answer := some act }
    else s.resolveSlot p act
  else if act = 0 then s.resumeEngines p none
  else if act = 2 then
    let s := s.abandonEngines p
    if !s.isAt t then s
    else if (s.task p).wait == some .exiting then s.modTask p fun x => { x with err := true }
    else
      -- what a pre-emption has stopped goes on: an exit waits for it (R376)
      let s := (s.modSlot p fun x => { x with endRes := true, preempt := none }).kickPartner (posCore p)
      s.post (s.cycle + 1) 0 .preempt (.preemptGo p)
  else s

/-- RESUME with action 0. -/
def execResumeRetry (s : State) : Out :=
  match s.msg with
  | .issued k m => .next (s.command k .resumeRetry m)
  | .resumeRetry t => .next (s.resume t 0)
  | _ => .next s

/-- RESUME with action 1. -/
def execResumeSkip (s : State) : Out :=
  match s.msg with
  | .issued k m => .next (s.command k .resumeSkip m)
  | .resumeSkip t => .next (s.resume t 1)
  | _ => .next s

/-- RESUME with action 2. -/
def execResumeEnd (s : State) : Out :=
  match s.msg with
  | .issued k m => .next (s.command k .resumeEnd m)
  | .resumeEnd t => .next (s.resume t 2)
  | _ => .next s


end Sys2Proof.Machine
end

