-- ==== Sys2Proof/Machine/Containment.lean ====
section
/-! DEFINITION. Cordon resets, die loss and partition reset, fault and error records, injection
(20_containment_and_recovery.md R473-R482, 19_traps_and_preemption.md R461, R493). -/
namespace Sys2Proof.Machine

-- cordons (R473)

/-- The cores of a die. -/
def dieCores (die : Nat) : List Nat := (List.range 256).map (die * 256 + ·)

/-- The cordon of a core: itself, or every core of its die whose CORDON holds the same value. -/
def State.cordonOf (s : State) (c : Nat) : List Nat :=
  if !bit (s.core c).cordon.toNat 63 then [c] else (dieCores (coreDie c)).filter fun k => (s.core k).cordon == (s.core c).cordon

/-- A reset of some cores begins; those whose reset is under way take no part. Their slots stop at once, and the fence stands two
cycles later. -/
def State.beginReset (s : State) (cores : List Nat) (salvage : Bool) : State :=
  let l := cores.filter fun c => !(s.core c).halted
  if l.isEmpty then s
  else (l.foldl (fun s c => s.modCore c fun k => { k with halted := true }) s).post (s.cycle + 2) 0 .reset (.resetFence l salvage)

/-- An uncontained error (R477): its record, and the reset of the cordon. -/
def State.uncontained (s : State) (core addr code slot : Nat) : State :=
  let t := s.task slot
  let detail := (s.core core).cordon.toNat + coreDie core * 2 ^ 64
  (s.errorEvent core { cycle := 0, code := code, sev := 2, addr := addr, deal := t.deal, index := t.index, space := t.space, world := t.world,
                       slot := slot, detail := detail }).beginReset (s.cordonOf core) true

-- salvage (R474 step 2)

/-- Does a set lie in the banks of some cores? -/
def State.setOn (s : State) (cores : List Nat) (k : Nat) : Bool :=
  match s.keyInst k with
  | some i => cores.contains (i.setCore (k % 65536))
  | none => false

/-- Write the dirty bytes of the vcache lines that some cores hold to home. -/
def State.salvageLines (s : State) (cores : List Nat) (w : Written) : Written × State :=
  s.mem.vsets.foldl (fun ws x => match s.keyInst x.1 with
    | some i => if cores.contains (i.setCore (x.1 % 65536)) then
        (x.2.filter (·.dirty ≠ 0)).foldl (fun ws y => lift i.aCore 9 (i :: ws.2.above i) y.line ws) ws
      else ws
    | none => ws) (w, s)

/-- Write the dirty pinned pages of some cores, with their full/empty images, to their backing and shadow addresses. -/
def State.salvagePages (s : State) (cores : List Nat) (w : Written) : Written × State :=
  s.mem.wpages.foldl (fun (w, (s : State)) (key, (pg : WPage)) => match pg.bank with
    | some b => if cores.contains (key / 1024 / 4096) then
        let base := scratchLoc (key / 1024 / 4096) b 0
        let s := (s.mem.errWords.filter fun e => base / 4 ≤ e && e < base / 4 + 1024).foldl (fun s e => s.setPoison (e / 32) true) s
        let n := (if pg.dirty then 32 else 0) + (if pg.feDirty && pg.shadow.isSome then 1 else 0)
        ((List.range n).foldl (fun w _ => w.add 0 60) w, s.savePage (key / 1024 % 4096) pg base)
      else (w, s)
    | none => (w, s)) (w, s)

-- tasks (R474 step 3, R478)

/-- A withdrawn task: re-executed from ENTRY with its index, if its deal is restartable and it has met fewer than five resets, or ended with
error. -/
def State.redoOrEnd (s : State) (t : Task) (core : Nat) : State :=
  match s.deal t.deal with
  | none => s
  | some d =>
    if d.restart && d.redone.get 0 t.index < 4 then
      let r : Returned := { index := t.index, core := (d.coreUnder (s.eligibleCores d.part d.cls) t.index).getD core, redo := true }
      (s.modDeal t.deal fun d => { d with redone := d.redone.upd 0 t.index (· + 1) }).giveBack t.deal r
    else s.endTask t.deal true

/-- Withdraw the tasks of a core's slots, and its light-task records. -/
def State.withdrawTasks (s : State) (c : Nat) : State :=
  let s := (List.range 14).foldl (fun (s : State) k =>
    let x := s.slot (mkPos c (k + 1))
    if x.resident then s.redoOrEnd x.task c else if x.st == .exited then s.endTask x.task.deal x.task.err else s) s
  let k := s.core c
  (k.arrivals ++ k.kitty ++ k.refills).foldl (fun s r => s.endTask r.deal true) s

/-- Placements that were on their way to some cores, or wait in their bankers' queues, wait again (log entry 11). -/
def State.regrant (s : State) (cores : List Nat) : State :=
  let again (e : Nat) (d : ActiveDeal) (g : Nat × Nat) : Returned :=
    { index := g.2, core := g.1, redo := decide (0 < d.redone.get 0 g.2) && (s.savedTask e g.2).isNone }
  let undo (e : Nat) (d : ActiveDeal) : ActiveDeal :=
    { d with grants := d.grants.filter fun g => !cores.contains g.1,
             back := ((d.grants.filter fun g => cores.contains g.1).map (again e d)) ++ d.back }
  s.modHub fun h => { h with deals := h.deals.map fun x => (x.1, undo x.1 x.2) }

-- joint groups (Table 20-2)

/-- A joint operation of a task outside the cordon is over with status 3. -/
def State.breakJointOp (s : State) (t : Tk) : State :=
  let c := posCore t.pos
  match s.saved.find? (·.t == t) with
  | some y => match y.run with
    | some r =>
      if r.cmd.op ≠ 3 then s
      else
        let s := (s.pendDone t r.cmd.id).modAcc t r.cmd.acc fun a => { a with lastSt := 3, lastOp := 3 }
        let w := completionWord s.cycle r.cmd.joint 3 r.cmd.acc 3
        { s with saved := s.saved.map fun y => if y.t = t then { y with run := none, comps := y.comps ++ [w], compsRes := y.compsRes - 1 } else y }
    | none => s
  | none =>
    let s := match (s.slot t.pos).mrun with
      | some r => if r.cmd.op = 3 then (s.modSlot t.pos fun x => { x with mrun := none }).completeCommand t r.cmd 3 else s
      | none => s
    let s := match (s.partner c).run with
      | some r =>
        if r.t = t && r.cmd.op = 3 then
          { s with agenda := s.agenda.filter fun x => x.msg != Msg.matrixBlock c && x.msg != Msg.matrixPhase c }.endMultiply c r 3
        else s
      | none => s
    s.kickPartner c

/-- Joint groups with a member on some cores dissolve. -/
def State.dissolveJoints (s : State) (cores : List Nat) : State :=
  let s := (s.joints.filter fun x => x.2.members.any fun t => cores.contains (posCore t.pos)).foldl (fun (s : State) (q, g) =>
    let s := { s with joints := s.joints.del q }
    let s := (g.members.filter fun t => !cores.contains (posCore t.pos)).foldl State.breakJointOp s
    s.post s.cycle 0 .jointGroupForm (.jointForm q)) s
  -- of a group that is being saved, the members that are still on a core of the cordon are in it
  let inside (s : State) (t : Tk) : Bool := cores.contains (posCore t.pos) && s.isAt t
  (s.away.filter fun g => g.members.any (inside s)).foldl (fun (s : State) g =>
    (g.members.filter fun t => !inside s t).foldl State.breakJointOp { s with away := s.away.erase g }) s

-- clearing (R474 step 4)

/-- Does a location lie in the banks of some cores? -/
def inBanks (cores : List Nat) (loc : Nat) : Bool := scratchBase ≤ loc && cores.contains ((loc - scratchBase) / 0x300000)

/-- Does a message belong to an engine of some cores, or would it serve a task of theirs that is gone? -/
def Msg.ofCores (cores : List Nat) : Msg → Bool
  | .scratchpadPageRefill c _ _ | .outboundEventDelivery c | .matrixOpStart c | .matrixBlock c | .matrixPhase c | .kittyRefill c _
  | .placement c _ | .dealerScan c | .dealerRead c | .dealerWait c | .dealerAccept c | .copyStart c | .copyLine c _ | .spillReturn c
  | .qcfgDefault c _ => cores.contains c
  | .reservationGrant r _ _ _ => cores.contains (posCore r.t.pos)
  | m => m.req?.any fun r => cores.contains (posCore r.t.pos) && (match r.op with | .reserve _ | .watch _ => true | _ => false)

/-- Is the release of a reservation on its way to its ordering point? -/
def State.releasing (s : State) (t : Tk) (key : Nat) : Bool :=
  s.agenda.any fun x => x.msg.req?.any fun r =>
    r.t == t && (match r.op with | .release _ _ => true | _ => false) && (r.scratch || r.loc / 8 == key)

/-- What waits at ordering points for some cores' tasks goes, and what waits at those cores' ports meets the fence. -/
def State.clearPoints (s : State) (cores : List Nat) : State :=
  let gone (t : Tk) : Bool := cores.contains (posCore t.pos)
  let here (r : PortReq) : Bool := r.scratch && cores.contains r.owner
  let outside (l : List PortReq) : List PortReq := l.filter fun r => here r && !gone r.t
  let refs := s.mem.refills.filter fun r => cores.contains r.core
  let waits := outside s.mem.feWait ++ refs.flatMap (fun r => r.reqs.filter fun q => !gone q.t) ++ s.mem.resv.flatMap fun x => outside x.2.queue
  let mons := s.mem.monitors.filter fun m => inBanks cores m.loc && !gone m.t
  let s := s.modMem fun m =>
    { m with feWait := m.feWait.filter fun r => !here r && !gone r.t,
             refills := (m.refills.filter fun r => !cores.contains r.core).map fun r => { r with reqs := r.reqs.filter fun q => !gone q.t },
             monitors := m.monitors.filter fun x => !gone x.t && !inBanks cores x.loc,
             calls := m.calls.filter fun x => !gone x.t,
             walks := m.walks.map fun x => { x with slots := x.slots.filter (fun t => !gone t), runs := x.runs.filter fun t => !gone t },
             resv := (m.resv.filter fun x => !inBanks cores (x.1 * 8)).map fun x => (x.1, { x.2 with queue := x.2.queue.filter fun r => !gone r.t }) }
  let s := (s.mem.resv.filter fun x => gone x.2.t && !s.releasing x.2.t x.1).foldl (fun s x => s.nextGrant x.1) s
  let s := waits.foldl State.fencedPort s
  mons.foldl (fun s m => s.completeWait m.t m.id (.monitor m.id) { Finish.plain with fault := some (poisonTrap m.loc) }) s

/-- Sets on some cores' banks hold nothing more; what waited behind their fills goes on to the parents. -/
def State.clearSets (s : State) (cores : List Nat) : State :=
  let fs := s.mem.fills.filter fun f => s.setOn cores f.set
  let s := s.modMem fun m => { m with fills := m.fills.filter fun f => !s.setOn cores f.set }
  let s := (s.mem.vsets.filter fun x => s.setOn cores x.1).foldl (fun s x => match s.keyInst x.1 with
    | some i => x.2.foldl (fun s y => s.dropVline i y.line) s
    | none => s) s
  fs.foldl (fun s f => (f.waiting.filter fun a => !cores.contains a.core).foldl (fun s a =>
    s.post s.cycle 0 .vcacheAccessArrival (.vcacheAccessArrival a)) s) s

/-- The banks of some cores are cleared. -/
def Mem.clearBanks (m : Mem) (cores : List Nat) : Mem :=
  { m with bytes := m.bytes.filter fun x => !inBanks cores x.1, empties := m.empties.filter fun e => !inBanks cores (e * 4),
           errWords := m.errWords.filter fun e => !inBanks cores (e * 4), poison := m.poison.filter fun l => !inBanks cores (l * 128),
           wpages := m.wpages.map fun x => if cores.contains (x.1 / 1024 / 4096) then
             (x.1, { x.2 with bank := none, dirty := false, feDirty := false }) else x }

/-- Barrier arrivals of some cores are withdrawn (R395); a wire that nobody is at any more latches nothing. -/
def State.clearWires (s : State) (cores : List Nat) : State :=
  let gone (b : BarWait) : Bool := cores.contains (posCore b.t.pos)
  let at_ (n : Nat) (w : Wire) : Bool := match w.latch with
    | some d => (barCores n d).any fun c => !cores.contains c && !(s.barUnit c (wireKind n)).arrived.isEmpty
    | none => false
  let full (n : Nat) (w : Wire) : Bool := match w.latch with
    | some d => !(barCores n d).any cores.contains && s.allArrived n d
    | none => false
  let clear (n : Nat) (w : Wire) : Wire :=
    let w := { w with waits := w.waits.filter fun b => !gone b, later := w.later.filter fun x => !gone x.2,
                      coming := w.coming.filter fun x => !gone x.2.2, due := if full n w then w.due else none }
    if !at_ n w && w.waits.isEmpty && w.later.isEmpty then { stamp := w.stamp + 1, coming := w.coming } else w
  let s : State := { s with wires := s.wires.map fun x => (x.1, clear x.1 x.2) }
  -- an expiry that found every member there counts now that they are not
  s.wires.foldl (fun (s : State) (n, w) => if w.due.isSome then s else w.waits.foldl (fun (s : State) b => match b.expiry with
    | some e => if e ≤ s.cycle then s.post s.cycle 1 .barrierTimeout (.barrierTimeout n b.id s.cycle) else s
    | none => s) s) s

/-- Copies that the cordon's dealers had accepted fail (R424, R426). -/
def State.clearCopies (s : State) (cores : List Nat) : State :=
  (s.hub.copies.filter fun x => cores.contains x.2.core).foldl (fun (s : State) (k, x) =>
    let s := if x.outcome.isNone && copyDepv x.desc then s.applyCounter (copyDep x.desc) true 0 else s
    if s.saved.any fun y => y.task.tags.look x.tag == some k then s.modCopy k fun x => { x with outcome := some (x.outcome.getD 2), held := false, src := [] }
    else s.modHub fun h => { h with copies := h.copies.del k }) s

/-- A slot at core reset. Its SERIAL stays, so that records of its releases are known as lost (R477), and so does a record it has
sent and keeps until it is answered (R411). -/
def Slot.cleared (x : Slot) : Slot := { serial := x.serial, lost := some x.serial, shipped := x.shipped }

/-- A core at the end of a reset's steps: its g registers hold 0 (R27), and its configuration stays (log entry 11). -/
def Core.cleared (k : Core) (end_ : Nat) : Core :=
  { qcfg := k.qcfg, cordon := k.cordon, errinj := k.errinj, lmask := k.lmask, kbase := k.kbase, ken := k.ken,
    spawns := k.spawns, bankUse := k.bankUse, ring := k.ring, dealer := { space := k.dealer.space, base := k.dealer.base },
    fenced := true, halted := true, resetEnd := end_, ineligible := true, stopped := k.stopped }

/-- Channels between the cordon and the rest are broken (R474 step 4). -/
def State.clearChannels (s : State) (cores : List Nat) : State :=
  let inside (q : Pos) : Bool := cores.contains (posCore q)
  -- an endpoint of the cordon is bound by default again, unless the neighbour's endpoint has another partner
  let s := cores.foldl (fun (s : State) c => (List.range 14).foldl (fun (s : State) k => (List.range 4).foldl (fun (s : State) n =>
    match adjacent c n with
    | some c' =>
      if !cores.contains c' && (s.endpoint (mkPos c' (k + 1)) ((n + 2) % 4)).pair != .default then
        s.setEndpoint (mkPos c (k + 1)) n fun e => { e with pair := .unbound }
      else s
    | none => s) s) s) s
  let loose (e : Endpoint) : Endpoint := match e.pair with
    | .to q _ => if inside q then { e with pair := .unbound } else e
    | _ => e
  { s with slots := s.slots.map fun x => if inside x.1 then x else (x.1, { x.2 with ends := x.2.ends.map fun y => (y.1, loose y.2) }) }

-- the steps of a reset (R474)

/-- Steps 1 to 4 of a reset of some cores, which begun two cycles ago; they end 8192 + W cycles after that. -/
def State.resetCores (s : State) (cores : List Nat) (salvage : Bool) : State :=
  let (w, s) := if salvage then
      let (w, s) := s.salvageLines cores ([] : Written)
      s.salvagePages cores w
    else (([] : Written), s)
  let s := cores.foldl (fun s c => s.modCore c fun k => { k with fenced := true, ineligible := true }) s
  let s := cores.foldl State.withdrawTasks s
  let s := (s.regrant cores).dissolveJoints cores
  let s := s.collsFail cores
  let s := (s.clearCopies cores).clearPoints cores
  let s := s.clearSets cores
  -- a cluster's translation cache is cleared with any core of the cluster
  let s := (s.modMem fun m => { m.clearBanks cores with
    clusterTlb := m.clusterTlb.filter fun x => !cores.any fun c => clusterNo c == x.1 / 256 }).clearWires cores
  let s := { s with agenda := s.agenda.filter fun x => !x.msg.ofCores cores }
  let s := cores.foldl (fun (s : State) c =>
    let s := (List.range 16).foldl (fun (s : State) k => s.modSlot (mkPos c k) Slot.cleared) s
    s.modCore c fun k => k.cleared (s.cycle - 2 + 8192 + Written.cost w)) s
  let s := (s.clearChannels cores).rehome
  s.hub.deals.foldl (fun s x => (x.2.back.map (·.core)).eraseDups.foldl State.schedule s) s

/-- RESET: a steward names a core of the cordon, or an uncontained error names it; two cycles later its steps are made. -/
def execReset (s : State) : Out :=
  match s.msg with
  | .issued k m => .next (s.command k .reset m)
  | .reset part core => .next (if s.diePart (coreDie core) ≠ part then s.refuseSteward part 0 else s.beginReset (s.cordonOf core) true)
  | .uncontained core addr code slot => .next (s.uncontained core addr code slot)
  | .resetFence cores salvage => .next (s.resetCores cores salvage)
  | _ => .next s

-- return (R474 step 5, R479)

/-- A banker as the module OS image loads it. It has no deal, and its declared window depth is the least one, 4: the spec gives none
(DESIGN CHOICE, log entry 5). -/
def bankerTask (c : Nat) : Task :=
  { pc := Config.bankerEntry c, space := (Config.bankerSpace c).toNat, world := Config.bankerWorld c }

/-- Load the banker of a core into slot 0. -/
def State.loadBanker (s : State) (c : Nat) : State :=
  s.modSlot (mkPos c 0) fun x => { x.nextSerial with st := .ready, task := bankerTask c, notBefore := s.cycle + 1 }

/-- Some cores return: the fence lifts, and their bankers run, unless their partition is halted (R456). -/
def State.comeBack (s : State) (cores : List Nat) : State :=
  cores.foldl (fun (s : State) c =>
    ((s.modCore c fun k => { k with fenced := false, halted := false, stopped := s.partHalted (s.diePart (coreDie c)) }).loadBanker c).setEligible c true) s

/-- CORDON_RETURN: the cordon of a core returns, once its reset's steps have ended. -/
def execCordonReturn (s : State) : Out :=
  match s.msg with
  | .issued k m => .next (s.command k .cordonReturn m)
  | .cordonReturn part core =>
    let l := (s.cordonOf core).filter fun c => (s.core c).fenced
    let end_ := (l.map fun c => (s.core c).resetEnd).foldl max 0
    .next (if s.diePart (coreDie core) ≠ part then s.refuseSteward part 0
      else if s.module_.lostDies.contains (coreDie core) then s
      else if s.cycle < end_ then s.postHub end_ .cordonReturn (.cordonReturn part core)
      else s.comeBack l)
  | _ => .next s

-- dies (R479)

/-- Regions of other dies that the instances of a die's cores hold dirty are poisoned at their homes (step 3). -/
def State.poisonDirty (s : State) (die : Nat) : State :=
  let dirty := s.mem.vsets.flatMap fun x =>
    if s.setOn (dieCores die) x.1 then (x.2.filter (·.dirty ≠ 0)).map (·.line / 4) else []
  (dirty.eraseDups.filter fun r => s.homeDie (r * 512) ≠ die).foldl (fun s r =>
    (List.range 4).foldl (fun s k => s.setPoison (4 * r + k) true) s) s

/-- Deals that wait for a counter of a lost die end with error (step 4). -/
def State.endHeld (s : State) (die : Nat) : State :=
  (s.hub.deals.filter fun x => x.2.depv && x.2.dep / 4096 == die && (x.2.phase == .held || x.2.phase == .busy)).foldl (fun s x =>
    ((s.modDeal x.1 fun d => { d with phase := .ended, errs := d.total }).advanceQueue x.2.slot).postHub s.cycle .completionRecordWrite
      (.completionWrite x.1)) s

/-- What a die holds beside its cores is lost: counters and barrier wires. -/
def State.loseUnits (s : State) (die : Nat) : State :=
  let s := s.endHeld die
  { s with hub := { s.hub with counters := s.hub.counters.filter fun x => x.1 / 4096 != die }, wires := s.wires.filter fun x => x.1 / 48 != die }

/-- A die pair is lost. The responders' logs are empty then. -/
def State.loseDie (s : State) (die : Nat) : State :=
  if s.module_.lostDies.contains die || 4 ≤ die then s
  else
    let s := (s.poisonDirty die).beginReset (dieCores die) false
    let s := (s.loseUnits die).collsFail (dieCores die)
    let s := { s with module_ := { s.module_ with lostDies := die :: s.module_.lostDies } }
    s.errorEvent (die * 256) { cycle := 0, code := 0x30, sev := 3, detail := die }

/-- DIE_RESET: a steward orders it. -/
def execDieReset (s : State) : Out :=
  match s.msg with
  | .issued k m => .next (s.command k .dieReset m)
  | .dieReset part die => .next (if s.diePart die ≠ part then s.refuseSteward part 0 else s.loseDie die)
  | _ => .next s

/-- DIE_LOST: its link ports have not answered for 4096 cycles. -/
def execDieLost (s : State) : Out :=
  match s.msg with
  | .dieLost die => .next (s.loseDie die)
  | _ => .next s

/-- The regions of each responder's log are poisoned at the returned die, or all of it where a log overflowed. -/
def State.poisonLog (s : State) (die : Nat) : State :=
  let ls := (s.module_.logs.filter fun x => x.1 / 8 == die).map (·.2)
  let s := { s with module_ := { s.module_ with logs := s.module_.logs.filter fun x => x.1 / 8 != die } }
  if ls.any (65536 < ·.length) then s.modMem fun m => { m with poisonDies := m.poisonDies.put die [] }
  else ls.flatten.foldl (fun s r => (List.range 4).foldl (fun s k => s.setPoison (4 * r + k) true) s) s

/-- RETURN: a lost die comes back once its cores' resets have ended. -/
def execReturnDie (s : State) : Out :=
  match s.msg with
  | .issued k m => .next (s.command k .returnDie m)
  | .returnDie part die =>
    let end_ := ((dieCores die).map fun c => (s.core c).resetEnd).foldl max 0
    .next (if s.diePart die ≠ part then s.refuseSteward part 0
      else if !s.module_.lostDies.contains die then s
      else if s.cycle < end_ || !(dieCores die).all (fun c => (s.core c).fenced) then s.postHub (max end_ (s.cycle + 1)) .returnDie (.returnDie part die)
      else
        let s := { s with module_ := { s.module_ with lostDies := s.module_.lostDies.erase die } }
        (s.poisonLog die).comeBack (dieCores die))
  | _ => .next s

-- partition reset (R480)

/-- The partition that owns a link direction: 4 * die + p leaves die by its port p, toward another die or, with 3, the hub; 16 + die
leaves the hub for a die; 20 + 2 * p leaves by fabric port p and 21 + 2 * p comes in by it. A link between dies of different partitions
carries nothing, nor does a fabric port that is down (R453, R455, R456; the numbering is a DESIGN CHOICE, log entry 14). -/
def State.linkOwner (s : State) (l : Nat) : Option Nat :=
  if l < 16 then
    let d := l / 4
    let e := if l % 4 < d then l % 4 else l % 4 + 1
    if l % 4 = 3 || s.diePart d == s.diePart e then some (s.diePart d) else none
  else if l < 20 then some (s.diePart (l - 16))
  else if s.module_.ports.contains ((l - 20) / 2) then some (s.module_.portPart.get 0 ((l - 20) / 2))
  else none

/-- A link direction gets a new key, and counts its frames from 0 under it. -/
def Link.redraw (t : Tbl Link) (l : Nat) : Tbl Link := t.upd {} l fun x => { drawn := x.drawn + 1, frames := 0 }

/-- The 96-bit nonce of a link direction's next frame (R455). -/
def Link.nonce (x : Link) (l : Nat) : Nat := l % 2 ^ 32 * 2 ^ 64 + x.frames % 2 ^ 64

/-- What the hub holds for a partition is cleared: queues and their deals, counters, collective groups and fault queues. -/
def Hub.clearPart (h : Hub) (part : Nat) (mine : Nat → Bool) : Hub :=
  let freed (k : Nat) : Bool := (h.slots.get {} k).queue / 65536 == part
  { h with deals := h.deals.filter fun x => x.2.part != part, slots := h.slots.filter fun x => !freed x.1,
           waiting := h.waiting.filter fun q => q / 65536 != part, entryQ := h.entryQ.filter fun k => !freed k,
           counters := h.counters.filter fun x => !mine (x.1 / 4096), groups := h.groups.filter fun x => x.1 / 4096 != part,
           colls := h.colls.filter fun x => x.2.part != part, faults := h.faults.del part, events := h.events.del part, limits := h.limits.del part,
           copies := h.copies.filter fun x => !mine (coreDie x.2.core) }

/-- PARTITION_RESET: every die pair of a partition is reset, with no responders and no salvage, and runs again (log entry 11). Two cycles
after the command the steps of the reset are made (R474). -/
def execPartitionReset (s : State) : Out :=
  match s.msg with
  | .issued k m => .next (s.command k .partitionReset m)
  | .partitionReset part =>
    let cores := ((List.range 4).filter fun d => s.diePart d == part).flatMap dieCores
    .next (if s.module_.hot.contains part && s.module_.overLimit then s.refuseSteward part 0
      else (cores.foldl (fun s c => s.modCore c fun k => { k with halted := true }) s).postHub (s.cycle + 2) .partitionReset (.partitionSteps part))
  | .partitionSteps part =>
    let dies := (List.range 4).filter fun d => s.diePart d == part
    let cores := dies.flatMap dieCores
    .next (
      let s := (s.resetCores cores false).modHub fun h => h.clearPart part dies.contains
      -- the slots and entries that are free now serve other partitions' queues (R361, R499)
      let s := if s.hub.waiting.isEmpty then s else s.postHub s.cycle .queueSlotBind .queueSlotBind
      let s := match s.hub.entryQ with | [] => s | k :: _ => s.postHub s.cycle .dealIntake (.dealBegin k)
      let gone (t : Tk) : Bool := cores.contains (posCore t.pos)
      let s := { s with wires := s.wires.filter fun x => !dies.contains (x.1 / 48), saved := s.saved.filter fun y => !gone y.t,
                        joints := s.joints.filter fun x => !dies.contains (x.1 / 8),
                        away := s.away.filter fun g => !g.members.any gone }
      let mine := (List.range 20).filter fun l => s.linkOwner l == some part
      let m := s.module_
      let m := { m with haltedParts := m.haltedParts.filter (· != part), hot := m.hot.filter (· != part), lostDies := m.lostDies.filter fun d => !dies.contains d,
                        logs := m.logs.filter fun x => !dies.contains (x.1 / 8), links := mine.foldl Link.redraw m.links }
      ({ s with module_ := m }).postHub (s.cycle - 2 + 8192) .partitionReset (.partitionBack part))
  | .partitionBack part =>
    .next (if s.partHalted part then s
      else s.comeBack ((((List.range 4).filter fun d => s.diePart d == part).flatMap dieCores).filter fun c => (s.core c).fenced))
  | _ => .next s

-- records (R461, R482, R493)

/-- The partition of a record's slot; a record that the scheduler raises names it. -/
def State.recordPart (s : State) (l : List Nat) : Nat := l.getD 11 (s.diePart (coreDie (posCore (l.getD 9 0))))

/-- A fault record's 256 bits (Table 19-5). -/
def FaultRec.word (r : FaultRec) : Nat :=
  r.cycle % 2 ^ 64 * 2 ^ 192 + r.addr % 2 ^ 64 * 2 ^ 128 + r.pc % 2 ^ 64 * 2 ^ 64 + r.cause % 256 * 2 ^ 56 + r.sub % 256 * 2 ^ 48
    + r.behalf.toNat * 2 ^ 47 + r.acc % 4 * 2 ^ 45 + r.world.toNat * 2 ^ 44 + r.space % 4096 * 2 ^ 32 + r.slot % 2 ^ 15 * 2 ^ 12 + r.arg % 4096

/-- Its 32 bytes, the low ones first (R8). -/
def FaultRec.bytes (r : FaultRec) : List Byte := toBytes 32 r.word

/-- FAULT_RECORD_DELIVERY: a supervisor-level fault record reaches the steward's queue. -/
def execFaultRecordDelivery (s : State) : Out :=
  match s.msg with
  | .faultRecordDelivery l =>
    let r : FaultRec := { cycle := l.getD 0 0, addr := l.getD 1 0, pc := l.getD 2 0, cause := l.getD 3 0, sub := l.getD 4 0, behalf := l.getD 5 0 == 1,
                          acc := l.getD 6 0, world := l.getD 7 0 == 1, space := l.getD 8 0, slot := l.getD 9 0, arg := l.getD 10 0 }
    let part := s.recordPart l
    .next (if s.partHalted part then s
      else s.modHub fun h => { h with faults := h.faults.upd [] part (· ++ [r.bytes]) })
  | _ => .next s

/-- IEEE 1588 nanoseconds of a cycle, interpolated from the last two samples; one sample counts 0.8 ns a cycle (log entry 12). -/
def ptpOf (l : List (Nat × Nat × Nat)) (cycle : Nat) : Option Nat :=
  let ns (x : Nat × Nat × Nat) : Int := x.2.1 * 1000000000 + x.2.2
  match l with
  | [] => none
  | [a] => some (ns a + ((cycle : Int) - a.1) * 4 / 5).toNat
  | b :: a :: _ => some (ns a + ((cycle : Int) - a.1) * (ns b - ns a) / ((b.1 : Int) - a.1)).toNat

/-- An error record's 512 bits (Table 20-5). -/
def ErrRec.words (e : ErrRec) (seq ns : Nat) : Nat :=
  ns / 1000000000 % 2 ^ 48 * 2 ^ 464 + ns % 1000000000 * 2 ^ 432 + e.cycle % 2 ^ 64 * 2 ^ 368 + e.addr % 2 ^ 64 * 2 ^ 304
    + min 65535 e.count * 2 ^ 288 + e.code * 2 ^ 280 + e.sev * 2 ^ 272 + seq * 2 ^ 256 + e.deal % 256 * 2 ^ 248 + e.index % 2 ^ 48 * 2 ^ 200
    + e.space % 4096 * 2 ^ 180 + e.world.toNat * 2 ^ 179 + e.part % 4 * 2 ^ 177 + e.slot % 2 ^ 15 * 2 ^ 162 + e.detail % 2 ^ 128

/-- Its 64 bytes, the low ones first (R8). -/
def ErrRec.bytes (e : ErrRec) (seq ns : Nat) : List Byte := toBytes 64 (e.words seq ns)

/-- Write an error record to the secure stewards' queue and the management bridge, with its partition's next SEQ. The controller's
stamp of PTPTIME stands in both (DESIGN CHOICE, log entry 12). -/
def State.writeError (s : State) (e : ErrRec) : State :=
  let seq := s.hub.seqs.get 0 e.part
  let (ns, s) := match ptpOf s.module_.ptp e.cycle with
    | some n => (n, s)
    | none => s.freeVal
  let bs := e.bytes seq ns
  let s := s.modHub fun h => { h with seqs := h.seqs.put e.part ((seq + 1) % 65536), errors := h.errors ++ [bs] }
  { s with module_ := { s.module_ with sent := s.module_.sent ++ [bs] } }

/-- ERROR_RECORD_DELIVERY: code 0x01 only where it is enabled, code 0x10 at most once a region in 1 250 000 cycles. An error that arises in
the hardware comes in as an input (log entry 13): a single-bit error that a unit of a core's die corrects and its die counts, or an
uncorrectable one in a line of stacked or pool memory, which its next fetch meets. -/
def execErrorRecordDelivery (s : State) : Out :=
  match s.msg with
  | .errorRecord e =>
    .next (if e.code = 0x01 && !s.hub.corrected.contains e.part then s
      else if e.code ≠ 0x10 then s.writeError e
      else
        let (next, n) := s.hub.merges.get (0, 0) (e.addr / 512)
        if e.cycle < next then s.modHub fun h => { h with merges := h.merges.put (e.addr / 512) (next, n + e.count) }
        else (s.modHub fun h => { h with merges := h.merges.put (e.addr / 512) (e.cycle + 1250000, 0) }).writeError { e with count := n + e.count })
  | .softError core none => .next ((s.tally 9 (coreDie core) 1).errorEvent core { cycle := 0, code := 0x01, sev := 0 })
  | .softError _ (some line) => .next (s.modMem fun m => { m with tierErr := line :: m.tierErr.erase line })
  | _ => .next s

/-- PTP_SAMPLE: the controller samples CYCLE against its clock. -/
def execPtpSample (s : State) : Out :=
  match s.msg with
  | .ptpSample sec ns => .next { s with module_ := { s.module_ with ptp := (s.cycle, sec, ns) :: s.module_.ptp.take 1 } }
  | _ => .next s

-- injection (R481)

/-- An ERRINJ write has fired: the register reads 0. -/
def State.fired (s : State) (c : Nat) : State := s.modCore c fun k => { k with errinj := 0, injCount := 0 }

/-- ERRINJ_SCRATCHPAD_WORD: a word of the banker's window, if its page is pinned. -/
def execErrinjScratchpadWord (s : State) : Out :=
  match s.msg with
  | .errinj c v =>
    .next (match s.bankLoc c (s.task (mkPos c 0)).space (bits v.toNat 0 22 / 4 * 4) with
      | some loc => (s.fired c).modMem fun m => { m with errWords := loc / 4 :: m.errWords.filter (· != loc / 4) }
      | none => s.fired c)
  | _ => .next s

/-- ERRINJ_REGISTER: a register of the current window of the task in a slot. -/
def execErrinjRegister (s : State) : Out :=
  match s.msg with
  | .errinj c v =>
    let k := bits v.toNat 56 4
    let r := bits v.toNat 52 4
    .next (if k = 0 || k = 15 || r = 0 || !(s.slot (mkPos c k)).resident then s.fired c
      else (s.fired c).modTask (mkPos c k) fun t => { t with struck := t.strikeKey r :: t.struck.filter (· != t.strikeKey r) })
  | _ => .next s

/-- The lines that a core's banks hold, each with the key of its set. -/
def State.heldLines (s : State) (c : Nat) : List (Nat × Nat) :=
  s.mem.vsets.flatMap fun x => if s.setOn [c] x.1 then x.2.map fun y => (x.1, y.line) else []

/-- ERRINJ_VCACHE_LINE: the line that an index names among those its core holds (log entry 13). -/
def execErrinjVcacheLine (s : State) : Out :=
  match s.msg with
  | .errinj c v =>
    .next (match (s.heldLines c)[bits v.toNat 0 22]? with
      | some (key, line) => (s.fired c).modMem fun m =>
          { m with vsets := m.vsets.map fun x => if x.1 = key then (x.1, x.2.map fun y => if y.line = line then { y with err := true } else y) else x }
      | none => s.fired c)
  | _ => .next s

/-- ERRINJ_CORDON_RESET: the cordon of the core is reset. -/
def execErrinjCordonReset (s : State) : Out :=
  match s.msg with
  | .errinj c _ => .next ((s.fired c).beginReset (s.cordonOf c) true)
  | _ => .next s

end Sys2Proof.Machine
end

