-- ==== Sys2Proof/Machine/Control.lean ====
section
/-! DEFINITION. Branches, jumps, calls, register windows (05_scalar_control_instructions.md R145-R154, 01_machine.md R21-R26). -/
namespace Sys2Proof.Machine

/-- The target `off` words from the instruction (R80). -/
def branchTarget (pc : Word) (off : BitVec n) : Word := pc + immExt off * 4

/-- A register value as a jump target: bits [1:0] cleared, bits [63:57] ignored (R146). -/
def jumpTarget (v : Word) : Word := word (v.toNat / 4 * 4 % 2 ^ 57)

/-- A conditional branch (R145). -/
def branch (c : Word → Word → Bool) (a b : Reg) (o : BitVec 16) (s : State) : Out :=
  .next (with2 a b s fun x y s => if c x y then s.goTo (branchTarget s.my.pc o) else s.advance)

def execBeq (a b : Reg) (o : BitVec 16) (s : State) : Out := branch (fun x y => x == y) a b o s
def execBne (a b : Reg) (o : BitVec 16) (s : State) : Out := branch (fun x y => x != y) a b o s
def execBlt (a b : Reg) (o : BitVec 16) (s : State) : Out := branch (fun x y => x.slt y) a b o s
def execBge (a b : Reg) (o : BitVec 16) (s : State) : Out := branch (fun x y => !x.slt y) a b o s
def execBltu (a b : Reg) (o : BitVec 16) (s : State) : Out := branch (fun x y => x.ult y) a b o s
def execBgeu (a b : Reg) (o : BitVec 16) (s : State) : Out := branch (fun x y => !x.ult y) a b o s

def execJmp (o : BitVec 26) (s : State) : Out := .next (s.goTo (branchTarget s.my.pc o))
def execJr (a : Reg) (s : State) : Out := .next (with1 a s fun x s => s.goTo (jumpTarget x))

/-- LOOP (R147): the counter register is written before the transfer. -/
def execLoop (a : Reg) (o : BitVec 16) (s : State) : Out :=
  .next (with1 a s fun x s =>
    let n := x - 1
    match s.writeDest s.cur 4 a n with
    | none => s.park s.cur (.push (a.toNat - 24))
    | some s => if n ≠ 0 then s.goTo (branchTarget s.my.pc o) else s.advance)

-- windows


/-- The current window, s8 to s15. -/
def Task.window (t : Task) : Window := (List.range 8).map fun k => t.sreg (8 + k)

/-- Replace s8 to s15. -/
def Task.setWindow (t : Task) (w : Window) : Task :=
  (List.range 8).foldl (fun t k => t.setSreg (8 + k) (w.getD k 0)) t

/-- The push of CALL (R150): the caller's s12 to s15 become the callee's s8 to s11, and the caller's s15 the return address. -/
def Task.pushWindow (t : Task) (ret : Word) : Task :=
  let w := t.window
  let caller := w.set 7 ret
  let t := { t with callers := caller :: t.callers, onChip := t.onChip + 1 }
  let d := t.windows
  let t := t.setWindow [w.getD 4 0, w.getD 5 0, w.getD 6 0, w.getD 7 0, 0, 0, 0, 0]
  -- an error in s12 to s15 goes along; the return address is new
  { t with struck := (t.struck.filter (· != 16 * (d - 1) + 15)) ++
      ((List.range 4).filter fun j => t.struck.contains (16 * (d - 1) + 12 + j)).map (16 * d + 8 + ·) }

/-- The pop of RET (R151): the callee's s8 and s9 become the caller's s12 and s13. -/
def Task.popWindow (t : Task) : Task :=
  match t.callers with
  | [] => t
  | c :: r =>
    let w := t.window
    let t := { t with callers := r, onChip := t.onChip - 1 }
    let old := t.struck
    let d := t.windows
    let back := (List.range 2).filter fun j => old.contains (16 * (d + 1) + 8 + j)
    let t := t.setWindow ((c.set 4 (w.getD 0 0)).set 5 (w.getD 1 0))
    { t with struck := (old.filter fun k => k / 16 ≤ d && k != 16 * d + 12 && k != 16 * d + 13) ++ back.map (16 * d + 12 + ·) }

/-- Does a window member stand on a light slot, where it does not issue (Table 16-2)? -/
def State.noWindows (s : State) : Bool := s.isLight s.cur

/-- A window moves to or from a stack, read on the way: an uncorrectable error in it is uncontained (R154). Windows are numbered
from the outermost, 1. -/
def State.windowMoved (s : State) (p : Pos) (n : Nat) : State :=
  if (s.task p).struck.any fun k => k / 16 == n then s.post s.cycle 0 .reset (.uncontained (posCore p) 0 0x23 p) else s

/-- CALL and CALLR once the target is known (R150). With four windows on chip the task's next two turns spill one first
(R25, R153). -/
def doCall (target : Word) (s : State) : State :=
  let t := s.my
  if t.depth < t.windows + 1 then s.noIssue 0x44 0 0 3
  else
    let spill := t.onChip = 4
    let ret := t.pc + 4
    let s := if spill then s.windowMoved s.cur (t.windows + 1 - t.onChip) else s
    let s := s.setMy fun t => (if spill then { t with onChip := 3 } else t).pushWindow ret
    let s := s.goTo target
    if spill then s.park s.cur (.window 2) else s

def execCall (o : BitVec 26) (s : State) : Out :=
  .next (if s.noWindows then s.noIssue 0x4A 0 0 3 else doCall (branchTarget s.my.pc o) s)

/-- CALLR reads a in the caller's window, before the push (R150). -/
def execCallr (a : Reg) (s : State) : Out :=
  .next (if s.noWindows then s.noIssue 0x4A 0 0 3
    else if s.my.depth < s.my.windows + 1 then s.noIssue 0x44 0 0 3
    else with1 a s fun x s => doCall (jumpTarget x) s)

/-- RET (R151). A caller window that is not on chip is filled in the task's next two turns (R25, R153). -/
def execRet (s : State) : Out :=
  let t := s.my
  .next (
    if s.noWindows then s.noIssue 0x4A 0 0 3
    else if t.windows = 1 then s.noIssue 0x45 0 0 3
    else
      let fill := t.onChip = 1
      let target := jumpTarget ((t.callers.headD []).getD 7 0)
      let s := if fill then s.windowMoved s.cur (t.windows - 1) else s
      let s := s.setMy fun t => (if fill then { t with onChip := 2 } else t).popWindow
      let s := s.goTo target
      if fill then s.park s.cur (.window 2) else s)

/-- WINDOW_SPILL (R21, R154): idle turns move the oldest on-chip caller window of a task to its stack. -/
def execWindowSpill (s : State) : Out :=
  match s.msg with
  | .windowSpill p =>
    let t := s.task p
    .next ((s.windowMoved p (t.windows + 1 - t.onChip)).modTask p fun t => { t with onChip := t.onChip - 1 })
  | _ => .next s

/-- WINDOW_FILL (R21, R154): idle turns bring a task's innermost stacked window on chip. -/
def execWindowFill (s : State) : Out :=
  match s.msg with
  | .windowFill p =>
    let t := s.task p
    .next ((s.windowMoved p (t.windows - t.onChip)).modTask p fun t => { t with onChip := t.onChip + 1 })
  | _ => .next s

end Sys2Proof.Machine
end

