-- ==== Sys2Proof/Machine/Float.lean ====
section
/-! DEFINITION. Scalar floating point (05_scalar_control_instructions.md R138-R144). -/
namespace Sys2Proof.Machine

/-- The format PREC names: 0 FP64, 1 FP32 (Table 3-17). -/
def precFmt (p : BitVec 1) : Format := if p = 0 then .fp64 else .fp32

/-- The other float precision (FCVT kind 1). -/
def otherFmt (p : BitVec 1) : Format := if p = 0 then .fp32 else .fp64

/-- An operand's pattern in a format: FP32 is bits [31:0] (R138). -/
def fpBits (f : Format) (x : Word) : Nat := x.toNat % 2 ^ f.width

/-- The task's effective rounding mode for a MOD field (R109). -/
def State.modeOf (s : State) (m : BitVec 3) : Mode := effMode m.toNat (s.my.cr 0x16)

/-- Result and events of a rounded operation, its input events included (R143). -/
def rounded (f : Format) (mode : Mode) (ins : List Nat) (r : Val × Flags) : Nat × Events :=
  let (b, e) := finish f mode false r.1 r.2
  (b, ins.foldl (fun e x => e.add (inputEvents f x)) e)

/-- A class S floating member of two sources (R139). -/
def fp2 (op : Mode → Val → Val → Val × Flags) (d a b : Reg) (m : BitVec 3) (p : BitVec 1) (s : State) : Out :=
  .next (with2 a b s fun x y s =>
    let f := precFmt p
    let mode := s.modeOf m
    let r := rounded f mode [fpBits f x, fpBits f y]
      (op mode (decodeVal f (fpBits f x)) (decodeVal f (fpBits f y)))
    finishFloat d r.1 r.2 s)

def execFadd (d a b : Reg) (m : BitVec 3) (p : BitVec 1) (s : State) : Out := fp2 Val.add d a b m p s
def execFsub (d a b : Reg) (m : BitVec 3) (p : BitVec 1) (s : State) : Out :=
  fp2 (fun mode x y => Val.add mode x y.negate) d a b m p s
def execFmul (d a b : Reg) (m : BitVec 3) (p : BitVec 1) (s : State) : Out := fp2 (fun _ => Val.mul) d a b m p s

/-- The product of FFMA; zero times infinity is invalid even when the addend is NaN (Table 5-11). -/
def execFfma (d a b : Reg) (m : BitVec 3) (p : BitVec 1) (s : State) : Out :=
  .next (with3 a b d s fun x y z s =>
    let f := precFmt p
    let mode := s.modeOf m
    let v (w : Word) := decodeVal f (fpBits f w)
    let r := rounded f mode [fpBits f x, fpBits f y, fpBits f z] (Val.fma mode (v x) (v y) (v z))
    finishFloat d r.1 r.2 s)

/-- FDIV (Table 5-1, Table 5-11). -/
def execFdiv (d a b : Reg) (m : BitVec 3) (p : BitVec 1) (n : BitVec 4) (s : State) : Out :=
  .next (with2 a b s fun x y s =>
    let f := precFmt p
    let r := rounded f (s.modeOf m) [fpBits f x, fpBits f y]
      (Val.div (decodeVal f (fpBits f x)) (decodeVal f (fpBits f y)))
    issueLong d n.toNat (if p = 0 then 36 else 24) r.1 r.2 s)

/-- FSQRT (Table 5-1, Table 5-11). -/
def execFsqrt (d a : Reg) (m : BitVec 3) (p : BitVec 1) (n : BitVec 4) (s : State) : Out :=
  .next (with1 a s fun x s =>
    let f := precFmt p
    let r := rounded f (s.modeOf m) [fpBits f x] (Val.sqrt (decodeVal f (fpBits f x)))
    issueLong d n.toNat (if p = 0 then 40 else 28) r.1 r.2 s)

/-- A float to an integer of `w` bits, sign-extended (R113, R142). -/
def cvtToInt (w : Nat) (f : Format) (mode : Mode) (x : Nat) : Nat × Events :=
  let (i, fl) := toInt w mode (decodeVal f x)
  ((wordI i).toNat, (Events.ofFlags fl).add (inputEvents f x))

/-- The result of FCVT (Table 3-18, R142). -/
def fcvtVal (k : Nat) (p : BitVec 1) (mode : Mode) (x : Word) : Nat × Events :=
  let f := precFmt p
  match k with
  | 1 =>
    let (b, e) := finish (otherFmt p) mode false (decodeVal f (fpBits f x)) 0
    (b, e.add (inputEvents f (fpBits f x)))
  | 2 => cvtToInt 64 f mode (fpBits f x)
  | 4 => cvtToInt 32 f mode (fpBits f x)
  | 3 => finish f mode false (.ofInt (signed 64 x.toNat)) 0
  | _ => finish f mode false (.ofInt (signed 32 x.toNat)) 0

def execFcvt (d a : Reg) (k : BitVec 5) (m : BitVec 3) (p : BitVec 1) (s : State) : Out :=
  .next (with1 a s fun x s =>
    let r := fcvtVal k.toNat p (s.modeOf m) x
    finishFloat d r.1 r.2 s)

/-- Order of two operands that are not NaN, with -0 below +0 (R140). -/
def minLess (x y : Val) : Bool :=
  match Val.cmp x y with
  | .lt => true
  | .gt => false
  | .eq => x.neg? && !y.neg?

/-- FMIN and FMAX (R140): no flag; a NaN operand gives way to the other; bits unchanged. -/
def fpSelect (max : Bool) (f : Format) (x y : Nat) : Nat × Events :=
  let vx := decodeVal f x
  let vy := decodeVal f y
  let r := if vx.isNan && vy.isNan then f.nanBits
    else if vx.isNan then y else if vy.isNan then x
    else if minLess vx vy == max then y else x
  (r, ((inputEvents f x).add (inputEvents f y)).add { nan := (isNanBits f r).toNat })

def execFmin (d a b : Reg) (p : BitVec 1) (s : State) : Out :=
  .next (with2 a b s fun x y s =>
    let r := fpSelect false (precFmt p) (fpBits (precFmt p) x) (fpBits (precFmt p) y)
    finishFloat d r.1 r.2 s)

def execFmax (d a b : Reg) (p : BitVec 1) (s : State) : Out :=
  .next (with2 a b s fun x y s =>
    let r := fpSelect true (precFmt p) (fpBits (precFmt p) x) (fpBits (precFmt p) y)
    finishFloat d r.1 r.2 s)

/-- FCMP's truth value (R141). -/
def fpCompare (c : Nat) (x y : Val) : Bool :=
  if x.isNan || y.isNan then c == 3
  else match c with
    | 0 => Val.cmp x y == .eq
    | 1 => Val.cmp x y == .lt
    | 2 => Val.cmp x y != .gt
    | _ => false

def execFcmp (d a b : Reg) (c : BitVec 2) (p : BitVec 1) (s : State) : Out :=
  .next (with2 a b s fun x y s =>
    let f := precFmt p
    let e := (inputEvents f (fpBits f x)).add (inputEvents f (fpBits f y))
    finishFloat d (fpCompare c.toNat (decodeVal f (fpBits f x)) (decodeVal f (fpBits f y))).toNat e s)

end Sys2Proof.Machine
end

