-- ==== Sys2Proof/Decode.lean ====
section
/-! DEFINITION. Decoding a word, rejecting by name, and encoding (03_encoding.md R79-R102, Tables 3-1 to 3-32). -/
namespace Sys2Proof
open Sys2Proof.Machine (bits bit ofBytes toBytes)

/-- Why a word is no instruction: the reasons of Table 3-32 that one word can show on its own. -/
inductive Reject where
  | zeroMajor      -- 0x01
  | reservedMajor  -- 0x02
  | function       -- 0x03
  | modifier       -- 0x04
  | unusedField    -- 0x05
  | lookahead      -- 0x06
  | writesQ6       -- 0x0B
  | controlReg     -- 0x0C
  | portAddress    -- 0x0D
  deriving DecidableEq, Repr

/-- The reason code (Table 3-32). -/
def Reject.code : Reject → Nat
  | .zeroMajor => 0x01 | .reservedMajor => 0x02 | .function => 0x03 | .modifier => 0x04 | .unusedField => 0x05
  | .lookahead => 0x06 | .writesQ6 => 0x0B | .controlReg => 0x0C | .portAddress => 0x0D

/-- The `n`-bit field at bit `lo`. -/
def fld (w lo n : Nat) : BitVec n := BitVec.ofNat n (w / 2 ^ lo)

/-- Major 0x0D (Tables 3-17 and 3-18, R144). -/
def decFloat (w : Nat) : Except Reject Instr :=
  let d : Reg := fld w 21 5
  let a : Reg := fld w 16 5
  let b : Reg := fld w 11 5
  let m : BitVec 3 := fld w 8 3
  let p : BitVec 1 := fld w 7 1
  match bits w 4 3 with
  | 0 => .ok (.fadd d a b m p)
  | 1 => .ok (.fsub d a b m p)
  | 2 => .ok (.fmul d a b m p)
  | 3 => .ok (.ffma d a b m p)
  | 4 => .ok (.fdiv d a b m p (fld w 0 4))
  | 5 => if bits w 11 5 = 0 then .ok (.fsqrt d a m p (fld w 0 4)) else .ok (.fcvt d a (fld w 11 5) m p)
  | 6 => match bits w 8 3 with
    | 0 => .ok (.fmin d a b p)
    | 1 => .ok (.fmax d a b p)
    | _ => .error .modifier
  | _ => if bits w 10 1 = 0 then .ok (.fcmp d a b (fld w 8 2) p) else .error .modifier

/-- Major 0x01 (Table 3-14). -/
def decIntA (w : Nat) : Except Reject Instr :=
  match bits w 4 7 with
  | 0 => .ok (.add (fld w 21 5) (fld w 16 5) (fld w 11 5))
  | 1 => .ok (.sub (fld w 21 5) (fld w 16 5) (fld w 11 5))
  | 2 => .ok (.and (fld w 21 5) (fld w 16 5) (fld w 11 5))
  | 3 => .ok (.or (fld w 21 5) (fld w 16 5) (fld w 11 5))
  | 4 => .ok (.xor (fld w 21 5) (fld w 16 5) (fld w 11 5))
  | 5 => .ok (.andn (fld w 21 5) (fld w 16 5) (fld w 11 5))
  | 8 => .ok (.sll (fld w 21 5) (fld w 16 5) (fld w 11 5))
  | 9 => .ok (.srl (fld w 21 5) (fld w 16 5) (fld w 11 5))
  | 10 => .ok (.sra (fld w 21 5) (fld w 16 5) (fld w 11 5))
  | 16 => .ok (.min (fld w 21 5) (fld w 16 5) (fld w 11 5))
  | 17 => .ok (.max (fld w 21 5) (fld w 16 5) (fld w 11 5))
  | 18 => .ok (.minu (fld w 21 5) (fld w 16 5) (fld w 11 5))
  | 19 => .ok (.maxu (fld w 21 5) (fld w 16 5) (fld w 11 5))
  | 20 => .ok (.slt (fld w 21 5) (fld w 16 5) (fld w 11 5))
  | 21 => .ok (.sltu (fld w 21 5) (fld w 16 5) (fld w 11 5))
  | 24 => .ok (.cmov (fld w 21 5) (fld w 16 5) (fld w 11 5))
  | 32 => .ok (.clz (fld w 21 5) (fld w 16 5))
  | 33 => .ok (.ctz (fld w 21 5) (fld w 16 5))
  | 34 => .ok (.popc (fld w 21 5) (fld w 16 5))
  | 35 => .ok (.bswap (fld w 21 5) (fld w 16 5))
  | 40 => .ok (.sextB (fld w 21 5) (fld w 16 5))
  | 41 => .ok (.sextH (fld w 21 5) (fld w 16 5))
  | 42 => .ok (.sextW (fld w 21 5) (fld w 16 5))
  | 44 => .ok (.zextB (fld w 21 5) (fld w 16 5))
  | 45 => .ok (.zextH (fld w 21 5) (fld w 16 5))
  | 46 => .ok (.zextW (fld w 21 5) (fld w 16 5))
  | _ => .error .function

/-- Major 0x08 (Table 3-15). -/
def decShift (w : Nat) : Except Reject Instr :=
  match bits w 14 2 with
  | 0 => .ok (.slli (fld w 21 5) (fld w 16 5) (fld w 0 6))
  | 1 => .ok (.srli (fld w 21 5) (fld w 16 5) (fld w 0 6))
  | 2 => .ok (.srai (fld w 21 5) (fld w 16 5) (fld w 0 6))
  | _ => .error .function

/-- Major 0x0B (Table 3-15). -/
def decBitf (w : Nat) : Except Reject Instr :=
  match bits w 14 2 with
  | 0 => .ok (.bfx (fld w 21 5) (fld w 16 5) (fld w 6 6) (fld w 0 6))
  | 1 => .ok (.bfi (fld w 21 5) (fld w 16 5) (fld w 6 6) (fld w 0 6))
  | 2 => .ok (.addx (fld w 21 5) (fld w 16 5) (fld w 11 3) (fld w 6 5))
  | _ => .error .function

/-- Major 0x0C (Table 3-16). -/
def decMulDiv (w : Nat) : Except Reject Instr :=
  match bits w 4 7 with
  | 0 => .ok (.mul (fld w 21 5) (fld w 16 5) (fld w 11 5))
  | 1 => .ok (.mulh (fld w 21 5) (fld w 16 5) (fld w 11 5))
  | 2 => .ok (.mulhu (fld w 21 5) (fld w 16 5) (fld w 11 5))
  | 3 => .ok (.madd (fld w 21 5) (fld w 16 5) (fld w 11 5))
  | 8 => .ok (.div (fld w 21 5) (fld w 16 5) (fld w 11 5) (fld w 0 4))
  | 9 => .ok (.divu (fld w 21 5) (fld w 16 5) (fld w 11 5) (fld w 0 4))
  | 10 => .ok (.rem (fld w 21 5) (fld w 16 5) (fld w 11 5) (fld w 0 4))
  | 11 => .ok (.remu (fld w 21 5) (fld w 16 5) (fld w 11 5) (fld w 0 4))
  | _ => .error .function

/-- Major 0x18 (Table 3-19). -/
def decJreg (w : Nat) : Except Reject Instr :=
  match bits w 4 7 with
  | 0 => .ok (.jr (fld w 16 5))
  | 1 => .ok (.callr (fld w 16 5))
  | 2 => .ok (.ret)
  | _ => .error .function

/-- Major 0x1D (Table 3-20). -/
def decSync (w : Nat) : Except Reject Instr :=
  match bits w 3 1 with
  | 0 => .ok (.lda (fld w 21 5) (fld w 16 5) (fld w 6 10) (fld w 4 1) (fld w 0 3))
  | 1 => .ok (.stl (fld w 21 5) (fld w 16 5) (fld w 6 10) (fld w 4 1) (fld w 0 3))
  | _ => .error .function

/-- Major 0x1E (Table 3-21). -/
def decIndex (w : Nat) : Except Reject Instr :=
  match bits w 10 1 with
  | 0 => .ok (.ldx (fld w 21 5) (fld w 16 5) (fld w 11 5) (fld w 8 2) (fld w 0 4))
  | 1 => .ok (.stx (fld w 21 5) (fld w 16 5) (fld w 11 5) (fld w 8 2))
  | _ => .error .function

/-- Major 0x20 (Table 3-20). -/
def decFullEmpty (w : Nat) : Except Reject Instr :=
  match bits w 0 4 with
  | 0 => .ok (.ldfe (fld w 21 5) (fld w 16 5) (fld w 6 10) (fld w 4 1))
  | 1 => .ok (.ldf (fld w 21 5) (fld w 16 5) (fld w 6 10) (fld w 4 1))
  | 2 => .ok (.stfe (fld w 21 5) (fld w 16 5) (fld w 6 10) (fld w 4 1))
  | 3 => .ok (.stf (fld w 21 5) (fld w 16 5) (fld w 6 10) (fld w 4 1))
  | 4 => .ok (.feq (fld w 21 5) (fld w 16 5) (fld w 6 10) (fld w 4 1))
  | 5 => .ok (.feset (fld w 21 5) (fld w 16 5) (fld w 6 10) (fld w 4 1))
  | _ => .error .function

/-- Major 0x21 (Table 3-22). -/
def decAmo (w : Nat) : Except Reject Instr :=
  match bits w 7 4 with
  | 0 => .ok (.amoadd (fld w 21 5) (fld w 16 5) (fld w 11 5) (fld w 4 3) (fld w 2 2) (fld w 1 1))
  | 1 => .ok (.amoand (fld w 21 5) (fld w 16 5) (fld w 11 5) (fld w 4 3) (fld w 2 2) (fld w 1 1))
  | 2 => .ok (.amoor (fld w 21 5) (fld w 16 5) (fld w 11 5) (fld w 4 3) (fld w 2 2) (fld w 1 1))
  | 3 => .ok (.amoxor (fld w 21 5) (fld w 16 5) (fld w 11 5) (fld w 4 3) (fld w 2 2) (fld w 1 1))
  | 4 => .ok (.amomin (fld w 21 5) (fld w 16 5) (fld w 11 5) (fld w 4 3) (fld w 2 2) (fld w 1 1))
  | 5 => .ok (.amomax (fld w 21 5) (fld w 16 5) (fld w 11 5) (fld w 4 3) (fld w 2 2) (fld w 1 1))
  | 6 => .ok (.amominu (fld w 21 5) (fld w 16 5) (fld w 11 5) (fld w 4 3) (fld w 2 2) (fld w 1 1))
  | 7 => .ok (.amomaxu (fld w 21 5) (fld w 16 5) (fld w 11 5) (fld w 4 3) (fld w 2 2) (fld w 1 1))
  | 8 => .ok (.amoswap (fld w 21 5) (fld w 16 5) (fld w 11 5) (fld w 4 3) (fld w 2 2) (fld w 1 1))
  | 9 => .ok (.amocas (fld w 21 5) (fld w 16 5) (fld w 11 5) (fld w 4 3) (fld w 2 2) (fld w 1 1))
  | 10 => .ok (.amofadd (fld w 21 5) (fld w 16 5) (fld w 11 5) (fld w 4 3) (fld w 2 2) (fld w 1 1))
  | 12 => .ok (.hold (fld w 21 5) (fld w 16 5) (fld w 4 3) (fld w 2 2) (fld w 1 1))
  | 13 => .ok (.pass (fld w 16 5) (fld w 11 5) (fld w 4 3) (fld w 2 2) (fld w 1 1))
  | _ => .error .function

/-- Major 0x22 (Table 3-23). -/
def decMemCtl (w : Nat) : Except Reject Instr :=
  match bits w 7 4 with
  | 0 => .ok (.fence (fld w 4 3) (fld w 2 2))
  | 1 => .ok (.scfence (fld w 4 3))
  | 2 => .ok (.wack)
  | 3 => .ok (.clean (fld w 16 5) (fld w 11 5) (fld w 4 3))
  | 4 => .ok (.inval (fld w 16 5) (fld w 11 5) (fld w 4 3))
  | 5 => .ok (.discard (fld w 16 5))
  | 6 => .ok (.pref (fld w 16 5))
  | 7 => .ok (.waita (fld w 21 5) (fld w 16 5) (fld w 11 5))
  | 8 => .ok (.wake (fld w 16 5))
  | _ => .error .function

/-- Major 0x23 (Table 3-24). -/
def decVcache (w : Nat) : Except Reject Instr :=
  match bits w 4 7 with
  | 0 => .ok (.cdef (fld w 21 5) (fld w 16 5) (fld w 11 5))
  | 1 => .ok (.cparent (fld w 21 5) (fld w 16 5) (fld w 11 5))
  | 2 => .ok (.cresize (fld w 21 5) (fld w 16 5) (fld w 11 5))
  | 3 => .ok (.cbind (fld w 21 5) (fld w 16 5) (fld w 11 5))
  | 4 => .ok (.cunbind (fld w 21 5) (fld w 16 5))
  | 5 => .ok (.cquery (fld w 21 5) (fld w 16 5))
  | 6 => .ok (.cdrop (fld w 21 5) (fld w 16 5))
  | _ => .error .function

/-- Major 0x24 (Table 3-25). -/
def decTileDef (w : Nat) : Except Reject Instr :=
  match bits w 4 9 with
  | 0 => .ok (.tdef (fld w 22 4) (fld w 13 5))
  | 1 => .ok (.tshape (fld w 22 4) (fld w 13 5))
  | 2 => .ok (.tbase (fld w 22 4) (fld w 13 5))
  | 3 => .ok (.tgetHalf0 (fld w 18 4) (fld w 13 5))
  | 4 => .ok (.tgetHalf1 (fld w 18 4) (fld w 13 5))
  | _ => .error .function

/-- Major 0x25 (Table 3-25). -/
def decTileMem (w : Nat) : Except Reject Instr :=
  match bits w 4 9 with
  | 0 => .ok (.tld (fld w 22 4) (fld w 13 5) (fld w 0 4))
  | 1 => .ok (.tst (fld w 22 4) (fld w 13 5) (fld w 0 4))
  | 2 => .ok (.tgath (fld w 22 4) (fld w 18 4) (fld w 13 5) (fld w 0 4))
  | 3 => .ok (.tscat (fld w 22 4) (fld w 18 4) (fld w 13 5) (fld w 0 4))
  | 4 => .ok (.tcpy (fld w 22 4) (fld w 18 4) (fld w 0 4))
  | 5 => .ok (.tfill (fld w 22 4) (fld w 13 5) (fld w 0 4))
  | 6 => .ok (.ttrans (fld w 22 4) (fld w 18 4) (fld w 0 4))
  | 7 => .ok (.trot (fld w 22 4) (fld w 18 4) (fld w 13 5) (fld w 0 4))
  | _ => .error .function

/-- Major 0x26 (Table 3-26). -/
def decTileF (w : Nat) : Except Reject Instr :=
  match bits w 6 4 with
  | 0 => .ok (.tadd (fld w 22 4) (fld w 18 4) (fld w 14 4) (fld w 5 1) (fld w 0 4))
  | 1 => .ok (.tsub (fld w 22 4) (fld w 18 4) (fld w 14 4) (fld w 5 1) (fld w 0 4))
  | 2 => .ok (.tmul (fld w 22 4) (fld w 18 4) (fld w 14 4) (fld w 5 1) (fld w 0 4))
  | 3 => .ok (.tfma (fld w 22 4) (fld w 18 4) (fld w 14 4) (fld w 10 4) (fld w 5 1) (fld w 0 4))
  | 4 => .ok (.tdiv (fld w 22 4) (fld w 18 4) (fld w 14 4) (fld w 5 1) (fld w 0 4))
  | 5 => .ok (.tmax (fld w 22 4) (fld w 18 4) (fld w 14 4) (fld w 0 4))
  | 6 => .ok (.tmin (fld w 22 4) (fld w 18 4) (fld w 14 4) (fld w 0 4))
  | 7 => .ok (.tabs (fld w 22 4) (fld w 18 4) (fld w 0 4))
  | 8 => .ok (.tneg (fld w 22 4) (fld w 18 4) (fld w 0 4))
  | _ => .error .function

/-- Major 0x27 (Table 3-26). -/
def decTileSf (w : Nat) : Except Reject Instr :=
  match bits w 6 4 with
  | 0 => .ok (.texp (fld w 22 4) (fld w 18 4) (fld w 5 1) (fld w 0 4))
  | 1 => .ok (.tlog (fld w 22 4) (fld w 18 4) (fld w 5 1) (fld w 0 4))
  | 2 => .ok (.trsq (fld w 22 4) (fld w 18 4) (fld w 5 1) (fld w 0 4))
  | 3 => .ok (.trcp (fld w 22 4) (fld w 18 4) (fld w 5 1) (fld w 0 4))
  | 4 => .ok (.ttanh (fld w 22 4) (fld w 18 4) (fld w 5 1) (fld w 0 4))
  | 5 => .ok (.terf (fld w 22 4) (fld w 18 4) (fld w 5 1) (fld w 0 4))
  | _ => .error .function

/-- Major 0x28 (Table 3-26). -/
def decTileI (w : Nat) : Except Reject Instr :=
  match bits w 6 4 with
  | 0 => .ok (.tiadd (fld w 22 4) (fld w 18 4) (fld w 14 4) (fld w 5 1) (fld w 0 4))
  | 1 => .ok (.tisub (fld w 22 4) (fld w 18 4) (fld w 14 4) (fld w 5 1) (fld w 0 4))
  | 2 => .ok (.timul (fld w 22 4) (fld w 18 4) (fld w 14 4) (fld w 5 1) (fld w 0 4))
  | 3 => .ok (.tand (fld w 22 4) (fld w 18 4) (fld w 14 4) (fld w 0 4))
  | 4 => .ok (.tor (fld w 22 4) (fld w 18 4) (fld w 14 4) (fld w 0 4))
  | 5 => .ok (.txor (fld w 22 4) (fld w 18 4) (fld w 14 4) (fld w 0 4))
  | 6 => .ok (.tshl (fld w 22 4) (fld w 18 4) (fld w 14 4) (fld w 0 4))
  | 7 => .ok (.tshr (fld w 22 4) (fld w 18 4) (fld w 14 4) (fld w 0 4))
  | _ => .error .function

/-- Major 0x29 (Table 3-27). -/
def decTileS (w : Nat) : Except Reject Instr :=
  match bits w 9 4 with
  | 0 => .ok (.tadds (fld w 22 4) (fld w 18 4) (fld w 13 5) (fld w 8 1) (fld w 0 4))
  | 1 => .ok (.tmuls (fld w 22 4) (fld w 18 4) (fld w 13 5) (fld w 8 1) (fld w 0 4))
  | 2 => .ok (.tfmas (fld w 22 4) (fld w 18 4) (fld w 13 5) (fld w 8 1) (fld w 0 4))
  | 3 => .ok (.tmaxs (fld w 22 4) (fld w 18 4) (fld w 13 5) (fld w 0 4))
  | _ => .error .function

/-- Major 0x2A (Table 3-28). -/
def decTileCmp (w : Nat) : Except Reject Instr :=
  match bits w 7 3 with
  | 0 => .ok (.tcmp (fld w 22 4) (fld w 18 4) (fld w 14 4) (fld w 4 3) (fld w 0 4))
  | 1 => .ok (.tsel (fld w 22 4) (fld w 18 4) (fld w 14 4) (fld w 10 4) (fld w 0 4))
  | 2 => .ok (.trsum (fld w 22 4) (fld w 18 4) (fld w 0 4))
  | 3 => .ok (.tcsum (fld w 22 4) (fld w 18 4) (fld w 0 4))
  | 4 => .ok (.trmax (fld w 22 4) (fld w 18 4) (fld w 0 4))
  | 5 => .ok (.tcmax (fld w 22 4) (fld w 18 4) (fld w 0 4))
  | 6 => .ok (.tsum (fld w 22 4) (fld w 18 4) (fld w 0 4))
  | _ => .error .function

/-- Major 0x2B (Table 3-28). -/
def decTileConv (w : Nat) : Except Reject Instr :=
  match bits w 8 2 with
  | 0 => .ok (.tcvt (fld w 22 4) (fld w 18 4) (fld w 5 3) (fld w 4 1) (fld w 0 4))
  | 1 => .ok (.tpack (fld w 22 4) (fld w 18 4) (fld w 0 4))
  | 2 => .ok (.tunpack (fld w 22 4) (fld w 18 4) (fld w 0 4))
  | _ => .error .function

/-- Major 0x2C (Table 3-27). -/
def decTileRnd (w : Nat) : Except Reject Instr :=
  match bits w 9 4 with
  | 0 => .ok (.trand (fld w 22 4) (fld w 13 5) (fld w 0 4))
  | 1 => .ok (.tdrop (fld w 22 4) (fld w 18 4) (fld w 13 5) (fld w 0 4))
  | _ => .error .function

/-- Major 0x2D (Table 3-29). -/
def decMatrix (w : Nat) : Except Reject Instr :=
  match bits w 8 2 with
  | 0 => .ok (.mma (fld w 22 4) (fld w 18 4) (fld w 14 4))
  | 1 => .ok (.mmat (fld w 22 4) (fld w 18 4) (fld w 14 4))
  | 2 => .ok (.mmas (fld w 22 4) (fld w 18 4) (fld w 14 4))
  | 3 => .ok (.mmaj (fld w 22 4) (fld w 18 4) (fld w 14 4))
  | _ => .error .function

/-- Major 0x2E (Table 3-29). -/
def decMatrixCtl (w : Nat) : Except Reject Instr :=
  match bits w 10 3 with
  | 0 => .ok (.mzero (fld w 22 4))
  | 1 => .ok (.mload (fld w 22 4) (fld w 18 4))
  | 2 => .ok (.mdrain (fld w 22 4) (fld w 18 4))
  | 3 => .ok (.mchk (fld w 22 4))
  | 4 => .ok (.mstat (fld w 22 4) (fld w 13 5))
  | 5 => .ok (.mwait (fld w 22 4))
  | 6 => .ok (.mjoin (fld w 13 5))
  | 7 => .ok (.mleave)
  | _ => .error .function

/-- Major 0x2F (Table 3-30). -/
def decQueue (w : Nat) : Except Reject Instr :=
  match bits w 4 7 with
  | 0 => .ok (.qtry (fld w 21 5) (fld w 16 5))
  | 16 | 17 | 18 | 19 => .ok (.qcfg (fld w 16 5) (fld w 4 2))
  | _ => .error .function

/-- Major 0x30 (Table 3-30). -/
def decTask (w : Nat) : Except Reject Instr :=
  match bits w 4 7 with
  | 0 => .ok (.start (fld w 16 5))
  | 1 => .ok (.reap (fld w 21 5) (fld w 16 5))
  | 2 => .ok (.spawn (fld w 21 5) (fld w 16 5))
  | 3 => .ok (.exit)
  | 4 => .ok (.sleep (fld w 16 5))
  | 5 => .ok (.launch (fld w 21 5) (fld w 16 5) (fld w 11 5))
  | 8 | 9 | 10 => .ok (.coord (fld w 21 5) (fld w 4 2))
  | _ => .error .function

/-- Major 0x31 (Table 3-30). -/
def decDep (w : Nat) : Except Reject Instr :=
  match bits w 4 7 with
  | 0 => .ok (.depinit (fld w 16 5) (fld w 11 5))
  | 1 => .ok (.depdec (fld w 16 5))
  | _ => .error .function

/-- Major 0x32 (Table 3-30). -/
def decBarrier (w : Nat) : Except Reject Instr :=
  match bits w 4 7 with
  | 0 => .ok (.barw (fld w 21 5) (fld w 16 5) (fld w 11 5))
  | 1 => .ok (.bara (fld w 16 5))
  | 2 => .ok (.barq (fld w 21 5) (fld w 16 5))
  | 3 => .ok (.probe (fld w 21 5) (fld w 16 5))
  | 4 => .ok (.drain (fld w 16 5))
  | _ => .error .function

/-- Major 0x33 (Table 3-30). -/
def decColl (w : Nat) : Except Reject Instr :=
  match bits w 4 7 with
  | 0 => .ok (.coll (fld w 21 5) (fld w 16 5))
  | 1 => .ok (.cwait (fld w 21 5) (fld w 16 5))
  | 2 => .ok (.evgath (fld w 21 5) (fld w 16 5))
  | _ => .error .function

/-- Major 0x34 (Table 3-30). -/
def decCopy (w : Nat) : Except Reject Instr :=
  match bits w 4 7 with
  | 0 => .ok (.cpy (fld w 21 5) (fld w 16 5))
  | 1 => .ok (.cpym (fld w 21 5) (fld w 16 5) (fld w 11 5))
  | 2 => .ok (.cpyd (fld w 21 5) (fld w 16 5))
  | 3 => .ok (.cpyq (fld w 21 5) (fld w 16 5))
  | _ => .error .function

/-- Major 0x3F (Table 3-31). -/
def decSys (w : Nat) : Except Reject Instr :=
  match bits w 12 4 with
  | 0 => .ok (.trap (fld w 0 12))
  | 1 => .ok (.eret)
  | 2 => .ok (.crrd (fld w 21 5) (fld w 0 12))
  | 3 => .ok (.crwr (fld w 16 5) (fld w 0 12))
  | 4 => .ok (.crset (fld w 16 5) (fld w 0 12))
  | 5 => .ok (.crclr (fld w 16 5) (fld w 0 12))
  | 6 => .ok (.tlbinv (fld w 16 5) (fld w 0 1))
  | 7 => .ok (.iflush)
  | 8 => .ok (.idle)
  | 9 => .ok (.brk (fld w 0 12))
  | _ => .error .function

/-- The member a word names, its fields taken as they stand; unused fields are not looked at. -/
def rawDecode (w : Nat) : Except Reject Instr :=
  match bits w 26 6 with
  | 0x00 => .error .zeroMajor
  | 0x01 => decIntA w
  | 0x02 => .ok (.addi (fld w 21 5) (fld w 16 5) (fld w 0 16))
  | 0x03 => .ok (.andi (fld w 21 5) (fld w 16 5) (fld w 0 16))
  | 0x04 => .ok (.ori (fld w 21 5) (fld w 16 5) (fld w 0 16))
  | 0x05 => .ok (.xori (fld w 21 5) (fld w 16 5) (fld w 0 16))
  | 0x06 => .ok (.slti (fld w 21 5) (fld w 16 5) (fld w 0 16))
  | 0x07 => .ok (.sltiu (fld w 21 5) (fld w 16 5) (fld w 0 16))
  | 0x08 => decShift w
  | 0x09 => .ok (.lui (fld w 21 5) (fld w 0 21))
  | 0x0A => .ok (.addpc (fld w 21 5) (fld w 0 21))
  | 0x0B => decBitf w
  | 0x0C => decMulDiv w
  | 0x0D => decFloat w
  | 0x10 => .ok (.beq (fld w 21 5) (fld w 16 5) (fld w 0 16))
  | 0x11 => .ok (.bne (fld w 21 5) (fld w 16 5) (fld w 0 16))
  | 0x12 => .ok (.blt (fld w 21 5) (fld w 16 5) (fld w 0 16))
  | 0x13 => .ok (.bge (fld w 21 5) (fld w 16 5) (fld w 0 16))
  | 0x14 => .ok (.bltu (fld w 21 5) (fld w 16 5) (fld w 0 16))
  | 0x15 => .ok (.bgeu (fld w 21 5) (fld w 16 5) (fld w 0 16))
  | 0x16 => .ok (.jmp (fld w 0 26))
  | 0x17 => .ok (.call (fld w 0 26))
  | 0x18 => decJreg w
  | 0x19 => .ok (.loop (fld w 21 5) (fld w 0 16))
  | 0x1A => .ok (.ld (fld w 21 5) (fld w 16 5) (fld w 6 10) (fld w 4 2) (fld w 0 4))
  | 0x1B => .ok (.lds (fld w 21 5) (fld w 16 5) (fld w 6 10) (fld w 4 2) (fld w 0 4))
  | 0x1C => .ok (.st (fld w 21 5) (fld w 16 5) (fld w 6 10) (fld w 4 2))
  | 0x1D => decSync w
  | 0x1E => decIndex w
  | 0x1F => .ok (.stp (fld w 21 5) (fld w 16 5) (fld w 6 10) (fld w 4 2))
  | 0x20 => decFullEmpty w
  | 0x21 => decAmo w
  | 0x22 => decMemCtl w
  | 0x23 => decVcache w
  | 0x24 => decTileDef w
  | 0x25 => decTileMem w
  | 0x26 => decTileF w
  | 0x27 => decTileSf w
  | 0x28 => decTileI w
  | 0x29 => decTileS w
  | 0x2A => decTileCmp w
  | 0x2B => decTileConv w
  | 0x2C => decTileRnd w
  | 0x2D => decMatrix w
  | 0x2E => decMatrixCtl w
  | 0x2F => decQueue w
  | 0x30 => decTask w
  | 0x31 => decDep w
  | 0x32 => decBarrier w
  | 0x33 => decColl w
  | 0x34 => decCopy w
  | 0x3F => decSys w
  | _ => .error .reservedMajor

/-- A field at bit `lo` of a word. -/
def place (f : BitVec n) (lo : Nat) : Nat := f.toNat * 2 ^ lo

/-- The word of an encoded instruction (Tables 3-1 to 3-31); an event has none. -/
def encode : Instr → Option Nat
  | .add d a b => some (0x04000000 + place d 21 + place a 16 + place b 11)
  | .sub d a b => some (0x04000010 + place d 21 + place a 16 + place b 11)
  | .and d a b => some (0x04000020 + place d 21 + place a 16 + place b 11)
  | .or d a b => some (0x04000030 + place d 21 + place a 16 + place b 11)
  | .xor d a b => some (0x04000040 + place d 21 + place a 16 + place b 11)
  | .andn d a b => some (0x04000050 + place d 21 + place a 16 + place b 11)
  | .sll d a b => some (0x04000080 + place d 21 + place a 16 + place b 11)
  | .srl d a b => some (0x04000090 + place d 21 + place a 16 + place b 11)
  | .sra d a b => some (0x040000A0 + place d 21 + place a 16 + place b 11)
  | .min d a b => some (0x04000100 + place d 21 + place a 16 + place b 11)
  | .max d a b => some (0x04000110 + place d 21 + place a 16 + place b 11)
  | .minu d a b => some (0x04000120 + place d 21 + place a 16 + place b 11)
  | .maxu d a b => some (0x04000130 + place d 21 + place a 16 + place b 11)
  | .slt d a b => some (0x04000140 + place d 21 + place a 16 + place b 11)
  | .sltu d a b => some (0x04000150 + place d 21 + place a 16 + place b 11)
  | .cmov d a b => some (0x04000180 + place d 21 + place a 16 + place b 11)
  | .clz d a => some (0x04000200 + place d 21 + place a 16)
  | .ctz d a => some (0x04000210 + place d 21 + place a 16)
  | .popc d a => some (0x04000220 + place d 21 + place a 16)
  | .bswap d a => some (0x04000230 + place d 21 + place a 16)
  | .sextB d a => some (0x04000280 + place d 21 + place a 16)
  | .sextH d a => some (0x04000290 + place d 21 + place a 16)
  | .sextW d a => some (0x040002A0 + place d 21 + place a 16)
  | .zextB d a => some (0x040002C0 + place d 21 + place a 16)
  | .zextH d a => some (0x040002D0 + place d 21 + place a 16)
  | .zextW d a => some (0x040002E0 + place d 21 + place a 16)
  | .addi d a i => some (0x08000000 + place d 21 + place a 16 + place i 0)
  | .andi d a i => some (0x0C000000 + place d 21 + place a 16 + place i 0)
  | .ori d a i => some (0x10000000 + place d 21 + place a 16 + place i 0)
  | .xori d a i => some (0x14000000 + place d 21 + place a 16 + place i 0)
  | .slti d a i => some (0x18000000 + place d 21 + place a 16 + place i 0)
  | .sltiu d a i => some (0x1C000000 + place d 21 + place a 16 + place i 0)
  | .slli d a s => some (0x20000000 + place d 21 + place a 16 + place s 0)
  | .srli d a s => some (0x20004000 + place d 21 + place a 16 + place s 0)
  | .srai d a s => some (0x20008000 + place d 21 + place a 16 + place s 0)
  | .lui d i => some (0x24000000 + place d 21 + place i 0)
  | .addpc d i => some (0x28000000 + place d 21 + place i 0)
  | .bfx d a p l => some (0x2C000000 + place d 21 + place a 16 + place p 6 + place l 0)
  | .bfi d a p l => some (0x2C004000 + place d 21 + place a 16 + place p 6 + place l 0)
  | .addx d a k b => some (0x2C008000 + place d 21 + place a 16 + place k 11 + place b 6)
  | .mul d a b => some (0x30000000 + place d 21 + place a 16 + place b 11)
  | .mulh d a b => some (0x30000010 + place d 21 + place a 16 + place b 11)
  | .mulhu d a b => some (0x30000020 + place d 21 + place a 16 + place b 11)
  | .madd d a b => some (0x30000030 + place d 21 + place a 16 + place b 11)
  | .div d a b n => some (0x30000080 + place d 21 + place a 16 + place b 11 + place n 0)
  | .divu d a b n => some (0x30000090 + place d 21 + place a 16 + place b 11 + place n 0)
  | .rem d a b n => some (0x300000A0 + place d 21 + place a 16 + place b 11 + place n 0)
  | .remu d a b n => some (0x300000B0 + place d 21 + place a 16 + place b 11 + place n 0)
  | .fadd d a b m p => some (0x34000000 + place d 21 + place a 16 + place b 11 + place m 8 + place p 7)
  | .fsub d a b m p => some (0x34000010 + place d 21 + place a 16 + place b 11 + place m 8 + place p 7)
  | .fmul d a b m p => some (0x34000020 + place d 21 + place a 16 + place b 11 + place m 8 + place p 7)
  | .ffma d a b m p => some (0x34000030 + place d 21 + place a 16 + place b 11 + place m 8 + place p 7)
  | .fdiv d a b m p n => some (0x34000040 + place d 21 + place a 16 + place b 11 + place m 8 + place p 7 + place n 0)
  | .fsqrt d a m p n => some (0x34000050 + place d 21 + place a 16 + place m 8 + place p 7 + place n 0)
  | .fcvt d a k m p => some (0x34000050 + place d 21 + place a 16 + place k 11 + place m 8 + place p 7)
  | .fmin d a b p => some (0x34000060 + place d 21 + place a 16 + place b 11 + place p 7)
  | .fmax d a b p => some (0x34000160 + place d 21 + place a 16 + place b 11 + place p 7)
  | .fcmp d a b c p => some (0x34000070 + place d 21 + place a 16 + place b 11 + place c 8 + place p 7)
  | .beq a b o => some (0x40000000 + place a 21 + place b 16 + place o 0)
  | .bne a b o => some (0x44000000 + place a 21 + place b 16 + place o 0)
  | .blt a b o => some (0x48000000 + place a 21 + place b 16 + place o 0)
  | .bge a b o => some (0x4C000000 + place a 21 + place b 16 + place o 0)
  | .bltu a b o => some (0x50000000 + place a 21 + place b 16 + place o 0)
  | .bgeu a b o => some (0x54000000 + place a 21 + place b 16 + place o 0)
  | .jmp o => some (0x58000000 + place o 0)
  | .call o => some (0x5C000000 + place o 0)
  | .jr a => some (0x60000000 + place a 16)
  | .callr a => some (0x60000010 + place a 16)
  | .ret => some (0x60000020)
  | .loop a o => some (0x64000000 + place a 21 + place o 0)
  | .ld d a o z n => some (0x68000000 + place d 21 + place a 16 + place o 6 + place z 4 + place n 0)
  | .lds d a o z n => some (0x6C000000 + place d 21 + place a 16 + place o 6 + place z 4 + place n 0)
  | .st v a o z => some (0x70000000 + place v 21 + place a 16 + place o 6 + place z 4)
  | .lda d a o z s => some (0x74000020 + place d 21 + place a 16 + place o 6 + place z 4 + place s 0)
  | .stl v a o z s => some (0x74000028 + place v 21 + place a 16 + place o 6 + place z 4 + place s 0)
  | .ldx d a b z n => some (0x78000000 + place d 21 + place a 16 + place b 11 + place z 8 + place n 0)
  | .stx v a b z => some (0x78000400 + place v 21 + place a 16 + place b 11 + place z 8)
  | .stp v a o z => some (0x7C000000 + place v 21 + place a 16 + place o 6 + place z 4)
  | .ldfe d a o z => some (0x80000020 + place d 21 + place a 16 + place o 6 + place z 4)
  | .ldf d a o z => some (0x80000021 + place d 21 + place a 16 + place o 6 + place z 4)
  | .stfe v a o z => some (0x80000022 + place v 21 + place a 16 + place o 6 + place z 4)
  | .stf v a o z => some (0x80000023 + place v 21 + place a 16 + place o 6 + place z 4)
  | .feq d a o z => some (0x80000024 + place d 21 + place a 16 + place o 6 + place z 4)
  | .feset v a o z => some (0x80000025 + place v 21 + place a 16 + place o 6 + place z 4)
  | .amoadd d a b s r z => some (0x84000000 + place d 21 + place a 16 + place b 11 + place s 4 + place r 2 + place z 1)
  | .amoand d a b s r z => some (0x84000080 + place d 21 + place a 16 + place b 11 + place s 4 + place r 2 + place z 1)
  | .amoor d a b s r z => some (0x84000100 + place d 21 + place a 16 + place b 11 + place s 4 + place r 2 + place z 1)
  | .amoxor d a b s r z => some (0x84000180 + place d 21 + place a 16 + place b 11 + place s 4 + place r 2 + place z 1)
  | .amomin d a b s r z => some (0x84000200 + place d 21 + place a 16 + place b 11 + place s 4 + place r 2 + place z 1)
  | .amomax d a b s r z => some (0x84000280 + place d 21 + place a 16 + place b 11 + place s 4 + place r 2 + place z 1)
  | .amominu d a b s r z => some (0x84000300 + place d 21 + place a 16 + place b 11 + place s 4 + place r 2 + place z 1)
  | .amomaxu d a b s r z => some (0x84000380 + place d 21 + place a 16 + place b 11 + place s 4 + place r 2 + place z 1)
  | .amoswap d a b s r z => some (0x84000400 + place d 21 + place a 16 + place b 11 + place s 4 + place r 2 + place z 1)
  | .amocas d a b s r z => some (0x84000480 + place d 21 + place a 16 + place b 11 + place s 4 + place r 2 + place z 1)
  | .amofadd d a b s r z => some (0x84000500 + place d 21 + place a 16 + place b 11 + place s 4 + place r 2 + place z 1)
  | .hold d a s r z => some (0x84000600 + place d 21 + place a 16 + place s 4 + place r 2 + place z 1)
  | .pass a b s r z => some (0x84000680 + place a 16 + place b 11 + place s 4 + place r 2 + place z 1)
  | .fence s k => some (0x88000000 + place s 4 + place k 2)
  | .scfence s => some (0x88000080 + place s 4)
  | .wack => some (0x88000100)
  | .clean a b s => some (0x88000180 + place a 16 + place b 11 + place s 4)
  | .inval a b s => some (0x88000200 + place a 16 + place b 11 + place s 4)
  | .discard a => some (0x88000280 + place a 16)
  | .pref a => some (0x88000300 + place a 16)
  | .waita d a b => some (0x88000380 + place d 21 + place a 16 + place b 11)
  | .wake a => some (0x88000400 + place a 16)
  | .cdef d a b => some (0x8C000000 + place d 21 + place a 16 + place b 11)
  | .cparent d a b => some (0x8C000010 + place d 21 + place a 16 + place b 11)
  | .cresize d a b => some (0x8C000020 + place d 21 + place a 16 + place b 11)
  | .cbind d a b => some (0x8C000030 + place d 21 + place a 16 + place b 11)
  | .cunbind d a => some (0x8C000040 + place d 21 + place a 16)
  | .cquery d a => some (0x8C000050 + place d 21 + place a 16)
  | .cdrop d a => some (0x8C000060 + place d 21 + place a 16)
  | .tdef t s => some (0x90000000 + place t 22 + place s 13)
  | .tshape t s => some (0x90000010 + place t 22 + place s 13)
  | .tbase t s => some (0x90000020 + place t 22 + place s 13)
  | .tgetHalf0 a s => some (0x90000030 + place a 18 + place s 13)
  | .tgetHalf1 a s => some (0x90000040 + place a 18 + place s 13)
  | .tld t s n => some (0x94000000 + place t 22 + place s 13 + place n 0)
  | .tst t s n => some (0x94000010 + place t 22 + place s 13 + place n 0)
  | .tgath t a s n => some (0x94000020 + place t 22 + place a 18 + place s 13 + place n 0)
  | .tscat t a s n => some (0x94000030 + place t 22 + place a 18 + place s 13 + place n 0)
  | .tcpy t a n => some (0x94000040 + place t 22 + place a 18 + place n 0)
  | .tfill t s n => some (0x94000050 + place t 22 + place s 13 + place n 0)
  | .ttrans t a n => some (0x94000060 + place t 22 + place a 18 + place n 0)
  | .trot t a s n => some (0x94000070 + place t 22 + place a 18 + place s 13 + place n 0)
  | .tadd d a b x n => some (0x98000000 + place d 22 + place a 18 + place b 14 + place x 5 + place n 0)
  | .tsub d a b x n => some (0x98000040 + place d 22 + place a 18 + place b 14 + place x 5 + place n 0)
  | .tmul d a b x n => some (0x98000080 + place d 22 + place a 18 + place b 14 + place x 5 + place n 0)
  | .tfma d a b c x n => some (0x980000C0 + place d 22 + place a 18 + place b 14 + place c 10 + place x 5 + place n 0)
  | .tdiv d a b x n => some (0x98000100 + place d 22 + place a 18 + place b 14 + place x 5 + place n 0)
  | .tmax d a b n => some (0x98000140 + place d 22 + place a 18 + place b 14 + place n 0)
  | .tmin d a b n => some (0x98000180 + place d 22 + place a 18 + place b 14 + place n 0)
  | .tabs d a n => some (0x980001C0 + place d 22 + place a 18 + place n 0)
  | .tneg d a n => some (0x98000200 + place d 22 + place a 18 + place n 0)
  | .texp d a x n => some (0x9C000000 + place d 22 + place a 18 + place x 5 + place n 0)
  | .tlog d a x n => some (0x9C000040 + place d 22 + place a 18 + place x 5 + place n 0)
  | .trsq d a x n => some (0x9C000080 + place d 22 + place a 18 + place x 5 + place n 0)
  | .trcp d a x n => some (0x9C0000C0 + place d 22 + place a 18 + place x 5 + place n 0)
  | .ttanh d a x n => some (0x9C000100 + place d 22 + place a 18 + place x 5 + place n 0)
  | .terf d a x n => some (0x9C000140 + place d 22 + place a 18 + place x 5 + place n 0)
  | .tiadd d a b x n => some (0xA0000000 + place d 22 + place a 18 + place b 14 + place x 5 + place n 0)
  | .tisub d a b x n => some (0xA0000040 + place d 22 + place a 18 + place b 14 + place x 5 + place n 0)
  | .timul d a b x n => some (0xA0000080 + place d 22 + place a 18 + place b 14 + place x 5 + place n 0)
  | .tand d a b n => some (0xA00000C0 + place d 22 + place a 18 + place b 14 + place n 0)
  | .tor d a b n => some (0xA0000100 + place d 22 + place a 18 + place b 14 + place n 0)
  | .txor d a b n => some (0xA0000140 + place d 22 + place a 18 + place b 14 + place n 0)
  | .tshl d a b n => some (0xA0000180 + place d 22 + place a 18 + place b 14 + place n 0)
  | .tshr d a b n => some (0xA00001C0 + place d 22 + place a 18 + place b 14 + place n 0)
  | .tadds d a s x n => some (0xA4000000 + place d 22 + place a 18 + place s 13 + place x 8 + place n 0)
  | .tmuls d a s x n => some (0xA4000200 + place d 22 + place a 18 + place s 13 + place x 8 + place n 0)
  | .tfmas d a s x n => some (0xA4000400 + place d 22 + place a 18 + place s 13 + place x 8 + place n 0)
  | .tmaxs d a s n => some (0xA4000600 + place d 22 + place a 18 + place s 13 + place n 0)
  | .tcmp d a b k n => some (0xA8000000 + place d 22 + place a 18 + place b 14 + place k 4 + place n 0)
  | .tsel d a b c n => some (0xA8000080 + place d 22 + place a 18 + place b 14 + place c 10 + place n 0)
  | .trsum d a n => some (0xA8000100 + place d 22 + place a 18 + place n 0)
  | .tcsum d a n => some (0xA8000180 + place d 22 + place a 18 + place n 0)
  | .trmax d a n => some (0xA8000200 + place d 22 + place a 18 + place n 0)
  | .tcmax d a n => some (0xA8000280 + place d 22 + place a 18 + place n 0)
  | .tsum d a n => some (0xA8000300 + place d 22 + place a 18 + place n 0)
  | .tcvt d a r x n => some (0xAC000000 + place d 22 + place a 18 + place r 5 + place x 4 + place n 0)
  | .tpack d a n => some (0xAC000100 + place d 22 + place a 18 + place n 0)
  | .tunpack d a n => some (0xAC000200 + place d 22 + place a 18 + place n 0)
  | .trand d s n => some (0xB0000000 + place d 22 + place s 13 + place n 0)
  | .tdrop d a s n => some (0xB0000200 + place d 22 + place a 18 + place s 13 + place n 0)
  | .mma c a b => some (0xB4000000 + place c 22 + place a 18 + place b 14)
  | .mmat c a b => some (0xB4000100 + place c 22 + place a 18 + place b 14)
  | .mmas c a b => some (0xB4000200 + place c 22 + place a 18 + place b 14)
  | .mmaj c a b => some (0xB4000300 + place c 22 + place a 18 + place b 14)
  | .mzero c => some (0xB8000000 + place c 22)
  | .mload c a => some (0xB8000400 + place c 22 + place a 18)
  | .mdrain c a => some (0xB8000800 + place c 22 + place a 18)
  | .mchk c => some (0xB8000C00 + place c 22)
  | .mstat c s => some (0xB8001000 + place c 22 + place s 13)
  | .mwait c => some (0xB8001400 + place c 22)
  | .mjoin s => some (0xB8001800 + place s 13)
  | .mleave => some (0xB8001C00)
  | .qtry d a => some (0xBC000000 + place d 21 + place a 16)
  | .qcfg a n => some (0xBC000100 + place a 16 + place n 4)
  | .start a => some (0xC0000000 + place a 16)
  | .reap d a => some (0xC0000010 + place d 21 + place a 16)
  | .spawn d a => some (0xC0000020 + place d 21 + place a 16)
  | .exit => some (0xC0000030)
  | .sleep a => some (0xC0000040 + place a 16)
  | .launch d a b => some (0xC0000050 + place d 21 + place a 16 + place b 11)
  | .coord d k => if k = 3 then none else some (0xC0000080 + place d 21 + place k 4)
  | .depinit a b => some (0xC4000000 + place a 16 + place b 11)
  | .depdec a => some (0xC4000010 + place a 16)
  | .barw d a b => some (0xC8000000 + place d 21 + place a 16 + place b 11)
  | .bara a => some (0xC8000010 + place a 16)
  | .barq d a => some (0xC8000020 + place d 21 + place a 16)
  | .probe d a => some (0xC8000030 + place d 21 + place a 16)
  | .drain a => some (0xC8000040 + place a 16)
  | .coll d a => some (0xCC000000 + place d 21 + place a 16)
  | .cwait d a => some (0xCC000010 + place d 21 + place a 16)
  | .evgath d a => some (0xCC000020 + place d 21 + place a 16)
  | .cpy d a => some (0xD0000000 + place d 21 + place a 16)
  | .cpym d a b => some (0xD0000010 + place d 21 + place a 16 + place b 11)
  | .cpyd d a => some (0xD0000020 + place d 21 + place a 16)
  | .cpyq d a => some (0xD0000030 + place d 21 + place a 16)
  | .trap c => some (0xFC000000 + place c 0)
  | .eret => some (0xFC001000)
  | .crrd d r => some (0xFC002000 + place d 21 + place r 0)
  | .crwr a r => some (0xFC003000 + place a 16 + place r 0)
  | .crset a r => some (0xFC004000 + place a 16 + place r 0)
  | .crclr a r => some (0xFC005000 + place a 16 + place r 0)
  | .tlbinv a e => some (0xFC006000 + place a 16 + place e 0)
  | .iflush => some (0xFC007000)
  | .idle => some (0xFC008000)
  | .brk c => some (0xFC009000 + place c 0)
  | _ => none

/-- Does the major's format hold a lookahead field in bits [3:0] (Tables 3-1, 3-3, 3-7, 3-8, 3-13)? -/
def hasLaField (major : Nat) : Bool :=
  [0x01, 0x0C, 0x0D, 0x18, 0x1A, 0x1B, 0x1C, 0x1E, 0x1F, 0x23].contains major || (0x24 ≤ major && major ≤ 0x34)

/-- Does the word set a SAT bit that its member does not allow (Tables 3-26 and 3-27, R200)? -/
def satMisused (w : Nat) (i : Instr) : Bool :=
  let major := bits w 26 6
  let allowed := match i with
    | .tadd .. | .tsub .. | .tmul .. | .tfma .. | .tdiv .. | .texp .. | .tlog .. | .trsq .. | .trcp .. | .ttanh ..
    | .terf .. | .tiadd .. | .tisub .. | .timul .. | .tadds .. | .tmuls .. | .tfmas .. => true
    | _ => false
  !allowed && (((major == 0x26 || major == 0x27 || major == 0x28) && bit w 5)
    || ((major == 0x29 || major == 0x2C) && bit w 8))

/-- LDA, STL and the FE members with size code 0 or 1 (R92). -/
def sizeMisused (w : Nat) : Bool :=
  (bits w 26 6 == 0x1D || bits w 26 6 == 0x20) && !bit w 5

/-- The instruction of a 32-bit word, or the lowest reason code it fails (R99, R100). -/
def decodeWord (w : Nat) : Except Reject Instr :=
  match rawDecode w with
  | .error r => .error r
  | .ok i =>
    if !i.modifiersOk || satMisused w i || sizeMisused w then .error .modifier else
    match encode i with
    | none => .error .function
    | some e =>
      if e = w then
        if !i.writesNoQ6 then .error .writesQ6
        else if !i.crOk then .error .controlReg
        else if !i.portsOk then .error .portAddress
        else .ok i
      else if hasLaField (bits w 26 6) && e / 16 == w / 16 then .error .lookahead
      else .error .unusedField

/-- The instruction in four bytes of memory, least significant first (R78). -/
def decodeBytes (l : List Byte) : Except Reject Instr := decodeWord (ofBytes (l.take 4))

/-- The instruction your decoder reads from a word numbered as the opcode table numbers it. -/
def decodeTableWord (_nbits w : Nat) : Option Instr :=
  match decodeBytes (toBytes 4 w) with
  | .ok i => some i
  | .error _ => none

end Sys2Proof
end

