-- ==== Sys2Proof/Machine/Scanner.lean ====
section
/-! DEFINITION. The code scanner (03_encoding.md R87, R96-R101). -/
namespace Sys2Proof.Machine

/-- What the scanner says of a word: reason, window position, and the window instruction's word. -/
structure Finding where
  reason : Nat
  laoff  : Nat := 0
  other  : Nat := 0
  deriving DecidableEq, Repr

/-- The reasons for which window instruction `j` fails under L instruction `i` (R87 clauses 2 to 4). -/
def windowReasons (i j : Instr) : List Nat :=
  let dest := match i.destTile with
    | some t => j.tileFields.contains t
    | none => i.destRegs.any fun d => d != 0 && j.comparedRegs.contains d
  (if dest then [0x07] else [])
    ++ (if i.regFields.any fun r => r.port?.isSome && j.regFields.contains r then [0x08] else [])
    ++ (if j.cls == .transfer then [0x09] else [])

/-- Every failure in the window of an L instruction: position, reason and word; `ws` are the words after it in the request. -/
def windowFindings (i : Instr) (ws : List Nat) : List Finding :=
  if i.cls != .long then [] else
  (List.range i.lookahead).flatMap fun k =>
    match ws[k]? with
    | none => [{ reason := 0x0A, laoff := k + 1 }]
    | some w => match rawDecode w with
      | .ok j => (windowReasons i j).map fun r => { reason := r, laoff := k + 1, other := w }
      | .error _ => []

/-- The finding of the lowest reason, the earliest among its equals (R99). -/
def lowestFinding : List Finding → Option Finding
  | [] => none
  | x :: r => match lowestFinding r with
    | none => some x
    | some y => some (if y.reason < x.reason then y else x)

/-- What the scanner finds wrong with a word, `ws` following it (R99, R100). -/
def scanWord (w : Nat) (ws : List Nat) : Option Finding :=
  match decodeWord w with
  | .ok i => lowestFinding (windowFindings i ws)
  | .error r =>
    let own : Finding := { reason := r.code }
    match rawDecode w with
    | .ok i => if r.code < 0x0B then some own else lowestFinding (windowFindings i ws ++ [own])
    | .error _ => some own

/-- The first word of a page that fails: its place in the page, the word, and the finding. -/
def scanPage : List Nat → List Nat → Nat → Option (Nat × Nat × Finding)
  | [], _, _ => none
  | w :: ws, after, k => match scanWord w ((ws ++ after).take 15) with
    | some f => some (k, w, f)
    | none => scanPage ws after (k + 1)

/-- A reject record (Table 3-33), as a 256-bit number. -/
def rejectRecord (cycle space va w word : Nat) (f : Finding) : Nat :=
  cycle % 2 ^ 64 * 2 ^ 192 + (if 0x07 ≤ f.reason && f.reason ≤ 0x09 then f.other else 0) * 2 ^ 160 + w * 2 ^ 128 + f.laoff * 2 ^ 104
    + f.reason * 2 ^ 96 + word % 1024 * 2 ^ 80 + space % 4096 * 2 ^ 64 + va % 2 ^ 57

/-- The pages of a request, by page number. -/
def ScanReq.pages (q : ScanReq) : List Nat := if q.n = 0 then [] else (List.range ((q.va + q.n - 1) / 4096 + 1 - q.va / 4096)).map (q.va / 4096 + ·)

/-- The frame that the table maps a page to. -/
def State.frameAt (s : State) (space page : Nat) : Option Nat :=
  match s.walkFrom space (page * 4096) 5 0 (s.space space).root with
  | (_, .leaf t, _) => some (t.frame + (page - t.page))
  | _ => none

/-- Does a frame lie in a window open to host or fabric writes (R96)? What a fabric port that is up may write is its window (log
entry 14). -/
def State.frameOpen (s : State) (f : Nat) : Bool :=
  (match s.module_.window with
   | some (a, b) => decide (f * 4096 < b) && decide (a < (f + 1) * 4096)
   | none => false)
    || s.module_.ports.any fun p => s.fabricReaches p (f * 4096) 4096 && s.module_.portWorld.get false p == s.secure (f * 4096)

/-- The reason for which a request is refused as a whole, with the address its record gives (R96, R101). Where several of R96's
cases hold, the lowest code is given, as R99 has it for a word; R96 itself does not say which (DESIGN CHOICE, log entry 52). -/
def State.scanRefusal (s : State) (q : ScanReq) (writable : Bool) : Option (Nat × Nat) :=
  let frames := q.pages.filterMap (s.frameAt q.space)
  let leaves := s.allLeaves
  if 2 ^ 21 < q.n then some (0x10, q.va)
  else if writable || frames.any (fun f => s.frameWritable leaves f || s.frameOpen f) then some (0x11, q.va)
  else (q.pages.find? fun p => (s.frameAt q.space p).isNone).map fun p => (0x12, p * 4096)

/-- The 1024 words of a frame. -/
def State.frameWords (s : State) (f : Nat) : List Nat := (List.range 1024).map fun k => s.bytesAt (f * 4096 + 4 * k) 4

/-- A reject record goes to the steward as 32 bytes, little-endian (R101, R8). -/
def State.rejectWord (s : State) (r : Nat) : State := s.modHub fun h => { h with rejects := h.rejects ++ [toBytes 32 r] }

/-- Serve the request at the head of the scanner's queue: refuse it, or begin its first page. Its frames are those that the table maps
its pages to now: a leaf that changes while the request is scanned changes nothing of what is scanned and marked, so that a frame swapped
in is not executable, and a page that loses its translation is scanned on in the frame it had (DESIGN CHOICE, log entry 38). What vcaches
hold of them goes home first, and from now on nothing writes them. -/
def State.serveScan : Nat → State → State
  | 0, s => s
  | fuel + 1, s =>
    match s.module_.scans with
    | [] => s
    | q :: rest =>
      match s.scanRefusal q q.bad with
      | some (reason, va) =>
        State.serveScan fuel ({ s with module_ := { s.module_ with scans := rest } }.rejectWord
          (rejectRecord s.cycle q.space va 0 0 { reason := reason }))
      | none =>
        if q.pages.isEmpty then State.serveScan fuel { s with module_ := { s.module_ with scans := rest } }
        else
          let frames := q.pages.filterMap (s.frameAt q.space)
          let s := (s.evictSpans (frames.map fun f => (f * 4096, 4096))).2
          { s with module_ := { s.module_ with scans := { q with bad := false, frames := frames } :: rest } }.postHub (s.cycle + 1100) .pageScan .pageScan

/-- MAP_EXECUTABLE (R96, R98): a steward's request comes to the scanner. -/
def execMapExecutable (s : State) : Out :=
  match s.msg with
  | .mapExecutable part space va n writable =>
    .next (if (s.space space).part ≠ part then s.refuseSteward part 0
      else
        -- until the request is served, `bad` keeps whether it asks for writing
        let idle := s.module_.scans.isEmpty
        let s := { s with module_ := { s.module_ with scans := s.module_.scans ++ [{ part := part, space := space, va := va, n := n, bad := writable }] } }
        if idle then State.serveScan 1 s else s)
  | _ => .next s

/-- PAGE_SCAN (R98, R99): the scan of a page ends; the last page of a request grants it if all have passed. Where leaves change during
the scan, the frames that the pages had when its service began are marked, and a page that has lost its translation passes with no words
(DESIGN CHOICE, log entry 38). -/
def execPageScan (s : State) : Out :=
  match s.msg with
  | .pageScan =>
    .next (match s.module_.scans with
      | [] => s
      | q :: rest =>
        let pages := q.pages
        let page := pages.getD q.page 0
        let after := match q.frames[q.page + 1]? with | some f => (s.frameWords f).take 15 | none => []
        let (s, bad) := match scanPage (s.frameWords (q.frames.getD q.page 0)) after 0 with
          | some (k, w, f) => (s.rejectWord (rejectRecord s.cycle q.space (page * 4096 + 4 * k) w k f), true)
          | none => (s, q.bad)
        if q.page + 1 < pages.length then
          { s with module_ := { s.module_ with scans := { q with page := q.page + 1, bad := bad } :: rest } }.postHub (s.cycle + 1100) .pageScan .pageScan
        else
          let m := s.module_
          let m := if bad then m else { m with scanned := (m.scanned ++ q.frames).eraseDups }
          State.serveScan (rest.length + 1) { s with module_ := { m with scans := rest } })
  | _ => .next s

end Sys2Proof.Machine
end

