-- ==== Sys2Proof/Machine/ModuleBoot.lean ====
section
/-! DEFINITION. The module: boot, ports, features, power, link integrity (21_module.md R483-R491, 18_translation_and_isolation.md
R450-R456, R496). -/
namespace Sys2Proof.Machine

def State.modModule (s : State) (f : Module → Module) : State := { s with module_ := f s.module_ }

-- links and temperatures (R456, R490)

/-- A partition halts: its cores stop at their next turn, its open collectives fail, its fabric ports go down. -/
def State.haltPart (s : State) (part : Nat) : State :=
  let cores := ((List.range 4).filter fun d => s.diePart d == part).flatMap dieCores
  let s := cores.foldl (fun s c => s.modCore c fun k => { k with stopped := true }) s
  (s.collsFail cores).modModule fun m =>
    { m with haltedParts := part :: m.haltedParts.filter (· != part), ports := m.ports.filter fun p => m.portPart.get 0 p != part }

/-- LINK_FRAME (R455, R456): a frame of a link direction that verifies is delivered; one that does not halts the partition that owns
the link, or the fabric port. A frame counts as one flit of its link direction (R489; log entry 14). -/
def execLinkFrame (s : State) : Out :=
  match s.msg with
  | .linkFrame l ok =>
    .next (match s.linkOwner l with
      | none => s
      | some part =>
        let s := (s.modModule fun m => { m with links := m.links.upd {} l fun x => { x with frames := x.frames + 1 } }).tally 4 l 1
        if ok then s
        else ((s.haltPart part).tally 5 l 1).postHub s.cycle .errorRecordDelivery
          (.errorRecord { cycle := s.cycle, code := 0x40, sev := 4, part := part }))
  | _ => .next s

/-- THERMAL_TRIP (R490): every partition halts. -/
def execThermalTrip (s : State) : Out :=
  match s.msg with
  | .thermalTrip die =>
    .next (
      let s := (List.range s.module_.parts).foldl State.haltPart s
      (s.modModule fun m => { m with hot := List.range m.parts, overLimit := true, holdBack := true }).postHub s.cycle .errorRecordDelivery
        (.errorRecord { cycle := s.cycle, code := 0x60, sev := 4, detail := die }))
  | _ => .next s

/-- JUNCTION_LIMIT_CROSSING (R490): above the limit the device holds work back. -/
def execJunctionLimitCrossing (s : State) : Out :=
  match s.msg with
  | .junction hot => .next (s.modModule fun m => { m with holdBack := hot, overLimit := hot })
  | _ => .next s

/-- POWER_CAP (R490): from 800 to 1650 watts; a module in recovery takes none (R483). -/
def execPowerCap (s : State) : Out :=
  match s.msg with
  | .powerCap w => .next (if w < 800 || 1650 < w || s.module_.recovery then s else s.modModule fun m => { m with cap := w })
  | _ => .next s

-- boot (R483, R484)

/-- A 64-bit field of an image's header. -/
def imageField (img : List (BitVec 8)) (k : Nat) : Nat := ofBytes ((img.drop k).take 8)

/-- The payload, and the bytes that both signatures cover. -/
def imagePayload (img : List (BitVec 8)) : List (BitVec 8) := (img.drop 16672).take (imageField img 16)
def imageSigned (img : List (BitVec 8)) : List (BitVec 8) := img.take 64 ++ imagePayload img

/-- The configuration of an image. -/
def imageConfig (img : List (BitVec 8)) : List (BitVec 8) := (imagePayload img).drop (imageField img 32)

/-- Is a header sound (R484)? -/
def headerOk (img : List (BitVec 8)) : Bool :=
  decide (16672 ≤ img.length) && imageField img 0 == 0x4C52545839360001 && imageField img 40 == 448 && imageField img 48 == 0 && imageField img 56 == 0
    && decide (16672 + imageField img 16 ≤ img.length)

/-- Do two ranges overlap? -/
def rangesOverlap (a b : Nat × Nat) : Bool := decide (a.1 < b.2) && decide (b.1 < a.2)

/-- The pool ranges of a configuration, as first byte and first byte after; with one partition the whole populated window (R496). -/
def poolRanges (cfg : List (BitVec 8)) : List (Nat × Nat × Nat) :=
  if Config.bootParts cfg = 1 then [(0, 2 ^ 46, 2 ^ 46 + Config.poolBytes cfg)] else Config.bootPools cfg

/-- Is a configuration one that boots (R450, R452, R496)? -/
def configOk (cfg : List (BitVec 8)) : Bool :=
  let n := Config.bootParts cfg
  let ps := poolRanges cfg
  let carves := Config.bootCarves cfg
  (n == 1 || n == 2 || n == 4) && decide (Config.poolBytes cfg ≤ 2 ^ 46) && decide (carves.length ≤ 16)
    && (carves.all fun x => x.1 % 2 ^ 21 == 0 && x.2 % 2 ^ 21 == 0 && decide (x.1 ≤ x.2))
    && (n == 1 || ((List.range n).all (fun p => (ps.filter fun x => x.1 == p).length == 1) && decide (ps.length = n)
      && ps.all (fun x => x.2.1 % 2 ^ 30 == 0 && x.2.2 % 2 ^ 30 == 0 && decide (x.2.1 < x.2.2) && decide (2 ^ 46 ≤ x.2.1)
          && decide (x.2.2 ≤ 2 ^ 46 + Config.poolBytes cfg))
      && ps.all (fun x => ps.all fun y => x.1 == y.1 || !rangesOverlap x.2 y.2)))

/-- Does a slot boot under a fuse counter? -/
def slotBoots (fuse : Nat) (img : List (BitVec 8)) : Bool :=
  headerOk img && Config.rsaVerifies (imageSigned img) ((img.drop 64).take 384)
    && Config.slhVerifies (imageSigned img) ((img.drop 448).take 16224) && decide (fuse ≤ imageField img 8) && configOk (imageConfig img)

/-- The module after the engine has tried both slots: what the flash, the fuses and the management controller hold stays. -/
def Module.boot (m : Module) : Module :=
  let kept : Module :=
    { imageA := m.imageA, imageB := m.imageB, fuse := m.fuse, ptp := m.ptp, sent := m.sent, out := m.out, reads := m.reads,
      holdBack := m.overLimit, overLimit := m.overLimit, links := m.links }
  match [m.imageA, m.imageB].find? (slotBoots m.fuse) with
  | none => { kept with recovery := true }
  | some img =>
    let cfg := imageConfig img
    { kept with
      booted := some (imageField img 8), parts := Config.bootParts cfg, carves := Config.bootCarves cfg,
      pools := (poolRanges cfg).foldl (fun t x => t.put x.1 x.2) [],
      portPart := (Config.bootPorts cfg).foldl (fun t x => t.put x.1 x.2.1) [],
      portWorld := (Config.bootPorts cfg).foldl (fun t x => t.put x.1 x.2.2) [],
      stewards := (List.range 8).map (Config.bootStewardWorld cfg), links := (List.range 20).foldl Link.redraw m.links }

/-- What comes from outside the module and from its management controller, and so outlasts a module reset. -/
def Msg.outside : Msg → Bool
  | .linkFrame .. | .thermalTrip _ | .powerCap _ | .moduleReset | .startReport | .imageUpdate _ | .ptpSample _ _ | .hostWrite .. | .hostRead ..
  | .facceptWrite _ | .fabricBringUp .. | .junction _ | .dieLost _ => true
  | _ => false

/-- MODULE_RESET: every part is as at reset, CYCLE counts from 0, and the engine boots the module. -/
def execModuleReset (s : State) : Out :=
  match s.msg with
  | .moduleReset =>
    let later := (s.agenda.filter fun x => x.msg.outside).map fun x => { x with due := x.due - s.cycle }
    .next { State.reset with agenda := later, freeCount := s.freeCount, module_ := s.module_.boot }
  | _ => .next s

/-- START_REPORT (R484): the module OS has started; the fuse counter rises to the booted VERSION, and the bankers run. -/
def execStartReport (s : State) : Out :=
  match s.msg with
  | .startReport =>
    .next (match s.module_.booted with
      | none => s
      | some v =>
        let s := s.modModule fun m => { m with fuse := max m.fuse v }
        ((List.range 1024).filter fun c => (s.slot (mkPos c 0)).st == .empty && !(s.core c).fenced).foldl State.loadBanker s)
  | _ => .next s

/-- IMAGE_UPDATE (R491): a new image for slot B. -/
def execImageUpdate (s : State) : Out :=
  match s.msg with
  | .imageUpdate b => .next (s.modModule fun m => { m with imageB := b })
  | _ => .next s

-- features (R488)

/-- A refusal of the hub, code 0x50. -/
def State.refuse (s : State) (part addr : Nat) (world : Bool) : State :=
  s.postHub s.cycle .errorRecordDelivery (.errorRecord { cycle := s.cycle, code := 0x50, sev := 5, addr := addr, world := world, part := part })

/-- The partition that a refused access by a port concerns: the port's own, or for the host that of the memory. -/
def State.portPartOf (s : State) (fabric : Option Nat) (addr : Nat) : Nat := match fabric with
  | some p => s.module_.portPart.get 0 p
  | none => (s.framePart addr).getD 0

/-- The driver's write of FACCEPT: once after each module reset, and only bits that FEAT0 offers. -/
def State.acceptFeatures (s : State) (v : Word) : State :=
  if s.module_.accepted || v &&& ~~~(featWord 0) ≠ 0 then (s.modModule fun m => { m with accepted := true }).refuse 0 0 false
  else (s.modModule fun m => { m with accepted := true, faccept := v }).postHub (s.cycle + 1000) .featureEnable (.featureEnable v)

/-- FACCEPT_WRITE. -/
def execFacceptWrite (s : State) : Out :=
  match s.msg with
  | .facceptWrite v => .next (s.acceptFeatures v)
  | _ => .next s

/-- FEATURE_ENABLE: 1000 cycles later what was accepted is enabled. -/
def execFeatureEnable (s : State) : Out :=
  match s.msg with
  | .featureEnable v => .next (s.modModule fun m => { m with enabled := m.enabled ||| v })
  | _ => .next s

-- ports (R487, R451, R97)

/-- The register window of the host port, as bytes (log entry 14). -/
def State.windowByte (s : State) (off : Nat) : BitVec 8 :=
  let w : Word := if off < 32 then featWord (off / 8) else if off < 40 then s.module_.faccept else 0
  BitVec.ofNat 8 (w.toNat / 2 ^ (8 * (off % 8)))

/-- Host accesses at or above this address mean the register window at BAR 0 (log entry 14). -/
def hostBar : Nat := 2 ^ 52

/-- May the host, or a fabric port, reach some bytes of memory at all? -/
def State.portReaches (s : State) (fabric : Option Nat) (addr n : Nat) : Bool :=
  match fabric with
  | none => s.module_.enabled.getLsbD 0 && (match s.module_.window with | some (lo, hi) => decide (lo ≤ addr) && decide (addr + n ≤ hi) | none => false)
  | some p => s.module_.ports.contains p && s.fabricReaches p addr n

/-- The world of a port: the host's is non-secure. -/
def State.portSecure (s : State) (fabric : Option Nat) : Bool := match fabric with | some p => s.module_.portWorld.get false p | none => false

/-- Is every byte of a range in a world? -/
def State.inWorld (s : State) (w : Bool) (addr n : Nat) : Bool :=
  allBelow ((addr + n - 1) / 4096 + 1 - addr / 4096) fun k => s.secure ((addr / 4096 + k) * 4096) == w

/-- HOST_WRITE: applied at the homes of its lines, in order of arrival; a refused one is discarded. A write to the register window
is discarded, but for FACCEPT. -/
def execHostWrite (s : State) : Out :=
  match s.msg with
  | .hostWrite addr bs port =>
    let n := bs.length
    .next (if n = 0 then s
      else if port.isNone && hostBar ≤ addr then
        (if addr = hostBar + 32 && n = 8 then s.acceptFeatures (word (ofBytes bs)) else s)
      else if !s.portReaches port addr n then s
      else if !s.inWorld (s.portSecure port) addr n || s.meetsCode addr n then s.refuse (s.portPartOf port addr) addr (s.portSecure port)
      else (engPieces addr n).foldl (fun (s : State) x => s.hubWrite x.1 x.2 (ofBytes ((bs.drop (x.1 - addr)).take x.2))) s)
  | _ => .next s

/-- HOST_READ: bytes as they stand at their homes, and whether they are poisoned; a refused read returns poison. -/
def execHostRead (s : State) : Out :=
  match s.msg with
  | .hostRead name addr n port =>
    let answer (s : State) (bs : List (BitVec 8)) (poison : Bool) : State :=
      s.modModule fun m => { m with reads := m.reads ++ [(name, bs, poison)] }
    .next (if n = 0 then s
      else if port.isNone && hostBar ≤ addr then answer s ((List.range n).map fun k => s.windowByte (addr - hostBar + k)) false
      else if !s.portReaches port addr n then s
      else if !s.inWorld (s.portSecure port) addr n then answer (s.refuse (s.portPartOf port addr) addr (s.portSecure port)) (List.replicate n 0) true
      else
        let v := s.mem.bytes.bytes addr n
        let poison := s.rangePoisoned addr n
        answer ((engPieces addr n).foldl (fun (s : State) x => (s.homeRead (x.1 / 128)).2) s) v poison)
  | _ => .next s

/-- FABRIC_BRING_UP (R487, R485, R455): both signatures of the peer's statement must verify; a port whose peer fails stays down. -/
def execFabricBringUp (s : State) : Out :=
  match s.msg with
  | .fabricBringUp port _ rsa slh =>
    .next (if !s.module_.enabled.getLsbD 1 || 12 ≤ port || s.partHalted (s.module_.portPart.get 0 port) then s
      else if !(rsa && slh) then s.refuse (s.module_.portPart.get 0 port) 0 (s.portSecure (some port))
      else s.modModule fun m => { m with ports := port :: m.ports.filter (· != port), links := Link.redraw (Link.redraw m.links (20 + 2 * port)) (21 + 2 * port) })
  | _ => .next s

end Sys2Proof.Machine
end

