-- ==== Sys2Proof/Machine/Tiers.lean ====
section
/-! DEFINITION. The codings in which the stacked and pool tiers keep region units, and the tiers' sector counters
(09_virtual_caches.md R296, R297, R495). -/
namespace Sys2Proof.Machine

/-- Codings of a 512-byte region unit (Table 9-5). -/
inductive UnitCoding where
  | zero
  | baseDelta (bytes : Nat)
  | vf8 (bits : Nat)
  | raw
  deriving DecidableEq, Repr

/-- The 64-byte sectors of a coding. -/
def UnitCoding.sectors : UnitCoding → Nat
  | .zero => 0
  | .baseDelta n => ceilDiv (8 + 64 * n) 64
  | .vf8 n => ceilDiv n 512
  | .raw => 8

/-- Is every 64-bit word of a unit one 8-byte base plus its own sign-extended delta of `n` bytes? The differences from the first word
then span less than 2^(8n). -/
def deltaFits (n : Nat) (ws : List Nat) : Bool :=
  let ds := ws.map fun w => signed 64 ((w + 2 ^ 64 - ws.headD 0) % 2 ^ 64)
  decide (ds.foldl max 0 - ds.foldl min 0 < 2 ^ (8 * n))

/-- The bits of a unit of E4M3 codes as eight VF8 blocks; none where a byte is a NaN code or would come back changed. -/
def vf8Unit (bs : List Byte) : Option Nat :=
  (List.range 8).foldl (fun r b =>
    let codes := ((bs.drop (64 * b)).take 64).map (·.toNat)
    let st := (vf8EncodeBlock .rne false (codes.map (decodeVal .e4m3))).bits
    match r, vf8DecodeBlock st 64 with
    | some n, some (_, vs) =>
      if !codes.any (isNanBits .e4m3) && vs.map (fun v => (roundTo .e4m3 .rne false v).1) == codes then some (n + st.length) else none
    | _, _ => none) (some 0)

/-- The smallest coding that reproduces a unit's bytes, the earlier row of Table 9-5 on a tie (R296). -/
def unitCoding (packed poison : Bool) (bs : List Byte) : UnitCoding :=
  let ws := splitBits 64 64 (ofBytes bs)
  let fits : List UnitCoding :=
    (if ws.all (· == 0) then [.zero] else []) ++ ([1, 2, 4].filter (deltaFits · ws)).map UnitCoding.baseDelta
      ++ (if packed then ((vf8Unit bs).map UnitCoding.vf8).toList else [])
  if poison then .raw
  else fits.foldl (fun a x => if x.sectors < a.sectors || (x.sectors == a.sectors && a == .raw) then x else a) .raw

/-- Is some region that a binding with PACKED 1 covers mapped to a region of physical memory? -/
def State.boundPacked (s : State) (region : Nat) : Bool :=
  let f := region * 512 / 4096
  s.spaces.any fun (n, sp) => sp.valid && sp.binds.any (·.2.packed) &&
    (s.leavesIn n (2 ^ 45) (2 ^ 45) 0).any fun t =>
      t.frame ≤ f && f < t.frame + t.count && (sp.bindingOf (t.page + (f - t.frame))).any (·.packed)

/-- A line as its tier keeps it: without what the home buffer has not written there yet. -/
def State.tierLine (s : State) (line : Nat) : BitVec 1024 × Bool :=
  match (if s.mem.bufDirty.contains line then s.mem.tier.look line else none) with
  | some x => x
  | none => (s.homeLine line, s.linePoisoned line)

/-- The coding in which a region's unit is kept. -/
def State.codingOf (s : State) (region : Nat) : UnitCoding :=
  let ls := (List.range 4).map fun k => s.tierLine (region * 4 + k)
  unitCoding (s.boundPacked region) (ls.any (·.2)) (ls.flatMap fun x => toBytes 128 x.1.toNat)

/-- A line moves between its home buffer and its tier: the sectors of its unit's coding are counted, tier 0 stacked, 1 pool (R297;
that a line's transfer moves its unit's sectors is a DESIGN CHOICE, log entry 39). -/
def State.countSectors (s : State) (line : Nat) : State :=
  s.tally 6 (if isStacked (line * 128) then 0 else 1) (s.codingOf (line / 4)).sectors

/-- HOME_BUFFER_FILL (R495): the fill of a line from its tier ends; or a displaced line writes its dirty bytes there. -/
def execHomeBufferFill (s : State) : Out :=
  match s.msg with
  | .homeBufferFill line => .next ((s.modMem fun m =>
      { m with bufFills := if m.bufFills.get 0 line ≤ s.cycle then m.bufFills.del line else m.bufFills }).countSectors line)
  | .tierWrite line => .next ((s.modMem fun m => { m with tier := m.tier.del line, tierErr := m.tierErr.erase line }).countSectors line)
  | _ => .next s

end Sys2Proof.Machine
end

