-- ==== Sys2Proof/Machine/Dispatch.lean ====
section
/-! DEFINITION. The meaning of every instruction and event, one arm each. -/
namespace Sys2Proof.Machine

/-- The meaning of an instruction for the current position, or of an event with its message. -/
def exec (i : Instr) (s : State) : Host.Outcome State Fault Refusal :=
  match i with
  | .add d a b => Sys2Proof.Machine.execAdd d a b s
  | .sub d a b => Sys2Proof.Machine.execSub d a b s
  | .and d a b => Sys2Proof.Machine.execAnd d a b s
  | .or d a b => Sys2Proof.Machine.execOr d a b s
  | .xor d a b => Sys2Proof.Machine.execXor d a b s
  | .andn d a b => Sys2Proof.Machine.execAndn d a b s
  | .sll d a b => Sys2Proof.Machine.execSll d a b s
  | .srl d a b => Sys2Proof.Machine.execSrl d a b s
  | .sra d a b => Sys2Proof.Machine.execSra d a b s
  | .min d a b => Sys2Proof.Machine.execMin d a b s
  | .max d a b => Sys2Proof.Machine.execMax d a b s
  | .minu d a b => Sys2Proof.Machine.execMinu d a b s
  | .maxu d a b => Sys2Proof.Machine.execMaxu d a b s
  | .slt d a b => Sys2Proof.Machine.execSlt d a b s
  | .sltu d a b => Sys2Proof.Machine.execSltu d a b s
  | .cmov d a b => Sys2Proof.Machine.execCmov d a b s
  | .clz d a => Sys2Proof.Machine.execClz d a s
  | .ctz d a => Sys2Proof.Machine.execCtz d a s
  | .popc d a => Sys2Proof.Machine.execPopc d a s
  | .bswap d a => Sys2Proof.Machine.execBswap d a s
  | .sextB d a => Sys2Proof.Machine.execSextB d a s
  | .sextH d a => Sys2Proof.Machine.execSextH d a s
  | .sextW d a => Sys2Proof.Machine.execSextW d a s
  | .zextB d a => Sys2Proof.Machine.execZextB d a s
  | .zextH d a => Sys2Proof.Machine.execZextH d a s
  | .zextW d a => Sys2Proof.Machine.execZextW d a s
  | .addi d a imm => Sys2Proof.Machine.execAddi d a imm s
  | .andi d a imm => Sys2Proof.Machine.execAndi d a imm s
  | .ori d a imm => Sys2Proof.Machine.execOri d a imm s
  | .xori d a imm => Sys2Proof.Machine.execXori d a imm s
  | .slti d a imm => Sys2Proof.Machine.execSlti d a imm s
  | .sltiu d a imm => Sys2Proof.Machine.execSltiu d a imm s
  | .slli d a sx => Sys2Proof.Machine.execSlli d a sx s
  | .srli d a sx => Sys2Proof.Machine.execSrli d a sx s
  | .srai d a sx => Sys2Proof.Machine.execSrai d a sx s
  | .lui d imm => Sys2Proof.Machine.execLui d imm s
  | .addpc d imm => Sys2Proof.Machine.execAddpc d imm s
  | .bfx d a p l => Sys2Proof.Machine.execBfx d a p l s
  | .bfi d a p l => Sys2Proof.Machine.execBfi d a p l s
  | .addx d a k b => Sys2Proof.Machine.execAddx d a k b s
  | .mul d a b => Sys2Proof.Machine.execMul d a b s
  | .mulh d a b => Sys2Proof.Machine.execMulh d a b s
  | .mulhu d a b => Sys2Proof.Machine.execMulhu d a b s
  | .madd d a b => Sys2Proof.Machine.execMadd d a b s
  | .div d a b n => Sys2Proof.Machine.execDiv d a b n s
  | .divu d a b n => Sys2Proof.Machine.execDivu d a b n s
  | .rem d a b n => Sys2Proof.Machine.execRem d a b n s
  | .remu d a b n => Sys2Proof.Machine.execRemu d a b n s
  | .fadd d a b m p => Sys2Proof.Machine.execFadd d a b m p s
  | .fsub d a b m p => Sys2Proof.Machine.execFsub d a b m p s
  | .fmul d a b m p => Sys2Proof.Machine.execFmul d a b m p s
  | .ffma d a b m p => Sys2Proof.Machine.execFfma d a b m p s
  | .fdiv d a b m p n => Sys2Proof.Machine.execFdiv d a b m p n s
  | .fsqrt d a m p n => Sys2Proof.Machine.execFsqrt d a m p n s
  | .fcvt d a k m p => Sys2Proof.Machine.execFcvt d a k m p s
  | .fmin d a b p => Sys2Proof.Machine.execFmin d a b p s
  | .fmax d a b p => Sys2Proof.Machine.execFmax d a b p s
  | .fcmp d a b c p => Sys2Proof.Machine.execFcmp d a b c p s
  | .beq a b o => Sys2Proof.Machine.execBeq a b o s
  | .bne a b o => Sys2Proof.Machine.execBne a b o s
  | .blt a b o => Sys2Proof.Machine.execBlt a b o s
  | .bge a b o => Sys2Proof.Machine.execBge a b o s
  | .bltu a b o => Sys2Proof.Machine.execBltu a b o s
  | .bgeu a b o => Sys2Proof.Machine.execBgeu a b o s
  | .jmp o => Sys2Proof.Machine.execJmp o s
  | .call o => Sys2Proof.Machine.execCall o s
  | .jr a => Sys2Proof.Machine.execJr a s
  | .callr a => Sys2Proof.Machine.execCallr a s
  | .ret => Sys2Proof.Machine.execRet s
  | .loop a o => Sys2Proof.Machine.execLoop a o s
  | .ld d a o z n => Sys2Proof.Machine.execLd d a o z n s
  | .lds d a o z n => Sys2Proof.Machine.execLds d a o z n s
  | .st v a o z => Sys2Proof.Machine.execSt v a o z s
  | .lda d a o z sx => Sys2Proof.Machine.execLda d a o z sx s
  | .stl v a o z sx => Sys2Proof.Machine.execStl v a o z sx s
  | .ldx d a b z n => Sys2Proof.Machine.execLdx d a b z n s
  | .stx v a b z => Sys2Proof.Machine.execStx v a b z s
  | .stp v a o z => Sys2Proof.Machine.execStp v a o z s
  | .ldfe d a o z => Sys2Proof.Machine.execLdfe d a o z s
  | .ldf d a o z => Sys2Proof.Machine.execLdf d a o z s
  | .stfe v a o z => Sys2Proof.Machine.execStfe v a o z s
  | .stf v a o z => Sys2Proof.Machine.execStf v a o z s
  | .feq d a o z => Sys2Proof.Machine.execFeq d a o z s
  | .feset v a o z => Sys2Proof.Machine.execFeset v a o z s
  | .amoadd d a b sx r z => Sys2Proof.Machine.execAmoadd d a b sx r z s
  | .amoand d a b sx r z => Sys2Proof.Machine.execAmoand d a b sx r z s
  | .amoor d a b sx r z => Sys2Proof.Machine.execAmoor d a b sx r z s
  | .amoxor d a b sx r z => Sys2Proof.Machine.execAmoxor d a b sx r z s
  | .amomin d a b sx r z => Sys2Proof.Machine.execAmomin d a b sx r z s
  | .amomax d a b sx r z => Sys2Proof.Machine.execAmomax d a b sx r z s
  | .amominu d a b sx r z => Sys2Proof.Machine.execAmominu d a b sx r z s
  | .amomaxu d a b sx r z => Sys2Proof.Machine.execAmomaxu d a b sx r z s
  | .amoswap d a b sx r z => Sys2Proof.Machine.execAmoswap d a b sx r z s
  | .amocas d a b sx r z => Sys2Proof.Machine.execAmocas d a b sx r z s
  | .amofadd d a b sx r z => Sys2Proof.Machine.execAmofadd d a b sx r z s
  | .hold d a sx r z => Sys2Proof.Machine.execHold d a sx r z s
  | .pass a b sx r z => Sys2Proof.Machine.execPass a b sx r z s
  | .fence sx k => Sys2Proof.Machine.execFence sx k s
  | .scfence sx => Sys2Proof.Machine.execScfence sx s
  | .wack => Sys2Proof.Machine.execWack s
  | .clean a b sx => Sys2Proof.Machine.execClean a b sx s
  | .inval a b sx => Sys2Proof.Machine.execInval a b sx s
  | .discard a => Sys2Proof.Machine.execDiscard a s
  | .pref a => Sys2Proof.Machine.execPref a s
  | .waita d a b => Sys2Proof.Machine.execWaita d a b s
  | .wake a => Sys2Proof.Machine.execWake a s
  | .cdef d a b => Sys2Proof.Machine.execCdef d a b s
  | .cparent d a b => Sys2Proof.Machine.execCparent d a b s
  | .cresize d a b => Sys2Proof.Machine.execCresize d a b s
  | .cbind d a b => Sys2Proof.Machine.execCbind d a b s
  | .cunbind d a => Sys2Proof.Machine.execCunbind d a s
  | .cquery d a => Sys2Proof.Machine.execCquery d a s
  | .cdrop d a => Sys2Proof.Machine.execCdrop d a s
  | .tdef t sx => Sys2Proof.Machine.execTdef t sx s
  | .tshape t sx => Sys2Proof.Machine.execTshape t sx s
  | .tbase t sx => Sys2Proof.Machine.execTbase t sx s
  | .tgetHalf0 a sx => Sys2Proof.Machine.execTgetHalf0 a sx s
  | .tgetHalf1 a sx => Sys2Proof.Machine.execTgetHalf1 a sx s
  | .tld t sx n => Sys2Proof.Machine.execTld t sx n s
  | .tst t sx n => Sys2Proof.Machine.execTst t sx n s
  | .tgath t a sx n => Sys2Proof.Machine.execTgath t a sx n s
  | .tscat t a sx n => Sys2Proof.Machine.execTscat t a sx n s
  | .tcpy t a n => Sys2Proof.Machine.execTcpy t a n s
  | .tfill t sx n => Sys2Proof.Machine.execTfill t sx n s
  | .ttrans t a n => Sys2Proof.Machine.execTtrans t a n s
  | .trot t a sx n => Sys2Proof.Machine.execTrot t a sx n s
  | .tadd d a b x n => Sys2Proof.Machine.execTadd d a b x n s
  | .tsub d a b x n => Sys2Proof.Machine.execTsub d a b x n s
  | .tmul d a b x n => Sys2Proof.Machine.execTmul d a b x n s
  | .tfma d a b c x n => Sys2Proof.Machine.execTfma d a b c x n s
  | .tdiv d a b x n => Sys2Proof.Machine.execTdiv d a b x n s
  | .tmax d a b n => Sys2Proof.Machine.execTmax d a b n s
  | .tmin d a b n => Sys2Proof.Machine.execTmin d a b n s
  | .tabs d a n => Sys2Proof.Machine.execTabs d a n s
  | .tneg d a n => Sys2Proof.Machine.execTneg d a n s
  | .texp d a x n => Sys2Proof.Machine.execTexp d a x n s
  | .tlog d a x n => Sys2Proof.Machine.execTlog d a x n s
  | .trsq d a x n => Sys2Proof.Machine.execTrsq d a x n s
  | .trcp d a x n => Sys2Proof.Machine.execTrcp d a x n s
  | .ttanh d a x n => Sys2Proof.Machine.execTtanh d a x n s
  | .terf d a x n => Sys2Proof.Machine.execTerf d a x n s
  | .tiadd d a b x n => Sys2Proof.Machine.execTiadd d a b x n s
  | .tisub d a b x n => Sys2Proof.Machine.execTisub d a b x n s
  | .timul d a b x n => Sys2Proof.Machine.execTimul d a b x n s
  | .tand d a b n => Sys2Proof.Machine.execTand d a b n s
  | .tor d a b n => Sys2Proof.Machine.execTor d a b n s
  | .txor d a b n => Sys2Proof.Machine.execTxor d a b n s
  | .tshl d a b n => Sys2Proof.Machine.execTshl d a b n s
  | .tshr d a b n => Sys2Proof.Machine.execTshr d a b n s
  | .tadds d a sx x n => Sys2Proof.Machine.execTadds d a sx x n s
  | .tmuls d a sx x n => Sys2Proof.Machine.execTmuls d a sx x n s
  | .tfmas d a sx x n => Sys2Proof.Machine.execTfmas d a sx x n s
  | .tmaxs d a sx n => Sys2Proof.Machine.execTmaxs d a sx n s
  | .tcmp d a b k n => Sys2Proof.Machine.execTcmp d a b k n s
  | .tsel d a b c n => Sys2Proof.Machine.execTsel d a b c n s
  | .trsum d a n => Sys2Proof.Machine.execTrsum d a n s
  | .tcsum d a n => Sys2Proof.Machine.execTcsum d a n s
  | .trmax d a n => Sys2Proof.Machine.execTrmax d a n s
  | .tcmax d a n => Sys2Proof.Machine.execTcmax d a n s
  | .tsum d a n => Sys2Proof.Machine.execTsum d a n s
  | .tcvt d a r x n => Sys2Proof.Machine.execTcvt d a r x n s
  | .tpack d a n => Sys2Proof.Machine.execTpack d a n s
  | .tunpack d a n => Sys2Proof.Machine.execTunpack d a n s
  | .trand d sx n => Sys2Proof.Machine.execTrand d sx n s
  | .tdrop d a sx n => Sys2Proof.Machine.execTdrop d a sx n s
  | .mma c a b => Sys2Proof.Machine.execMma c a b s
  | .mmat c a b => Sys2Proof.Machine.execMmat c a b s
  | .mmas c a b => Sys2Proof.Machine.execMmas c a b s
  | .mmaj c a b => Sys2Proof.Machine.execMmaj c a b s
  | .mzero c => Sys2Proof.Machine.execMzero c s
  | .mload c a => Sys2Proof.Machine.execMload c a s
  | .mdrain c a => Sys2Proof.Machine.execMdrain c a s
  | .mchk c => Sys2Proof.Machine.execMchk c s
  | .mstat c sx => Sys2Proof.Machine.execMstat c sx s
  | .mwait c => Sys2Proof.Machine.execMwait c s
  | .mjoin sx => Sys2Proof.Machine.execMjoin sx s
  | .mleave => Sys2Proof.Machine.execMleave s
  | .qtry d a => Sys2Proof.Machine.execQtry d a s
  | .qcfg a n => Sys2Proof.Machine.execQcfg a n s
  | .start a => Sys2Proof.Machine.execStart a s
  | .reap d a => Sys2Proof.Machine.execReap d a s
  | .spawn d a => Sys2Proof.Machine.execSpawn d a s
  | .exit => Sys2Proof.Machine.execExit s
  | .sleep a => Sys2Proof.Machine.execSleep a s
  | .launch d a b => Sys2Proof.Machine.execLaunch d a b s
  | .coord d k => Sys2Proof.Machine.execCoord d k s
  | .depinit a b => Sys2Proof.Machine.execDepinit a b s
  | .depdec a => Sys2Proof.Machine.execDepdec a s
  | .barw d a b => Sys2Proof.Machine.execBarw d a b s
  | .bara a => Sys2Proof.Machine.execBara a s
  | .barq d a => Sys2Proof.Machine.execBarq d a s
  | .probe d a => Sys2Proof.Machine.execProbe d a s
  | .drain a => Sys2Proof.Machine.execDrain a s
  | .coll d a => Sys2Proof.Machine.execColl d a s
  | .cwait d a => Sys2Proof.Machine.execCwait d a s
  | .evgath d a => Sys2Proof.Machine.execEvgath d a s
  | .cpy d a => Sys2Proof.Machine.execCpy d a s
  | .cpym d a b => Sys2Proof.Machine.execCpym d a b s
  | .cpyd d a => Sys2Proof.Machine.execCpyd d a s
  | .cpyq d a => Sys2Proof.Machine.execCpyq d a s
  | .trap c => Sys2Proof.Machine.execTrap c s
  | .eret => Sys2Proof.Machine.execEret s
  | .crrd d r => Sys2Proof.Machine.execCrrd d r s
  | .crwr a r => Sys2Proof.Machine.execCrwr a r s
  | .crset a r => Sys2Proof.Machine.execCrset a r s
  | .crclr a r => Sys2Proof.Machine.execCrclr a r s
  | .tlbinv a e => Sys2Proof.Machine.execTlbinv a e s
  | .iflush => Sys2Proof.Machine.execIflush s
  | .idle => Sys2Proof.Machine.execIdle s
  | .brk c => Sys2Proof.Machine.execBrk c s
  | .deferredFaultTaken => Sys2Proof.Machine.execDeferredFaultTaken s
  | .longResultReady => Sys2Proof.Machine.execLongResultReady s
  | .windowSpill => Sys2Proof.Machine.execWindowSpill s
  | .windowFill => Sys2Proof.Machine.execWindowFill s
  | .channelWordArrival => Sys2Proof.Machine.execChannelWordArrival s
  | .scratchpadPageRefill => Sys2Proof.Machine.execScratchpadPageRefill s
  | .remoteAccessArrival => Sys2Proof.Machine.execRemoteAccessArrival s
  | .remoteStoreAck => Sys2Proof.Machine.execRemoteStoreAck s
  | .feRequestRetry => Sys2Proof.Machine.execFeRequestRetry s
  | .reservationGrant => Sys2Proof.Machine.execReservationGrant s
  | .reservationTimeout => Sys2Proof.Machine.execReservationTimeout s
  | .postedWriteApply => Sys2Proof.Machine.execPostedWriteApply s
  | .postedWriteAck => Sys2Proof.Machine.execPostedWriteAck s
  | .monitorWake => Sys2Proof.Machine.execMonitorWake s
  | .vcacheAccessArrival => Sys2Proof.Machine.execVcacheAccessArrival s
  | .lineFill => Sys2Proof.Machine.execLineFill s
  | .homeProbe => Sys2Proof.Machine.execHomeProbe s
  | .configAgentTake => Sys2Proof.Machine.execConfigAgentTake s
  | .reconfigResume => Sys2Proof.Machine.execReconfigResume s
  | .vcacheStatusWrite => Sys2Proof.Machine.execVcacheStatusWrite s
  | .callServe => Sys2Proof.Machine.execCallServe s
  | .callReply => Sys2Proof.Machine.execCallReply s
  | .notifyWord => Sys2Proof.Machine.execNotifyWord s
  | .queueSlotBind => Sys2Proof.Machine.execQueueSlotBind s
  | .dealIntake => Sys2Proof.Machine.execDealIntake s
  | .tableReadRetry => Sys2Proof.Machine.execTableReadRetry s
  | .completionRecordWrite => Sys2Proof.Machine.execCompletionRecordWrite s
  | .completionRecordRetry => Sys2Proof.Machine.execCompletionRecordRetry s
  | .placementEvent => Sys2Proof.Machine.execPlacementEvent s
  | .dealMappingFix => Sys2Proof.Machine.execDealMappingFix s
  | .agingTick => Sys2Proof.Machine.execAgingTick s
  | .sliceExpiry => Sys2Proof.Machine.execSliceExpiry s
  | .budgetPeriod => Sys2Proof.Machine.execBudgetPeriod s
  | .counterRequestArrival => Sys2Proof.Machine.execCounterRequestArrival s
  | .outboundEventDelivery => Sys2Proof.Machine.execOutboundEventDelivery s
  | .exitEventPush => Sys2Proof.Machine.execExitEventPush s
  | .channelAgentRequest => Sys2Proof.Machine.execChannelAgentRequest s
  | .barrierComplete => Sys2Proof.Machine.execBarrierComplete s
  | .barrierTimeout => Sys2Proof.Machine.execBarrierTimeout s
  | .matrixOpStart => Sys2Proof.Machine.execMatrixOpStart s
  | .kBlockComplete => Sys2Proof.Machine.execKBlockComplete s
  | .matrixCommandComplete => Sys2Proof.Machine.execMatrixCommandComplete s
  | .jointOpStart => Sys2Proof.Machine.execJointOpStart s
  | .jointGroupForm => Sys2Proof.Machine.execJointGroupForm s
  | .mapExecutable => Sys2Proof.Machine.execMapExecutable s
  | .pageScan => Sys2Proof.Machine.execPageScan s
  | .lightRecordArrival => Sys2Proof.Machine.execLightRecordArrival s
  | .kittyRefill => Sys2Proof.Machine.execKittyRefill s
  | .lightDispatch => Sys2Proof.Machine.execLightDispatch s
  | .migrationShip => Sys2Proof.Machine.execMigrationShip s
  | .migrationAnswer => Sys2Proof.Machine.execMigrationAnswer s
  | .recordResend => Sys2Proof.Machine.execRecordResend s
  | .lightPreemptRecord => Sys2Proof.Machine.execLightPreemptRecord s
  | .dealerAccept => Sys2Proof.Machine.execDealerAccept s
  | .copyRun => Sys2Proof.Machine.execCopyRun s
  | .copyComplete => Sys2Proof.Machine.execCopyComplete s
  | .cpymFollowOn => Sys2Proof.Machine.execCpymFollowOn s
  | .spillRingReturn => Sys2Proof.Machine.execSpillRingReturn s
  | .sleepExpiry => Sys2Proof.Machine.execSleepExpiry s
  | .collCommit => Sys2Proof.Machine.execCollCommit s
  | .collResultWrite => Sys2Proof.Machine.execCollResultWrite s
  | .cwaitTimeout => Sys2Proof.Machine.execCwaitTimeout s
  | .translationWalk => Sys2Proof.Machine.execTranslationWalk s
  | .resumeRetry => Sys2Proof.Machine.execResumeRetry s
  | .resumeSkip => Sys2Proof.Machine.execResumeSkip s
  | .resumeEnd => Sys2Proof.Machine.execResumeEnd s
  | .preempt => Sys2Proof.Machine.execPreempt s
  | .preemptSaveComplete => Sys2Proof.Machine.execPreemptSaveComplete s
  | .unpin => Sys2Proof.Machine.execUnpin s
  | .pagefree => Sys2Proof.Machine.execPagefree s
  | .pagetake => Sys2Proof.Machine.execPagetake s
  | .unmap => Sys2Proof.Machine.execUnmap s
  | .reset => Sys2Proof.Machine.execReset s
  | .cordonReturn => Sys2Proof.Machine.execCordonReturn s
  | .dieReset => Sys2Proof.Machine.execDieReset s
  | .dieLost => Sys2Proof.Machine.execDieLost s
  | .returnDie => Sys2Proof.Machine.execReturnDie s
  | .partitionReset => Sys2Proof.Machine.execPartitionReset s
  | .linkFrame => Sys2Proof.Machine.execLinkFrame s
  | .thermalTrip => Sys2Proof.Machine.execThermalTrip s
  | .powerCap => Sys2Proof.Machine.execPowerCap s
  | .moduleReset => Sys2Proof.Machine.execModuleReset s
  | .startReport => Sys2Proof.Machine.execStartReport s
  | .imageUpdate => Sys2Proof.Machine.execImageUpdate s
  | .errorRecordDelivery => Sys2Proof.Machine.execErrorRecordDelivery s
  | .ptpSample => Sys2Proof.Machine.execPtpSample s
  | .hostWrite => Sys2Proof.Machine.execHostWrite s
  | .hostRead => Sys2Proof.Machine.execHostRead s
  | .facceptWrite => Sys2Proof.Machine.execFacceptWrite s
  | .featureEnable => Sys2Proof.Machine.execFeatureEnable s
  | .fabricBringUp => Sys2Proof.Machine.execFabricBringUp s
  | .errinjDisarm => Sys2Proof.Machine.execErrinjDisarm s
  | .errinjAccumulator => Sys2Proof.Machine.execErrinjAccumulator s
  | .errinjScratchpadWord => Sys2Proof.Machine.execErrinjScratchpadWord s
  | .errinjRegister => Sys2Proof.Machine.execErrinjRegister s
  | .errinjVcacheLine => Sys2Proof.Machine.execErrinjVcacheLine s
  | .errinjCordonReset => Sys2Proof.Machine.execErrinjCordonReset s
  | .qcfgDefault => Sys2Proof.Machine.execQcfgDefault s
  | .lightUnitConfig => Sys2Proof.Machine.execLightUnitConfig s
  | .traceRingControl => Sys2Proof.Machine.execTraceRingControl s
  | .hubRegisterWrite => Sys2Proof.Machine.execHubRegisterWrite s
  | .homeSliceRequestArrival => Sys2Proof.Machine.execHomeSliceRequestArrival s
  | .homeBufferFill => Sys2Proof.Machine.execHomeBufferFill s
  | .classBCompletion => Sys2Proof.Machine.execClassBCompletion s
  | .probeCircuitEnd => Sys2Proof.Machine.execProbeCircuitEnd s
  | .junctionLimitCrossing => Sys2Proof.Machine.execJunctionLimitCrossing s
  | .faultRecordDelivery => Sys2Proof.Machine.execFaultRecordDelivery s

end Sys2Proof.Machine
end

