-- ==== Sys2Proof/Machine/Issue.lean ====
section
/-! DEFINITION. Turns: which position acts, when a ready task's next instruction may issue, and the fetch of its word
(01_machine.md R17-R23, 03_encoding.md R78, R83-R87, R102, 04_number_formats.md R123, 15_waiting_and_barriers.md R383). -/
namespace Sys2Proof.Machine

-- housekeeping of a task

/-- Forget results and accesses that nothing can wait for any more. -/
def Task.tidy (t : Task) (now : Nat) : Task :=
  { t with
    outst := t.outst.filter fun o =>
      (match o.doneAt with | some c => decide (now ≤ c) | none => true) || t.traps.any (·.id == o.id)
    pend := t.pend.filter fun a => match a.doneAt with | some c => decide (now ≤ c) | none => true }

/-- Outside a handler, words kept for an instruction other than the next are discarded (R23). What an ERET runs is a part of the ERET
(R167). -/
def Task.dropKept (t : Task) : Task :=
  if t.inTrap || t.resume.isSome then t else { t with kept := t.kept.filter fun x => x.1 == t.keptKey }

/-- Must the next instruction wait in its turn for a result whose window is over (R18, R83)? -/
def Task.waitsResult (t : Task) (now : Nat) : Bool :=
  t.outst.any fun o => o.left == 0 && (match o.doneAt with | some c => decide (now ≤ c) | none => true)

/-- Is a fault recorded for a result whose window is over (R85)? In a handler only a result of its own counts (R460). -/
def Task.faultWaits (t : Task) : Bool :=
  t.outst.any fun o => o.left == 0 && t.traps.any fun x => x.id == o.id && (!t.inTrap || x.inHandler)

/-- Is a trap to be entered before the next instruction issues (R85, R86, R460)? -/
def Task.trapWaits (t : Task) : Bool := t.nextTrap.isSome || (t.resume.isNone && (t.faultWaits || t.precise.isSome))

/-- Control registers that wait for every earlier instruction's flags and counts (R123). -/
def crWaits (r : BitVec 12) : Bool := r.toNat == 0x20 || (0x28 ≤ r.toNat && r.toNat ≤ 0x2F)

/-- Do earlier instructions or matrix commands of a task still owe flags or counts (R123)? -/
def Task.owesFlags (t : Task) (now : Nat) : Bool :=
  t.outst.any (fun o => match o.doneAt with | some c => decide (now ≤ c) | none => true)
    || t.pend.any (fun a => a.partner && (match a.doneAt with | some c => decide (now ≤ c) | none => true))

/-- Must this instruction wait in its turn (R123, R400)? -/
def State.issueWaits (s : State) (i : Instr) : Bool :=
  match i with
  | .crrd _ r | .crwr _ r | .crset _ r | .crclr _ r => crWaits r && s.my.owesFlags s.cycle
  | .evgath _ _ => s.my.owesFlags s.cycle
  | _ => false

-- fetch (R78, R102)

/-- What a fetch gives. -/
inductive FetchRes where
  | word (w : Nat) (s : State)
  | stop (s : State)

/-- Read the word at a physical address for the current position; a poisoned line is the poison trap, precise (R102). -/
def State.fetchAt (s : State) (pa : Nat) : FetchRes :=
  if s.poisoned pa then .stop (s.trapUnissued (poisonTrap s.my.pc.toNat))
  else .word (s.bytesAt pa 4) s

/-- Fetch the word at the task's pc: from the page whose fetched instructions the slot holds, else by translating again. -/
def State.fetch (s : State) : FetchRes :=
  let t := s.my
  let va := t.pc.toNat
  let held := s.mySlot.fetchTr.find? fun f => f.space == t.space && f.page == va / 4096
  match held with
  | some f => match f.words[va % 4096 / 4]? with
    | some w => .word w s
    | none => s.fetchAt (f.frame * 4096 + va % 4096)
  | none =>
    if va / 2 ^ 57 ≠ 0 then .stop (s.noIssue 0x40 4 va 2)
    else if bits va 44 13 = 0x1FFF then .stop (s.noIssue 0x41 2 va 2)
    else match s.tlbLook (posCore s.cur) t.space (va / 4096) with
      | none => .stop (s.startWalk va 2).waitTurn
      | some (e, late, s) =>
        let pl := s.globalPlace t.space t.world e 0 va
        -- a translation from the cluster's cache takes its cycles (R445)
        if late ≠ 0 then .stop (s.setMySlot fun x => { x with notBefore := s.cycle + late }).waitTurn else
        if !s.module_.scanned.contains (pl.loc / 4096) then .stop (s.noIssue 0x41 2 va 2)
        else if !e.x then .stop (s.noIssue 0x41 0 va 2)
        else if pl.world != s.secure pl.loc then .stop ((s.noIssue 0x41 1 va 2).refuseWorld (posCore s.cur) (s.tk s.cur) pl.loc t.space pl.world)
        else
          (s.setMySlot fun x => { x with fetchTr := [{ space := t.space, page := va / 4096, frame := pl.loc / 4096 }] }).fetchAt pl.loc

-- turns (R17)

/-- May a core's slots issue at all: not fenced by a reset, nor halted with its partition (R474, R456)? -/
def Core.runs (c : Core) : Bool := !c.fenced && !c.halted && !c.stopped

/-- Has a core's dealer a request to accept, or a copy to sequence or run? Slot 15's turns are its own then (R17). -/
def State.dealerWorks (s : State) (c : Nat) : Bool :=
  let d := (s.core c).dealer
  d.busy.isSome || !d.queue.isEmpty || !d.spill.isEmpty || (List.range 15).any fun k => !(s.slot (mkPos c k)).mailbox.isEmpty

/-- Could a ready or window-moving slot act in this cycle? A demand of this cycle lets its turn pass first (R383). -/
def State.slotActs (s : State) (x : Slot) : Bool :=
  match x.st with
  | .ready => x.notBefore ≤ s.cycle && (x.preempt.all (s.cycle ≤ ·)) && !x.endRes
  | .parked => match x.task.wait with | some (.window _) => true | _ => false
  | _ => false

/-- What a position does with its turn. -/
inductive TurnKind where
  | issue | idle
  | window (n : Nat)
  | event (i : Instr) (m : Msg)

/-- What position `p` does with its turn, if anything comes of it (R17). -/
def State.kindAt (s : State) (p : Pos) : Option TurnKind :=
  let c := posCore p
  let k := s.core c
  let x := s.slot p
  if !k.runs then none
  else if s.slotActs x then
    some (match x.st, x.task.wait with
      | .parked, some (.window n) => .window n
      | _, _ => .issue)
  else if (s.dispatchable p).isSome then some (.event .lightDispatch (.lightDispatch p))
  else if posSlot p == 15 && s.dealerWorks c then none
  else if (s.windowMove c).isSome || k.idleRun != 0 then some .idle
  else none

/-- The cores the state lists. -/
def State.listedCores (s : State) : List Nat :=
  let a := s.slots.map fun x => posCore x.1
  let b := s.cores.map (·.1)
  (a ++ b).foldl (fun l c => if l.contains c then l else c :: l) []

/-- The next position, in ascending core order, that does something with its turn of this cycle. -/
def State.nextTurn (s : State) : Option Pos :=
  let k := s.cycle % 16
  let cs := s.listedCores.filter fun c => decide (s.turn ≤ c) && (s.kindAt (mkPos c k)).isSome
  match cs with
  | [] => none
  | c :: r => some (mkPos (r.foldl min c) k)

/-- What the current position does with its turn. -/
def State.turnKind (s : State) : TurnKind := (s.kindAt s.cur).getD .idle

/-- The end of a cycle: g register writes that complete in it take effect, and the next cycle begins (R27, R125). -/
def State.tick (s : State) : State :=
  { s with cores := s.cores.map fun (c, k) => (c, if k.gPend.isEmpty then k else k.commitG s.cycle), cycle := s.cycle + 1, turn := 0 }

/-- A parked position's own turns that move a window for it (R25, R153): after the last, it issues at its next turn. -/
def State.windowTurn (s : State) (n : Nat) : State :=
  if n ≤ 1 then s.unpark s.cur else s.setMy fun t => { t with wait := some (.window (n - 1)) }

-- placing a word where the next step fetches

/-- Members that only slot 0 may issue. -/
def bankerOnly : Instr → Bool
  | .start _ | .reap _ _ | .tlbinv _ _ => true
  | _ => false

/-- Where withFetchWord puts its word. -/
def fetchWordFrame : Nat := 1

/-- The first cycle from now on that belongs to slot `k`. -/
def cycleFor (now k : Nat) : Nat := now + (k + 16 - now % 16) % 16

/-- Put word `w` where the next step fetches: a task resident in slot 1 of core 0, or the banker in slot 0 for a member that
only it may issue, at its turn, holding the page the word lies in among its fetched instructions. What is due by then is later. -/
def State.placeWord (s : State) (w : Nat) : State :=
  let k := match decodeWord w with | .ok i => if bankerOnly i then 0 else 1 | .error _ => 1
  let now := cycleFor s.cycle k
  let s := s.putBytesAt (fetchWordFrame * 4096) 4 w
  let s := s.setPoison (fetchWordFrame * 32) false
  let s := s.modCore 0 fun c => { c with fenced := false, halted := false, stopped := false }
  let s := s.modSlot (mkPos 0 k) fun x =>
    { x with st := .ready, notBefore := 0, preempt := none, endRes := false,
             task := { x.task with pc := word (fetchWordFrame * 4096), wait := none, outst := [], traps := [], precise := none, resume := none, runs := [] },
             fetchTr := [{ space := x.task.space, page := fetchWordFrame, frame := fetchWordFrame }] }
  { s with cycle := now, turn := 0, agenda := s.agenda.map fun x => { x with due := max x.due (now + 1) } }

end Sys2Proof.Machine
end

