-- ==== Sys2Proof/Machine/Turn.lean ====
section
/-! DEFINITION. What one step of the machine serves: the next thing due, else the next position's turn, else the end of the
cycle (01_machine.md R17; log entry 2). -/
namespace Sys2Proof.Machine

/-- A turn that issues nothing may move a window (R17, R21). -/
def idleStep (s : State) : Out :=
  .next s.waitTurn

/-- A ready task's turn: a recorded fault is taken, or its next instruction issues unless it waits (R18, R83, R85, R123). -/
def issueStep (s : State) : Out :=
  let s := s.setMy fun t => (t.tidy s.cycle).dropKept
  match s.parkForRun with
  | some s => idleStep s
  | none =>
  if s.my.waitsResult s.cycle then
    idleStep (if s.my.waited then s else (s.setMy fun t => { t with waited := true }).countEv s.cur 3 1)
  else if s.my.trapWaits then exec .deferredFaultTaken s
  else match s.fetch with
    | .stop s => .next s
    | .word w s =>
      match decodeWord w with
      | .error _ => .fault (.illegalWord s.my.pc.toNat)
      | .ok i => if s.issueWaits i then idleStep s else exec i s

/-- The turn of the current position. -/
def turnStep (s : State) : Out :=
  match s.turnKind with
  | .issue => issueStep s
  | .window n => .next (s.windowTurn n)
  | .event i m => exec i { s with msg := m }
  | .idle => idleStep s

/-- The next position whose turn it is in this cycle, else the end of the cycle. -/
def turnsStep (s : State) : Out :=
  match s.nextTurn with
  | some p => turnStep { s with cur := p, turn := posCore p + 1, msg := .none }
  | none => .next s.tick

/-- The event at the head of the agenda, once it is due; else a turn. -/
def serveNext (s : State) : Out :=
  match s.agenda with
  | x :: rest => if x.due ≤ s.cycle then exec x.ev { s with agenda := rest, msg := x.msg } else turnsStep s
  | [] => turnsStep s

end Sys2Proof.Machine
end

