-- ==== Sys2Proof/Machine/Step.lean ====
section
/-! DEFINITION. One step of the machine, and a word placed where the next step fetches. -/
namespace Sys2Proof.Machine

/-- One step (01_machine.md R17; log entry 2). -/
def step (s : State) : Host.Outcome State Fault Refusal := serveNext s

/-- `s` with a word stored where `step` fetches its next instruction (log entry 10). -/
def State.withFetchWord (s : State) (_nbits w : Nat) : State := s.placeWord (w % 2 ^ 32)

end Sys2Proof.Machine
end

