-- ==== Sys2Proof/Certificates/Slice0/Obligations.lean ====
section
/-! DEFINITION. The statements for the provers: what the numbered rules say that the instructions and the machine do. -/

namespace Sys2Proof.Machine

/-- Only plain registers that read without an event: s registers that no uncorrectable error struck, and g registers. -/
def PlainReg (s : State) (r : Reg) : Prop := r.toNat < 24 ∧ (r.toNat < 16 → s.my.strikeKey r.toNat ∉ s.my.struck)

/-- The value a plain register reads as in the current position's turn (R22, R24, R27). -/
def regValue (s : State) (r : Reg) : Word :=
  if r.toNat = 0 then 0
  else if r.toNat < 16 then s.my.regs.get 0 r.toNat
  else (s.core (posCore s.cur)).g.get 0 (r.toNat - 16)

/-- Everything but the current position's slot is as before. -/
def OnlyMySlot (s t : State) : Prop := t = { s with slots := t.slots } ∧ ∀ p, p ≠ s.cur → t.slot p = s.slot p

/-- The current task is as before but for its pc, what an issue itself ends (a resumption, kept words, one instruction of each
outstanding window), the event counters EVCNT0 to EVCNT7, and its s registers. -/
def SameButIssue (x y : Task) : Prop :=
  x.callers = y.callers ∧ x.tiles = y.tiles ∧ x.space = y.space ∧ x.world = y.world ∧ x.accs = y.accs ∧ x.hand = y.hand
    ∧ x.traps = y.traps ∧ x.pend = y.pend ∧ x.held = y.held ∧ x.runs = y.runs ∧ x.notes = y.notes ∧ x.tags = y.tags
    ∧ x.outst.map (·.id) = y.outst.map (·.id)
    ∧ ∀ c, ¬(0x48 ≤ c ∧ c ≤ 0x4F) → x.cr c = y.cr c

/-- Everything but the current position's slot is as before, save that the move of window `n`, if `moves`, with a struck register in it
puts an uncontained error's reset on the agenda, due at once. -/
def MovesWindow (s t : State) (moves : Prop) (n : Nat) : Prop :=
  ∃ u, (u = s ∨ moves ∧ (∃ k ∈ s.my.struck, k / 16 = n) ∧ u = s.post s.cycle 0 .reset (.uncontained (posCore s.cur) 0 0x23 s.cur)) ∧
    (moves → (∃ k ∈ s.my.struck, k / 16 = n) → u ≠ s) ∧ OnlyMySlot u t

/-- The issue goes on at `pc`, or after an instruction that an ERET resumed where that ERET goes (R468). -/
def GoesOn (s t : State) (pc : Word) : Prop := t.my.pc = s.my.resume.getD pc ∧ t.my.resume = none

end Sys2Proof.Machine

open Sys2Proof Sys2Proof.Machine

/-- R24, R22, R27: plain source registers read their values, in the order named, and reading them changes nothing. -/
def Obligations.PlainSourcesReadTheirValues : Prop :=
  ∀ (s : State) (rs : List Reg), (∀ r ∈ rs, PlainReg s r) → fetchSrcs rs s = .ok (rs.map (regValue s)) s

/-- R28: a field that names queue port q0 to q7 pops the oldest word there; an instruction whose port is empty parks the task. -/
def Obligations.PortSourcesPopOrPark : Prop :=
  ∀ (s : State) (r : Reg), 24 ≤ r.toNat → s.my.kept.look s.my.keptKey = none →
    (∀ w u, s.popPort s.cur (r.toNat - 24) = .word w u →
      ∃ t, fetchSrcs [r] s = .ok [w] t ∧ t = u.setMy fun x => { x with kept := x.kept.put x.keptKey [w] }) ∧
    (s.popPort s.cur (r.toNat - 24) = .empty →
      ∃ t, fetchSrcs [r] s = .stop t ∧ (t.slot s.cur).st = .parked ∧ t.my.wait = some (.pop (r.toNat - 24)) ∧ t.my.pc = s.my.pc
        ∧ OnlyMySlot s t) ∧
    -- a completion word, a result of the dealer, an event: the oldest word leaves its queue
    (∀ w l, r.toNat = 28 → s.mySlot.comps = w :: l → s.popPort s.cur 4 = .word w (s.setMySlot fun x => { x with comps := l })) ∧
    (r.toNat = 28 → s.mySlot.comps = [] → s.popPort s.cur 4 = .empty) ∧
    (r.toNat = 29 → s.mySlot.returns = [] → s.popPort s.cur 5 = .empty) ∧
    (r.toNat = 31 → s.mySlot.evq = [] → s.popPort s.cur 7 = .empty) ∧
    (r.toNat = 30 → s.isLight s.cur = false → s.popPort s.cur 6 = .misuse)

/-- R24, R27, R28, R125: what the end of a class S instruction does with its result: an s register other than s0 holds it, s0
discards it, a g register takes it as a write that completes four cycles later, a port is pushed or, while full, parks the task. -/
def Obligations.ShortResultGoesToItsDestination : Prop :=
  ∀ (s : State) (d : Reg) (v : Word),
    (d.toNat < 16 → ∃ t, finishShort d v s = t ∧ GoesOn s t (s.my.pc + 4) ∧ OnlyMySlot s t ∧ SameButIssue t.my s.my ∧
      ∀ r, t.my.sreg r = if r = d.toNat ∧ r ≠ 0 then v else s.my.sreg r) ∧
    (16 ≤ d.toNat → d.toNat < 24 → ∃ t, finishShort d v s = t ∧ GoesOn s t (s.my.pc + 4) ∧ SameButIssue t.my s.my ∧
      (∀ r, t.my.sreg r = s.my.sreg r) ∧ t.mem = s.mem ∧ t.hub = s.hub ∧ t.agenda = s.agenda ∧
      (t.core (posCore s.cur)).g = (s.core (posCore s.cur)).g ∧
      (t.core (posCore s.cur)).gPend = (s.core (posCore s.cur)).gPend
        ++ [{ due := s.cycle + 4, slot := posSlot s.cur, reg := d.toNat - 16, val := v }] ∧
      (∀ c, c ≠ posCore s.cur → t.core c = s.core c) ∧ (∀ p, p ≠ s.cur → t.slot p = s.slot p)) ∧
    (24 ≤ d.toNat → ∀ u, s.pushPort s.cur (d.toNat - 24) v = some u → finishShort d v s = u.advance) ∧
    (24 ≤ d.toNat → s.pushPort s.cur (d.toNat - 24) v = none →
      ∃ t, finishShort d v s = t ∧ (t.slot s.cur).st = .parked ∧ t.my.wait = some (.push (d.toNat - 24)) ∧ t.my.pc = s.my.pc
        ∧ OnlyMySlot s t ∧ ∀ r, t.my.sreg r = s.my.sreg r)

/-- R129: the members of two sources of INT-A. -/
def Obligations.IntegerRegisterResults : Prop :=
  ∀ (s s₁ : State) (d a b : Reg) (x y : Word), fetchSrcs [a, b] s = .ok [x, y] s₁ →
    exec (.add d a b) s = .next (finishShort d (x + y) s₁) ∧
    exec (.sub d a b) s = .next (finishShort d (x - y) s₁) ∧
    exec (.and d a b) s = .next (finishShort d (x &&& y) s₁) ∧
    exec (.or d a b) s = .next (finishShort d (x ||| y) s₁) ∧
    exec (.xor d a b) s = .next (finishShort d (x ^^^ y) s₁) ∧
    exec (.andn d a b) s = .next (finishShort d (x &&& ~~~y) s₁) ∧
    exec (.sll d a b) s = .next (finishShort d (word (x.toNat * 2 ^ (y.toNat % 64))) s₁) ∧
    exec (.srl d a b) s = .next (finishShort d (word (x.toNat / 2 ^ (y.toNat % 64))) s₁) ∧
    exec (.sra d a b) s = .next (finishShort d (wordI (x.toInt / 2 ^ (y.toNat % 64))) s₁) ∧
    exec (.min d a b) s = .next (finishShort d (wordI (min x.toInt y.toInt)) s₁) ∧
    exec (.max d a b) s = .next (finishShort d (wordI (max x.toInt y.toInt)) s₁) ∧
    exec (.minu d a b) s = .next (finishShort d (word (min x.toNat y.toNat)) s₁) ∧
    exec (.maxu d a b) s = .next (finishShort d (word (max x.toNat y.toNat)) s₁) ∧
    exec (.slt d a b) s = .next (finishShort d (if x.toInt < y.toInt then 1 else 0) s₁) ∧
    exec (.sltu d a b) s = .next (finishShort d (if x.toNat < y.toNat then 1 else 0) s₁) ∧
    exec (.cmov d a b) s = .next (if y = 0 then s₁.advance else finishShort d x s₁) ∧
    (∀ k, exec (.addx d a k b) s = .next (finishShort d (word (x.toNat + y.toNat * 2 ^ k.toNat)) s₁)) ∧
    exec (.mul d a b) s = .next (finishShort d (word (x.toNat * y.toNat)) s₁) ∧
    exec (.mulh d a b) s = .next (finishShort d (wordI (x.toInt * y.toInt / 2 ^ 64)) s₁) ∧
    exec (.mulhu d a b) s = .next (finishShort d (word (x.toNat * y.toNat / 2 ^ 64)) s₁)

/-- R129 to R133: the unary members of INT-A, each by what its result is; immediates, shifts by an immediate, LUI, ADDPC and BFX. -/
def Obligations.IntegerUnaryAndImmediateResults : Prop :=
  (∀ (s s₁ : State) (d a : Reg) (x : Word), fetchSrcs [a] s = .ok [x] s₁ →
    (∃ v, exec (.clz d a) s = .next (finishShort d (word v) s₁) ∧
      if x = 0 then v = 64 else v < 64 ∧ 2 ^ (63 - v) ≤ x.toNat ∧ x.toNat < 2 ^ (64 - v)) ∧
    (∃ v, exec (.ctz d a) s = .next (finishShort d (word v) s₁) ∧
      if x = 0 then v = 64 else 2 ^ v ∣ x.toNat ∧ ¬ 2 ^ (v + 1) ∣ x.toNat) ∧
    exec (.popc d a) s = .next (finishShort d (word ((List.range 64).countP x.getLsbD)) s₁) ∧
    (∃ v, exec (.bswap d a) s = .next (finishShort d v s₁) ∧
      ∀ k, k < 8 → v.extractLsb' (8 * k) 8 = x.extractLsb' (8 * (7 - k)) 8) ∧
    (∃ v, exec (.sextB d a) s = .next (finishShort d v s₁) ∧ v.toInt = (x.extractLsb' 0 8).toInt) ∧
    (∃ v, exec (.sextH d a) s = .next (finishShort d v s₁) ∧ v.toInt = (x.extractLsb' 0 16).toInt) ∧
    (∃ v, exec (.sextW d a) s = .next (finishShort d v s₁) ∧ v.toInt = (x.extractLsb' 0 32).toInt) ∧
    exec (.zextB d a) s = .next (finishShort d (word (x.toNat % 2 ^ 8)) s₁) ∧
    exec (.zextH d a) s = .next (finishShort d (word (x.toNat % 2 ^ 16)) s₁) ∧
    exec (.zextW d a) s = .next (finishShort d (word (x.toNat % 2 ^ 32)) s₁)) ∧
  (∀ (s s₁ : State) (d a : Reg) (x : Word), fetchSrcs [a] s = .ok [x] s₁ →
    (∀ i : BitVec 16,
      exec (.addi d a i) s = .next (finishShort d (wordI (x.toInt + i.toInt)) s₁) ∧
      exec (.andi d a i) s = .next (finishShort d (x &&& wordI i.toInt) s₁) ∧
      exec (.ori d a i) s = .next (finishShort d (x ||| wordI i.toInt) s₁) ∧
      exec (.xori d a i) s = .next (finishShort d (x ^^^ wordI i.toInt) s₁) ∧
      exec (.slti d a i) s = .next (finishShort d (if x.toInt < i.toInt then 1 else 0) s₁) ∧
      exec (.sltiu d a i) s = .next (finishShort d (if x.toNat < (wordI i.toInt).toNat then 1 else 0) s₁)) ∧
    (∀ n : BitVec 6,
      exec (.slli d a n) s = .next (finishShort d (word (x.toNat * 2 ^ n.toNat)) s₁) ∧
      exec (.srli d a n) s = .next (finishShort d (word (x.toNat / 2 ^ n.toNat)) s₁) ∧
      exec (.srai d a n) s = .next (finishShort d (wordI (x.toInt / 2 ^ n.toNat)) s₁)) ∧
    (∀ p l : BitVec 6, exec (.bfx d a p l) s = .next (finishShort d (word (x.toNat / 2 ^ p.toNat % 2 ^ (l.toNat + 1))) s₁))) ∧
  (∀ (s : State) (d : Reg) (i : BitVec 21),
    exec (.lui d i) s = .next (finishShort d (wordI (i.toInt * 65536)) s) ∧
    exec (.addpc d i) s = .next (finishShort d (s.my.pc + wordI (i.toInt * 65536)) s))

/-- R134, R136: the members that read d as a source. BFI replaces the field and keeps every other bit of D. -/
def Obligations.DestinationReadAsSource : Prop :=
  (∀ (s s₁ : State) (d a : Reg) (p l : BitVec 6) (x y : Word), fetchSrcs [a, d] s = .ok [x, y] s₁ → p.toNat + l.toNat + 1 ≤ 64 →
    ∃ v, exec (.bfi d a p l) s = .next (finishShort d v s₁) ∧
      ∀ k, k < 64 → v.getLsbD k =
        if p.toNat ≤ k ∧ k < p.toNat + l.toNat + 1 then x.getLsbD (k - p.toNat) else y.getLsbD k) ∧
  (∀ (s s₁ : State) (d a b : Reg) (x y z : Word), fetchSrcs [a, b, d] s = .ok [x, y, z] s₁ →
    exec (.madd d a b) s = .next (finishShort d (word (z.toNat + x.toNat * y.toNat)) s₁))

/-- R18, R83, R125: a class L instruction goes on at once; its result stands outstanding and is due after its latency. -/
def Obligations.LongIssueLeavesResultOutstanding : Prop :=
  ∀ (s : State) (d : Reg) (la latency v : Nat) (e : Events),
    ∃ t, issueLong d la latency v e s = t ∧ GoesOn s t (s.my.pc + 4) ∧ t.mem = s.mem ∧ t.cores = s.cores ∧ t.hub = s.hub ∧
      (∀ r, t.my.sreg r = s.my.sreg r) ∧ (∀ p, p ≠ s.cur → t.slot p = s.slot p) ∧
      (∃ o, t.my.outst.getLast? = some o ∧ o.id = s.nextId ∧ o.pc = s.my.pc ∧ o.dest = some d ∧ o.value = v ∧ o.events = e ∧
        o.doneAt = none ∧ o.left = if s.my.resume.isSome then 0 else la) ∧
      ∃ x ∈ t.agenda, x.due = s.cycle + latency ∧ x.ev = .longResultReady ∧ x.msg = .longResultReady (s.tk s.cur) s.nextId

/-- R136, R137, Table 5-1: integer division, 40 cycles, with its fixed results. -/
def Obligations.DivisionResults : Prop :=
  ∀ (s s₁ : State) (d a b : Reg) (n : BitVec 4) (x y : Word), fetchSrcs [a, b] s = .ok [x, y] s₁ →
    exec (.div d a b n) s = .next (issueLong d n.toNat 40
      (if y = 0 then 2 ^ 64 - 1 else if x = wordI (-2 ^ 63) ∧ y = wordI (-1) then 2 ^ 63 else (wordI (x.toInt.tdiv y.toInt)).toNat) {} s₁) ∧
    exec (.divu d a b n) s = .next (issueLong d n.toNat 40 (if y = 0 then 2 ^ 64 - 1 else x.toNat / y.toNat) {} s₁) ∧
    exec (.rem d a b n) s = .next (issueLong d n.toNat 40
      (if y = 0 then x.toNat else if x = wordI (-2 ^ 63) ∧ y = wordI (-1) then 0 else (wordI (x.toInt.tmod y.toInt)).toNat) {} s₁) ∧
    exec (.remu d a b n) s = .next (issueLong d n.toNat 40 (if y = 0 then x.toNat else x.toNat % y.toNat) {} s₁)

/-- R145 to R147: branches, jumps and LOOP. -/
def Obligations.BranchTargets : Prop :=
  (∀ (s s₁ : State) (a b : Reg) (o : BitVec 16) (x y : Word), fetchSrcs [a, b] s = .ok [x, y] s₁ →
    let tgt := s₁.my.pc + wordI (4 * o.toInt)
    exec (.beq a b o) s = .next (s₁.goTo (if x = y then tgt else s₁.my.pc + 4)) ∧
    exec (.bne a b o) s = .next (s₁.goTo (if x ≠ y then tgt else s₁.my.pc + 4)) ∧
    exec (.blt a b o) s = .next (s₁.goTo (if x.toInt < y.toInt then tgt else s₁.my.pc + 4)) ∧
    exec (.bge a b o) s = .next (s₁.goTo (if y.toInt ≤ x.toInt then tgt else s₁.my.pc + 4)) ∧
    exec (.bltu a b o) s = .next (s₁.goTo (if x.toNat < y.toNat then tgt else s₁.my.pc + 4)) ∧
    exec (.bgeu a b o) s = .next (s₁.goTo (if y.toNat ≤ x.toNat then tgt else s₁.my.pc + 4))) ∧
  (∀ (s : State) (o : BitVec 26), exec (.jmp o) s = .next (s.goTo (s.my.pc + wordI (4 * o.toInt)))) ∧
  (∀ (s s₁ : State) (a : Reg) (x : Word), fetchSrcs [a] s = .ok [x] s₁ →
    exec (.jr a) s = .next (s₁.goTo (word (x.toNat % 2 ^ 57 / 4 * 4)))) ∧
  (∀ (s s₁ u : State) (a : Reg) (o : BitVec 16) (x : Word), fetchSrcs [a] s = .ok [x] s₁ →
    s₁.writeDest s₁.cur 4 a (x - 1) = some u →
    exec (.loop a o) s = .next (u.goTo (if x = 1 then u.my.pc + 4 else u.my.pc + wordI (4 * o.toInt))))

/-- Where an instruction goes on, and what going on leaves alone. -/
def Obligations.GoingOnChangesOnlyTheTask : Prop :=
  ∀ (s : State) (pc : Word), GoesOn s (s.goTo pc) pc ∧ OnlyMySlot s (s.goTo pc) ∧ SameButIssue (s.goTo pc).my s.my ∧
    (∀ r, (s.goTo pc).my.sreg r = s.my.sreg r) ∧ ((s.goTo pc).slot s.cur).st = (s.slot s.cur).st ∧
    ((s.goTo pc).slot s.cur).evq = (s.slot s.cur).evq

/-- R149 to R151, R153, R154: CALL pushes a window whose s8 to s11 are the caller's s12 to s15 and leaves the return address in the caller's
s15; RET pops it, the callee's s8 and s9 becoming the caller's s12 and s13. With four windows on chip a CALL, and with one a RET,
takes the task's next two turns for the move; a window struck by an uncorrectable error that is so moved is an uncontained error
of its core (R154). -/
def Obligations.CallAndRetMoveWindows : Prop :=
  (∀ (s : State) (o : BitVec 26), s.isLight s.cur = false → 1 + s.my.callers.length + 1 ≤ s.my.depth →
    ∃ t, exec (.call o) s = .next t ∧ GoesOn s t (s.my.pc + wordI (4 * o.toInt)) ∧
      MovesWindow s t (s.my.onChip = 4) (1 + s.my.callers.length + 1 - s.my.onChip) ∧
      (∀ k, k < 8 → t.my.sreg k = s.my.sreg k) ∧
      (∀ k, k < 4 → t.my.sreg (8 + k) = s.my.sreg (12 + k)) ∧ (∀ k, 4 ≤ k → k < 8 → t.my.sreg (8 + k) = 0) ∧
      (∃ w, t.my.callers = w :: s.my.callers ∧ w.length = 8 ∧ (∀ k, k < 7 → w[k]? = some (s.my.sreg (8 + k))) ∧
        w[7]? = some (s.my.pc + 4)) ∧
      ((t.slot s.cur).st = .parked ∧ t.my.wait = some (.window 2) ∧ t.my.onChip = 4 ∨
        s.my.onChip ≠ 4 ∧ (t.slot s.cur).st = (s.slot s.cur).st ∧ t.my.onChip = s.my.onChip + 1)) ∧
  (∀ (s s₁ : State) (a : Reg) (x : Word), fetchSrcs [a] s = .ok [x] s₁ → s.isLight s.cur = false →
    1 + s.my.callers.length + 1 ≤ s.my.depth → exec (.callr a) s = .next (doCall (word (x.toNat % 2 ^ 57 / 4 * 4)) s₁)) ∧
  (∀ (s : State) (w : Window) (r : List Window), s.isLight s.cur = false → s.my.callers = w :: r → w.length = 8 →
    ∃ t, exec .ret s = .next t ∧ GoesOn s t (word ((w.getD 7 0).toNat % 2 ^ 57 / 4 * 4)) ∧
      MovesWindow s t (s.my.onChip = 1) s.my.callers.length ∧
      t.my.callers = r ∧ (∀ k, k < 8 → t.my.sreg k = s.my.sreg k) ∧
      (∀ k, k < 8 → t.my.sreg (8 + k) = if k = 4 then s.my.sreg 8 else if k = 5 then s.my.sreg 9 else w.getD k 0) ∧
      ((t.slot s.cur).st = .parked ∧ t.my.wait = some (.window 2) ∧ s.my.onChip = 1 ∨
        s.my.onChip ≠ 1 ∧ (t.slot s.cur).st = (s.slot s.cur).st))

/-- R26: a CALL beyond the declared depth, and a RET with no caller window, park the slot with their fault records; the
task is as it was before. They do not issue, and their turn is idle (R17). -/
def Obligations.WindowLimitsPark : Prop :=
  (∀ (s : State) (o : BitVec 26), s.isLight s.cur = false → s.my.depth < 1 + s.my.callers.length + 1 →
    exec (.call o) s = .next (s.noIssue 0x44 0 0 3)) ∧
  (∀ (s : State) (a : Reg), s.isLight s.cur = false → s.my.depth < 1 + s.my.callers.length + 1 →
    exec (.callr a) s = .next (s.noIssue 0x44 0 0 3)) ∧
  (∀ s : State, s.isLight s.cur = false → s.my.callers = [] → exec .ret s = .next (s.noIssue 0x45 0 0 3)) ∧
  (∀ (s : State) (cause sub addr acc : Nat), ∃ t, s.noIssue cause sub addr acc = t ∧ t = (s.supFault s.cur cause sub addr acc).waitTurn ∧
    t.slots = (s.supFault s.cur cause sub addr acc).slots ∧ t.mem = s.mem ∧ t.hub = s.hub ∧
    (∀ c, c ≠ posCore s.cur → t.core c = s.core c) ∧
    (∀ x ∈ (s.supFault s.cur cause sub addr acc).agenda, x ∈ t.agenda)) ∧
  ∀ (s : State) (cause sub addr acc arg : Nat), ∃ t, s.supFault s.cur cause sub addr acc arg = t ∧
    (t.slot s.cur).st = .parked ∧ t.my = { s.my with wait := some .fault } ∧ t.mem = s.mem ∧ t.cores = s.cores ∧
    (∀ p, p ≠ s.cur → t.slot p = s.slot p) ∧
    (∃ r, (t.slot s.cur).pending? = some r ∧ r.cause = cause ∧ r.sub = sub ∧ r.pc = s.my.pc.toNat ∧ r.addr = addr ∧ r.arg = arg ∧
      r.slot = s.cur ∧ r.behalf = false) ∧
    ∃ x ∈ t.agenda, x.ev = .faultRecordDelivery ∧ x.due = s.cycle + hubTravel (posCore s.cur)

namespace Sys2Proof.Machine

/-- The slot is parked for `w`; its task and all of memory are as before but for the wait. -/
def ParksFor (s t : State) (w : Wait) : Prop :=
  t.cur = s.cur ∧ (t.slot s.cur).st = .parked ∧ t.my = { s.my with wait := some w } ∧ t.mem = s.mem ∧ t.cores = s.cores
    ∧ ∀ p, p ≠ s.cur → t.slot p = s.slot p

/-- An event stands on the agenda. -/
def Due (t : State) (due : Nat) (ev : Instr) (m : Msg) : Prop := ∃ x ∈ t.agenda, x.due = due ∧ x.ev = ev ∧ x.msg = m

/-- An address is aligned, resolves to a place, its core's own port holds nothing back before it, and it meets no earlier access of its
task that it must wait for. -/
def Reaches (s : State) (va n : Nat) (write : Bool) (p : Place) (t : State) : Prop :=
  va % n = 0 ∧ s.resolve va write = .ok p t ∧ t.portHeld p = false ∧
    t.my.mustWait t.cycle write [p.units t.my.space n, virtualUnits t.my.space va n] = false

/-- A word of `n` bytes at `off` of the current core's own scratchpad window: a pinned page of its task's space keeps it at location `loc`. -/
def ownPlace (s : State) (off loc : Nat) : Place := { scratch := true, owner := posCore s.cur, off := off, loc := loc, world := s.my.world }

/-- An address is aligned and names such a word, which no uncorrectable error has struck, the core's port holds nothing back, and it meets
no earlier access of its task that it must wait for. -/
def OwnWord (s : State) (va n : Nat) (write : Bool) (off loc : Nat) : Prop :=
  va % n = 0 ∧ classify (posCore s.cur) va = .scratch (posCore s.cur) off ∧ s.bankLoc (posCore s.cur) s.my.space off = some loc ∧
    s.scratchErr loc n = false ∧ s.portHeld (ownPlace s off loc) = false ∧
    s.my.mustWait s.cycle write [(ownPlace s off loc).units s.my.space n, virtualUnits s.my.space va n] = false

/-- A release part goes ahead at once (R323): the task's accesses have completed, and no entry of its hand is sealed so far back that the
release would drain first. -/
def ReleaseGoes (s : State) : Prop :=
  s.my.accessesDone s.cycle = true ∧
    ∀ e ∈ s.my.hand, e.sealNo = 0 ∨ (nextRelease s.my.relCount + 65536 - e.sealNo) % 65536 < 32768

/-- The current task waits in its slot under `w` with its registers and its pc as before; no other slot has changed. -/
def WaitsIn (s t : State) (w : Wait) : Prop :=
  t.cur = s.cur ∧ t.waitsFor (s.tk s.cur) w = true ∧ t.my.regs = s.my.regs ∧ t.my.pc = s.my.pc ∧ ∀ p, p ≠ s.cur → t.slot p = s.slot p

/-- The place is in the requester's own scratchpad. -/
def Local (s : State) (p : Place) : Prop := p.scratch = true ∧ p.owner = posCore s.cur

/-- The address A + off × size of a member with a 10-bit offset (Table 3-8). -/
def offsetAddress (x : Word) (o : BitVec 10) (n : Nat) : Nat := (x + wordI (o.toInt * n)).toNat

/-- A value and events that one rounding of an exact result gives (R139, R143): its bits, and the operation's and the rounding's flags. -/
def RoundsTo (f : Format) (mode : Mode) (r : Val × Flags) (v : Nat) (e : Events) : Prop :=
  v = (roundTo f mode false r.1).1 ∧ e.flags = r.2 ||| (roundTo f mode false r.1).2

/-- A class L result of the current task that stands outstanding without its value. -/
def AwaitsResult (s t : State) (d : Reg) (la : Nat) : Prop :=
  ∃ o, t.my.outst.getLast? = some o ∧ o.id = s.nextId ∧ o.pc = s.my.pc ∧ o.dest = some d ∧ o.doneAt = none ∧ o.fault = none ∧
    o.left = if s.my.resume.isSome then 0 else la

end Sys2Proof.Machine

/-- R138, R139, R142, R143: the floating members complete with one rounding of the exact result, under the rounding field or RMODE;
FP32 operands are bits [31:0]. -/
def Obligations.FloatingResults : Prop :=
  ∀ (s s₁ : State) (d a b : Reg) (m : BitVec 3) (x y : Word), fetchSrcs [a, b] s = .ok [x, y] s₁ →
    ∀ (p : BitVec 1),
      let f := if p = 0 then Format.fp64 else Format.fp32
      let v (w : Word) := decodeVal f (if p = 0 then w.toNat else w.toNat % 2 ^ 32)
      let mode := if m = 0 then Mode.ofRmode (s₁.my.cr 0x16) else Mode.ofRmode (m.toNat - 1)
      (∃ r e, RoundsTo f mode (Val.add mode (v x) (v y)) r e ∧ exec (.fadd d a b m p) s = .next (finishFloat d r e s₁)) ∧
      (∃ r e, RoundsTo f mode (Val.add mode (v x) (v y).negate) r e ∧ exec (.fsub d a b m p) s = .next (finishFloat d r e s₁)) ∧
      (∃ r e, RoundsTo f mode (Val.mul (v x) (v y)) r e ∧ exec (.fmul d a b m p) s = .next (finishFloat d r e s₁)) ∧
      (∀ n : BitVec 4, ∃ r e, RoundsTo f mode (Val.div (v x) (v y)) r e ∧
        exec (.fdiv d a b m p n) s = .next (issueLong d n.toNat (if p = 0 then 36 else 24) r e s₁))

/-- R126, R139, R142: FFMA reads d as its addend; FSQRT is class L; FCVT by kind. -/
def Obligations.FusedRootAndConversions : Prop :=
  (∀ (s s₁ : State) (d a b : Reg) (m : BitVec 3) (p : BitVec 1) (x y z : Word), fetchSrcs [a, b, d] s = .ok [x, y, z] s₁ →
    let f := if p = 0 then Format.fp64 else Format.fp32
    let v (w : Word) := decodeVal f (if p = 0 then w.toNat else w.toNat % 2 ^ 32)
    let mode := if m = 0 then Mode.ofRmode (s₁.my.cr 0x16) else Mode.ofRmode (m.toNat - 1)
    ∃ r e, RoundsTo f mode (Val.fma mode (v x) (v y) (v z)) r e ∧ exec (.ffma d a b m p) s = .next (finishFloat d r e s₁)) ∧
  (∀ (s s₁ : State) (d a : Reg) (m : BitVec 3) (p : BitVec 1) (n : BitVec 4) (x : Word), fetchSrcs [a] s = .ok [x] s₁ →
    let f := if p = 0 then Format.fp64 else Format.fp32
    let v := decodeVal f (if p = 0 then x.toNat else x.toNat % 2 ^ 32)
    let mode := if m = 0 then Mode.ofRmode (s₁.my.cr 0x16) else Mode.ofRmode (m.toNat - 1)
    ∃ r e, RoundsTo f mode (Val.sqrt v) r e ∧
      exec (.fsqrt d a m p n) s = .next (issueLong d n.toNat (if p = 0 then 40 else 28) r e s₁)) ∧
  (∀ (s s₁ : State) (d a : Reg) (k : BitVec 5) (m : BitVec 3) (p : BitVec 1) (x : Word), fetchSrcs [a] s = .ok [x] s₁ →
    let f := if p = 0 then Format.fp64 else Format.fp32
    let g := if p = 0 then Format.fp32 else Format.fp64
    let v := decodeVal f (if p = 0 then x.toNat else x.toNat % 2 ^ 32)
    let mode := if m = 0 then Mode.ofRmode (s₁.my.cr 0x16) else Mode.ofRmode (m.toNat - 1)
    ∃ r e, exec (.fcvt d a k m p) s = .next (finishFloat d r e s₁) ∧
      (k = 1 → RoundsTo g mode (v, 0) r e) ∧
      (k = 2 → r = (wordI (toInt 64 mode v).1).toNat ∧ e.flags = (toInt 64 mode v).2) ∧
      (k = 4 → r = (wordI (toInt 32 mode v).1).toNat ∧ e.flags = (toInt 32 mode v).2) ∧
      (k = 3 → RoundsTo f mode (.ofInt x.toInt, 0) r e) ∧ (k = 5 → RoundsTo f mode (.ofInt (x.extractLsb' 0 32).toInt, 0) r e))

/-- R140, R141: FMIN and FMAX give one of their operands, or the quiet NaN when both are NaN; FCMP gives 1 or 0, and a NaN operand
meets condition 3 alone. -/
def Obligations.FloatingSelections : Prop :=
  ∀ (s s₁ : State) (d a b : Reg) (p : BitVec 1) (x y : Word), fetchSrcs [a, b] s = .ok [x, y] s₁ →
    let f := if p = 0 then Format.fp64 else Format.fp32
    let w (x : Word) := if p = 0 then x.toNat else x.toNat % 2 ^ 32
    let nan (x : Word) := (decodeVal f (w x)).isNan
    let zero (x : Word) := (decodeVal f (w x)).isZero
    let neg (x : Word) := (decodeVal f (w x)).neg?
    (∃ r e, exec (.fmin d a b p) s = .next (finishFloat d r e s₁) ∧ e.flags = 0 ∧
      (nan x = true → nan y = true → r = f.nanBits) ∧ (nan x = true → nan y = false → r = w y) ∧ (nan x = false → nan y = true → r = w x) ∧
      (nan x = false → nan y = false → (r = w x ∨ r = w y) ∧
        (Val.cmp (decodeVal f (w x)) (decodeVal f (w y)) = .lt → r = w x) ∧ (Val.cmp (decodeVal f (w x)) (decodeVal f (w y)) = .gt → r = w y) ∧
        (zero x = true → zero y = true → neg x ≠ neg y → r = if neg x then w x else w y))) ∧
    (∃ r e, exec (.fmax d a b p) s = .next (finishFloat d r e s₁) ∧ e.flags = 0 ∧
      (nan x = true → nan y = true → r = f.nanBits) ∧ (nan x = true → nan y = false → r = w y) ∧ (nan x = false → nan y = true → r = w x) ∧
      (nan x = false → nan y = false → (r = w x ∨ r = w y) ∧
        (Val.cmp (decodeVal f (w x)) (decodeVal f (w y)) = .lt → r = w y) ∧ (Val.cmp (decodeVal f (w x)) (decodeVal f (w y)) = .gt → r = w x) ∧
        (zero x = true → zero y = true → neg x ≠ neg y → r = if neg x then w y else w x))) ∧
    (∀ c : BitVec 2, ∃ r e, exec (.fcmp d a b c p) s = .next (finishFloat d r e s₁) ∧ e.flags = 0 ∧
      (nan x = true ∨ nan y = true → r = if c = 3 then 1 else 0) ∧
      (nan x = false → nan y = false →
        let o := Val.cmp (decodeVal f (w x)) (decodeVal f (w y))
        r = if (c = 0 ∧ o = .eq) ∨ (c = 1 ∧ o = .lt) ∨ (c = 2 ∧ o ≠ .gt) then 1 else 0))

/-- R121, R124, R143: the end of a class S floating member that writes an s register: the result, EXC with its flags gathered, and
the trap after it when an enabled flag is raised, at the boundary, where no handler runs and no result is outstanding. -/
def Obligations.FloatingEndGathersFlagsAndTraps : Prop :=
  ∀ (s : State) (d : Reg) (v : Nat) (e : Events), d.toNat < 16 → s.isLight s.cur = false → s.my.resume = none →
    ∃ t, finishFloat d v e s = t ∧ t.mem = s.mem ∧ t.cores = s.cores ∧ (∀ p, p ≠ s.cur → t.slot p = s.slot p) ∧
      (∀ r, t.my.sreg r = if r = d.toNat ∧ r ≠ 0 then word v else s.my.sreg r) ∧
      t.my.cr 0x20 = (s.my.cr 0x20 ||| e.flags.toNat) ∧ t.my.cr 0x28 = min (2 ^ 32 - 1) (s.my.cr 0x28 + e.nan) ∧
      (e.flags &&& s.my.xen = 0 → t.my.pc = s.my.pc + 4 ∧ t.my.inTrap = s.my.inTrap) ∧
      (e.flags &&& s.my.xen ≠ 0 → s.my.inTrap = false → s.my.cr 1 ≠ 0 → s.my.traps = [] → s.my.outst = [] → (s.slot s.cur).st = .ready →
        t.my.pc = word (s.my.cr 1) ∧ t.my.cr 2 = (s.my.pc + 4).toNat ∧ t.my.cr 3 = 3 ∧ t.my.cr 4 = s.my.pc.toNat ∧ t.my.inTrap = true)

/-- R42, R458, R404: taking a task-level trap: TRAPPC, TRAPCAUSE and TRAPVAL are written, STATUS.INTRAP is set with every other STATUS bit
kept, and the task goes on at TRAPVEC in a later cycle; nothing else of the task changes. A trap while a handler runs, or with TRAPVEC 0, or on a light slot,
goes to the steward and changes no trap register. -/
def Obligations.TrapEntrySavesAndGoesOnOrEscalates : Prop :=
  ∀ (s : State) (p : Pos) (tr : Trap) (pc : Option Word),
    ((s.task p).inTrap = false → (s.task p).cr 1 ≠ 0 → s.isLight p = false →
      ∃ t, s.trapEntry p tr pc = t ∧ t = { s with slots := t.slots } ∧ (∀ q, q ≠ p → t.slot q = s.slot q) ∧
        (t.task p).pc = word ((s.task p).cr 1) ∧ (t.task p).cr 2 = (s.task p).pc.toNat ∧
        (t.task p).cr 3 = (tr.cause + 256 * tr.sub + 65536 * tr.deferred.toNat) % 2 ^ 64 ∧ (t.task p).cr 4 = tr.val % 2 ^ 64 ∧
        (t.task p).inTrap = true ∧ (∀ k, k ≠ 2 → bit ((t.task p).cr 0) k = bit ((s.task p).cr 0) k) ∧
        (∀ c, c ≠ 0 → c ≠ 2 → c ≠ 3 → c ≠ 4 → (t.task p).cr c = (s.task p).cr c) ∧
        (t.task p).regs = (s.task p).regs ∧ (t.task p).callers = (s.task p).callers ∧ (t.slot p).st = (s.slot p).st ∧
        s.cycle < (t.slot p).notBefore) ∧
    ((s.task p).inTrap = true → s.trapEntry p tr pc = s.supFault p 0x47 0 0 3 tr.cause pc) ∧
    ((s.task p).inTrap = false → (s.task p).cr 1 = 0 ∨ s.isLight p = true → s.trapEntry p tr pc = s.supFault p 0x48 0 0 3 tr.cause pc)

/-- R246, Table 19-2: a misaligned load, store, ordered or full/empty access is the format fault of SUB 1 with the address in TRAPVAL, before
anything else of it happens. -/
def Obligations.MisalignedAccessesTrap : Prop :=
  (∀ (s s₁ : State) (d a : Reg) (o : BitVec 10) (x : Word), fetchSrcs [a] s = .ok [x] s₁ →
    (∀ (z : BitVec 2) (n : BitVec 4), let va := offsetAddress x o (2 ^ z.toNat)
      va % 2 ^ z.toNat ≠ 0 →
      exec (.ld d a o z n) s = .next (s₁.formatFaultAt 1 va) ∧ exec (.lds d a o z n) s = .next (s₁.formatFaultAt 1 va)) ∧
    (∀ z : BitVec 1, let n := if z = 0 then 4 else 8
      let va := offsetAddress x o n
      va % n ≠ 0 →
      (∀ sc, exec (.lda d a o z sc) s = .next (s₁.formatFaultAt 1 va)) ∧
      exec (.ldfe d a o z) s = .next (s₁.formatFaultAt 1 va) ∧ exec (.ldf d a o z) s = .next (s₁.formatFaultAt 1 va) ∧
      exec (.feq d a o z) s = .next (s₁.formatFaultAt 1 va))) ∧
  (∀ (s s₁ : State) (v a : Reg) (o : BitVec 10) (x y : Word), fetchSrcs [a, v] s = .ok [x, y] s₁ →
    (∀ z : BitVec 2, let va := offsetAddress x o (2 ^ z.toNat)
      va % 2 ^ z.toNat ≠ 0 →
      exec (.st v a o z) s = .next (s₁.formatFaultAt 1 va) ∧ exec (.stp v a o z) s = .next (s₁.formatFaultAt 1 va)) ∧
    (∀ z : BitVec 1, let n := if z = 0 then 4 else 8
      let va := offsetAddress x o n
      va % n ≠ 0 →
      (∀ sc, exec (.stl v a o z sc) s = .next (s₁.formatFaultAt 1 va)) ∧
      exec (.stfe v a o z) s = .next (s₁.formatFaultAt 1 va) ∧ exec (.stf v a o z) s = .next (s₁.formatFaultAt 1 va) ∧
      exec (.feset v a o z) s = .next (s₁.formatFaultAt 1 va)))

/-- R45, R257, R315: a load from the requester's own scratchpad goes on at once; its result is the bytes there, lowest address first,
zero- or sign-extended, and is there ten cycles after issue. Nothing of memory changes. -/
def Obligations.LocalLoadsReadTheirBytes : Prop :=
  ∀ (s s₁ s₂ : State) (d a b : Reg) (o : BitVec 10) (z : BitVec 2) (la : BitVec 4) (x y : Word) (p : Place),
    let n := 2 ^ z.toNat
    let holds (i : Instr) (va : Nat) (sg : Bool) : Prop :=
      Reaches s₁ va n false p s₂ → Local s₂ p → s₂.scratchErr p.loc n = false → s₂.recordAt p.loc = none →
      (s₂.slot s₂.cur).st = .ready →
      ∃ t v, exec i s = .next t ∧ GoesOn s₂ t (s₂.my.pc + 4) ∧ t.mem = s₂.mem ∧ t.cores = s₂.cores ∧
        (∀ r, t.my.sreg r = s₂.my.sreg r) ∧ (∀ q, q ≠ s₂.cur → t.slot q = s₂.slot q) ∧
        v = ofBytes (s₂.mem.bytes.bytes p.loc n) ∧
        (∃ r, t.my.outst.getLast? = some r ∧ r.dest = some d ∧ r.id = s₂.nextId ∧ (r.fault.isSome = (s₂.poisoned p.loc || (s₂.core (posCore s₂.cur)).fenced)) ∧
          r.value = if sg then (wordI (signed (8 * n) v)).toNat else v % 2 ^ (8 * n)) ∧
        Due t (s₂.cycle + 10) .longResultReady (.longResultReady (s₂.tk s₂.cur) s₂.nextId)
    (fetchSrcs [a] s = .ok [x] s₁ →
      holds (.ld d a o z la) (offsetAddress x o n) false ∧ holds (.lds d a o z la) (offsetAddress x o n) true) ∧
    (fetchSrcs [a, b] s = .ok [x, y] s₁ → holds (.ldx d a b z la) (x + y * BitVec.ofNat 64 n).toNat false)

/-- R247, R257, R315: a load from anywhere else goes on at once with its result outstanding, and its request leaves for the ordering
point, or through the vcaches of its space. -/
def Obligations.OtherLoadsLeaveAtIssue : Prop :=
  ∀ (s s₁ s₂ : State) (d a b : Reg) (o : BitVec 10) (z : BitVec 2) (la : BitVec 4) (x y : Word) (p : Place),
    let n := 2 ^ z.toNat
    let holds (i : Instr) (va : Nat) (sg : Bool) : Prop :=
      Reaches s₁ va n false p s₂ → s₂.migrates p = false → ¬ Local s₂ p →
      ∃ u, GoesOn s₂ u (s₂.my.pc + 4) ∧ u.mem = s₂.mem ∧ u.cores = s₂.cores ∧ u.agenda = s₂.agenda ∧ AwaitsResult s₂ u d la.toNat ∧
        (∀ q, q ≠ s₂.cur → u.slot q = s₂.slot q) ∧
        (∃ w, u.my.pend.getLast? = some w ∧ w.id = s₂.nextId ∧ w.write = false ∧ w.doneAt = none) ∧
        (p.scratch = true ∨ p.sync = true → ∃ r : PortReq, r.id = s₂.nextId ∧ r.va = va ∧ r.size = n ∧ r.op = .load sg ∧ r.dest = some d ∧
          r.core = posCore s₂.cur ∧ r.start = s₂.cycle + p.late ∧ exec i s = .next (u.sendReq r.start r)) ∧
        (p.scratch = false → p.sync = false → ∃ c : Acc, c.id = s₂.nextId ∧ c.va = va ∧ c.size = n ∧ c.write = false ∧ c.signed = sg ∧
          c.line = p.loc / 128 ∧ c.off = p.loc % 128 ∧ c.start = s₂.cycle + p.late ∧ exec i s = .next (u.startAcc c))
    (fetchSrcs [a] s = .ok [x] s₁ →
      holds (.ld d a o z la) (offsetAddress x o n) false ∧ holds (.lds d a o z la) (offsetAddress x o n) true) ∧
    (fetchSrcs [a, b] s = .ok [x, y] s₁ → holds (.ldx d a b z la) (x + y * BitVec.ofNat 64 n).toNat false)

/-- R257, R315: a store to the requester's own scratchpad, where no full/empty member waits: exactly the stored bytes change, lowest
address first, every other byte of memory reads as before, and the task goes on. -/
def Obligations.LocalStoresWriteTheirBytes : Prop :=
  ∀ (s s₁ s₂ : State) (v a b : Reg) (o : BitVec 10) (z : BitVec 2) (x y w : Word) (p : Place),
    let n := 2 ^ z.toNat
    let holds (i : Instr) (va val : Nat) : Prop :=
      Reaches s₁ va n true p s₂ → Local s₂ p → s₂.mem.bytes.wf = true → s₂.mem.feWait = [] →
      s₂.my.fenceRel = none →
      ∃ t, exec i s = .next t ∧ GoesOn s₂ t (s₂.my.pc + 4) ∧ t.mem.bytes.wf = true ∧
        (∀ k, k < n → (t.mem.bytes.byteAt (p.loc + k)).toNat = val / 2 ^ (8 * k) % 256) ∧
        (∀ q, q < p.loc ∨ p.loc + n ≤ q → t.mem.bytes.byteAt q = s₂.mem.bytes.byteAt q) ∧
        (∀ r, t.my.sreg r = s₂.my.sreg r) ∧ (∀ q, q ≠ s₂.cur → t.slot q = s₂.slot q)
    (fetchSrcs [a, v] s = .ok [x, y] s₁ → holds (.st v a o z) (offsetAddress x o n) y.toNat) ∧
    (fetchSrcs [a, b, v] s = .ok [x, y, w] s₁ → holds (.stx v a b z) (x + y * BitVec.ofNat 64 n).toNat w.toNat)

/-- R258, R259, R332: a store to another place goes on at once; its bytes leave for their ordering point, with the record of an earlier
FENCE `.rel`, or through the vcaches, and the access stays pending. -/
def Obligations.OtherStoresLeaveAtIssue : Prop :=
  ∀ (s s₁ s₂ : State) (v a b : Reg) (o : BitVec 10) (z : BitVec 2) (x y w : Word) (p : Place),
    let n := 2 ^ z.toNat
    let holds (i : Instr) (va val : Nat) : Prop :=
      Reaches s₁ va n true p s₂ → s₂.migrates p = false → ¬ Local s₂ p → (p.posted = true → p.scratch = true) →
      (p.scratch = true ∨ p.sync = true → ∃ (r : PortReq) (u : State), r.va = va ∧ r.size = n ∧
          r.op = .store (val % 2 ^ (8 * n)) (s₂.takeFence s₂.cur).1 ∧
          r.core = posCore s₂.cur ∧ r.id = s₂.nextId ∧ r.start = s₂.cycle + p.late ∧
          u = (({ s₂ with nextId := s₂.nextId + 1 } : State).takeFence s₂.cur).2 ∧
          exec i s = .next (((u.sendReq r.start r).setMy fun t =>
            t.addPend { id := s₂.nextId, write := true, ranges := [p.units s₂.my.space n], ackOnly := p.scratch }).advance)) ∧
      (p.scratch = false → p.sync = false → ∃ (c : Acc) (u : State), c.va = va ∧ c.size = n ∧ c.write = true ∧ c.data = val % 2 ^ (8 * n) ∧
          c.line = p.loc / 128 ∧ c.off = p.loc % 128 ∧ c.id = s₂.nextId ∧ u = { s₂ with nextId := s₂.nextId + 1 } ∧
          exec i s = .next (((u.startAcc c).setMy fun t =>
            t.addPend { id := s₂.nextId, write := true, ranges := [p.units s₂.my.space n], ackOnly := false }).advance))
    (fetchSrcs [a, v] s = .ok [x, y] s₁ → holds (.st v a o z) (offsetAddress x o n) y.toNat) ∧
    (fetchSrcs [a, b, v] s = .ok [x, y, w] s₁ → holds (.stx v a b z) (x + y * BitVec.ofNat 64 n).toNat w.toNat)

/-- R259, R289, R310, R332, Table 19-2: STP to a scratchpad is the format fault of SUB 3; elsewhere its bytes, and those of a plain store
in a posted region, leave as a posted write, the task goes on and waits for no answer but WACK's. The task's own copies of the line go
at issue; while that would write into a vcache under reconfiguration the store waits in its turn. -/
def Obligations.PostedStores : Prop :=
  ∀ (s s₁ s₂ : State) (v a b : Reg) (o : BitVec 10) (z : BitVec 2) (x y w : Word) (p : Place),
    let n := 2 ^ z.toNat
    let holds (i : Instr) (va val : Nat) (posted : Prop) : Prop :=
      Reaches s₁ va n true p s₂ → (∀ c k, classify (posCore s₁.cur) va ≠ .scratch c k) → s₂.migrates p = false → p.scratch = false → posted →
      let own := if p.sync then [] else s₂.chain s₂.my.space (posCore s₂.cur) p.vc
      (liftStuck s₂ (p.loc / 128) 9 own = true → exec i s = .next s₂.waitTurn) ∧
      (liftStuck s₂ (p.loc / 128) 9 own = false →
        ∃ (r : PortReq) (u : State), r.va = va ∧ r.size = n ∧ r.id = u.nextId - 1 ∧ r.start = u.cycle + p.late ∧
          (∃ f, r.op = .posted (val % 2 ^ (8 * n)) f ∧ (p.sync = false → f = none) ∧ (p.sync = true → f = (s₂.takeFence s₂.cur).1)) ∧
          (own = [] → p.sync = false → u = { s₂ with nextId := s₂.nextId + 1 }) ∧
          (p.sync = true → u = (({ s₂ with nextId := s₂.nextId + 1 } : State).takeFence s₂.cur).2) ∧
          exec i s = .next (((u.sendReq r.start r).setMy fun t =>
            t.addPend { id := r.id, write := true, ranges := [p.units s₂.my.space n], ackOnly := true }).advance))
    (fetchSrcs [a, v] s = .ok [x, y] s₁ →
      (offsetAddress x o n % n = 0 → (∃ c k, classify (posCore s₁.cur) (offsetAddress x o n) = .scratch c k) →
        exec (.stp v a o z) s = .next (s₁.formatFaultAt 3 (offsetAddress x o n))) ∧
      holds (.stp v a o z) (offsetAddress x o n) y.toNat True ∧ holds (.st v a o z) (offsetAddress x o n) y.toNat (p.posted = true)) ∧
    (fetchSrcs [a, b, v] s = .ok [x, y, w] s₁ → holds (.stx v a b z) (x + y * BitVec.ofNat 64 n).toNat w.toNat (p.posted = true))

/-- R261, R262: LDA and STL wait at their instruction; the request goes to its ordering point with its scope. An address that is
neither a scratchpad's nor sync-class is the format fault of SUB 2. -/
def Obligations.OrderedAccessesWait : Prop :=
  (∀ (s s₁ s₂ : State) (d a : Reg) (o : BitVec 10) (z : BitVec 1) (sc : BitVec 3) (x : Word) (p : Place), fetchSrcs [a] s = .ok [x] s₁ →
    let n := if z = 0 then 4 else 8
    let va := offsetAddress x o n
    Reaches s₁ va n false p s₂ → s₂.migrates p = false →
      (p.scratch = false → p.sync = false → exec (.lda d a o z sc) s = .next (s₂.formatFaultAt 2 va)) ∧
      (p.scratch = true ∨ p.sync = true → ∃ (u : State) (r : PortReq), ParksFor s₂ u (.blocking s₂.nextId) ∧ r.op = .lda sc.toNat ∧ r.va = va ∧
        r.size = n ∧ r.dest = some d ∧ r.id = s₂.nextId ∧ exec (.lda d a o z sc) s = .next (u.sendReq r.start r))) ∧
  (∀ (s s₁ s₂ : State) (v a : Reg) (o : BitVec 10) (z : BitVec 1) (sc : BitVec 3) (x y : Word) (p : Place),
    fetchSrcs [a, v] s = .ok [x, y] s₁ →
    let n := if z = 0 then 4 else 8
    let va := offsetAddress x o n
    Reaches s₁ va n true p s₂ → s₂.migrates p = false →
      (p.scratch = false → p.sync = false → exec (.stl v a o z sc) s = .next (s₂.formatFaultAt 2 va)) ∧
      (p.scratch = true ∨ p.sync = true → s₂.my.accessesDone s₂.cycle = true → ∃ (u : State) (r : PortReq) (rec_ : Record),
        ParksFor (s₂.sealHand s₂.cur).2 u (.blocking (s₂.sealHand s₂.cur).2.nextId) ∧
        r.op = .stl (y.toNat % 2 ^ (8 * n)) rec_ ∧ rec_.num = nextRelease s₂.my.relCount ∧ rec_.scope = sc.toNat ∧ r.va = va ∧ r.size = n ∧
        exec (.stl v a o z sc) s = .next (u.sendReq r.start r)))

/-- R323: a release takes the next number and seals with it every open entry of the hand, when no seal lies 32768 or more back. -/
def Obligations.ReleaseSealsTheHand : Prop :=
  ∀ (s : State) (p : Pos), ∃ t, s.sealHand p = (nextRelease (s.task p).relCount, t) ∧
    ((∀ e ∈ (s.task p).hand, e.sealNo = 0 ∨ (nextRelease (s.task p).relCount + 65536 - e.sealNo) % 65536 < 32768) →
      t = { s with slots := t.slots } ∧ (∀ q, q ≠ p → t.slot q = s.slot q) ∧
      (t.task p).relCount = nextRelease (s.task p).relCount ∧
      (∀ e ∈ (t.task p).hand, e.sealNo ≠ 0) ∧ (t.task p).hand.map (·.region) = (s.task p).hand.map (·.region) ∧
      (t.task p).pc = (s.task p).pc ∧ (t.task p).regs = (s.task p).regs) ∧
    1 ≤ nextRelease (s.task p).relCount ∧ nextRelease (s.task p).relCount < 65536

/-- R251, R277, Table 8-3: the full/empty members wait at their instruction while their request is at its owner's port; a global
address is the format fault of SUB 4. -/
def Obligations.FullEmptyMembersWait : Prop :=
  ∀ (s s₁ s₂ : State) (r a : Reg) (o : BitVec 10) (z : BitVec 1) (x y : Word) (p : Place),
    let n := if z = 0 then 4 else 8
    let va := offsetAddress x o n
    let holds (i : Instr) (write : Bool) (op : PortOp) : Prop :=
      (va % n = 0 → (∃ g, classify (posCore s₁.cur) va = .global g) → exec i s = .next (s₁.formatFaultAt 4 va)) ∧
      (Reaches s₁ va n write p s₂ → p.scratch = true → (∃ c k, classify (posCore s₁.cur) va = .scratch c k) → s₂.my.fenceRel = none →
        ∃ (u : State) (q : PortReq), ParksFor s₂ u (.fullEmpty s₂.nextId) ∧ q.op = op ∧ q.va = va ∧ q.size = n ∧ q.id = s₂.nextId ∧
          q.core = posCore s₂.cur ∧
          exec i s = .next (if p.owner = posCore s₂.cur then u.feArrive q p.loc else u.sendReq q.start q))
    (fetchSrcs [a] s = .ok [x] s₁ →
      holds (.ldfe r a o z) true .ldfe ∧ holds (.ldf r a o z) false .ldf ∧ holds (.feq r a o z) false .feq) ∧
    (fetchSrcs [a, r] s = .ok [x, y] s₁ →
      holds (.stfe r a o z) true (.stfe (y.toNat % 2 ^ (8 * n)) none) ∧ holds (.stf r a o z) true (.stf (y.toNat % 2 ^ (8 * n)) none) ∧
      holds (.feset r a o z) true (.feset y.toNat))

/-- Table 8-3: LDFE and LDF act when every word is full, STFE when every word is empty, STF, FEQ and FESET at once; one that cannot
act waits at the word, in order of arrival. -/
def Obligations.FullEmptyConditions : Prop :=
  ∀ (s : State) (r : PortReq) (loc : Nat), (r.size = 4 ∨ r.size = 8) →
    let full (k : Nat) : Prop := loc / 4 + k ∉ s.mem.empties
    (r.op = .ldfe ∨ r.op = .ldf → (s.feReady r loc = true ↔ full 0 ∧ (r.size = 8 → full 1))) ∧
    (∀ v c, r.op = .stfe v c → (s.feReady r loc = true ↔ ¬ full 0 ∧ (r.size = 8 → ¬ full 1))) ∧
    (∀ v c, r.op = .stf v c → s.feReady r loc = true) ∧ (r.op = .feq → s.feReady r loc = true) ∧
    (∀ v, r.op = .feset v → s.feReady r loc = true) ∧
    (s.feReady r loc = false → r.core = r.owner → ∃ t, s.feArrive r loc = t ∧
      -- one that has waited already, for the retirement of a record, keeps its place
      t.mem.feWait = (if r.waited then r :: s.mem.feWait else s.mem.feWait ++ [{ r with waited := true }]) ∧ t.mem.bytes = s.mem.bytes ∧ t.mem.empties = s.mem.empties ∧
      t.slots = s.slots)

/-- R263, R264, R266, R310, R323: a read-modify-write and HOLD ask their ordering point for the word's reservation and wait for it; one
with a release part has sealed the hand. At a location that is not sync-class an ordering suffix is the format fault of SUB 2, and the
task's own copies go home first. -/
def Obligations.ReadModifyWritesAskForTheWord : Prop :=
  -- a free word of the core's own scratchpad, registers that read plainly: the word is reserved and read at once; ten cycles later it is
  -- there, and four cycles after that d has it and the new word is on its way to the bank
  (∀ (s : State) (d a b : Reg) (sc : BitVec 3) (r : BitVec 2) (z : BitVec 1) (off loc : Nat),
    let n := if z = 0 then 4 else 8
    let va := (regValue s a).toNat
    let low (r : Reg) : Nat := (regValue s r).toNat % 2 ^ (8 * n)
    let completes (i : Instr) (op xv cv : Nat) : Prop :=
      OwnWord s va n (op != 12) off loc → s.mem.resv.look (loc / 8) = none → (bit r.toNat 1 = true → ReleaseGoes s) →
      ∃ (t : State) (q : PortReq) (m : Rmw), exec i s = .next t ∧ WaitsIn s t (.grant s.nextId) ∧ t.mem.bytes = s.mem.bytes ∧
        t.mem.resv.look (loc / 8) = some { t := s.tk s.cur, id := s.nextId, hold := op == 12, since := s.cycle, queue := [] } ∧
        Due t (s.cycle + 10) .reservationGrant (.reservationGrant q (s.bytesAt loc n) (s.recordAt loc)
          (s.poisoned loc || (s.core (posCore s.cur)).fenced)) ∧
        q.op = .reserve m ∧ q.t = s.tk s.cur ∧ q.id = s.nextId ∧ q.dest = some d ∧ q.va = va ∧ q.size = n ∧
        m.op = op ∧ m.x = xv ∧ m.c = cv ∧ m.acq = bit r.toNat 0 ∧ m.rel = bit r.toNat 1 ∧ m.scope = sc.toNat ∧
        ∀ (u : State) (old : Nat) (rec? : Option Record), u.msg = .reservationGrant q old rec? false → u.waitsFor q.t (.grant q.id) = true →
          r = 0 → ∃ v, exec .reservationGrant u = .next v ∧
            (op ≠ 12 → ∃ tr, Due v (u.cycle + 4) .classBCompletion (.classBCompletion q.t q.id ⟨some d, amoResult op n old, tr, none⟩) ∧
              Due v (u.cycle + 4) .remoteAccessArrival (.remoteAccessArrival
                { q with op := .release (amoNew op n old xv cv).1 m, start := u.cycle + 4 })) ∧
            (op = 12 → (v.task q.t.pos).held = some ⟨va, n⟩ ∧
              Due v (u.cycle + 4) .classBCompletion (.classBCompletion q.t q.id ⟨some d, extend true n old, none, none⟩))
    (PlainReg s a → PlainReg s b →
      completes (.amoadd d a b sc r z) 0 (low b) 0 ∧ completes (.amoand d a b sc r z) 1 (low b) 0 ∧ completes (.amoor d a b sc r z) 2 (low b) 0 ∧
      completes (.amoxor d a b sc r z) 3 (low b) 0 ∧ completes (.amomin d a b sc r z) 4 (low b) 0 ∧ completes (.amomax d a b sc r z) 5 (low b) 0 ∧
      completes (.amominu d a b sc r z) 6 (low b) 0 ∧ completes (.amomaxu d a b sc r z) 7 (low b) 0 ∧
      completes (.amoswap d a b sc r z) 8 (low b) 0 ∧ completes (.amofadd d a b sc r z) 10 (low b) 0) ∧
    (PlainReg s a → PlainReg s b → PlainReg s d → completes (.amocas d a b sc r z) 9 (low b) (low d)) ∧
    (PlainReg s a → s.my.held = none → completes (.hold d a sc r z) 12 0 0)) ∧
  -- any place
  ∀ (s s₁ s₂ : State) (d a b : Reg) (sc : BitVec 3) (r : BitVec 2) (z : BitVec 1) (x y w : Word) (p : Place),
    let n := if z = 0 then 4 else 8
    let va := x.toNat
    let holds (i : Instr) (op xv cv : Nat) : Prop :=
      Reaches s₁ va n (op != 12) p s₂ → s₂.migrates p = false → (bit r.toNat 1 = true → s₂.my.accessesDone s₂.cycle = true) →
      let s₃ := if bit r.toNat 1 then (s₂.sealHand s₂.cur).2 else s₂
      (p.scratch = true ∨ p.sync = true →
        ∃ (u : State) (q : PortReq) (m : Rmw), ParksFor s₃ u (.grant s₃.nextId) ∧ q.op = .reserve m ∧ q.va = va ∧ q.size = n ∧
          q.id = s₃.nextId ∧ q.dest = some d ∧ m.op = op ∧ m.x = xv ∧ m.c = cv ∧ m.acq = bit r.toNat 0 ∧ m.rel = bit r.toNat 1 ∧
          m.scope = sc.toNat ∧ (bit r.toNat 1 = true → m.num = nextRelease s₂.my.relCount) ∧
          exec i s = .next (if p.scratch = true ∧ p.owner = posCore s₃.cur then u.applyReq q p.loc else u.sendReq q.start q)) ∧
      (p.scratch = false → p.sync = false →
        (r ≠ 0 → exec i s = .next (s₂.formatFaultAt 2 va)) ∧
        (r = 0 → liftStuck s₂ (p.loc / 128) 9 (s₂.chain s₂.my.space (posCore s₂.cur) p.vc) = false →
          ∃ (u : State) (q : PortReq) (m : Rmw), q.op = .reserve m ∧ q.va = va ∧ q.size = n ∧ q.dest = some d ∧ m.op = op ∧
            m.x = xv ∧ m.c = cv ∧ m.acq = false ∧ m.rel = false ∧ (u.slot u.cur).st = .parked ∧ u.my.wait = some (.grant q.id) ∧
            exec i s = .next (u.sendReq q.start q)))
    (fetchSrcs [a, b] s = .ok [x, y] s₁ →
      let v := y.toNat % 2 ^ (8 * n)
      holds (.amoadd d a b sc r z) 0 v 0 ∧ holds (.amoand d a b sc r z) 1 v 0 ∧ holds (.amoor d a b sc r z) 2 v 0 ∧
      holds (.amoxor d a b sc r z) 3 v 0 ∧ holds (.amomin d a b sc r z) 4 v 0 ∧ holds (.amomax d a b sc r z) 5 v 0 ∧
      holds (.amominu d a b sc r z) 6 v 0 ∧ holds (.amomaxu d a b sc r z) 7 v 0 ∧ holds (.amoswap d a b sc r z) 8 v 0 ∧
      holds (.amofadd d a b sc r z) 10 v 0) ∧
    (fetchSrcs [a, b, d] s = .ok [x, y, w] s₁ → holds (.amocas d a b sc r z) 9 (y.toNat % 2 ^ (8 * n)) (w.toNat % 2 ^ (8 * n))) ∧
    (fetchSrcs [a] s = .ok [x] s₁ → s₁.my.held = none → holds (.hold d a sc r z) 12 0 0)

/-- R264, Table 8-11: the word each operation leaves, and what d receives: the old word, sign-extended. -/
def Obligations.AtomicOperationsTable : Prop :=
  ∀ (n old x c : Nat), (n = 4 ∨ n = 8) → old < 2 ^ (8 * n) → x < 2 ^ (8 * n) →
    (amoNew 0 n old x c).1 = some ((old + x) % 2 ^ (8 * n)) ∧
    (∃ v, (amoNew 1 n old x c).1 = some v ∧ ∀ k, v.testBit k = (old.testBit k && x.testBit k)) ∧
    (∃ v, (amoNew 2 n old x c).1 = some v ∧ ∀ k, v.testBit k = (old.testBit k || x.testBit k)) ∧
    (∃ v, (amoNew 3 n old x c).1 = some v ∧ ∀ k, v.testBit k = (old.testBit k != x.testBit k)) ∧
    (∃ v, (amoNew 4 n old x c).1 = some v ∧ signed (8 * n) v = min (signed (8 * n) old) (signed (8 * n) x)) ∧
    (∃ v, (amoNew 5 n old x c).1 = some v ∧ signed (8 * n) v = max (signed (8 * n) old) (signed (8 * n) x)) ∧
    (amoNew 6 n old x c).1 = some (min old x) ∧ (amoNew 7 n old x c).1 = some (max old x) ∧ (amoNew 8 n old x c).1 = some x ∧
    (amoNew 9 n old x c).1 = (if old = c then some x else none) ∧
    (∀ op, op < 10 → (wordI (signed (8 * n) old)).toNat = amoResult op n old)

/-- R266: PASS writes the held word, frees it, and waits for that; without the reservation it is the format fault of SUB 6. HOLD
while one is held is the format fault of SUB 5. -/
def Obligations.PassAndHoldChecks : Prop :=
  -- the word held is in the core's own scratchpad, nothing waits for it, and a release part finds room for its record: the word is written
  -- and free at once, and the task goes on ten cycles later
  (∀ (s : State) (a b : Reg) (sc : BitVec 3) (r : BitVec 2) (z : BitVec 1) (off loc : Nat) (x : Resv), PlainReg s a → PlainReg s b →
    let n := if z = 0 then 4 else 8
    let va := (regValue s a).toNat
    OwnWord s va n true off loc → s.my.held = some { loc := va, size := n } → s.mem.resv.look (loc / 8) = some x → x.t = s.tk s.cur → x.hold = true →
    x.queue = [] → s.mem.feWait = [] → s.mem.bytes.wf = true →
    (bit r.toNat 1 = true → ReleaseGoes s ∧ s.recordAt loc = none ∧ s.displaced loc = none) →
    ∃ t, exec (.pass a b sc r z) s = .next t ∧ (t.slot s.cur).st = .parked ∧ t.my.wait = some (.blocking s.nextId) ∧ t.my.held = none ∧
      t.my.regs = s.my.regs ∧ t.my.pc = s.my.pc ∧ t.bytesAt loc n = (regValue s b).toNat % 2 ^ (8 * n) ∧
      (∀ c, c < loc ∨ loc + n ≤ c → t.mem.bytes.byteAt c = s.mem.bytes.byteAt c) ∧ t.mem.resv.look (loc / 8) = none ∧
      Due t (s.cycle + 10) .classBCompletion (.classBCompletion (s.tk s.cur) s.nextId ⟨none, 0, none, none⟩)) ∧
  (∀ (s s₁ s₂ : State) (a b : Reg) (sc : BitVec 3) (z : BitVec 1) (x y : Word) (p : Place), fetchSrcs [a, b] s = .ok [x, y] s₁ →
    let n := if z = 0 then 4 else 8
    let va := x.toNat
    (va % n = 0 → s₁.my.held ≠ some { loc := va, size := n } → ∀ r, exec (.pass a b sc r z) s = .next (s₁.formatFaultAt 6 va)) ∧
    (∀ r, Reaches s₁ va n true p s₂ → s₂.migrates p = false → s₁.my.held = some { loc := va, size := n } → s₁.holds (s₁.tk s₁.cur) = true →
      (r ≠ 0 → p.scratch = true ∨ p.sync = true) → (bit r.toNat 1 = true → s₂.my.accessesDone s₂.cycle = true) →
      let s₃ := if bit r.toNat 1 then (s₂.sealHand s₂.cur).2 else s₂
      ∃ (u : State) (q : PortReq) (m : Rmw), q.op = .release (some (y.toNat % 2 ^ (8 * n))) m ∧ m.op = 13 ∧ m.rel = bit r.toNat 1 ∧
        q.va = va ∧ q.size = n ∧ q.id = s₃.nextId ∧ 
        u.my = { s₃.my with wait := some (.blocking s₃.nextId), held := none, pend := if p.scratch || p.sync then s₃.my.pend else
          s₃.my.pend ++ [{ id := s₃.nextId, write := true, ranges := [p.units s₃.my.space n], ackOnly := false }] } ∧
        (u.slot s₃.cur).st = .parked ∧ u.mem = s₃.mem ∧
        exec (.pass a b sc r z) s = .next (if p.scratch = true ∧ p.owner = posCore s₃.cur then u.applyReq q p.loc else u.sendReq q.start q))) ∧
  (∀ (s s₁ : State) (d a : Reg) (sc : BitVec 3) (r : BitVec 2) (z : BitVec 1) (x : Word), fetchSrcs [a] s = .ok [x] s₁ →
    s₁.my.held.isSome = true → exec (.hold d a sc r z) s = .next (s₁.formatFaultAt 5 x.toNat))

/-- R268 to R272, R277: fences, WACK, DISCARD, CLEAN and INVAL wait at their instruction, and the cycle in which each looks or
completes. R332: the store of its task that follows a FENCE `.rel` carries that release's record, with the number and the drain count of
the release, and uses it up. -/
def Obligations.FencesWait : Prop :=
  (∀ (s : State) (p : Pos), (s.task p).fenceRel = none → s.takeFence p = (none, s)) ∧
  (∀ (s : State) (p : Pos) (num scope drain : Nat), (s.task p).fenceRel = some (num, scope, drain) →
    ∃ r t, s.takeFence p = (some r, t) ∧ r.num = num ∧ r.scope = scope ∧ r.drain = drain ∧ r.pos = p ∧ r.serial = (s.slot p).serial ∧
      (t.task p).fenceRel = none ∧ t = { s with slots := t.slots } ∧ (∀ q, q ≠ p → t.slot q = s.slot q) ∧
      (t.task p).regs = (s.task p).regs ∧ (t.task p).pc = (s.task p).pc ∧ (t.task p).hand = (s.task p).hand) ∧
  (∀ (s : State) (sc : BitVec 3) (k : BitVec 2), ∃ t u, u = (s.setMy fun t => { t with fenceRel := none }) ∧ exec (.fence sc k) s = .next t ∧
    ParksFor u t (.blocking s.nextId) ∧ Due t s.cycle .classBCompletion (.fenceWait (s.tk s.cur) s.nextId sc.toNat k.toNat)) ∧
  (∀ (s : State) (sc : BitVec 3), ∃ t, exec (.scfence sc) s = .next t ∧ ParksFor s t (.blocking s.nextId) ∧
    Due t s.cycle .classBCompletion (.scfenceWait (s.tk s.cur) s.nextId sc.toNat)) ∧
  (∀ s : State, ∃ t, exec .wack s = .next t ∧ ParksFor s t (.blocking s.nextId) ∧
    ((∀ a ∈ s.my.pend, a.ackOnly = true → a.doneAt ≠ none) → Due t (s.cycle + 4) .classBCompletion
      (.classBCompletion (s.tk s.cur) s.nextId { dest := none, value := 0, trap := none, fault := none })) ∧
    (¬ (∀ a ∈ s.my.pend, a.ackOnly = true → a.doneAt ≠ none) → Due t s.cycle .classBCompletion (.wackWait (s.tk s.cur) s.nextId))) ∧
  (∀ (s s₁ : State) (a : Reg) (x : Word), fetchSrcs [a] s = .ok [x] s₁ →
    (x.toNat = 0 ∨ 4096 ≤ x.toNat → exec (.discard a) s = .next (s₁.formatFault 0)) ∧
    (0 < x.toNat → x.toNat < 4096 → ∃ t n, exec (.discard a) s = .next t ∧ (t.slot s₁.cur).st = .parked ∧
      t.my.wait = some (.blocking s₁.nextId) ∧ t.mem.bytes = s₁.mem.bytes ∧
      Due t (s₁.cycle + 400 + n) .classBCompletion
        (.classBCompletion (s₁.tk s₁.cur) s₁.nextId { dest := none, value := 0, trap := none, fault := none }) ∧
      (∀ e ∈ t.mem.vsets, e.1 / 65536 / 1024 / 64 = s₁.my.space → ∀ y ∈ e.2, y.tensor ≠ x.toNat))) ∧
  (∀ (s s₁ : State) (a b : Reg) (sc : BitVec 3) (x y : Word), fetchSrcs [a, b] s = .ok [x, y] s₁ → y = 0 →
    ∃ t, exec (.clean a b sc) s = .next t ∧ exec (.inval a b sc) s = .next t ∧ ParksFor s₁ t (.blocking s₁.nextId) ∧
      Due t (s₁.cycle + 4) .classBCompletion
        (.classBCompletion (s₁.tk s₁.cur) s₁.nextId { dest := none, value := 0, trap := none, fault := none })) ∧
  (∀ (s s₁ s₂ : State) (a b : Reg) (sc : BitVec 3) (x y : Word) (ps : List (Nat × Place)), fetchSrcs [a, b] s = .ok [x, y] s₁ →
    0 < y.toNat → y.toNat ≤ 2 ^ 32 → x.toNat + y.toNat ≤ 0x1FFF * 2 ^ 44 → placesOf (pagesOf x.toNat y.toNat) s₁ [] = .ok (ps, s₂) →
    s₂.my.mustWait s₂.cycle true (ps.map fun e => (e.2.loc / 128, e.2.loc / 128 + (linesIn e.1 (x.toNat + y.toNat) e.2).length)) = false →
    (∀ e ∈ ps, ∀ l ∈ linesIn e.1 (x.toNat + y.toNat) e.2,
      let c := if e.2.sync then [] else s₂.chain s₂.my.space (posCore s₂.cur) e.2.vc
      liftStuck s₂ l (s₂.below c sc.toNat (posCore s₂.cur)) c = false) →
    (∃ (u : State) (due : Nat), exec (.clean a b sc) s = .next (u.block due { dest := none, value := 0, trap := none, fault := none }) ∧ u.cycle ≤ due) ∧
    (∃ (u : State) (due : Nat), exec (.inval a b sc) s = .next (u.block due { dest := none, value := 0, trap := none, fault := none }) ∧ u.cycle ≤ due))

/-- R273 to R275: PREF never stops a task; WAITA waits at its instruction with its read on the way; WAKE goes on while its wake
travels. -/
def Obligations.PrefetchAndMonitors : Prop :=
  (∀ (s s₁ : State) (a : Reg) (x : Word), fetchSrcs [a] s = .ok [x] s₁ → classify (posCore s₁.cur) x.toNat = .bad →
    exec (.pref a) s = .next s₁.advance) ∧
  (∀ (s s₁ : State) (a : Reg) (x : Word) (g : Nat), fetchSrcs [a] s = .ok [x] s₁ → classify (posCore s₁.cur) x.toNat = .global g →
    g % 128 ≠ 0 ∨ s₁.tlbLook (posCore s₁.cur) s₁.my.space (g / 4096) = none → exec (.pref a) s = .next s₁.advance) ∧
  (∀ (s s₁ s₂ : State) (a : Reg) (x : Word) (g late : Nat) (e : Tlb), fetchSrcs [a] s = .ok [x] s₁ →
    classify (posCore s₁.cur) x.toNat = .global g → g % 128 = 0 → s₁.tlbLook (posCore s₁.cur) s₁.my.space (g / 4096) = some (e, late, s₂) →
    let p := s₂.globalPlace s₁.my.space s₂.my.world e late g
    p.world = s₂.secure p.loc → p.sync = false →
    ∃ (u : State) (c : Acc), c.line = p.loc / 128 ∧ c.write = false ∧ c.id = s₂.nextId ∧ u.my.pc = s₂.my.pc ∧ u.mem = s₂.mem ∧
      exec (.pref a) s = .next (u.startAcc c).advance) ∧
  -- WAITA of a word of the core's own scratchpad: it ends with 0 where the word differs from b already, with 2 where the cluster's 64
  -- monitors are taken, and else watches
  (∀ (s : State) (d a b : Reg) (off loc : Nat), PlainReg s a → PlainReg s b → OwnWord s (regValue s a).toNat 8 false off loc → s.poisoned loc = false →
    (s.core (posCore s.cur)).fenced = false →
    let taken := (s.mem.monitors.filter fun m => clusterNo m.core == clusterNo (posCore s.cur)).length
    ∃ t, exec (.waita d a b) s = .next t ∧ WaitsIn s t (.monitor s.nextId) ∧ t.mem.bytes = s.mem.bytes ∧
      (s.bytesAt loc 8 ≠ (regValue s b).toNat → t.mem.monitors = s.mem.monitors ∧
        Due t (s.cycle + 10) .classBCompletion (.classBCompletion (s.tk s.cur) s.nextId ⟨some d, 0, none, none⟩)) ∧
      (s.bytesAt loc 8 = (regValue s b).toNat → 64 ≤ taken → t.mem.monitors = s.mem.monitors ∧
        Due t (s.cycle + 10) .classBCompletion (.classBCompletion (s.tk s.cur) s.nextId ⟨some d, 2, none, none⟩)) ∧
      (s.bytesAt loc 8 = (regValue s b).toNat → taken < 64 → t.mem.monitors = s.mem.monitors ++
        [{ t := s.tk s.cur, id := s.nextId, core := posCore s.cur, loc := loc, expected := (regValue s b).toNat, point := posCore s.cur, dest := d }])) ∧
  (∀ (s s₁ s₂ : State) (d a b : Reg) (x y : Word) (p : Place), fetchSrcs [a, b] s = .ok [x, y] s₁ → Reaches s₁ x.toNat 8 false p s₂ →
    s₂.migrates p = false → p.scratch = true ∨ p.sync = true →
    ∃ (u : State) (q : PortReq), ParksFor s₂ u (.monitor s₂.nextId) ∧ q.op = .watch y.toNat ∧ q.va = x.toNat ∧ q.dest = some d ∧
      exec (.waita d a b) s = .next (if p.scratch = true ∧ p.owner = posCore s₂.cur then u.applyReq q p.loc else u.sendReq q.start q)) ∧
  (∀ (s s₁ s₂ : State) (d a b : Reg) (x y : Word) (p : Place), fetchSrcs [a, b] s = .ok [x, y] s₁ → Reaches s₁ x.toNat 8 false p s₂ →
    s₂.migrates p = false → p.scratch = false → p.sync = false →
    -- the task's own bytes go to the ordering point first
    liftStuck s₂ (p.loc / 128) 9 (s₂.chain s₂.my.space (posCore s₂.cur) p.vc) = false →
    ∃ (u : State) (q : PortReq), (u.slot u.cur).st = .parked ∧ u.my.wait = some (.monitor q.id) ∧ q.op = .watch y.toNat ∧ q.va = x.toNat ∧
      q.dest = some d ∧ exec (.waita d a b) s = .next (u.sendReq q.start q)) ∧
  (∀ (s s₁ s₂ : State) (a : Reg) (x : Word) (p : Place), fetchSrcs [a] s = .ok [x] s₁ → s₁.resolve x.toNat false = .ok p s₂ →
    ∃ t n, 1 ≤ n ∧ exec (.wake a) s = .next t ∧ GoesOn s₂ t (s₂.my.pc + 4) ∧ t.mem = s₂.mem ∧
      Due t (s₂.cycle + n) .monitorWake (.monitorScan p.loc))

/-- R305, R307: a vcache member with acceptable operands waits at its instruction; its request reaches the space's configuration
agent 100 cycles later. A reserved operand is the format fault of SUB 0. -/
def Obligations.VcacheMembersAskTheAgent : Prop :=
  ∀ (s s₁ : State) (d a b : Reg) (x y : Word),
    let holds (i : Instr) (op av bv : Nat) : Prop :=
      (vcReserved op av bv = true → exec i s = .next (s₁.formatFault 0)) ∧
      (vcReserved op av bv = false → ∃ t, exec i s = .next t ∧ ParksFor s₁ t (.reconfig s₁.nextId) ∧
        Due t (s₁.cycle + 100) .configAgentTake (.configArrive s₁.my.space (s₁.tk s₁.cur) s₁.nextId op av bv d s₁.my.world))
    (fetchSrcs [a, b] s = .ok [x, y] s₁ →
      holds (.cdef d a b) 0 x.toNat y.toNat ∧ holds (.cparent d a b) 1 x.toNat y.toNat ∧ holds (.cresize d a b) 2 x.toNat y.toNat ∧
      holds (.cbind d a b) 3 x.toNat y.toNat) ∧
    (fetchSrcs [a] s = .ok [x] s₁ →
      holds (.cunbind d a) 4 x.toNat 0 ∧ holds (.cquery d a) 5 x.toNat 0 ∧ holds (.cdrop d a) 6 x.toNat 0)

namespace Sys2Proof.Machine

/-- A tile register takes a descriptor; nothing else of the task changes but what going on changes. -/
def TakesTile (s t : State) (d : TReg) (v : BitVec 128) : Prop :=
  GoesOn s t (s.my.pc + 4) ∧ OnlyMySlot s t ∧ (∀ r, t.my.sreg r = s.my.sreg r) ∧
    ∀ k, t.my.tile k = if k = d.toNat then v else s.my.tile k

/-- The first access of a run resolves, and no access of the task that is not complete meets the bytes its units touch (R161, R164). -/
def RunMayStart (s s₁ : State) (r : TileRun) : Prop :=
  s.my.resume = none ∧
  (∃ x p, (s.unitSpans (posCore s.cur) s.my.space r 0).head? = some x ∧ s.resolve x.va x.write = .ok p s₁) ∧
  let spans := (List.range r.units).flatMap fun k => s₁.unitSpans (posCore s.cur) s.my.space r k
  ∀ w, s₁.my.mustWait s₁.cycle w
    (s₁.spanUnits (posCore s.cur) s.my.space s.my.world spans w ++ spanVirtual (posCore s.cur) s.my.space spans w) = false

/-- A class L tile instruction has issued: the task goes on, its result stands outstanding, its run is in progress from unit 0 with
what it read at issue, and its first unit is due. No byte has been written; its core's count of sent messages is ahead by what its units
are to write elsewhere. -/
def RunStarts (s t : State) (r : TileRun) (la : Nat) : Prop :=
  GoesOn s t (s.my.pc + 4) ∧ t.mem = s.mem ∧ (∀ c, c ≠ posCore s.cur → t.core c = s.core c) ∧
  (∃ n, (t.core (posCore s.cur)) = { s.core (posCore s.cur) with sent := n }) ∧ (∀ k, t.my.sreg k = s.my.sreg k) ∧ t.my.tiles = s.my.tiles ∧
  (∀ q, q ≠ s.cur → t.slot q = s.slot q) ∧
  (∃ o, t.my.outst.getLast? = some o ∧ o.id = s.nextId ∧ o.pc = s.my.pc ∧ o.dest = none ∧ o.doneAt = none ∧ o.fault = none ∧ o.left = la) ∧
  (∃ b m, s.cycle ≤ b ∧ t.my.runs = s.my.runs ++ [{ r with id := s.nextId, pc := s.my.pc, base := b, moved := m }]) ∧
  ∃ due, s.cycle ≤ due ∧ Due t due .longResultReady (.tileUnit (s.tk s.cur) s.nextId)

/-- What a tile member does once its operands are read: a tile beyond the deal's number is the format fault before anything is read;
formats or shapes that the member does not accept are the format fault; else its run starts. -/
def TileMember (s s₁ : State) (i : Instr) (named : List TReg) (r : TileRun) (la : Nat) : Prop :=
  ((∃ t ∈ named, s.tileCount ≤ t.toNat) → exec i s = .next (s.formatFault 0)) ∧
  ((∀ t ∈ named, t.toNat < s.tileCount) →
    (r.op.checks r.td r.ta r.tb r.tc r.scla = false → exec i s = .next (s₁.formatFault 0)) ∧
    (r.op.checks r.td r.ta r.tb r.tc r.scla = true → ∀ s₂, RunMayStart s₁ s₂ r → ∃ t, exec i s = .next t ∧ RunStarts s₂ t r la))

end Sys2Proof.Machine

/-- R156, R170 to R173: TDEF, TSHAPE, TBASE and TGET. -/
def Obligations.TileDescriptors : Prop :=
  (∀ (s : State) (t : TReg) (r : Reg), s.tileCount ≤ t.toNat →
    exec (.tdef t r) s = .next (s.formatFault 0) ∧ exec (.tshape t r) s = .next (s.formatFault 0) ∧
    exec (.tbase t r) s = .next (s.formatFault 0) ∧ exec (.tgetHalf0 t r) s = .next (s.formatFault 0) ∧
    exec (.tgetHalf1 t r) s = .next (s.formatFault 0)) ∧
  (∀ (s s₁ : State) (t : TReg) (r : Reg) (lo hi : Word), t.toNat < s.tileCount →
    fetchSrcs [r, if r.toNat < 24 then r + 1 else r] s = .ok [lo, hi] s₁ →
    ((Desc.ofBits (hi ++ lo)).wf = true → ∃ u, exec (.tdef t r) s = .next u ∧ TakesTile s₁ u t (hi ++ lo)) ∧
    ((Desc.ofBits (hi ++ lo)).wf = false → exec (.tdef t r) s = .next (s₁.formatFault 0))) ∧
  (∀ (s s₁ : State) (t : TReg) (r : Reg) (x : Word) (v : BitVec 128), t.toNat < s.tileCount → fetchSrcs [r] s = .ok [x] s₁ →
    ((∀ k, k < 128 → v.getLsbD k = if 48 ≤ k ∧ k < 64 then x.getLsbD (k - 48) else (s₁.my.tile t.toNat).getLsbD k) →
      (x.toNat < 2 ^ 16 → (Desc.ofBits v).wf = true → ∃ u, exec (.tshape t r) s = .next u ∧ TakesTile s₁ u t v) ∧
      (2 ^ 16 ≤ x.toNat ∨ (Desc.ofBits v).wf = false → exec (.tshape t r) s = .next (s₁.formatFault 0))) ∧
    ((∀ k, k < 128 → v.getLsbD k = if k < 25 then x.getLsbD k else (s₁.my.tile t.toNat).getLsbD k) →
      (x.toNat < 2 ^ 25 → (Desc.ofBits v).wf = true → ∃ u, exec (.tbase t r) s = .next u ∧ TakesTile s₁ u t v) ∧
      (2 ^ 25 ≤ x.toNat ∨ (Desc.ofBits v).wf = false → exec (.tbase t r) s = .next (s₁.formatFault 0)))) ∧
  (∀ (s : State) (t : TReg) (r : Reg), t.toNat < s.tileCount →
    exec (.tgetHalf0 t r) s = .next (finishShort r ((s.my.tile t.toNat).extractLsb' 0 64) s) ∧
    exec (.tgetHalf1 t r) s = .next (finishShort r ((s.my.tile t.toNat).extractLsb' 64 64) s))

/-- R156 to R161: the class L tile members that name tile registers alone. -/
def Obligations.TileMembersStart : Prop :=
  ∀ (s : State) (d a b c : TReg) (x : BitVec 1) (n : BitVec 4),
    let one (i : Instr) (op : TileOp) (sat : Bool) : Prop := TileMember s s i [d, a] (s.newRun op d a 0 0 0 sat) n.toNat
    let two (i : Instr) (op : TileOp) (sat : Bool) : Prop := TileMember s s i [d, a, b] (s.newRun op d a b 0 0 sat) n.toNat
    let three (i : Instr) (op : TileOp) (sat : Bool) : Prop := TileMember s s i [d, a, b, c] (s.newRun op d a b c 0 sat) n.toNat
    one (.tcpy d a n) .cpy false ∧ one (.ttrans d a n) .trans false ∧
    two (.tadd d a b x n) (.float 0) (x == 1) ∧ two (.tsub d a b x n) (.float 1) (x == 1) ∧ two (.tmul d a b x n) (.float 2) (x == 1) ∧
    three (.tfma d a b c x n) (.float 3) (x == 1) ∧ two (.tdiv d a b x n) (.float 4) (x == 1) ∧ two (.tmax d a b n) (.float 5) false ∧
    two (.tmin d a b n) (.float 6) false ∧ one (.tabs d a n) (.float 7) false ∧ one (.tneg d a n) (.float 8) false ∧
    one (.texp d a x n) (.special 0) (x == 1) ∧ one (.tlog d a x n) (.special 1) (x == 1) ∧ one (.trsq d a x n) (.special 2) (x == 1) ∧
    one (.trcp d a x n) (.special 3) (x == 1) ∧ one (.ttanh d a x n) (.special 4) (x == 1) ∧ one (.terf d a x n) (.special 5) (x == 1) ∧
    two (.tiadd d a b x n) (.int 0) (x == 1) ∧ two (.tisub d a b x n) (.int 1) (x == 1) ∧ two (.timul d a b x n) (.int 2) (x == 1) ∧
    two (.tand d a b n) (.int 3) false ∧ two (.tor d a b n) (.int 4) false ∧ two (.txor d a b n) (.int 5) false ∧
    two (.tshl d a b n) (.int 6) false ∧ two (.tshr d a b n) (.int 7) false ∧
    (∀ k : BitVec 3, two (.tcmp d a b k n) (.cmp k.toNat) false) ∧ three (.tsel d a b c n) .sel false ∧
    one (.trsum d a n) (.reduce 2) false ∧ one (.tcsum d a n) (.reduce 3) false ∧ one (.trmax d a n) (.reduce 4) false ∧
    one (.tcmax d a n) (.reduce 5) false ∧ one (.tsum d a n) (.reduce 6) false ∧
    (∀ r : BitVec 3, one (.tcvt d a r x n) (.cvt r.toNat) (x == 1)) ∧ one (.tpack d a n) .pack false ∧ one (.tunpack d a n) .unpack false

/-- R157, R174 to R180, R188, R196: the members that read an s field: an image address aligned to 4 bytes, or 8 for 64-bit formats;
a parameter block in the task's own window, aligned to 8; or a scalar. -/
def Obligations.TileMembersWithOperandStart : Prop :=
  ∀ (s s₁ : State) (d a : TReg) (r : Reg) (x : Word) (n : BitVec 4) (z : BitVec 1), fetchSrcs [r] s = .ok [x] s₁ →
    let image (i : Instr) (named : List TReg) (op : TileOp) (a : TReg) : Prop :=
      let run := s₁.newRun op d a 0 0 x.toNat false
      (x.toNat % (if run.td.size = 64 then 8 else 4) = 0 → TileMember s s₁ i named run n.toNat) ∧
      (x.toNat % (if run.td.size = 64 then 8 else 4) ≠ 0 → (∀ t ∈ named, t.toNat < s.tileCount) →
        op.checks run.td run.ta run.tb run.tc run.scla = true → exec i s = .next (s₁.formatFaultAt 1 x.toNat))
    let param (i : Instr) (named : List TReg) (op : TileOp) (a : TReg) : Prop :=
      (∀ off, classify (posCore s₁.cur) x.toNat = .scratch (posCore s₁.cur) off → off + 32 ≤ 0x300000 →
        let run := s₁.newRun op d a 0 0 off false
        (off % 8 = 0 → TileMember s s₁ i named run n.toNat) ∧
        (off % 8 ≠ 0 → (∀ t ∈ named, t.toNat < s.tileCount) → op.checks run.td run.ta run.tb run.tc run.scla = true →
          exec i s = .next (s₁.formatFaultAt 1 x.toNat))) ∧
      (paramOff (posCore s₁.cur) x.toNat = none → (∀ t ∈ named, t.toNat < s.tileCount) → exec i s = .next (s₁.formatFaultAt 0 x.toNat))
    let scalar (i : Instr) (named : List TReg) (op : TileOp) (a : TReg) (sat : Bool) : Prop :=
      s₁.tileCount = s.tileCount → TileMember s s₁ i named (s₁.newRun op d a 0 0 x.toNat sat) n.toNat
    image (.tld d r n) [d] .ld d ∧ image (.tst d r n) [d] .st d ∧
    image (.tgath d a r n) [d, a] .gath a ∧ image (.tscat d a r n) [d, a] .scat a ∧
    scalar (.tfill d r n) [d] .fill d false ∧ scalar (.trot d a r n) [d, a] .rot a false ∧
    scalar (.tadds d a r z n) [d, a] (.scalar 0) a (z == 1) ∧ scalar (.tmuls d a r z n) [d, a] (.scalar 1) a (z == 1) ∧
    scalar (.tfmas d a r z n) [d, a] (.scalar 2) a (z == 1) ∧ scalar (.tmaxs d a r n) [d, a] (.scalar 3) a false ∧
    param (.trand d r n) [d] .rand d ∧ param (.tdrop d a r n) [d, a] .drop a

/-- Table 6-1, R160 and the members' own shape rules: what a member accepts. -/
def Obligations.TileFormatsAndShapes : Prop :=
  ∀ (d a b c : Desc) (scla : Nat),
    let float (t : Desc) : Prop := t.fmt ∈ [0, 1, 2, 3]
    let int (t : Desc) : Prop := t.fmt ∈ [8, 9, 10]
    let conforms (t : Desc) : Prop := (t.rows = d.rows ∨ t.rows = 1) ∧ (t.cols = d.cols ∨ t.cols = 1)
    let same (t : Desc) : Prop := t.rows = d.rows ∧ t.cols = d.cols
    (TileOp.ld.checks d a b c scla = true) ∧ (TileOp.st.checks d a b c scla = true) ∧
    (TileOp.gath.checks d a b c scla = true ↔ d.fmt ≠ 7 ∧ d.layout = 0 ∧ a.fmt ∈ [9, 10] ∧ a.rows * a.cols = d.rows) ∧
    (TileOp.scat.checks d a b c scla = true ↔ d.fmt ≠ 7 ∧ d.layout = 0 ∧ a.fmt ∈ [9, 10] ∧ a.rows * a.cols = d.rows) ∧
    (TileOp.cpy.checks d a b c scla = true ↔ a.fmt = d.fmt ∧ same a ∧ (d.fmt = 7 → a.pcols = d.pcols)) ∧
    (TileOp.fill.checks d a b c scla = true ↔ d.fmt ≠ 7) ∧
    (TileOp.trans.checks d a b c scla = true ↔ d.fmt ≠ 7 ∧ a.fmt = d.fmt ∧ d.rows = a.cols ∧ d.cols = a.rows) ∧
    (TileOp.rot.checks d a b c scla = true ↔ d.fmt ≠ 7 ∧ a.fmt = d.fmt ∧ same a) ∧
    (∀ k, k ∈ [0, 1, 2, 4, 5, 6] → ((TileOp.float k).checks d a b c scla = true ↔ float d ∧ float a ∧ float b ∧ conforms a ∧ conforms b)) ∧
    ((TileOp.float 3).checks d a b c scla = true ↔
      float d ∧ float a ∧ float b ∧ float c ∧ conforms a ∧ conforms b ∧ conforms c) ∧
    (∀ k, k ∈ [7, 8] → ((TileOp.float k).checks d a b c scla = true ↔ float d ∧ float a ∧ conforms a)) ∧
    (∀ k, (TileOp.special k).checks d a b c scla = true ↔ d.fmt ∈ [1, 2, 3] ∧ float a ∧ conforms a) ∧
    (∀ k, (TileOp.int k).checks d a b c scla = true ↔ int d ∧ int a ∧ int b ∧ conforms a ∧ conforms b) ∧
    (∀ k, (TileOp.scalar k).checks d a b c scla = true ↔ float d ∧ float a ∧ same a) ∧
    (∀ k, (TileOp.cmp k).checks d a b c scla = true ↔
      int d ∧ (float a ∧ float b ∨ int a ∧ int b) ∧ conforms a ∧ conforms b) ∧
    (TileOp.sel.checks d a b c scla = true ↔
      d.fmt ≠ 7 ∧ a.fmt = d.fmt ∧ b.fmt = d.fmt ∧ int c ∧ conforms a ∧ conforms b ∧ conforms c) ∧
    (∀ k, k ∈ [2, 3, 4, 5, 6] → ((TileOp.reduce k).checks d a b c scla = true ↔ (float d ∧ float a ∨ int d ∧ int a) ∧
      d.rows = (if k = 2 ∨ k = 4 then a.rows else 1) ∧ d.cols = (if k = 3 ∨ k = 5 then a.cols else 1))) ∧
    (TileOp.pack.checks d a b c scla = true ↔ d.fmt = 7 ∧ a.fmt ∈ [0, 1, 2, 3, 4, 5] ∧ same a) ∧
    (TileOp.unpack.checks d a b c scla = true ↔ d.fmt ∈ [0, 1, 2, 3, 4, 5] ∧ a.fmt = 7 ∧ same a) ∧
    (TileOp.rand.checks d a b c scla = true ↔ d.fmt ∈ [1, 9]) ∧
    (TileOp.drop.checks d a b c scla = true ↔ float d ∧ float a ∧ same a)

/-- R120, R162, R183 to R188, Table 6-7: a unit of an elementwise member computes every column of its row from the sources' rows,
with one rounding each, and writes the row whole; contained poison in a source stops it before it writes. -/
def Obligations.TileUnitsComputeRows : Prop :=
  ∀ (s s₁ : State) (p : Pos) (r : TileRun) (i : Nat) (src : List (Desc × List Nat)) (q : Bool),
    s.sourceRows (posCore p) (s.task p).space r.td.cols
      (match r.op with | .scalar 2 => [r.ta, r.td] | .scalar _ => [r.ta] | op => [r.ta, r.tb, r.tc].take op.arity) i = (src, q, s₁) →
    let val (k j : Nat) : Val := decodeVal (elemAt src k j).1 (elemAt src k j).2
    let mode := Mode.ofRmode r.rmode
    let row (e : Nat → Nat) : Prop := ∃ ev, s.tileUnit p r i = .ok ev
      (s₁.putRow p (s.task p).space r.td i ((List.range r.td.cols).map e))
    (q = true → (∃ k, r.op = .float k ∨ r.op = .special k ∨ r.op = .int k ∨ r.op = .scalar k ∨ r.op = .cmp k ∨ r.op = .sel) →
      s.tileUnit p r i = .poison s₁) ∧
    (q = false →
      let rounded (v : Nat → Val × Flags) : Prop := row fun j => (finish r.td.format mode r.sat (v j).1 (v j).2).1
      (r.op = .float 0 → rounded fun j => Val.add mode (val 0 j) (val 1 j)) ∧
      (r.op = .float 1 → rounded fun j => Val.add mode (val 0 j) (val 1 j).negate) ∧
      (r.op = .float 2 → rounded fun j => Val.mul (val 0 j) (val 1 j)) ∧
      (r.op = .float 3 → rounded fun j => Val.fma mode (val 0 j) (val 1 j) (val 2 j)) ∧
      (r.op = .float 4 → rounded fun j => Val.div (val 0 j) (val 1 j)) ∧
      (r.op = .float 8 → rounded fun j => ((val 0 j).negate, 0)) ∧
      (r.op = .scalar 0 → rounded fun j => Val.add mode (val 0 j) (decodeVal .fp64 r.x)) ∧
      (r.op = .scalar 1 → rounded fun j => Val.mul (val 0 j) (decodeVal .fp64 r.x)) ∧
      (r.op = .scalar 2 → rounded fun j => Val.fma mode (val 0 j) (decodeVal .fp64 r.x) (val 1 j)) ∧
      (r.op = .int 0 → r.sat = false → row fun j => (BitVec.ofInt r.td.size (valInt (val 0 j) + valInt (val 1 j))).toNat) ∧
      (r.op = .int 1 → r.sat = false → row fun j => (BitVec.ofInt r.td.size (valInt (val 0 j) - valInt (val 1 j))).toNat) ∧
      (r.op = .int 2 → r.sat = false → row fun j => (BitVec.ofInt r.td.size (valInt (val 0 j) * valInt (val 1 j))).toNat) ∧
      (r.op = .cmp 2 → row fun j =>
        if (val 0 j).isNan = false ∧ (val 1 j).isNan = false ∧ Val.cmp (val 0 j) (val 1 j) = .lt then 1 else 0) ∧
      (r.op = .sel → row fun j => if valInt (val 2 j) ≠ 0 then (elemAt src 0 j).2 else (elemAt src 1 j).2)) ∧
    (r.op = .fill → s.tileUnit p r i = .ok {} (s.putRow p (s.task p).space r.td i (List.replicate r.td.cols (r.x % 2 ^ r.td.size))))

/-- R165, Table 6-3: a tile instruction that stops after `done` units records them in TRES, V telling whether units are left, and
its deferred trap, whose value is its own address; no byte changes. -/
def Obligations.StoppedTileRecordsProgress : Prop :=
  ∀ (s : State) (p : Pos) (r : TileRun) (cause done : Nat) (o : Outst), s.isLight p = false →
    (s.task p).outst.find? (·.id == r.id) = some o → o.events = {} → (∀ x ∈ (s.task p).traps, x.due = false) →
    (s.task p).precise = none →
    ∃ t, s.endRun p r (some (r.trap cause, done)) = t ∧ t.mem = s.mem ∧ t.agenda = s.agenda ∧
      (t.task p).cr 5 = (if done < r.units then 2 ^ 31 else 0) + done % 512 ∧
      -- among the recorded traps it stands in program order, and before all where an ERET runs it
      (∃ l m, (s.task p).traps = l ++ m ∧ (o.resumed = true → l = []) ∧
        (o.resumed = false → (∀ y ∈ l, y.id ≤ r.id) ∧ ∀ y ∈ m.head?, r.id < y.id) ∧ (t.task p).traps = l ++
        [{ trap := { cause := cause, sub := 0, val := r.pc.toNat, deferred := true }, due := false, id := r.id,
           inHandler := (s.task p).inTrap, pc := o.pc }] ++ m) ∧
      (t.task p).runs = (s.task p).runs.filter (fun x => x.id != r.id) ∧ (t.task p).pc = (s.task p).pc ∧
      (∀ q, q ≠ p → t.slot q = s.slot q)

/-- R156, R202, R206, R217, R234 to R237, R239, R244: the class P members: the format fault of a failed check and the poison trap, before
anything changes; else the command enters its slot's queue with what it captures, and the task goes on. A full queue parks. -/
def Obligations.MatrixInstructionsEnterCommands : Prop :=
  ∀ (s : State) (c a b : TReg),
    let holds (i : Instr) (op ta tb : Nat) : Prop :=
      let m := captureCommand s.my (op + 16 * c.toNat + 256 * ta + 4096 * tb) false s.nextId
      let struck : Prop := (s.my.acc c.toNat).pois = true ∧ op ∉ [2, 4, 5]
      (s.my.nAccs ≤ c.toNat → exec i s = .next (s.formatFault 0)) ∧
      (c.toNat < s.my.nAccs → struck → exec i s = .next (s.trapUnissued { cause := 4, sub := 0, val := c.toNat, deferred := false })) ∧
      (c.toNat < s.my.nAccs → ¬ struck → m.passes (posCore s.cur) s.matrixTiles s.my.nAccs = false → exec i s = .next (s.formatFault 0)) ∧
      (c.toNat < s.my.nAccs → ¬ struck → m.passes (posCore s.cur) s.matrixTiles s.my.nAccs = true →
        (∀ w, ({ s.my with pend := s.my.pend.filter fun a => !a.partner }).mustWait s.cycle w
          (if w then (m.ranges (posCore s.cur) s.my.space).2 else (m.ranges (posCore s.cur) s.my.space).1) = false) →
        (8 ≤ s.mySlot.cmds.length ∨ op = 3 ∧ 8 ≤ s.mySlot.comps.length + s.mySlot.compsRes →
          ∃ t, exec i s = .next t ∧ ParksFor s t .matrixFull) ∧
        (s.mySlot.cmds.length < 8 → (op = 3 → s.mySlot.comps.length + s.mySlot.compsRes < 8) →
          ∃ t, exec i s = .next t ∧ GoesOn s t (s.my.pc + 4) ∧ t.mem = s.mem ∧ (∀ r, t.my.sreg r = s.my.sreg r) ∧
            t.my.tiles = s.my.tiles ∧ t.my.accs = s.my.accs ∧ (∀ q, q ≠ s.cur → t.slot q = s.slot q) ∧
            (t.slot s.cur).cmds = s.mySlot.cmds ++ [m] ∧ t.my.joint = s.my.joint + (if op = 3 then 1 else 0) ∧
            (t.slot s.cur).compsRes = s.mySlot.compsRes + (if op = 3 then 1 else 0)))
    holds (.mma c a b) 0 a.toNat b.toNat ∧ holds (.mmat c a b) 1 a.toNat b.toNat ∧ holds (.mmas c a b) 2 a.toNat b.toNat ∧
    (s.my.jointIn = false → exec (.mmaj c a b) s = .next (s.formatFault 11)) ∧
    (s.my.jointIn = true → holds (.mmaj c a b) 3 a.toNat b.toNat) ∧
    holds (.mzero c) 4 0 0 ∧ holds (.mload c a) 5 a.toNat 0 ∧ holds (.mdrain c a) 6 a.toNat 0 ∧ holds (.mchk c) 7 0 0

/-- R238, R239: MSTAT answers 24 cycles after issue; MWAIT, MJOIN and MLEAVE wait for what they name, and complete 4 cycles after issue
where nothing is pending. -/
def Obligations.MatrixSynchronousMembers : Prop :=
  (∀ (s : State) (c : TReg) (d : Reg),
    (s.my.nAccs ≤ c.toNat → exec (.mstat c d) s = .next (s.formatFault 0) ∧ exec (.mwait c) s = .next (s.formatFault 0)) ∧
    (c.toNat < s.my.nAccs →
      (∃ t, exec (.mstat c d) s = .next t ∧ ParksFor s t (.blocking s.nextId) ∧
        Due t (s.cycle + 24) .classBCompletion (.mstat (s.tk s.cur) s.nextId c.toNat d)) ∧
      (s.commandPending s.cur c.toNat s.nextId = true → ∃ t, exec (.mwait c) s = .next t ∧ ParksFor s t (.matrixWait c.toNat s.nextId)) ∧
      (s.commandPending s.cur c.toNat s.nextId = false → ∃ t, exec (.mwait c) s = .next t ∧ ParksFor s t (.blocking s.nextId) ∧
        Due t (s.cycle + 4) .classBCompletion (.classBCompletion (s.tk s.cur) s.nextId
          ⟨none, 0, none, if (s.my.acc c.toNat).pois then some { cause := 4, sub := 0, val := c.toNat, deferred := false } else none⟩)))) ∧
  (∀ (s s₁ : State) (r : Reg) (x : Word),
    (s.isLight s.cur = true → exec (.mjoin r) s = .next (s.formatFault 0)) ∧
    (s.isLight s.cur = false → s.my.jointIn = true → exec (.mjoin r) s = .next (s.formatFault 11)) ∧
    (s.isLight s.cur = false → s.my.jointIn = false → fetchSrcs [r] s = .ok [x] s₁ →
      (256 ≤ x.toNat → exec (.mjoin r) s = .next (s₁.formatFault 0)) ∧
      (x.toNat < 256 → ∃ t, exec (.mjoin r) s = .next t ∧ ParksFor s₁ t (.join x.toNat) ∧
        Due t s₁.cycle .jointGroupForm (.jointForm (quadNo (posCore s₁.cur)))))) ∧
  (∀ s : State,
    (s.my.jointIn = false → exec .mleave s = .next (s.formatFault 11)) ∧
    (s.my.jointIn = true → s.commandPending s.cur 16 s.nextId = true → ∃ t, exec .mleave s = .next t ∧ ParksFor s t (.leave s.nextId)) ∧
    (s.my.jointIn = true → s.commandPending s.cur 16 s.nextId = false → ∃ t, exec .mleave s = .next t ∧ (t.slot s.cur).st = .parked ∧
      t.my = { s.my with jointIn := false, wait := some (.blocking s.nextId) } ∧ t.mem = s.mem ∧ (∀ q, q ≠ s.cur → t.slot q = s.slot q) ∧
      Due t (s.cycle + 4) .classBCompletion (.classBCompletion (s.tk s.cur) s.nextId { dest := none, value := 0, trap := none, fault := none })))

/-- R212, R214: a group of an operation rounds its exact sum to FP32 and adds it to the element with one more rounding, both to nearest
even; elements outside the area keep their values. A base point sets every element to +0. -/
def Obligations.AccumulatorSteps : Prop :=
  (∀ (ac : Accum) (a b : List (List Val)) (i j : Nat),
    let gs := (roundTo .fp32 .rne false (sumVals .rne (((a.getD i []).zip (b.getD j [])).map fun x => (Val.mul x.1 x.2).1)).1).1
    (i < a.length → j < b.length → (ac.group a b).1.elem i j =
      (roundTo .fp32 .rne false (Val.add .rne (decodeVal .fp32 (ac.elem i j)) (decodeVal .fp32 gs)).1).1) ∧
    (a.length ≤ i ∨ b.length ≤ j → (ac.group a b).1.elem i j = ac.elem i j)) ∧
  (∀ (ac : Accum) (i j : Nat), ac.basePoint.elem i j = 0 ∧ ac.basePoint.ops = [] ∧ ac.basePoint.pois = false ∧ ac.basePoint.unret = false)

/-- R203, R215, R227, R229, R237, R241: what the partner's events do. -/
def Obligations.MatrixEvents : Prop :=
  -- a partner at work goes on; an idle one takes the head of the next queue in service order
  (∀ (s u : State) (c : Nat), s.msg = .matrixOpStart c → u = s.modPartner c (fun p => { p with kicked := false }) →
    ((u.partner c).run.isSome = true → exec .matrixOpStart s = .next u) ∧
    (∀ l₁ k l₂ m, (u.partner c).run = none → (u.core c).halted = false → serviceOrder (u.partner c).last = l₁ ++ k :: l₂ → (∀ j ∈ l₁, u.pick c j = .skip) →
      u.pick c k = .take m → (u.slot (mkPos c k)).st = .ready →
      ∃ v : State, exec .matrixOpStart s = .next (v.beginCommand c (mkPos c k) m) ∧ (v.partner c).last = k ∧ v.mem = s.mem ∧
        (v.slot (mkPos c k)).cmds = (s.slot (mkPos c k)).cmds.drop 1 ∧ v.task (mkPos c k) = s.task (mkPos c k))) ∧
  -- a block is accumulated, and the next one starts or the operation ends
  (∀ (s : State) (c : Nat) (r : PRun), s.msg = .matrixBlock c → (s.partner c).run = some r → (s.core c).halted = false → (s.core c).errinj = 0 → s.isAt r.t = true →
    (s.slot r.t.pos).st = .ready → (s.slot r.t.pos).preempt = none → r.cmd.op ≠ 3 → r.skip = false →
    let ac := ((s.task r.t.pos).acc r.cmd.acc).block r.block r.k r.a.vals r.b.vals
    (64 * (r.block + 1) < r.k → ∃ u : State, exec .kBlockComplete s = .next (u.startBlock c s.cycle) ∧ u.mem = s.mem ∧
      (u.task r.t.pos).acc r.cmd.acc = ac.1 ∧ (u.partner c).run = some { r with block := r.block + 1, ovf := r.ovf ++ ac.2 }) ∧
    (r.k ≤ 64 * (r.block + 1) → ∃ t, exec .kBlockComplete s = .next t ∧ t.mem = s.mem ∧ (t.partner c).run = none ∧
      ((t.task r.t.pos).acc r.cmd.acc).rows = ac.1.rows ∧ ((t.task r.t.pos).acc r.cmd.acc).chain = min 65535 (ac.1.chain + 1))) ∧
  -- MZERO's end
  (∀ (s : State) (c : Nat) (r : PRun), s.msg = .matrixPhase c → (s.partner c).run = some r → (s.core c).halted = false → r.cmd.op = 4 → s.isAt r.t = true →
    (s.slot r.t.pos).st = .ready → ∃ t, exec .matrixCommandComplete s = .next t ∧ t.mem = s.mem ∧ (t.partner c).run = none ∧
      ∀ i j, ((t.task r.t.pos).acc r.cmd.acc).elem i j = 0) ∧
  -- a joint operation of 32 members that agree: every piece starts, with its own command
  (∀ (s : State) (q n : Nat) (g : Joint), s.msg = .jointStart q → s.joints.look q = some g → s.jointAtHeads g n = true →
    (∀ t ∈ g.members, (s.partner (posCore t.pos)).run = none) → (g.members.map fun t => posCore t.pos).Nodup →
    (∀ k, k < 4 → ∃ t ∈ g.members, clusterMember (posCore t.pos) = k) →
    (∀ t ∈ g.members, ∀ u ∈ g.members, ∀ x y, (s.slot t.pos).cmds.head? = some x → (s.slot u.pos).cmds.head? = some y →
      x.da.cols = y.da.cols ∧ (clusterMember (posCore t.pos) = clusterMember (posCore u.pos) →
        x.ta = y.ta ∧ x.tb = y.tb ∧ x.fmtA = y.fmtA ∧ x.fmtB = y.fmtB ∧ x.fmtC = y.fmtC ∧ x.sclA = y.sclA ∧ x.sclB = y.sclB ∧ x.scnt = y.scnt)) →
    ∃ v : State, exec .jointOpStart s = .next ((g.members.map fun t => posCore t.pos).foldl (fun s c => s.startBlock c (s.cycle + 49)) v) ∧
      v.mem = s.mem ∧ ∀ t ∈ g.members, ∃ r, (v.partner (posCore t.pos)).run = some r ∧ r.t = t ∧ (s.slot t.pos).cmds.head? = some r.cmd) ∧
  -- a quad without a group, none of whose cores has been granted to a saved one, forms one of the tasks that joined with one tag
  (∀ (s : State) (q tag : Nat), s.msg = .jointForm q → s.quadHeld q = false → (∀ c ∈ quadCores q, (s.joiner c tag).isSome = true) →
    ∃ t g, exec .jointGroupForm s = .next t ∧ t.joints.look q = some g ∧ g.members.length = 32 ∧ g.left = [] ∧ t.mem = s.mem ∧
      ∀ x ∈ g.members, (s.task x.pos).wait = some (.join g.tag) ∧ (t.task x.pos).jointIn = true ∧ (t.task x.pos).joint = 0)

namespace Sys2Proof.Machine

/-- The current slot waits in a class B instruction, and `m` of its task and the wait's name stands on the agenda. -/
def WaitsWith (t : State) (ev : Instr) (m : Tk → Nat → Msg) : Prop :=
  (t.slot t.cur).st = .parked ∧ ∃ id due, t.my.wait = some (.blocking id) ∧ Due t due ev (m (t.tk t.cur) id)

/-- A plain end of a class B instruction that writes `v` to `d`. -/
def ends (d : Reg) (v : Nat) : Finish := { dest := some d, value := v, trap := none, fault := none }

/-- An end without a result. -/
def endsPlain : Finish := { dest := none, value := 0, trap := none, fault := none }

end Sys2Proof.Machine

/-- R372, R378 to R380, R384, R386, R387: QTRY, COORD, QCFG, DEPINIT, DEPDEC and LAUNCH. -/
def Obligations.QueueAndCounterMembers : Prop :=
  (∀ (s : State) (d a : Reg), s.isLight s.cur = false →
    (24 ≤ a.toNat → a.toNat < 28 → exec (.qtry d a) s = .next (finishShort d
      (word (min 255 (s.endpoint s.cur (a.toNat - 24)).inbound.length + 256 * s.channelRoom s.cur (a.toNat - 24)
        + (if s.channelPartner s.cur (a.toNat - 24) = none then 65536 else 0))) s)) ∧
    (a.toNat = 28 → exec (.qtry d a) s = .next (finishShort d
      (word (min 255 s.mySlot.comps.length + 256 * min (8 - s.mySlot.cmds.length) (8 - (s.mySlot.comps.length + s.mySlot.compsRes)))) s)) ∧
    (a.toNat = 29 → exec (.qtry d a) s = .next (finishShort d (word (min 255 s.mySlot.returns.length + 256 * (4 - s.mySlot.mailbox.length))) s)) ∧
    (a.toNat = 30 → exec (.qtry d a) s = .next (finishShort d 0 s)) ∧
    (a.toNat = 31 → posSlot s.cur ≠ 0 → exec (.qtry d a) s = .next (finishShort d
      (word (min 255 s.mySlot.evq.length + 256 * (16 - (s.slot (mkPos (posCore s.cur) 0)).evq.length))) s)) ∧
    (a.toNat = 31 → posSlot s.cur = 0 → exec (.qtry d a) s = .next (finishShort d
      (word (min 255 s.mySlot.evq.length + 256 * (16 - s.myCore.outq.length))) s)) ∧
    (∀ k : BitVec 2, k.toNat < 3 → exec (.coord d k) s = .next (finishShort d (word (s.my.coord.getD k.toNat 0)) s))) ∧
  (∀ (s s₁ : State) (a : Reg) (n : BitVec 2) (x : Word), fetchSrcs [a] s = .ok [x] s₁ →
    (2 ^ 15 ≤ x.toNat → exec (.qcfg a n) s = .next (s₁.formatFault 0)) ∧
    (x.toNat = 2 ^ 14 ∨ (x.toNat < 2 ^ 14 ∧ 1 ≤ x.toNat / 256 % 16 ∧ x.toNat / 256 % 16 ≤ 14) →
      let h := hops (posCore s₁.cur) (coreOf (coreDie (posCore s₁.cur)) 8 8)
      ∃ t, exec (.qcfg a n) s = .next t ∧ ParksFor s₁ t (.blocking s₁.nextId) ∧ Due t (s₁.cycle + 10 + 2 * h) .channelAgentRequest
        (.channelAgent (s₁.tk s₁.cur) s₁.nextId n.toNat x.toNat (s₁.cycle + 20 + 4 * h)))) ∧
  (∀ (s s₁ : State) (a b : Reg) (x y : Word), fetchSrcs [a, b] s = .ok [x, y] s₁ →
    (2 ^ 14 ≤ x.toNat ∨ 2 ^ 16 ≤ y.toNat → exec (.depinit a b) s = .next (s₁.formatFault 0)) ∧
    (x.toNat < 2 ^ 14 → y.toNat < 2 ^ 16 →
      let near := s₁.diePart (x.toNat / 4096) = s₁.diePart (coreDie (posCore s₁.cur))
      ((s₁.hub.counters.get {} x.toNat).owner ≠ some s₁.my.space ∨ ¬near → exec (.depinit a b) s = .next (s₁.formatFault 9)) ∧
      ((s₁.hub.counters.get {} x.toNat).owner = some s₁.my.space → near → ∃ t due, exec (.depinit a b) s = .next t ∧
        ParksFor s₁ t (.blocking s₁.nextId) ∧ s₁.cycle + 10 ≤ due ∧ Due t due .counterRequestArrival (.counterRequest x.toNat false y.toNat)))) ∧
  (∀ (s s₁ : State) (a : Reg) (x : Word), fetchSrcs [a] s = .ok [x] s₁ →
    (2 ^ 14 ≤ x.toNat → exec (.depdec a) s = .next (s₁.formatFault 0)) ∧
    (x.toNat < 2 ^ 14 →
      let near := s₁.diePart (x.toNat / 4096) = s₁.diePart (coreDie (posCore s₁.cur))
      ((s₁.hub.counters.get {} x.toNat).owner ≠ some s₁.my.space ∨ ¬near → exec (.depdec a) s = .next (s₁.formatFault 9)) ∧
      -- the release of a DEPDEC waits in its turn for the task's accesses, and for the end of a reconfiguration
      ((s₁.hub.counters.get {} x.toNat).owner = some s₁.my.space → near → s₁.my.accessesDone s₁.cycle = false ∨ s₁.drainStuck s₁.cur = true →
        exec (.depdec a) s = .next s₁.waitTurn) ∧
      ((s₁.hub.counters.get {} x.toNat).owner = some s₁.my.space → near → s₁.my.accessesDone s₁.cycle = true → s₁.drainStuck s₁.cur = false →
        ∃ t due, exec (.depdec a) s = .next t ∧
        WaitsWith t .classBCompletion (fun k id => .classBCompletion k id endsPlain) ∧ t.my.hand = [] ∧
        Due t due .counterRequestArrival (.counterRequest x.toNat true 0)))) ∧
  (∀ (s s₁ s₂ : State) (d a b : Reg) (x y : Word) (p : Place), fetchSrcs [a, b] s = .ok [x, y] s₁ →
    (x.toNat % 64 ≠ 0 → exec (.launch d a b) s = .next (s₁.formatFaultAt 1 x.toNat)) ∧
    (x.toNat % 64 = 0 → 2 ^ 16 ≤ y.toNat → exec (.launch d a b) s = .next (s₁.formatFault 0)) ∧
    (x.toNat % 64 = 0 → y.toNat < 2 ^ 16 → Reaches s₁ x.toNat 64 false p s₂ → s₂.drainWaits s₂.cur = false →
      ∃ t r q, exec (.launch d a b) s = .next t ∧
      WaitsWith t .classBCompletion fun k id => .launch k id y.toNat r q x.toNat d)) ∧
  (∀ (s : State) (c k : Nat) (v : Nat), s.msg = .counterRequest k false v → s.partHalted (s.diePart (k / 4096)) = false →
    (s.hub.counters.get {} k).held = none → ∃ t, exec .counterRequestArrival s = .next t ∧ (t.hub.counters.get {} k).value = v ∧
      t.slots = s.slots ∧ t.mem = s.mem ∧ t.cores = s.cores ∧ (c ≠ k → t.hub.counters.get {} c = s.hub.counters.get {} c)) ∧
  (∀ (s : State) (c k : Nat) (v : Nat), s.msg = .counterRequest k true v → s.partHalted (s.diePart (k / 4096)) = false →
    (s.hub.counters.get {} k).held = none → ∃ t, exec .counterRequestArrival s = .next t ∧
      (t.hub.counters.get {} k).value = (s.hub.counters.get {} k).value - 1 ∧
      t.slots = s.slots ∧ t.mem = s.mem ∧ t.cores = s.cores ∧ (c ≠ k → t.hub.counters.get {} c = s.hub.counters.get {} c))

/-- R373 to R377, R405, R413, R427: START, REAP, EXIT, SLEEP and SPAWN. -/
def Obligations.TaskLifeMembers : Prop :=
  (∀ (s : State) (a d : Reg), posSlot s.cur ≠ 0 →
    exec (.start a) s = .next (s.noIssue 0x41 3 0 3) ∧ exec (.reap d a) s = .next (s.noIssue 0x41 3 0 3)) ∧
  -- START of a new task of a deal that has started on this core before
  (∀ (s s₁ : State) (a : Reg) (x : Word) (e n k : Nat) (d : ActiveDeal), fetchSrcs [a] s = .ok [x] s₁ → posSlot s.cur = 0 → posSlot s₁.cur = 0 →
    x.toNat = 2 ^ 60 + k * 2 ^ 56 + e * 2 ^ 48 + n → 1 ≤ k → k ≤ 14 → e < 256 → n < 2 ^ 48 → s₁.deal e = some d →
    let p := mkPos (posCore s₁.cur) k
    ((s₁.slot p).st ≠ .empty ∨ s₁.isLight p ≠ d.light ∨ 16 < s₁.accsHeld (posCore s₁.cur) + d.accs →
      exec (.start a) s = .next (s₁.supFault s₁.cur 0x49 0 0 3)) ∧
    ((s₁.slot p).st = .empty → s₁.isLight p = d.light → s₁.accsHeld (posCore s₁.cur) + d.accs ≤ 16 →
      (s₁.core (posCore s₁.cur)).started.contains e = true → d.counted = false →
      ∃ t, exec (.start a) s = .next t ∧ (t.slot p).st = .ready ∧ s₁.cycle + 20 < (t.slot p).notBefore ∧
        (t.task p).pc = word d.pc ∧ (t.task p).sreg 1 = word d.args ∧ (∀ r, 3 ≤ r → (t.task p).sreg r = 0) ∧
        (t.task p).space = d.space ∧ (t.task p).world = d.world ∧ (t.task p).deal = e ∧ (t.task p).index = n ∧ (t.task p).coord = d.coord n ∧
        (t.task p).nTiles = d.tiles ∧ (t.task p).nAccs = d.accs ∧ (t.task p).accs = [] ∧ (∀ r, (t.task p).tile r = BitVec.ofNat 128 (8 * 2 ^ 64)) ∧
        (t.slot s₁.cur).st = .parked ∧ t.mem = s₁.mem ∧
        Due t (s₁.cycle + 20) .classBCompletion (.classBCompletion (s₁.tk s₁.cur) s₁.nextId endsPlain))) ∧
  -- REAP
  (∀ (s s₁ : State) (d a : Reg) (x : Word), fetchSrcs [a] s = .ok [x] s₁ → posSlot s.cur = 0 →
    (x.toNat = 0 ∨ 15 ≤ x.toNat → exec (.reap d a) s = .next (s₁.formatFault 0)) ∧
    (1 ≤ x.toNat → x.toNat ≤ 14 →
      let p := mkPos (posCore s₁.cur) x.toNat
      ((s₁.slot p).st ≠ .exited → ∃ t, exec (.reap d a) s = .next t ∧ ParksFor s₁ t (.blocking s₁.nextId) ∧
        Due t (s₁.cycle + 8) .classBCompletion (.classBCompletion (s₁.tk s₁.cur) s₁.nextId (ends d 0))) ∧
      ((s₁.slot p).st = .exited → ∃ u : State, (u.slot p).st = .empty ∧ u.task p = {} ∧ (u.slot p).ends = (s₁.slot p).ends ∧ u.mem = s₁.mem ∧
        Due u u.cycle .completionRecordWrite (.taskEnded (s₁.task p).deal (s₁.task p).err) ∧
        exec (.reap d a) s = .next ((u.schedule (posCore s₁.cur)).block ((u.schedule (posCore s₁.cur)).cycle + 8)
          (ends d ((2 * 2 ^ 60 + x.toNat * 2 ^ 56 + (s₁.task p).deal * 2 ^ 48 + (s₁.task p).index % 2 ^ 48) % 2 ^ 64)))))) ∧
  -- EXIT
  (∀ s : State, ∃ t, exec .exit s = .next t ∧
    ((s.park s.cur .exiting).quiet s.cur = false ∨ (s.park s.cur .exiting).drainWaits s.cur = true →
      ParksFor s t .exiting ∧ Due t (s.cycle + 1) .exitEventPush (.exitWait (s.tk s.cur))) ∧
    ((s.park s.cur .exiting).quiet s.cur = true → (s.park s.cur .exiting).drainWaits s.cur = false → ∃ due, Due t due .exitEventPush (.exitPush (s.tk s.cur) none))) ∧
  -- SLEEP
  (∀ (s s₁ : State) (a : Reg) (x : Word), fetchSrcs [a] s = .ok [x] s₁ →
    (s₁.cycle < x.toNat → ∃ t, exec (.sleep a) s = .next t ∧ (t.slot s₁.cur).st = .parked ∧ t.my.pc = s₁.my.pc ∧ OnlyMySlot { s₁ with agenda := t.agenda } t ∧
      Due t x.toNat .sleepExpiry (.sleepExpiry (s₁.tk s₁.cur) x.toNat)) ∧
    (x.toNat ≤ s₁.cycle → s₁.promised s₁.cur x.toNat = none → ∃ t, exec (.sleep a) s = .next t ∧ GoesOn s₁ t (s₁.my.pc + 4) ∧ OnlyMySlot s₁ t) ∧
    (∀ k c, x.toNat ≤ s₁.cycle → s₁.promised s₁.cur x.toNat = some (k, c) → c.outcome = none → s₁.my.inTrap = false → s₁.isLight s₁.cur = false →
      s₁.my.cr 1 ≠ 0 → s₁.my.outst = [] → s₁.my.traps = [] → s₁.my.resume = none → (s₁.slot s₁.cur).st = .ready →
      ∃ t, exec (.sleep a) s = .next t ∧ t.my.pc = word (s₁.my.cr 1) ∧ t.my.cr 2 = (s₁.my.pc + 4).toNat ∧ t.my.cr 3 = 7 ∧ t.my.cr 4 = x.toNat)) ∧
  -- SPAWN
  (∀ (s s₁ : State) (d a : Reg) (x : Word), fetchSrcs [a] s = .ok [x] s₁ →
    (s₁.isLight s₁.cur = false → exec (.spawn d a) s = .next (s₁.formatFault 10)) ∧
    (s₁.isLight s₁.cur = true → x.toNat % 4 ≠ 0 ∨ 2 ^ 57 ≤ x.toNat → exec (.spawn d a) s = .next (s₁.formatFault 1)) ∧
    (s₁.isLight s₁.cur = true → x.toNat % 4 = 0 → x.toNat < 2 ^ 57 → s₁.drainWaits s₁.cur = true → exec (.spawn d a) s = .next s₁.waitTurn) ∧
    (s₁.isLight s₁.cur = true → x.toNat % 4 = 0 → x.toNat < 2 ^ 57 → s₁.drainWaits s₁.cur = false → ∃ t at_, exec (.spawn d a) s = .next t ∧
      WaitsWith t .lightRecordArrival fun k id => .lightSpawn k id d at_ (lightWords s₁.my x.toNat 1 s₁.my.lineage 0)))

/-- R388, R389, R391, R393, R396, R398 to R400: the barrier members, PROBE, DRAIN and EVGATH; an arrival, which its wire takes at the
end of the cycle, and what it does at a wire that has latched no other descriptor in this generation. -/
def Obligations.BarrierMembers : Prop :=
  (∀ (s s₁ : State) (d a b : Reg) (x y : Word), fetchSrcs [a, b] s = .ok [x, y] s₁ →
    (barValid x.toNat s₁.cur = false ∨ 2 ^ 32 ≤ y.toNat → exec (.barw d a b) s = .next (s₁.formatFault 0)) ∧
    (barValid x.toNat s₁.cur = true → y.toNat < 2 ^ 32 → exec (.barw d a b) s = .next (s₁.startArrival x.toNat fun id =>
      { t := s₁.tk s₁.cur, id := id, kind := 0, dest := d, expiry := if y.toNat = 0 then none else some (s₁.cycle + y.toNat), pc := s₁.my.pc,
        btotrap := bit (s₁.my.cr 0) 23 }))) ∧
  (∀ (s s₁ : State) (d a : Reg) (x : Word), fetchSrcs [a] s = .ok [x] s₁ →
    (barValid x.toNat s₁.cur = false → exec (.bara a) s = .next (s₁.formatFault 0)) ∧
    (barValid x.toNat s₁.cur = true → exec (.bara a) s = .next (s₁.startArrival x.toNat fun id =>
      { t := s₁.tk s₁.cur, id := id, kind := 1, pc := s₁.my.pc })) ∧
    (x.toNat % 4 = 3 → exec (.barq d a) s = .next (s₁.formatFault 0)) ∧
    (x.toNat % 4 ≠ 3 →
      let u := s₁.barUnit (posCore s₁.cur) (x.toNat % 4)
      ∃ t, exec (.barq d a) s = .next t ∧ ParksFor s₁ t (.blocking s₁.nextId) ∧
        Due t (s₁.cycle + 8) .classBCompletion (.classBCompletion (s₁.tk s₁.cur) s₁.nextId (ends d
          ((if u.gen then 1 else 0) + (if posSlot s₁.cur ∈ u.arrived then 2 else 0) + (if u.aband then 4 else 0) + 16 * u.arrived.length)))) ∧
    (∀ l, rectCores (coreDie (posCore s₁.cur)) x.toNat = some l → posCore s₁.cur ∈ l → x.toNat < 2 ^ 32 →
      ∃ t, exec (.probe d a) s = .next t ∧ ParksFor s₁ t (.blocking s₁.nextId) ∧
        Due t s₁.cycle .probeCircuitEnd (.probeVisit (s₁.tk s₁.cur) s₁.nextId x.toNat (x.toNat / 65536) 1 0 0 false d)) ∧
    (rectCores (coreDie (posCore s₁.cur)) x.toNat = none → exec (.probe d a) s = .next (s₁.formatFault 0) ∧ exec (.drain a) s = .next (s₁.formatFault 0)) ∧
    (∀ l, rectCores (coreDie (posCore s₁.cur)) x.toNat = some l → x.toNat < 2 ^ 16 →
      ∃ t far, exec (.drain a) s = .next t ∧ ParksFor s₁ t (.blocking s₁.nextId) ∧ (∀ c ∈ l, hops (posCore s₁.cur) c ≤ far) ∧
        Due t (s₁.cycle + 8 + 3 * l.length + 4 * far) .classBCompletion (.drainWait (s₁.tk s₁.cur) s₁.nextId x.toNat s₁.cycle)) ∧
    (∀ off s₂ s₃ p v, classify (posCore s₁.cur) x.toNat = .scratch (posCore s₁.cur) off → Reaches s₁ x.toNat 128 false p s₂ →
      s₂.readScratch (posCore s₁.cur) s₂.my.space off p.loc 128 = (v, false, s₃) → barValid (v % 2 ^ 64) s₃.cur = true →
      v / 2 ^ 64 % 2 ^ 64 < 2 ^ 32 → v / 2 ^ 133 % 2 ^ 59 = 0 → v / 2 ^ 192 % 2 ^ 320 = 0 →
      ∃ sums : List Nat, sums.length = 8 ∧ (∀ k, k < 5 → sums[k]? = some (s₃.my.cr (0x28 + k))) ∧
        (∀ k, 5 ≤ k → k < 8 → sums[k]? = some (s₃.my.cr (0x28 + k) % 2 ^ 28)) ∧
        exec (.evgath d a) s = .next (s₃.startArrival (v % 2 ^ 64) fun id =>
          { t := s₃.tk s₃.cur, id := id, kind := 2, dest := d,
            expiry := if v / 2 ^ 64 % 2 ^ 64 = 0 then none else some (s₃.cycle + v / 2 ^ 64 % 2 ^ 64),
            block := off, space := s₃.my.space, sums := sums, exc := s₃.my.cr 0x20, pc := s₃.my.pc, btotrap := bit (s₃.my.cr 0) 23 })) ∧
    (∀ off core, classify (posCore s₁.cur) x.toNat = .scratch core off → core ≠ posCore s₁.cur →
      exec (.evgath d a) s = .next (s₁.formatFaultAt 0 x.toNat))) ∧
  -- the arrival: once the task's accesses are complete, and for a BARW of a slot that has arrived at once
  (∀ (s : State) (d : Nat) (b : Nat → BarWait), barValid d s.cur = true → (∀ id, (b id).t = s.tk s.cur ∧ (b id).id = id) →
    let wire := barWire (d % 4) (posCore s.cur)
    let again := (b s.nextId).kind = 0 ∧ posSlot s.cur ∈ (s.barUnit (posCore s.cur) (d % 4)).arrived
    (s.my.allDone s.cycle = false → ¬again → ∃ t, s.startArrival d b = t ∧ ParksFor s t (.barrier s.nextId) ∧
      Due t (s.cycle + 1) .classBCompletion (.barWait wire d (b s.nextId))) ∧
    (s.my.allDone s.cycle = true ∨ again → ∃ t, s.startArrival d b = t ∧ (t.slot s.cur).st = .parked ∧
      t.my = { s.my with wait := some (.barrier s.nextId) } ∧ t.mem = s.mem ∧ (∀ q, q ≠ s.cur → t.slot q = s.slot q) ∧ t.cores = s.cores ∧
      (s.cycle, d, b s.nextId) ∈ (t.wire wire).coming ∧ Due t (s.cycle + 1) .classBCompletion (.barrierArrivals wire))) ∧
  (∀ (s : State) (wire : Nat), s.msg = .barrierArrivals wire → exec .classBCompletion s = .next (s.takeArrivals wire)) ∧
  -- its effect
  (∀ (s : State) (wire d : Nat) (b : BarWait), (s.wire wire).latch = none ∨ (s.wire wire).latch = some d →
    let k := wireKind wire
    let c := posCore b.t.pos
    posSlot b.t.pos ∉ (s.barUnit c k).arrived →
    ∃ t, s.arrive wire d b = t ∧ t.slots = s.slots ∧ t.mem = s.mem ∧ (t.wire wire).latch = some d ∧
      (t.wire wire).waits = (s.wire wire).waits ++ [b] ∧
      (∀ n, n ∈ (t.barUnit c k).arrived ↔ n = posSlot b.t.pos ∨ n ∈ (s.barUnit c k).arrived) ∧
      (b.kind = 1 → Due t (s.cycle + 4) .classBCompletion (.classBCompletion b.t b.id endsPlain)) ∧
      ((s.wire wire).due = none → (∀ m ∈ barCores wire d, ∀ n ∈ onesOf 16 (barSlots d), n ∈ (t.barUnit m k).arrived) →
        let end_ := s.cycle + if k = 2 then 14 else 6
        (t.wire wire).due = some end_ ∧ Due t end_ .barrierComplete (.barrierComplete wire (s.wire wire).stamp)))

/-- R417, R428, R429, R434, R436: COLL, CWAIT and the copy members. -/
def Obligations.CollectiveAndCopyMembers : Prop :=
  (∀ (s s₁ : State) (d a : Reg) (x : Word), fetchSrcs [a] s = .ok [x] s₁ →
    let asks (i : Instr) (kind : Nat) : Prop := x.toNat % 64 = 0 → ∃ t, exec i s = .next t ∧ ParksFor s₁ t (.mailbox s₁.nextId) ∧
      Due t s₁.cycle .classBCompletion (.mailPush (s₁.tk s₁.cur) s₁.nextId [x + BitVec.ofNat 64 kind] d)
    asks (.cpy d a) 0 ∧ asks (.cpyd d a) 1 ∧
    (∃ t, exec (.cpyq d a) s = .next t ∧ ParksFor s₁ t (.blocking s₁.nextId) ∧
      Due t (s₁.cycle + 40) .classBCompletion (.copyQuery (s₁.tk s₁.cur) s₁.nextId (x.toNat % 64) d)) ∧
    -- COLL
    (x.toNat % 64 ≠ 0 → ∃ t, exec (.coll d a) s = .next t ∧ ParksFor s₁ t (.blocking s₁.nextId) ∧
      Due t s₁.cycle .classBCompletion (.classBCompletion (s₁.tk s₁.cur) s₁.nextId (ends d 1))) ∧
    (∀ s₂ p, Reaches s₁ x.toNat 64 false p s₂ → ∃ t due, exec (.coll d a) s = .next t ∧ ParksFor s₂ t (.blocking s₂.nextId) ∧ s₂.cycle ≤ due ∧
      Due t due .classBCompletion (.collRead (s₂.tk s₂.cur) s₂.nextId x.toNat s₂.my.pc.toNat d 0)) ∧
    -- CWAIT
    (s₁.my.colls.look x.toNat = none → ∃ t, exec (.cwait d a) s = .next t ∧ ParksFor s₁ t (.blocking s₁.nextId) ∧
      Due t s₁.cycle .classBCompletion (.classBCompletion (s₁.tk s₁.cur) s₁.nextId (ends d 3))) ∧
    (∀ k y s₂ s₃ p e, s₁.my.colls.look x.toNat = some k → s₁.hub.colls.look k = some y → y.inFlight = true → s₁.resolve x.toNat false = .ok p s₂ →
      s₂.engineRead (posCore s₂.cur) s₂.my.space s₂.my.world x.toNat 64 = .ok (e, s₃) → s₃.hub.colls = s₁.hub.colls →
      ∃ t, exec (.cwait d a) s = .next t ∧ (t.slot t.cur).st = .parked ∧ t.my.wait = some (.coll s₃.nextId) ∧
        (∃ z, t.hub.colls.look k = some z ∧ z.st = y.st ∧ z.waits = y.waits ++ [(s₃.tk s₃.cur, s₃.nextId, d)]) ∧
        (collTimeout e.v ≠ 0 → Due t (s₃.cycle + collTimeout e.v) .cwaitTimeout (.cwaitTimeout (s₃.tk s₃.cur) s₃.nextId d)))) ∧
  (∀ (s s₁ : State) (d a b : Reg) (x y : Word), fetchSrcs [a, b] s = .ok [x, y] s₁ → x.toNat % 64 = 0 →
    ∃ t, exec (.cpym d a b) s = .next t ∧ ParksFor s₁ t (.mailbox s₁.nextId) ∧
      Due t s₁.cycle .classBCompletion (.mailPush (s₁.tk s₁.cur) s₁.nextId [x + 2, y] d)) ∧
  -- the request enters the mailbox once the task's matrix commands have completed and it has room
  (∀ (s : State) (t : Tk) (id : Nat) (ws : List Word) (d : Reg), s.waitsFor t (.mailbox id) = true →
    (∀ a ∈ (s.task t.pos).pend, a.partner = true → ∃ c, a.doneAt = some c ∧ c ≤ s.cycle) → (s.slot t.pos).mailbox.length + ws.length ≤ 4 →
    ∃ u, s.mailPush t id ws d = u ∧ (u.slot t.pos).mailbox.map (·.word) = (s.slot t.pos).mailbox.map (·.word) ++ ws ∧ u.mem = s.mem)

namespace Sys2Proof.Machine

/-- A control register write has happened: the register holds `v`, no other one changes but event counters, nor does any s register. -/
def WritesCr (s t : State) (c v : Nat) : Prop :=
  GoesOn s t (s.my.pc + 4) ∧ OnlyMySlot s t ∧ t.my.cr c = v ∧ (∀ k, k ≠ c → ¬(0x48 ≤ k ∧ k ≤ 0x4F) → t.my.cr k = s.my.cr k) ∧
    (∀ r, t.my.sreg r = s.my.sreg r) ∧ t.my.callers = s.my.callers ∧ t.my.tiles = s.my.tiles ∧ t.my.accs = s.my.accs

/-- What a write of `v` leaves in a per-task control register (Table 1-9, R40, R42); none for a reserved value. STATUS takes FERETRY, BTOTRAP
and XEN alone. -/
def CrStores (c old v : Nat) (r : Option Nat) : Prop :=
  (c = 0 → v / 2 ^ 32 % 2 ^ 16 = 0 → r = none) ∧
  (c = 0 → v / 2 ^ 32 % 2 ^ 16 ≠ 0 → ∃ w, r = some w ∧
    ∀ k, k < 64 → w.testBit k = if (32 ≤ k ∧ k < 48) ∨ k = 23 ∨ (8 ≤ k ∧ k < 13) then v.testBit k else old.testBit k) ∧
  (c = 1 → r = some (v / 4 * 4 % 2 ^ 57)) ∧ (c = 2 ∨ c = 4 → r = some v) ∧ (c = 3 → r = some (v % 2 ^ 17)) ∧
  (c = 5 → r = some (v / 2 ^ 31 % 2 * 2 ^ 31 + v % 2 ^ 9)) ∧
  (c = 0x10 ∨ c = 0x11 → r = if v % 32 ≤ 11 then some (v % 32) else none) ∧
  (c = 0x12 → r = if v % 32 = 0 ∨ v % 32 = 11 then some (v % 32) else none) ∧
  (c = 0x13 ∨ c = 0x14 → r = if v % 4 = 0 then some (v % 2 ^ 22) else none) ∧ (c = 0x15 → r = some (v % 2 ^ 32)) ∧
  (c = 0x16 → r = if v % 8 ≤ 4 then some (v % 8) else none) ∧ (c = 0x20 → r = some (v % 32)) ∧
  (0x28 ≤ c → c ≤ 0x2C → r = some (v % 2 ^ 32)) ∧ (0x2D ≤ c → c ≤ 0x2F → r = if v / 2 ^ 28 % 16 ≤ 7 then some (v % 2 ^ 32) else none) ∧
  (0x40 ≤ c → c ≤ 0x47 → r = if v % 2 ^ 16 ≤ 8 then some (v % 2 ^ 16) else none)

end Sys2Proof.Machine

/-- R38 to R43, R463, Table 19-7, Table 16-2: reads of control registers. -/
def Obligations.ControlRegisterReads : Prop :=
  ∀ (s : State) (d : Reg) (c : BitVec 12),
    (posSlot s.cur ≠ 0 → 0x800 ≤ c.toNat → exec (.crrd d c) s = .next (s.noIssue 0x41 3 0 3)) ∧
    (c.toNat < 0x800 ∨ posSlot s.cur = 0 →
      (c.toNat = 0x80 → exec (.crrd d c) s = .next (finishShort d (word s.cycle) s)) ∧
      (c.toNat = 0x81 → exec (.crrd d c) s = .next (finishShort d (word s.cur) s)) ∧
      (∀ k, k < 3 → c.toNat = 0x82 + k → s.isLight s.cur = false → exec (.crrd d c) s = .next (finishShort d (word (s.my.coord.getD k 0)) s)) ∧
      (c.toNat = 0xC0 → exec (.crrd d c) s = .next (finishShort d (word s.my.space) s)) ∧
      (c.toNat = 0xC1 → exec (.crrd d c) s = .next (finishShort d (if s.my.world then 1 else 0) s)) ∧
      (1 ≤ c.toNat → c.toNat < 0x80 → s.isLight s.cur = false → exec (.crrd d c) s = .next (finishShort d (word (s.my.cr c.toNat)) s)) ∧
      (1 ≤ c.toNat → c.toNat < 0x80 → s.isLight s.cur = true → exec (.crrd d c) s = .next (finishShort d 0 s)) ∧
      (c.toNat = 0 → s.isLight s.cur = false → ∃ v, exec (.crrd d c) s = .next (finishShort d v s) ∧
        v.getLsbD 0 = decide (posSlot s.cur = 0) ∧ v.getLsbD 3 = false ∧ ∀ k, k < 64 → k ≠ 0 → k ≠ 3 → v.getLsbD k = (s.my.cr 0).testBit k) ∧
      (∀ k, k < 4 → c.toNat = 0x800 + k → exec (.crrd d c) s = .next (finishShort d (s.myCore.qcfg.get 0xFF00 k) s)) ∧
      (c.toNat = 0x810 → exec (.crrd d c) s = .next (finishShort d s.myCore.cordon s)) ∧
      (c.toNat = 0x820 → exec (.crrd d c) s = .next (finishShort d s.myCore.errinj s)) ∧
      (c.toNat = 0x844 → exec (.crrd d c) s = .next (finishShort d s.module_.faccept s)))

/-- R39, R40, R42, R463, R473, Tables 1-9, 15-2 and 19-7: CRWR writes A, CRSET the register or A, CRCLR the register and not A; a
reserved value is the format fault, and a register that the slot may not write the permission fault of SUB 3. -/
def Obligations.ControlRegisterWrites : Prop :=
  (∀ (s : State) (a : Reg) (c : BitVec 12), (posSlot s.cur ≠ 0 ∧ 0x800 ≤ c.toNat) ∨ (0x840 ≤ c.toNat ∧ c.toNat ≤ 0x844) →
    exec (.crwr a c) s = .next (s.noIssue 0x41 3 0 3) ∧ exec (.crset a c) s = .next (s.noIssue 0x41 3 0 3) ∧
    exec (.crclr a c) s = .next (s.noIssue 0x41 3 0 3)) ∧
  (∀ (s s₁ : State) (a : Reg) (c : BitVec 12) (x : Word), fetchSrcs [a] s = .ok [x] s₁ →
    let writes (i : Instr) (v : Nat) : Prop :=
      (c.toNat < 0x48 → s.isLight s.cur = false → s₁.isLight s₁.cur = false → ∀ r, CrStores c.toNat (s₁.my.cr c.toNat) v r →
        (c.toNat ∈ [0, 1, 2, 3, 4, 5, 0x10, 0x11, 0x12, 0x13, 0x14, 0x15, 0x16, 0x20] ∨ (0x28 ≤ c.toNat ∧ c.toNat ≤ 0x2F) ∨ 0x40 ≤ c.toNat) →
        (r = none → exec i s = .next (s₁.formatFault 0)) ∧
        (∀ w, r = some w → w < 2 ^ 64 → ∃ t, exec i s = .next t ∧ WritesCr s₁ t c.toNat w)) ∧
      -- on a light slot the write is discarded
      (c.toNat < 0x50 → s₁.isLight s₁.cur = true → exec i s = .next s₁.advance) ∧
      -- the banker's registers
      (∀ k, k < 4 → c.toNat = 0x800 + k → posSlot s.cur = 0 →
        (v % 16 > v / 2 ^ 8 % 16 ∨ v / 16 % 16 > v / 2 ^ 12 % 16 → exec i s = .next (s₁.formatFault 0)) ∧
        (v % 16 ≤ v / 2 ^ 8 % 16 → v / 16 % 16 ≤ v / 2 ^ 12 % 16 → ∃ t, exec i s = .next t ∧ GoesOn s₁ t (s₁.my.pc + 4) ∧
          (t.core (posCore s₁.cur)).qcfg.get 0xFF00 k = word (v / 2 ^ 63 % 2 * 2 ^ 63 + v % 2 ^ 16) ∧
          (v.testBit 62 = true → Due t s₁.cycle .qcfgDefault (.qcfgDefault (posCore s₁.cur) k)))) ∧
      (c.toNat = 0x810 → posSlot s.cur = 0 →
        (cordonValid (posCore s₁.cur) v = false → exec i s = .next (s₁.formatFault 0)) ∧
        (cordonValid (posCore s₁.cur) v = true → ∃ t, exec i s = .next t ∧ GoesOn s₁ t (s₁.my.pc + 4) ∧
          (t.core (posCore s₁.cur)).cordon = word (v / 2 ^ 63 % 2 * 2 ^ 63 + v % 2 ^ 16))) ∧
      (c.toNat = 0x820 → posSlot s.cur = 0 → errinjRefused v = false → ∃ t, exec i s = .next t ∧ GoesOn s₁ t (s₁.my.pc + 4) ∧
        Due t s₁.cycle (errinjEvent v) (.errinj (posCore s₁.cur) (word v)))
    writes (.crwr a c) x.toNat ∧
    writes (.crset a c) (s₁.crRead s₁.cur c.toNat ||| x.toNat) ∧
    writes (.crclr a c) (s₁.crRead s₁.cur c.toNat &&& (2 ^ 64 - 1 - x.toNat)))

/-- R42, R448, R459, R467 to R471: TRAP, ERET, IFLUSH, IDLE, BRK and TLBINV. That
the instruction an ERET runs has TRAPVAL's bits [1:0] cleared and its bits [63:57] ignored, as R468 says of TRAPPC, is the model's choice
(log entry 51). -/
def Obligations.TrapsAndSystemMembers : Prop :=
  -- TRAP: taken at PC + 4
  (∀ (s : State) (c : BitVec 12), s.my.inTrap = false → s.my.cr 1 ≠ 0 → s.isLight s.cur = false → s.my.outst = [] → s.my.traps = [] →
    s.my.resume = none → (s.slot s.cur).st = .ready →
    ∃ t, exec (.trap c) s = .next t ∧ OnlyMySlot { s with nextId := t.nextId } t ∧ t.my.pc = word (s.my.cr 1) ∧ t.my.cr 2 = (s.my.pc + 4).toNat ∧ t.my.cr 3 = 1 ∧
      t.my.cr 4 = c.toNat ∧ t.my.inTrap = true ∧ ∀ r, t.my.sreg r = s.my.sreg r) ∧
  (∀ (s : State) (c : BitVec 12), s.my.inTrap = true → s.my.settled = true →
    exec (.trap c) s = .next (s.supFault s.cur 0x47 0 0 3 1)) ∧
  -- ERET
  (∀ s : State, s.my.inTrap = false → exec .eret s = .next (s.formatFault 12)) ∧
  (∀ s : State, s.my.inTrap = true → s.my.traps = [] → s.my.precise = none → s.my.cr 5 / 2 ^ 31 % 2 = 0 →
    ∃ t, exec .eret s = .next t ∧ OnlyMySlot s t ∧ t.my.pc = word (s.my.cr 2 / 4 * 4 % 2 ^ 57) ∧ t.my.inTrap = false ∧ t.my.cr 5 = 0 ∧
      t.my.resume = none ∧ (∀ c, c ≠ 0 → c ≠ 5 → t.my.cr c = s.my.cr c) ∧ ∀ r, t.my.sreg r = s.my.sreg r) ∧
  (∀ s : State, s.my.inTrap = true → s.my.traps = [] → s.my.cr 5 / 2 ^ 31 % 2 = 1 →
    ∃ t, exec .eret s = .next t ∧ t.my.pc = word (s.my.cr 4 / 4 * 4 % 2 ^ 57) ∧ t.my.resume = some (word (s.my.cr 2 / 4 * 4 % 2 ^ 57)) ∧
      t.my.tileFrom = s.my.cr 5 % 512 ∧ t.my.inTrap = false ∧ t.my.cr 5 = 0 ∧ t.turn = posCore s.cur ∧ t.cycle = s.cycle ∧
      ∀ r, t.my.sreg r = s.my.sreg r) ∧
  -- IFLUSH, IDLE, BRK
  (∀ s : State, ∃ t, exec .iflush s = .next t ∧ ParksFor s t (.blocking s.nextId) ∧ (t.slot s.cur).fetchTr = [] ∧
    Due t (s.cycle + 40) .classBCompletion (.classBCompletion (s.tk s.cur) s.nextId endsPlain)) ∧
  (∀ s : State, (s.mySlot.evq = [] → ∃ t, exec .idle s = .next t ∧ ParksFor s t .idle) ∧ (s.mySlot.evq ≠ [] → exec .idle s = .next s.advance)) ∧
  (∀ (s : State) (c : BitVec 12), exec (.brk c) s = .next (s.supFault s.cur 0x4B 0 0 3 c.toNat)) ∧
  -- TLBINV
  (∀ (s : State) (a : Reg) (e : BitVec 1), posSlot s.cur ≠ 0 → exec (.tlbinv a e) s = .next (s.noIssue 0x41 3 0 3)) ∧
  (∀ (s s₁ : State) (a : Reg) (e : BitVec 1) (x : Word), posSlot s.cur = 0 → fetchSrcs [a] s = .ok [x] s₁ →
    (2 ^ 57 ≤ x.toNat → exec (.tlbinv a e) s = .next (s₁.formatFault 0)) ∧
    (x.toNat < 2 ^ 57 → (s₁.space (x.toNat % 4096)).part ≠ s₁.diePart (coreDie (posCore s₁.cur)) →
      exec (.tlbinv a e) s = .next (s₁.noIssue 0x41 3 0 3)) ∧
    (x.toNat < 2 ^ 57 → (s₁.space (x.toNat % 4096)).part = s₁.diePart (coreDie (posCore s₁.cur)) →
      ∃ t spans, exec (.tlbinv a e) s = .next t ∧
        WaitsWith t .classBCompletion (fun k id => .tlbinvWait k id (x.toNat % 4096) (x.toNat / 4096) (e == 1) spans) ∧
        (∀ c, ∀ y ∈ (t.core c).tlb, ¬(y.space = x.toNat % 4096 ∧ y.page ≤ x.toNat / 4096 ∧ x.toNat / 4096 < y.page + y.count)) ∧
        (∀ c, ∀ y ∈ (s₁.core c).tlb, y.space ≠ x.toNat % 4096 → y ∈ (t.core c).tlb)))

namespace Sys2Proof.Machine

/-- The class B instruction that the position waited in has ended with `v` for `d`: the slot is ready, the task goes on past the
instruction, and among its s registers only `d` takes the value (R277, R382, R383). -/
def Returns (s u : State) (p : Pos) (d : Reg) (v : Nat) : Prop :=
  (u.slot p).st = .ready ∧ (u.slot p).notBefore = max (s.slot p).notBefore (s.cycle + 1) ∧ (u.task p).wait = none ∧
    (u.task p).pc = (s.task p).resume.getD ((s.task p).pc + 4) ∧ u.mem = s.mem ∧ u.hub = s.hub ∧ u.agenda = s.agenda ∧
    (∀ q, q ≠ p → u.slot q = s.slot q) ∧ ∀ r, (u.task p).sreg r = if r = d.toNat ∧ r ≠ 0 then word v else (s.task p).sreg r

end Sys2Proof.Machine

/-- R21, R85, R86, R127, R277, R324, R374, R384, R386, R390, R392, R395, R398, R427: the events in which a core's tasks take deferred faults and
results, move windows, receive channel words and statuses, and wake. -/
def Obligations.EventsOfTasks : Prop :=
  -- DEFERRED_FAULT_TAKEN of a task with one recorded fault
  (∀ (s : State) (x : PTrap), s.msg = .none → s.my.traps = [x] → (x.due = true ∨ ∃ o ∈ s.my.outst, o.left = 0 ∧ o.id = x.id) → s.mySlot.st = .ready →
    s.my.settled = true → s.my.resume = none → s.my.inTrap = false → s.my.cr 1 ≠ 0 → s.isLight s.cur = false →
    s.mySlot.preempt = none → ∃ t : State, exec .deferredFaultTaken s = .next t.waitTurn ∧
      t.my.pc = word (s.my.cr 1) ∧ t.my.cr 2 = s.my.pc.toNat ∧ t.my.cr 3 = (x.trap.cause + 256 * x.trap.sub + 65536 * x.trap.deferred.toNat) % 2 ^ 64 ∧
      t.my.cr 4 = x.trap.val % 2 ^ 64 ∧ t.my.inTrap = true ∧ t.my.traps = [] ∧ t.my.regs = s.my.regs ∧ t = { s with slots := t.slots } ∧
      ∀ p, p ≠ s.cur → t.slot p = s.slot p) ∧
  -- at the end of the cycle in which the last result before a due trap settled
  (∀ (s : State) (p : Pos), s.msg = .deferredFaultTaken p → exec .deferredFaultTaken s = .next (s.takeTraps p)) ∧
  -- LONG_RESULT_READY of a result for an s register
  (∀ (s : State) (k : Tk) (id : Nat) (o : Outst) (d : Reg), s.msg = .longResultReady k id → s.isAt k = true →
    (s.task k.pos).outst.find? (·.id == id) = some o → o.fault = none → o.dest = some d → d.toNat < 16 → ∃ t, exec .longResultReady s = .next t ∧
      (∀ r, (t.task k.pos).sreg r = if r = d.toNat ∧ r ≠ 0 then word o.value else (s.task k.pos).sreg r) ∧
      (∀ o' ∈ (t.task k.pos).outst, o'.id = id → o'.doneAt = some s.cycle) ∧ t.mem = s.mem ∧ ∀ p, p ≠ k.pos → t.slot p = s.slot p) ∧
  -- WINDOW_SPILL and WINDOW_FILL: a window with a struck register is an uncontained error of its core
  (∀ (s : State) (p : Pos) (n : Nat),
    let u := if ∃ k ∈ (s.task p).struck, k / 16 = n then s.post s.cycle 0 .reset (.uncontained (posCore p) 0 0x23 p) else s
    (s.msg = .windowSpill p → n = 1 + (s.task p).callers.length + 1 - (s.task p).onChip →
      exec .windowSpill s = .next (u.modTask p fun t => { t with onChip := t.onChip - 1 })) ∧
    (s.msg = .windowFill p → n = 1 + (s.task p).callers.length - (s.task p).onChip →
      exec .windowFill s = .next (u.modTask p fun t => { t with onChip := t.onChip + 1 }))) ∧
  -- CHANNEL_WORD_ARRIVAL
  (∀ (s : State) (q : Pos) (m : Nat) (w : Word) (far : Bool), s.msg = .channelWordArrival q m w far → (s.core (posCore q)).fenced = false →
    ∃ t, exec .channelWordArrival s = .next t ∧ (t.endpoint q m).inbound = (s.endpoint q m).inbound ++ [w] ∧
      (t.endpoint q m).coming = (s.endpoint q m).coming - 1 ∧ t.mem = s.mem ∧ t.hub = s.hub ∧ (∀ p, p ≠ q → t.slot p = s.slot p) ∧
      ((s.slot q).st = .parked → (s.task q).wait = some (.pop m) → (t.slot q).st = .ready ∧ (t.task q).pc = (s.task q).pc)) ∧
  -- CHANNEL_AGENT_REQUEST
  (∀ (s : State) (k : Tk) (id n a done : Nat), s.msg = .channelAgent k id n a done →
    (s.channelRefused k.pos n ((s.findTask k).getD {}).space a = true → exec .channelAgentRequest s = .next (s.postAt done k.pos .classBCompletion
      (.classBCompletion k id { endsPlain with trap := some ⟨2, 7, ((s.findTask k).getD {}).pc.toNat, false⟩ }))) ∧
    (s.channelRefused k.pos n ((s.findTask k).getD {}).space a = false → bit a 14 = true → exec .channelAgentRequest s = .next
      ((s.breakChannel k.pos n).postAt done k.pos .classBCompletion (.classBCompletion k id endsPlain))) ∧
    (s.channelRefused k.pos n ((s.findTask k).getD {}).space a = false → bit a 14 = false → exec .channelAgentRequest s = .next
      ((s.pairChannel k.pos n (mkPos (coreOf (coreDie (posCore k.pos)) (bits a 0 4) (bits a 4 4)) (bits a 8 4)) (bits a 12 2)).postAt done k.pos
        .classBCompletion (.classBCompletion k id endsPlain)))) ∧
  -- BARRIER_COMPLETE and BARRIER_TIMEOUT of an instance in which one BARW waits
  (∀ (s : State) (w stamp d at_ : Nat) (b : BarWait), (s.wire w).latch = some d → (s.wire w).stamp = stamp → (s.wire w).waits = [b] → b.kind = 0 →
    (s.msg = .barrierComplete w stamp → (s.wire w).due = some s.cycle → (s.wire w).coming = [] →
      exec .barrierComplete s = .next ((s.completeWait b.t b.id (.barrier b.id) (ends b.dest 0)).endGeneration w d false)) ∧
    (s.msg = .barrierTimeout w b.id at_ → (s.wire w).due = none → b.btotrap = false → exec .barrierTimeout s = .next
      (s.asOf at_ fun s => (s.completeWait b.t b.id (.barrier b.id) (ends b.dest 1)).endGeneration w d true)) ∧
    -- a withdrawn BARW has no expiry (R395)
    (∀ id, id ≠ b.id → s.msg = .barrierTimeout w id at_ → exec .barrierTimeout s = .next s)) ∧
  -- PROBE_CIRCUIT_END: a circuit is back at its issuer
  (∀ (s : State) (k : Tk) (id rect maxc n j sum : Nat) (black : Bool) (d : Reg), s.msg = .probeVisit k id rect maxc n j sum black d →
    (probeRing (posCore k.pos) ((rectCores (coreDie (posCore k.pos)) rect).getD []))[j]? = none →
    (sum = 0 → black = false → exec .probeCircuitEnd s = .next (s.postAt (s.cycle + 4) k.pos .classBCompletion (.classBCompletion k id (ends d n)))) ∧
    (¬(sum = 0 ∧ black = false) → n = maxc → exec .probeCircuitEnd s = .next (s.postAt (s.cycle + 4) k.pos .classBCompletion (.classBCompletion k id (ends d 0)))) ∧
    (¬(sum = 0 ∧ black = false) → n ≠ maxc → exec .probeCircuitEnd s = .next
      (s.postAt s.cycle k.pos .probeCircuitEnd (.probeVisit k id rect maxc (n + 1) 0 0 false d)))) ∧
  -- SLEEP_EXPIRY of a sleep till a cycle that no promise names
  (∀ (s : State) (k : Tk) (v : Nat) (pr : Option Nat), s.msg = .sleepExpiry k v → (s.task k.pos).wait = some (.sleep v pr) → s.isAt k = true →
    (s.slot k.pos).st = .parked → (s.task k.pos).tags = [] → ∃ t, exec .sleepExpiry s = .next t ∧ (t.slot k.pos).st = .ready ∧
      (t.slot k.pos).notBefore = s.cycle ∧ (t.task k.pos).pc = (s.task k.pos).resume.getD ((s.task k.pos).pc + 4) ∧ t.mem = s.mem ∧ t.hub = s.hub) ∧
  -- CLASS_B_COMPLETION and VCACHE_STATUS_WRITE
  (∀ (s : State) (k : Tk) (id v : Nat) (d : Reg), d.toNat < 16 →
    (s.msg = .classBCompletion k id (ends d v) → s.waitsFor k (.blocking id) = true → ∃ t, exec .classBCompletion s = .next t ∧ Returns s t k.pos d v) ∧
    (s.msg = .vcacheStatusWrite k id v d → s.waitsFor k (.reconfig id) = true → ∃ t, exec .vcacheStatusWrite s = .next t ∧ Returns s t k.pos d v)) ∧
  -- QCFG_DEFAULT
  (∀ (s : State) (c n : Nat), s.msg = .qcfgDefault c n → c < 1024 → n < 4 →
    (adjacent c n = none → ∃ t, exec .qcfgDefault s = .next t ∧ t.mem = s.mem ∧ ∀ k, 1 ≤ k → k ≤ 14 → (t.endpoint (mkPos c k) n).pair = .unbound) ∧
    (∀ c', adjacent c n = some c' → ∃ t, exec .qcfgDefault s = .next t ∧ t.mem = s.mem ∧ (t.endpoint (mkPos c 14) n).pair = .default ∧
      (t.endpoint (mkPos c' 14) ((n + 2) % 4)).pair = .default)) ∧
  -- TRANSLATION_WALK with one requester: it looks again, or it parks with a fault record
  (∀ (s : State) (space page : Nat) (w : Walk) (k : Tk), s.msg = .translationWalk space page →
    s.mem.walks.find? (fun w => w.space == space && w.page == page) = some w → w.slots = [k] → w.runs = [] → w.copies = [] →
    s.waitsFor k .walk = true →
    let gone (t : State) : Prop := (∀ x ∈ s.mem.walks, x.space = space → x.page = page → x = w) → ∀ x ∈ t.mem.walks, ¬(x.space = space ∧ x.page = page)
    (∀ n e ts, s.walk (coreDie (posCore w.by_)) space w.va = (n, .leaf e, ts) → ∃ t, exec .translationWalk s = .next t ∧
      (t.slot k.pos).st = .ready ∧ (t.task k.pos).pc = (s.task k.pos).pc ∧ t.mem.bytes = s.mem.bytes ∧ gone t ∧ e ∈ (t.core (posCore k.pos)).tlb) ∧
    (∀ n sub ts, s.walk (coreDie (posCore w.by_)) space w.va = (n, .fault sub, ts) → ∃ t r, exec .translationWalk s = .next t ∧
      (t.slot k.pos).st = .parked ∧ (t.task k.pos).wait = some .fault ∧ (t.slot k.pos).pending? = some r ∧ r.cause = 0x40 ∧ r.sub = sub ∧ r.addr = w.va ∧
      r.acc = w.acc ∧ (t.task k.pos).pc = (s.task k.pos).pc ∧ t.mem.bytes = s.mem.bytes ∧ gone t)) ∧
  -- CALL_SERVE and CALL_REPLY
  (∀ (s : State) (k : Tk) (id : Nat) (r : Record), s.msg = .callServe k id r →
    (s.releaser r = .gone → exec .callServe s = .next (s.answerCall k id r.pos [] .selfInvalidate)) ∧
    (s.releaser r = .lost → ∃ va, exec .callServe s = .next (s.answerCall k id r.pos [] (.lost va)) ∧
      ∀ c x, (s.mem.calls.find? fun c => c.t == k && c.id == id) = some c → c.places.find? (·.1 == r) = some x → va = x.2) ∧
    -- one call at a time, in order of arrival
    (s.releaser r = .here → s.cycle < (s.slot r.pos).callBusy →
      exec .callServe s = .next (s.post (s.slot r.pos).callBusy 0 .callServe (.callServe k id r))) ∧
    (s.releaser r = .here → (s.slot r.pos).callBusy ≤ s.cycle →
      let acq := some (((s.findTask k).map (·.space)).getD 0, posCore k.pos)
      let stuck := (s.task r.pos).drains = r.drain ∧ s.callStuck r.pos r.num acq = true
      (stuck → exec .callServe s = .next ((s.modSlot r.pos fun x => { x with callBusy := s.cycle + 1 }).post (s.cycle + 1) 0 .callServe
        (.callServe k id r))) ∧
      (¬ stuck → ∃ t due rs kind, exec .callServe s = .next t ∧
        (Due t due .callReply (.callReply k id rs kind) ∨ Due t due .callServe (.callAnswer k id r.pos rs kind)) ∧
        ((s.task r.pos).drains ≠ r.drain → rs = [] ∧ kind = .selfInvalidate) ∧
        ((s.task r.pos).drains = r.drain → (s.task r.pos).ws = false → kind = .regions ∧
          rs.map (fun x => (x.v, x.p)) = ((s.task r.pos).covered r.num).map (fun e => (e.region.v, e.region.p))))) ∧
    (∀ y, s.releaser r = .saved y → ∃ (u : State) (rs : List Region) (kind : ReplyKind), exec .callServe s = .next
      (u.post (u.cycle + 10 + 2 * portHops (posCore k.pos) 3 + 2 * rs.length + 80) tieHub .callReply (.callReply k id rs kind)))) ∧
  -- its answer leaves behind what its core has sent the acquirer's before
  (∀ (s : State) (k : Tk) (id : Nat) (p : Pos) (rs : List Region) (kind : ReplyKind),
    (s.msg = .callAnswer k id p rs kind → exec .callServe s = .next (s.answerCall k id p rs kind)) ∧
    ∃ due, s.cycle + replyTime (posCore p) (posCore k.pos) rs.length ≤ due ∧ Due (s.answerCall k id p rs kind) due .callReply (.callReply k id rs kind)) ∧
  -- the call of a displaced record, and its end
  (∀ (s : State) (own : Nat) (x : LocRec) (q : PortReq),
    (s.msg = .retireCall own x q → s.releaser x.record = .gone → exec .callServe s = .next
      (s.post (s.cycle + replyTime (posCore x.record.pos) own 0 + 8) 0 .callReply (.retired x q))) ∧
    (s.msg = .retired x q → exec .callReply s = .next (s.endRetire x q))) ∧
  (∀ (s : State) (k : Tk) (id : Nat) (rs : List Region) (c : Call), (s.mem.calls.find? fun c => c.t == k && c.id == id) = some c →
    -- R329: the acquirer's own earlier stores to the listed regions complete first
    (s.msg = .callReply k id rs .regions → s.isAt k = true → (s.task k.pos).storesTo s.cycle rs = true → exec .callReply s = .next
      (s.post (s.cycle + 1) (tieAt (posCore k.pos) k.pos) .callReply (.callReply k id rs .regions))) ∧
    (s.msg = .callReply k id rs .regions → s.isAt k = true → (s.task k.pos).storesTo s.cycle rs = false → s.dropStuck k.pos rs = false →
      c.inval = false → exec .callReply s = .next
      ((s.modTask k.pos fun x => rs.foldl (fun x r => x.inherit r c.sealNo) x).postAt (s.cycle + 8) k.pos .callReply (.callDone k id))) ∧
    (s.msg = .callDone k id → 1 < c.left → exec .callReply s = .next
      (s.modMem fun m => { m with calls := m.calls.map fun y => if y = c then { y with left := y.left - 1 } else y })) ∧
    (s.msg = .callDone k id → c.left ≤ 1 → exec .callReply s = .next ((s.modMem fun m => { m with calls := m.calls.erase c }).afterCalls c)))

namespace Sys2Proof.Machine

/-- A task's accesses named `id` have completed in this cycle (R270, R311). -/
def accessDone (s : State) (k : Tk) (id : Nat) : State :=
  s.onTask k fun x => { x with pend := x.pend.map fun a => if a.id = id then { a with doneAt := some s.cycle } else a }

end Sys2Proof.Machine

/-- R248, R249, R255, R259, R263, R266, R270, R274, R287, R293, R305, R338: the events in which accesses, reservations, monitors, fills,
probes and vcache transactions go on. -/
def Obligations.EventsOfMemory : Prop :=
  -- SCRATCHPAD_PAGE_REFILL of a page without a full/empty image for which no one waits at the port
  (∀ (s : State) (c n pg : Nat) (r : Refill) (w : WPage), s.msg = .scratchpadPageRefill c n pg →
    s.mem.refills.find? (fun r => r.core == c && r.space == n && r.page == pg && r.running) = some r → s.mem.wpages.look (wpageKey c n pg) = some w →
    r.reqs = [] → r.slots = [] → w.shadow = none → ∃ t, exec .scratchpadPageRefill s = .next t ∧
      t.mem.wpages.look (wpageKey c n pg) = some { w with bank := some r.bank, dirty := false, feDirty := false } ∧
      ∀ k, k < 1024 → scratchLoc c r.bank 0 / 4 + k ∉ t.mem.empties) ∧
  -- REMOTE_ACCESS_ARRIVAL and HOME_SLICE_REQUEST_ARRIVAL, with no budget set and nothing of its core held back for one
  (∀ (s : State) (r : PortReq), s.hub.budgets = [] → s.behindHeld r.core (s.pointCore r) r.held = false →
    (∀ loc, s.msg = .remoteAccessArrival r → r.scratch = true → (s.core r.owner).fenced = false → s.bankLoc r.owner r.space r.off = some loc →
      exec .remoteAccessArrival s = .next (s.applyReq r loc)) ∧
    (s.msg = .homeSliceRequestArrival r → exec .homeSliceRequestArrival s = .next (s.applyReq r r.loc)) ∧
    -- a read-modify-write of a free word is granted it; one of a word held waits its turn
    (∀ m x, s.msg = .homeSliceRequestArrival r → r.op = .reserve m → s.mem.resv.look (r.loc / 8) = some x →
      exec .homeSliceRequestArrival s = .next (s.modMem fun k => { k with resv := k.resv.put (r.loc / 8) { x with queue := x.queue ++ [r] } })) ∧
    (∀ m, s.msg = .homeSliceRequestArrival r → r.op = .reserve m → s.mem.resv.look (r.loc / 8) = none → r.scratch = false →
      ∃ t due rec?, exec .homeSliceRequestArrival s = .next t ∧ (t.mem.resv.look (r.loc / 8)).any (fun x => x.t == r.t && x.id == r.id && x.queue == []) = true ∧
        Due t due .reservationGrant (.reservationGrant r (s.bytesAt r.loc r.size) rec? (s.poisoned r.loc)))) ∧
  -- REMOTE_STORE_ACK and POSTED_WRITE_ACK
  (∀ (s : State) (k : Tk) (id : Nat), s.msg = .remoteStoreAck k id ∨ s.msg = .postedWriteAck k id → (s.findTask k).isSome = true →
    let i : Instr := if s.msg = .remoteStoreAck k id then .remoteStoreAck else .postedWriteAck
    ((s.isAt k = true → (s.task k.pos).wait ≠ some (.frozen id)) → (∀ y ∈ s.saved, y.t = k → y.task.wait ≠ some (.frozen id)) →
      exec i s = .next (accessDone s k id)) ∧
    -- a slot that a transaction parked for the access goes on
    (s.isAt k = true → (s.slot k.pos).st = .parked → (s.task k.pos).wait = some (.frozen id) → ∃ t, exec i s = .next t ∧
      (t.slot k.pos).st = .ready ∧ (t.task k.pos).pc = (s.task k.pos).pc ∧ t.mem = s.mem ∧
      ∀ a ∈ (t.task k.pos).pend, a.id = id → a.doneAt = some s.cycle)) ∧
  -- FE_REQUEST_RETRY: STATUS.FERETRY times at most, 32 cycles after each refusal
  (∀ (s : State) (r : PortReq), s.msg = .feRequestRetry r →
    (r.tries < ((s.findTask r.t).map (·.feRetry)).getD 0 → exec .feRequestRetry s = .next (s.sendReq (s.cycle + 32) { r with tries := r.tries + 1 })) ∧
    (((s.findTask r.t).map (·.feRetry)).getD 0 ≤ r.tries → exec .feRequestRetry s = .next ((s.refundFence r).postAt s.cycle r.t.pos .classBCompletion
      (.classBCompletion r.t r.id ⟨r.dest, 0, none, some ⟨5, 0, r.va, false⟩⟩)))) ∧
  -- RESERVATION_GRANT: the old value comes back and the release carries the new one; a poisoned word traps
  (∀ (s : State) (r : PortReq) (m : Rmw) (old : Nat) (rec? : Option Record), s.waitsFor r.t (.grant r.id) = true → r.op = .reserve m →
    (s.msg = .reservationGrant r old rec? true → ∃ t, exec .reservationGrant s = .next t ∧
      Due t s.cycle .classBCompletion (.classBCompletion r.t r.id ⟨r.dest, 0, none, some ⟨4, 0, r.va, false⟩⟩)) ∧
    (s.msg = .reservationGrant r old rec? false → m.acq = false → m.rel = false → m.op ≠ 12 → ∃ t tr q, exec .reservationGrant s = .next t ∧
      Due t (s.cycle + 4) .classBCompletion (.classBCompletion r.t r.id ⟨r.dest, amoResult m.op r.size old, tr, none⟩) ∧
      q = { r with op := .release (amoNew m.op r.size old m.x m.c).1 m, start := s.cycle + 4 } ∧
      (if r.scratch && r.core == r.owner then Due t (s.cycle + 4) .remoteAccessArrival (.remoteAccessArrival q)
       else Due t (s.cycle + 4) q.arrival.1 (.sendOut q))) ∧
    (s.msg = .reservationGrant r old rec? false → m.acq = false → m.op = 12 → ∃ t, exec .reservationGrant s = .next t ∧ t.mem.bytes = s.mem.bytes ∧
      (t.task r.t.pos).held = some ⟨r.va, r.size⟩ ∧
      Due t (s.cycle + 4) .classBCompletion (.classBCompletion r.t r.id ⟨r.dest, extend true r.size old, none, none⟩))) ∧
  -- a request leaves for its ordering point
  (∀ (s : State) (r : PortReq), s.msg = .sendOut r → ∃ t due, exec r.arrival.1 s = .next t ∧ s.cycle + s.half r r.op.reads ≤ due ∧
    Due t due r.arrival.1 r.arrival.2 ∧ t = { s with agenda := t.agenda }) ∧
  -- RESERVATION_TIMEOUT
  (∀ (s : State) (k : Tk) (key since : Nat) (x : Resv), s.msg = .reservationTimeout k key since → s.mem.resv.look key = some x → x.t = k →
    x.hold = true → x.since = since → x.queue = [] →
    exec .reservationTimeout s = .next ((s.onTask k fun t => { t with held := none }).modMem fun m => { m with resv := m.resv.del key })) ∧
  -- POSTED_WRITE_APPLY at a line of which no vcache holds a copy and none is on its way home, which no AMO and no earlier posted write holds up
  (∀ (s : State) (r : PortReq) (v : Nat), s.msg = .postedWriteApply r → r.op = .posted v none → s.hub.budgets = [] →
    s.behindHeld r.core (s.pointCore r) r.held = false → s.holders (r.loc / 128) = [] → s.flushLine (r.loc / 128) = s → s.homeLost r.loc = false →
    s.postedWaits r = false → s.mem.bytes.wf = true → ∃ t due, exec .postedWriteApply s = .next t ∧ t.bytesAt r.loc r.size = v % 2 ^ (8 * r.size) ∧ s.cycle ≤ due ∧
      (∀ a, a < r.loc ∨ r.loc + r.size ≤ a → t.mem.bytes.byteAt a = s.mem.bytes.byteAt a) ∧
      Due t due .postedWriteAck (.postedWriteAck r.t r.id)) ∧
  -- MONITOR_WAKE: status 1 if the word still holds what was expected
  (∀ (s : State) (k : Tk) (id loc : Nat) (m : Monitor), s.msg = .monitorWake k id loc → (s.mem.monitors.find? fun m => m.t == k && m.id == id) = some m →
    ∃ t due, exec .monitorWake s = .next t ∧ m ∉ t.mem.monitors ∧ t.mem.bytes = s.mem.bytes ∧ s.cycle + 20 ≤ due ∧
      Due t due .classBCompletion (.classBCompletion m.t m.id (ends m.dest (if s.bytesAt m.loc 8 = m.expected then 1 else 0)))) ∧
  -- VCACHE_ACCESS_ARRIVAL of a load at the first set of its chain, which holds its bytes
  (∀ (s : State) (a : Acc) (i : Inst) (y : VLine), s.msg = .vcacheAccessArrival a → a.level = 0 → (s.chain a.space a.core a.first)[0]? = some i →
    s.frozenFor i a.va = false → s.rebound a = false → s.setFenced i a.line = false → (s.mem.fills.any fun f => f.set == i.key a.line && f.line == a.line && f.owner != a.id) = false →
    a.write = false → s.vline i a.line = some y → y.err = false → (a.pref = true → y.poison = false) → y.valid &&& maskOf a.off a.size = maskOf a.off a.size →
    ∃ t due, exec .vcacheAccessArrival s = .next t ∧ s.cycle ≤ due ∧ t.mem.bytes = s.mem.bytes ∧
      Due t due .longResultReady (.longResultReady a.t a.id) ∧
      (s.isAt a.t = true → ∀ o ∈ (t.task a.t.pos).outst, o.id = a.id → o.value = a.value y.data)) ∧
  -- LINE_FILL of an access whose space has no vcache on its way
  (∀ (s : State) (a : Acc) (level : Nat) (d : BitVec 1024) (p : Bool), s.msg = .lineFill a level d p → s.chain a.space a.core a.first = [] →
    (s.space a.space).waiting = false → (a.pref = true → p = false) → exec .lineFill s = .next (s.answerLong a.t a.id s.cycle (a.value d) p)) ∧
  -- HOME_PROBE: a displaced directory entry recalls the four lines of its region
  (∀ (s : State) (g : Nat), s.msg = .directoryRecall g →
    exec .homeProbe s = .next ((((s.probe (g * 4)).2.probe (g * 4 + 1)).2.probe (g * 4 + 2)).2.probe (g * 4 + 3)).2) ∧
  -- CONFIG_AGENT_TAKE and RECONFIG_RESUME
  (∀ (s : State) (n : Nat) (k : Tk) (id op a b : Nat) (d : Reg) (w : Bool), s.msg = .configArrive n k id op a b d w →
    ((s.space n).taken = true →
      exec .configAgentTake s = .next (s.modSpace n fun x => { x with jobs := x.jobs ++ [⟨k, id, op, a, b, d, w⟩] })) ∧
    ((s.space n).taken = false →
      exec .configAgentTake s = .next ((s.modSpace n fun x => { x with jobs := x.jobs ++ [⟨k, id, op, a, b, d, w⟩] }).agentTake n))) ∧
  (∀ (s : State) (n : Nat) (j : AgentJob), s.msg = .reconfigResume n → (s.space n).jobs = [j] → (s.space n).parked = [] →
    exec .reconfigResume s = .next ((s.modSpace n fun x =>
      { x with jobs := [], taken := false, frozen := [], frozenRegion := none, parked := [], waiting := false }).postAt (s.cycle + 100) j.t.pos
        .vcacheStatusWrite (.vcacheStatusWrite j.t j.id (s.space n).status j.dest))) ∧
  -- HOME_BUFFER_FILL
  (∀ (s : State) (l : Nat), s.msg = .homeBufferFill l → s.mem.bufFills.get 0 l ≤ s.cycle →
    exec .homeBufferFill s = .next ((s.modMem fun m => { m with bufFills := m.bufFills.del l }).countSectors l)) ∧
  (∀ (s : State) (l : Nat), s.msg = .tierWrite l → exec .homeBufferFill s = .next
    ((s.modMem fun m => { m with tier := m.tier.del l, tierErr := m.tierErr.erase l }).countSectors l)) ∧
  -- R296: the coding in which a region unit is kept by its tier, and the sectors counted for it
  (∀ (s : State) (l : Nat), ∃ n, s.countSectors l = s.tally 6 (if isStacked (l * 128) then 0 else 1) n ∧ n ≤ 8 ∧
    ((∃ k, k < 4 ∧ (s.tierLine (l / 4 * 4 + k)).2 = true) → n = 8) ∧ ((∀ k, k < 4 → s.tierLine (l / 4 * 4 + k) = (0, false)) → n = 0))

/-- R359 to R369, R371, R373 to R376, R405 to R413, R416 to R425, R435, R436, R498: the events of the scheduler, the light units, the dealers
and the collectives. The dealer takes a request, reads its descriptor, checks it, assigns its tag and accepts it: the copy enters the queue, or
the spill ring where the queue is full, and its promise goes to whoever asked. -/
def Obligations.EventsOfTheHub : Prop :=
  -- NOTIFY_WORD and QUEUE_SLOT_BIND
  (∀ (s : State) (q : Nat), s.msg = .notifyWord q →
    (queuePending (s.queueDesc q) = false → exec .notifyWord s = .next s) ∧
    (queuePending (s.queueDesc q) = true → s.hub.slots = [] → q ∉ s.hub.waiting → ∃ t, exec .notifyWord s = .next t ∧
      t.hub.waiting = s.hub.waiting ++ [q] ∧ Due t s.cycle .queueSlotBind .queueSlotBind ∧ t.mem = s.mem ∧ t.slots = s.slots)) ∧
  (∀ (s : State) (q k : Nat), s.hub.waiting = [q] → s.slotForQueue = some k → ∃ t, exec .queueSlotBind s = .next t ∧
    t.hub.slots.look k = some { st := .bound, queue := q, entry := none, used := s.cycle } ∧ t.hub.waiting = [] ∧ t.hub.entryQ = s.hub.entryQ ++ [k] ∧
    Due t s.cycle .dealIntake (.dealBegin k) ∧ t.mem = s.mem ∧ t.slots = s.slots) ∧
  -- DEAL_INTAKE
  (∀ (s : State) (k j e : Nat), s.msg = .dealBegin j → s.hub.entryQ = [k] → s.partHalted ((s.hwSlot k).queue / 65536) = false →
    s.freeEntry = some e → ∃ t d, exec .dealIntake s = .next t ∧
    t.hub.entryQ = [] ∧ t.hub.deals.look e = some d ∧ d.slot = k ∧ d.queue = (s.hwSlot k).queue ∧ d.phase = .reading ∧ (t.hwSlot k).entry = some e) ∧
  (∀ (s : State) (e : Nat) (d : ActiveDeal), s.msg = .dealRecord e → s.deal e = some d → s.partHalted d.part = false → ∃ t d' due, exec .dealIntake s = .next t ∧ t.deal e = some d' ∧
    d'.record = s.bytesAt (queueRing (s.queueDesc d.queue) + 64 * (queueHead (s.queueDesc d.queue) % queueSize (s.queueDesc d.queue))) 64 ∧
    s.cycle + 40 ≤ due ∧ Due t due .dealIntake (.dealCheck e)) ∧
  (∀ (s : State) (e : Nat) (d : ActiveDeal), s.msg = .dealCheck e → s.deal e = some d → s.partHalted d.part = false → s.intakeCode d ≠ 0 →
    exec .dealIntake s = .next ((((s.modDeal e fun d => { d with phase := .ended, code := s.intakeCode d, told := false }).tally 7 d.part 1).advanceQueue
      d.slot).postHub s.cycle .completionRecordWrite (.completionWrite e))) ∧
  -- TABLE_READ_RETRY and DEAL_MAPPING_FIX: E and the mapping are fixed
  (∀ (s : State) (e : Nat) (d : ActiveDeal) (l : List Nat), s.msg = .mappingFix e ∨ s.msg = .tableReadRetry e → s.deal e = some d →
    d.phase ∈ [.ready, .held, .busy] → d.mapped = false → s.eligibleCores d.part d.cls ≠ [] → s.checkMap d (s.eligibleCores d.part d.cls) = .ok l →
    let u := (s.modDeal e fun x => { x with mapped := true, elig := s.eligibleCores d.part d.cls, table := l, told := false })
    -- a deal that waits for its counter has its mapping fixed now and is placed when the counter lets it go
    let v := if d.phase = .ready then (u.restartAging e).scheduleDeal e else u
    (s.msg = .mappingFix e → exec .dealMappingFix s = .next v) ∧ (s.msg = .tableReadRetry e → s.partHalted d.part = false → exec .tableReadRetry s = .next v)) ∧
  -- a deal that waits at intake for its mapping table goes through the whole of intake again
  (∀ (s : State) (e : Nat) (d : ActiveDeal), s.msg = .tableReadRetry e → s.deal e = some d → d.phase = .table → s.partHalted d.part = false →
    exec .tableReadRetry s = .next (s.intake e)) ∧
  -- COMPLETION_RECORD_WRITE and COMPLETION_RECORD_RETRY
  (∀ (s : State) (e : Nat) (d : ActiveDeal) (err : Bool), s.msg = .taskEnded e err → s.deal e = some d → ∃ t d', exec .completionRecordWrite s = .next t ∧
    t.deal e = some d' ∧ d'.live = d.live - 1 ∧ d'.tasks = d.tasks + (if err then 0 else 1) ∧ d'.errs = d.errs + (if err then 1 else 0) ∧
    t.mem = s.mem ∧ t.slots = s.slots ∧
    (d.phase = .ready → d.mapped = true → d.placed = d.total → d.live ≤ 1 → d.back = [] → d'.phase = .ended ∧ Due t s.cycle .completionRecordWrite (.completionWrite e))) ∧
  (∀ (s : State) (e : Nat) (d : ActiveDeal) (ps : List (Place × Nat)), s.msg = .completionWrite e → s.deal e = some d → s.partHalted d.part = false →
    s.hubPlaces d.space d.world true (d.recordVa / 16 * 16) 64 = .ok ps → ∃ t, exec .completionRecordWrite s = .next t ∧
      exec .completionRecordRetry s = .next t ∧ t.deal e = none) ∧
  -- PLACEMENT_EVENT
  (∀ (s : State) (c : Nat) (w : Word), s.msg = .placement c w → s.partHalted (s.diePart (coreDie c)) = false →
    ((s.slot (mkPos c 0)).evq.length < 16 → (∀ x ∈ (s.slot (mkPos c 0)).evqFrom, x ≤ 16) → ∃ t, exec .placementEvent s = .next t ∧ (t.slot (mkPos c 0)).evq = (s.slot (mkPos c 0)).evq ++ [w] ∧
      t.mem = s.mem ∧ t.hub = s.hub ∧ ∀ p, p ≠ mkPos c 0 → t.slot p = s.slot p) ∧
    (16 ≤ (s.slot (mkPos c 0)).evq.length → exec .placementEvent s = .next (s.postHub (s.cycle + 1) .placementEvent (.placement c w)))) ∧
  -- AGING_TICK and SLICE_EXPIRY
  (∀ (s : State) (e stamp : Nat) (d : ActiveDeal), s.msg = .agingTick e stamp → s.deal e = some d →
    (d.stamp = stamp → d.phase = .ready → d.waits = true →
      exec .agingTick s = .next (((s.modDeal e fun d => { d with credit := min (d.ceil - d.priority) (d.credit + 1) }).postHub
        (s.cycle + 64 * d.slice) .agingTick (.agingTick e stamp)).scheduleDeal e)) ∧
    (d.stamp ≠ stamp ∨ d.waits = false → exec .agingTick s = .next s)) ∧
  (∀ (s : State) (k : Tk) (v : Nat), s.msg = .sliceExpiry k v →
    (s.isAt k = true → (s.task k.pos).sliceEnd = v → exec .sliceExpiry s = .next (s.schedule (posCore k.pos))) ∧
    ((s.task k.pos).sliceEnd ≠ v → exec .sliceExpiry s = .next s)) ∧
  -- OUTBOUND_EVENT_DELIVERY and EXIT_EVENT_PUSH
  (∀ (s : State) (c : Nat) (w : Word) (r : List Word),
    (s.msg = .outboundEventDelivery c → (s.core c).outq = w :: r → ∃ t, exec .outboundEventDelivery s = .next t ∧ (t.core c).outq = r ∧
      Due t (s.cycle - 1 + hubTravel c) .outboundEventDelivery (.stewardEvent c w)) ∧
    (s.msg = .stewardEvent c w → s.partHalted (s.diePart (coreDie c)) = false → exec .outboundEventDelivery s = .next
      { s with hub := { s.hub with events := s.hub.events.upd [] (s.diePart (coreDie c)) (· ++ [(c, w)]) } })) ∧
  -- an exit that may take the last place lets a push of a lower slot in the same cycle come before it
  (∀ (s : State) (k : Tk), s.msg = .exitPush k none → s.waitsFor k .exiting = true → s.isLight k.pos = false →
    s.eventTight (mkPos (posCore k.pos) 0) = true → exec .exitEventPush s = .next (s.post (s.cycle + 1) 0 .exitEventPush (.exitPush k (some s.cycle)))) ∧
  (∀ (s : State) (k : Tk) (a : Option Nat), s.msg = .exitPush k a → (a = none → s.eventTight (mkPos (posCore k.pos) 0) = false) → s.waitsFor k .exiting = true → s.isLight k.pos = false → posSlot k.pos ≠ 0 → (s.task k.pos).jointIn = false →
    (s.slot (mkPos (posCore k.pos) 0)).evq.length < 16 →
    -- no higher slot of the core has put a word there in this cycle (those of one cycle stand in slot order)
    ((s.slot (mkPos (posCore k.pos) 0)).evqAt = a.getD s.cycle → ∀ x ∈ (s.slot (mkPos (posCore k.pos) 0)).evqFrom, x ≤ posSlot k.pos) → ∃ t, exec .exitEventPush s = .next t ∧ (t.slot k.pos).st = .exited ∧
      (t.slot (mkPos (posCore k.pos) 0)).evq = (s.slot (mkPos (posCore k.pos) 0)).evq ++ [eventWord 2 (posSlot k.pos) (s.task k.pos).deal (s.task k.pos).index]) ∧
  -- LIGHT_RECORD_ARRIVAL from another core, KITTY_REFILL, LIGHT_DISPATCH
  (∀ (s : State) (c : Nat) (r : LightRec), s.msg = .lightRecord c r → c ≠ posCore r.origin.pos → ∃ t, exec .lightRecordArrival s = .next t ∧
    ((s.core c).refuses = true → Due t (s.cycle - 1 + lightTransit c (posCore r.origin.pos)) .migrationAnswer (.migrationAnswer r.origin c false)) ∧
    ((s.core c).refuses = false → (s.core c).arrivals.length < 48 → (s.core c).kittyLen = 0 →
      (t.core c).arrivals = (s.core c).arrivals ++ [{ r with entered := s.cycle - 1, taker := none }] ∧
      Due t (s.cycle - 1 + lightTransit c (posCore r.origin.pos)) .migrationAnswer (.migrationAnswer r.origin c true))) ∧
  (∀ (s : State) (c : Nat) (r : LightRec) (l : List LightRec), s.msg = .kittyRefill c true → (s.core c).refills = r :: l →
    ∃ t x, exec .kittyRefill s = .next t ∧ (t.core c).refills = l ∧ (t.core c).arrivals = (s.core c).arrivals ++ [x] ∧ x.words.length = 16 ∧ x.entered = s.cycle) ∧
  (∀ (s : State) (p : Pos) (r : LightRec), s.msg = .lightDispatch p → s.dispatchable p = some r →
    s.regionsStuck p r.space r.regions (r.whole || r.kind == 1) = true → exec .lightDispatch s = .next s) ∧
  (∀ (s : State) (p : Pos) (r : LightRec), s.msg = .lightDispatch p → s.dispatchable p = some r →
    s.regionsStuck p r.space r.regions (r.whole || r.kind == 1) = false → ((s.deal r.deal).any (·.counted)) = true → r.kind = 1 →
    ∃ t n, exec .lightDispatch s = .next t ∧ (t.slot p).st = .ready ∧ (t.slot p).notBefore = s.cycle + 8 + 2 * n + 1 ∧
      (t.task p).pc = r.words.getD 7 0) ∧
  (∀ (s : State) (p : Pos) (r : LightRec), s.msg = .lightDispatch p → s.dispatchable p = some r → r.kind = 1 →
    s.regionsStuck p r.space r.regions (r.whole || r.kind == 1) = false → ((s.deal r.deal).any (·.counted)) = false → ∃ t, exec .lightDispatch s = .next t ∧
    (t.slot p).st = .ready ∧ (t.slot p).notBefore = s.cycle + 1 ∧ (t.slot p).serial = (s.slot p).nextSerial.serial ∧ (t.task p).pc = r.words.getD 7 0 ∧
    (∀ n, 1 ≤ n → n ≤ 7 → (t.task p).sreg n = r.words.getD (n - 1) 0) ∧ (t.task p).space = r.space ∧ (t.task p).world = r.world ∧
    (t.task p).deal = r.deal ∧ (t.task p).light = true ∧ (t.core (posCore p)).arrivals = (s.core (posCore p)).arrivals.erase r ∧ t.mem = s.mem) ∧
  -- MIGRATION_SHIP, MIGRATION_ANSWER, RECORD_RESEND, LIGHT_PREEMPT_RECORD
  (∀ (s : State) (k : Tk) (home at_ : Nat) (rs : List Region) (w : Bool),
    (s.msg = .migrationShip k home at_ → s.waitsFor k .migrate = true → (s.quiet k.pos && (s.task k.pos).releaseDone s.cycle && !s.drainStuck k.pos) = false →
      exec .migrationShip s = .next (s.postAt (s.cycle + 1) k.pos .migrationShip (.migrationShip k home at_))) ∧
    (s.msg = .migrationSend k home rs w → s.waitsFor k .migrate = true → exec .migrationShip s = .next (s.shipRecord k home 2 rs w)) ∧
    (s.msg = .migrationAnswer k home true → exec .migrationAnswer s = .next
      (s.modSlot k.pos fun x => { x with shipped := x.shipped.filter (·.origin != k) })) ∧
    (s.msg = .migrationAnswer k home false → exec .migrationAnswer s = .next (s.postAt (s.cycle + 256) k.pos .recordResend (.recordResend k home))) ∧
    (∀ r, s.msg = .recordResend k home → (s.slot k.pos).shipped.find? (·.origin == k) = some r → home ≠ posCore k.pos → exec .recordResend s = .next
      (s.post (s.cycle + lightTransit (posCore k.pos) home + 1) (tieAt home k.pos) .lightRecordArrival (.lightRecord home r))) ∧
    (s.msg = .lightPreempt k rs w → s.isAt k = true → (s.slot k.pos).preempt.isSome = true → exec .lightPreemptRecord s = .next (s.shipRecord k (posCore k.pos) 3 rs w))) ∧
  -- DEALER_ACCEPT of a request whose checks failed; COPY_RUN, BUDGET_PERIOD, COPY_COMPLETE, SPILL_RING_RETURN, CPYM_FOLLOW_ON
  (∀ (s : State) (c : Nat) (a : Accepting), s.msg = .dealerAccept c → (s.core c).dealer.busy = some a → a.code ≠ 0 →
    exec .dealerAccept s = .next (s.dealerAnswer c a a.code)) ∧
  (∀ (s : State) (c q : Nat) (l : List Nat) (x : Copy), s.msg = .copyStart c → (s.core c).fenced = false → (s.core c).halted = false →
    (s.core c).stopped = false → (s.core c).dealer.queue = q :: l → s.hub.copies.look q = some x → x.held = false →
    ((s.core c).dealer.running = false ∨ (x.throttled ≠ 0 ∧ x.throttled ≤ s.cycle)) →
    let u := s.modCore c fun k => { k with dealer := { k.dealer with running := true } }
    exec .copyRun s = .next (u.copyResume q) ∧ exec .budgetPeriod s = .next (u.copyResume q)) ∧
  (∀ (s : State) (k : Nat) (x : Copy), s.msg = .copyComplete k → s.hub.copies.look k = some x → copyDepv x.desc = false → copyDetach x.desc = false →
    ∃ t y, exec .copyComplete s = .next t ∧ t.hub.copies.look k = some y ∧ y.outcome = some (if x.failed then 2 else if x.carried then 1 else 0) ∧
      (t.core x.core).dealer.queue = (s.core x.core).dealer.queue.erase k ∧ (t.core x.core).dealer.running = false ∧
      Due t s.cycle .copyRun (.copyStart x.core) ∧ t.mem = s.mem ∧ t.slots = s.slots) ∧
  (∀ (s : State) (c k : Nat) (l : List Nat), s.msg = .spillReturn c → (s.core c).dealer.spill = k :: l → (s.core c).dealer.queue.length < 32 →
    ∃ t, exec .spillRingReturn s = .next t ∧ (t.core c).dealer.queue = (s.core c).dealer.queue ++ [k] ∧ (t.core c).dealer.spill = l ∧
      Due t s.cycle .copyRun (.copyStart c) ∧ t.mem = s.mem ∧ t.slots = s.slots ∧ t.hub = s.hub) ∧
  (∀ (s : State) (k p : Nat) (x : Copy) (y : Slot), s.msg = .followOn k → s.hub.copies.look k = some x →
    (s.slots.find? fun y => y.2.resident && y.2.task.tags.look x.tag == some k) = some (p, y) →
    (y.commandRoom true = true → exec .cpymFollowOn s = .next ((s.enterCommand p x.cmd.toNat true true (some x.pc.toNat)).postAt s.cycle x.t.pos .copyComplete (.copyComplete k))) ∧
    (y.commandRoom true = false → exec .cpymFollowOn s = .next (s.postAt (s.cycle + 1) x.t.pos .cpymFollowOn (.followOn k)))) ∧
  -- COLL_COMMIT, COLL_RESULT_WRITE of an instance without members' buffers, CWAIT_TIMEOUT
  (∀ (s : State) (k : Nat) (x : Coll), s.msg = .collCommit k → s.hub.colls.look k = some x → x.st = .full → ∃ t y due, exec .collCommit s = .next t ∧
    t.hub.colls.look k = some y ∧ y.st = .committed ∧ y.result = x.combined (s.collGroupOf x.part x.group) ∧ s.cycle + 60 ≤ due ∧ Due t due .collResultWrite (.collWrite k) ∧
    t.mem = s.mem ∧ t.slots = s.slots ∧ t.cores = s.cores) ∧
  (∀ (s : State) (k : Nat) (x : Coll) (p : CollPart), s.msg = .collWrite k → s.hub.colls.look k = some x → x.st = .committed → x.parts = [p] →
    x.waits = [] → p.written = false →
    let n := x.result.length * fmtBytes x.fmt
    let u := s.bufferWrite p (fmtBytes x.fmt) x.result
    (s.bufferFault (posCore p.t.pos) p.space p.world true p.dst n = none → u.hub.colls = s.hub.colls → ∃ t y, exec .collResultWrite s = .next t ∧
      t.hub.colls.look k = some y ∧ y.st = .done ∧ y.parts = [{ p with written := true }] ∧ t.mem = u.mem) ∧
    -- while a page of the buffer has no translation nothing of it is written
    (∀ cause sub va a, s.bufferFault (posCore p.t.pos) p.space p.world true p.dst n = some (cause, sub, va) → classify (posCore p.t.pos) va = .global a →
      p.told = true → exec .collResultWrite s = .next (s.postHub (s.cycle + 1) .collResultWrite (.collWrite k)))) ∧
  (∀ (s : State) (key id : Nat) (k : Tk) (d : Reg) (x : Coll), s.msg = .cwaitTimeout k id d →
    (s.hub.colls.find? fun x => x.2.waits.any fun w => w.1 == k && w.2.1 == id) = some (key, x) →
    exec .cwaitTimeout s = .next ((s.modColl key fun x => { x with waits := x.waits.filter fun w => !(w.1 == k && w.2.1 == id) }).completeWait k id (.coll id)
      (ends d 2))) ∧
  -- DEALER_ACCEPT: a free dealer takes the next slot's request
  (∀ (s : State) (c : Nat), s.msg = .dealerScan c → (s.core c).dealer.busy = none → (s.core c).fenced = false → (s.core c).halted = false →
    (s.core c).dealer.spill.length < 4096 →
    (s.dealerNext c = none → exec .dealerAccept s = .next s) ∧
    (∀ p w r, s.dealerNext c = some p → (s.slot p).mailbox = w :: r → ∃ t a, exec .dealerAccept s = .next t ∧ (t.core c).dealer.busy = some a ∧
      (t.core c).dealer.last = posSlot p ∧ a.slot = posSlot p ∧ a.t = s.tk p ∧ a.kind = w.word.toNat % 4 ∧ a.va = w.word.toNat / 64 * 64 ∧
      a.by_ = w.by_ ∧ a.tag = none ∧ a.held = false ∧ (t.task p).asking = some a.key ∧ Due t s.cycle .dealerAccept (.dealerRead c) ∧ t.mem = s.mem)) ∧
  -- its descriptor is read and checked; one that fails a check skips the waits
  (∀ (s : State) (c : Nat) (a : Accepting), s.msg = .dealerRead c → (s.core c).dealer.busy = some a → a.held = false →
    let owner := ((s.copyOwner a.key 64).map (·.2)).getD {}
    (s.descRead c a owner = .ok none → ∃ t, exec .dealerAccept s = .next t ∧ Due t (s.cycle + 1) .dealerAccept (.dealerRead c) ∧ t.core c = s.core c) ∧
    (∀ h u, s.descRead c a owner = .ok (some (h, u)) → ∃ t code, exec .dealerAccept s = .next t ∧
      (t.core c).dealer.busy = some { a with desc := h.v, code := code } ∧ t.mem = u.mem ∧ (a.bad = true → code = 1) ∧
      (a.bad = false → code = u.copyCode c a.space a.kind h.v h.poison) ∧
      (code = 0 → Due t (u.cycle + h.late) .dealerAccept (.dealerWait c)) ∧ (code ≠ 0 → Due t (u.cycle + h.late + 4) .dealerAccept (.dealerAccept c)))) ∧
  -- its tag is the lowest that its task has free
  (∀ (s : State) (c : Nat) (a : Accepting) (who : Tk) (x : Task) (g : Nat), a.tag = none → s.copyOwner a.key 64 = some (who, x) → g < 64 →
    x.tags.look g = none → (∀ j, j < g → x.tags.look j ≠ none) → ∃ u, s.dealerTag c a = some ({ a with tag := some g }, u) ∧ u.mem = s.mem) ∧
  (∀ (s : State) (c : Nat) (a : Accepting), s.msg = .dealerWait c → (s.core c).dealer.busy = some a → s.dealerTag c a = none →
    ∃ t, exec .dealerAccept s = .next t ∧ Due t (s.cycle + 1) .dealerAccept (.dealerWait c) ∧ t.core c = s.core c) ∧
  -- acceptance
  (∀ (s : State) (c g : Nat) (a : Accepting), s.msg = .dealerAccept c → (s.core c).dealer.busy = some a → a.code = 0 → a.tag = some g →
    let p := mkPos c a.slot
    let accepted (t : State) : Prop := ∃ y, t.hub.copies.look a.key = some y ∧ y.desc = a.desc ∧ y.kind = a.kind ∧ y.tag = g ∧ y.core = c ∧ y.t = a.t ∧
      y.est = max s.cycle (((s.lastCopy c).map (·.est)).getD 0) + s.copyLead y (copySrc a.desc) (copyDst a.desc) + (copyBytes a.kind a.desc + 63) / 64 ∧
      y.promise = promiseWord y.est g ∧ (t.core c).dealer.busy = none ∧
      (t.slot p).mailbox = (s.slot p).mailbox.drop (if a.kind = 2 then 2 else 1) ∧
      (∀ id d, a.by_ = some (id, d) → Due t (s.cycle + 4) .classBCompletion (.classBCompletion a.t id (ends d y.promise))) ∧
      (a.by_ = none → (t.slot p).returns = (s.slot p).returns ++ [word y.promise]) ∧ Due t s.cycle .copyRun (.copyStart c)
    ((s.core c).dealer.queue.length < 32 → (s.core c).dealer.spill = [] → ∃ t, exec .dealerAccept s = .next t ∧ accepted t ∧
      (t.core c).dealer.queue = (s.core c).dealer.queue ++ [a.key] ∧ (t.core c).dealer.spill = [] ∧ t.mem = s.mem) ∧
    (∀ pl, 32 ≤ (s.core c).dealer.queue.length →
      s.hubPlace (s.core c).dealer.space a.world true ((s.core c).dealer.base + 64 * ((s.core c).dealer.spillN % 4096)) = .ok pl →
      ∃ t, exec .dealerAccept s = .next t ∧ (t.core c).dealer.spill = (s.core c).dealer.spill ++ [a.key] ∧
        (t.core c).dealer.queue = (s.core c).dealer.queue ∧ (t.core c).dealer.busy = none) ∧
    -- a ring page that is not there stops the request for the steward
    (∀ cause sub, 32 ≤ (s.core c).dealer.queue.length →
      s.hubPlace (s.core c).dealer.space a.world true ((s.core c).dealer.base + 64 * ((s.core c).dealer.spillN % 4096)) = .error (cause, sub) →
      exec .dealerAccept s = .next (s.dealerFault a 0x43 0 ((s.core c).dealer.base + 64 * ((s.core c).dealer.spillN % 4096)) 1 (s.core c).dealer.space a.world)))

/-- R8, R96, R97, R98, R101, R226, R317, R344, R449, R451, R452, R456, R462, R464, R474, R477 to R480, R486, R493: what stewards do to a partition's cores, pages, tasks and dies. -/
def Obligations.EventsOfStewards : Prop :=
  -- MAP_EXECUTABLE and PAGE_SCAN
  (∀ (s : State) (part n va k : Nat) (w : Bool), s.msg = .mapExecutable part n va k w →
    ((s.space n).part ≠ part → exec .mapExecutable s = .next (s.refuseSteward part 0)) ∧
    ((s.space n).part = part → s.module_.scans = [] → 2 ^ 21 < k → ∃ t, exec .mapExecutable s = .next t ∧ t.module_.scans = [] ∧
      t.module_.scanned = s.module_.scanned ∧ t.hub.rejects = s.hub.rejects ++ [toBytes 32 (rejectRecord s.cycle n va 0 0 { reason := 0x10 })]) ∧
    ((s.space n).part = part → s.module_.scans ≠ [] → exec .mapExecutable s = .next
      { s with module_ := { s.module_ with scans := s.module_.scans ++ [{ part := part, space := n, va := va, n := k, bad := w }] } })) ∧
  (∀ (s : State) (q : ScanReq), s.msg = .pageScan → s.module_.scans = [q] → q.pages.length ≤ q.page + 1 → q.frames.length ≤ q.page + 1 →
    (scanPage (s.frameWords (q.frames.getD q.page 0)) [] 0 = none → q.bad = false → ∃ t, exec .pageScan s = .next t ∧ t.module_.scans = [] ∧
      t.module_.scanned = (s.module_.scanned ++ q.frames).eraseDups ∧ t.hub = s.hub ∧ t.mem = s.mem) ∧
    (∀ k w f, scanPage (s.frameWords (q.frames.getD q.page 0)) [] 0 = some (k, w, f) → ∃ t, exec .pageScan s = .next t ∧ t.module_.scans = [] ∧
      t.module_.scanned = s.module_.scanned ∧ t.mem = s.mem ∧
      t.hub.rejects = s.hub.rejects ++ [toBytes 32 (rejectRecord s.cycle q.space (q.pages.getD q.page 0 * 4096 + 4 * k) w k f)])) ∧
  -- RESUME of a slot parked with its record and without a tile run
  (∀ (s : State) (k : Tk) (r : FaultRec), (s.saved.any fun y => y.t == k) = false → s.isAt k = true → (s.slot k.pos).pending? = some r →
    (s.slot k.pos).preempt = none → (s.slot k.pos).st = .parked → (s.task k.pos).wait = some .fault → (s.task k.pos).runs = [] →
    (s.msg = .resumeRetry k → ∃ t, exec .resumeRetry s = .next t ∧ (t.slot k.pos).st = .ready ∧ (t.slot k.pos).pending? = none ∧
      (t.task k.pos).pc = (s.task k.pos).pc ∧ (t.task k.pos).regs = (s.task k.pos).regs ∧ t.mem = s.mem ∧ t.hub = s.hub ∧ ∀ p, p ≠ k.pos → t.slot p = s.slot p) ∧
    (s.msg = .resumeSkip k → ∃ t, exec .resumeSkip s = .next t ∧ (t.slot k.pos).st = .ready ∧ (t.slot k.pos).pending? = none ∧
      (t.task k.pos).pc = (s.task k.pos).resume.getD ((s.task k.pos).pc + 4) ∧ (t.task k.pos).regs = (s.task k.pos).regs ∧ t.mem = s.mem ∧ t.hub = s.hub ∧
      ∀ p, p ≠ k.pos → t.slot p = s.slot p) ∧
    (s.msg = .resumeEnd k → exec .resumeEnd s = .next ((((s.dropRuns k.pos).modSlot k.pos fun x =>
      { x with pending? := none, preempt := none, endRes := false, task := { x.task with err := true } }).park k.pos .exiting).exitPoll
        (((s.dropRuns k.pos).modSlot k.pos fun x => { x with pending? := none, preempt := none, endRes := false, task := { x.task with err := true } }).tk k.pos)))) ∧
  -- PREEMPT and PREEMPT_SAVE_COMPLETE
  (∀ (s : State) (p : Pos), s.msg = .preempt p → (s.slot p).resident = true → (s.slot p).endRes = false → (s.slot p).preempt = none →
    (s.agenda.any fun e => e.msg == .preemptGo p) = false → (s.task p).jointIn = false → exec .preempt s = .next
      ((s.modSlot p fun x => { x with preempt := some s.cycle }).post (s.cycle + 1) 0 .preempt (.preemptGo p))) ∧
  -- a save that may take the last place of q7 lets a push of a lower slot in the same cycle come before it
  (∀ (s : State) (k : Tk), s.msg = .preemptSaveComplete k none → s.isAt k = true → (s.slot k.pos).preempt.isSome = true →
    s.eventTight (mkPos (posCore k.pos) 0) = true →
    exec .preemptSaveComplete s = .next (s.post (s.cycle + 1) 0 .preemptSaveComplete (.preemptSaveComplete k (some s.cycle)))) ∧
  (∀ (s : State) (k : Tk) (a : Option Nat), s.msg = .preemptSaveComplete k a → (a = none → s.eventTight (mkPos (posCore k.pos) 0) = false) → s.isAt k = true → (s.slot k.pos).preempt.isSome = true → posSlot k.pos ≠ 0 →
    (s.slot (mkPos (posCore k.pos) 0)).evq.length < 16 →
    ((s.slot (mkPos (posCore k.pos) 0)).evqAt = a.getD s.cycle → ∀ x ∈ (s.slot (mkPos (posCore k.pos) 0)).evqFrom, x ≤ posSlot k.pos) →
    (s.task k.pos).jointIn = false → ∃ u y back, (u : State).saved = s.saved ++ [y] ∧ y.t = k ∧
      y.task = { s.task k.pos with runs := (s.task k.pos).runs.map fun r => { r with sent := false } } ∧ y.cmds = (s.slot k.pos).cmds ∧ y.comps = (s.slot k.pos).comps ∧ y.run = (s.slot k.pos).mrun ∧ (u.slot k.pos).st = .empty ∧
      (u.slot (mkPos (posCore k.pos) 0)).evq = (s.slot (mkPos (posCore k.pos) 0)).evq
        ++ [eventWord 3 (posSlot k.pos) (s.task k.pos).deal (s.task k.pos).index] ∧
      exec .preemptSaveComplete s = .next { ((u.schedule (posCore k.pos)).schedule back) with cycle := s.cycle }) ∧
  -- UNPIN, PAGEFREE, PAGETAKE
  (∀ (s : State) (part c n pg : Nat) (w : WPage), s.diePart (coreDie c) = part → (s.space n).part = part →
    (s.msg = .unpin part c n pg → s.agentBusy = false → s.mem.wpages.look (wpageKey c n pg) = some w →
      exec .unpin s = .next (s.postHub (s.cycle + 200 + (if w.bank.isSome && w.dirty then 64 else 0)) .unpin (.unpinEnd c n pg))) ∧
    (s.msg = .unpinEnd c n pg → s.pageBusy c n pg = false → exec .unpin s = .next (s.unpinPage c n pg true)) ∧
    (s.msg = .pagefree part c pg → pg < 768 → (s.core c).bankUse.get 0 (pg / 4) = 1 → s.bankTaken c pg = false → pg ∉ (s.core c).free → s.mem.refills = [] →
      exec .pagefree s = .next (s.modCore c fun k => { k with free := k.free ++ [pg] })) ∧
    (s.msg = .pagetake part c pg → exec .pagetake s = .next (s.modCore c fun k => { k with free := k.free.erase pg }))) ∧
  (∀ (s : State) (part c pg : Nat), s.diePart (coreDie c) ≠ part →
    (s.msg = .pagefree part c pg → exec .pagefree s = .next (s.refuseSteward part 0)) ∧
    (s.msg = .pagetake part c pg → exec .pagetake s = .next (s.refuseSteward part 0))) ∧
  -- UNMAP
  (∀ (s : State) (part n pg count : Nat) (force evict : Bool), s.msg = .unmap part n pg count force evict → (s.space n).part = part → s.agentBusy = false →
    (count = 0 ∨ 2 ^ 32 < count ∨ 2 ^ 45 < pg + count → exec .unmap s = .next (s.unmapReply 2 0)) ∧
    (count ≠ 0 → count ≤ 2 ^ 32 → pg + count ≤ 2 ^ 45 → n < 4096 →
      (s.pinnedIn n pg count ≠ [] → force = false → exec .unmap s = .next (s.unmapReply 1 (s.pinnedIn n pg count).length)) ∧
      (s.pinnedIn n pg count = [] → ∃ t due spans, exec .unmap s = .next t ∧ Due t due .unmap (.unmapWait n pg count evict spans [])))) ∧
  (∀ (s u : State) (n pg count : Nat) (spans : List (Nat × Nat)) (pins : List (Nat × Nat × Option Nat × Option Nat)),
    s.msg = .unmapWait n pg count false spans pins → s.inUse n spans = false → State.forcePages n pins s = ([], u) →
    exec .unmap s = .next ((u.forgetScans spans).unmapReply 0 0)) ∧
  (∀ (s : State) (n pg count : Nat) (evict : Bool) (spans : List (Nat × Nat)) (pins : List (Nat × Nat × Option Nat × Option Nat)),
    s.msg = .unmapWait n pg count evict spans pins → s.inUse n spans = true →
    exec .unmap s = .next (s.postHub (s.cycle + 1) .unmap (.unmapWait n pg count evict spans pins))) ∧
  -- RESET and CORDON_RETURN of a core without a cordon
  (∀ (s : State) (part c : Nat), s.diePart (coreDie c) = part → bit (s.core c).cordon.toNat 63 = false →
    (s.msg = .reset part c → (s.core c).halted = false → exec .reset s = .next
      ((s.modCore c fun k => { k with halted := true }).post (s.cycle + 2) 0 .reset (.resetFence [c] true))) ∧
    (s.msg = .cordonReturn part c → coreDie c ∉ s.module_.lostDies → (s.core c).fenced = true →
      (s.cycle < (s.core c).resetEnd → exec .cordonReturn s = .next (s.postHub (s.core c).resetEnd .cordonReturn (.cordonReturn part c))) ∧
      ((s.core c).resetEnd ≤ s.cycle → ∃ u : State, (u.core c).fenced = false ∧ (u.core c).halted = false ∧ (u.core c).stopped = s.partHalted (s.diePart (coreDie c)) ∧
        (u.slot (mkPos c 0)).st = .ready ∧ u.task (mkPos c 0) = bankerTask c ∧ exec .cordonReturn s = .next (u.setEligible c true)))) ∧
  (∀ (s : State) (part c : Nat), s.diePart (coreDie c) ≠ part →
    (s.msg = .reset part c → exec .reset s = .next (s.refuseSteward part 0)) ∧
    (s.msg = .cordonReturn part c → exec .cordonReturn s = .next (s.refuseSteward part 0))) ∧
  -- DIE_RESET, DIE_LOST, RETURN
  (∀ (s : State) (part die : Nat), die < 4 → die ∉ s.module_.lostDies →
    (s.msg = .dieReset part die → s.diePart die = part → ∃ t, exec .dieReset s = .next t ∧ die ∈ t.module_.lostDies) ∧
    (s.msg = .dieReset part die → s.diePart die ≠ part → exec .dieReset s = .next (s.refuseSteward part 0)) ∧
    (s.msg = .dieLost die → ∃ t due e, exec .dieLost s = .next t ∧ die ∈ t.module_.lostDies ∧ e.code = 0x30 ∧ e.sev = 3 ∧
      Due t due .errorRecordDelivery (.errorRecord e))) ∧
  (∀ (s : State) (part die : Nat), s.msg = .returnDie part die → s.diePart die = part → die ∈ s.module_.lostDies →
    ((∃ c ∈ dieCores die, (s.core c).fenced = false) → ∃ due, s.cycle < due ∧ exec .returnDie s = .next (s.postHub due .returnDie (.returnDie part die))) ∧
    ((∀ c ∈ dieCores die, (s.core c).fenced = true ∧ (s.core c).resetEnd ≤ s.cycle) → exec .returnDie s = .next
      ((State.poisonLog { s with module_ := { s.module_ with lostDies := s.module_.lostDies.erase die } } die).comeBack (dieCores die)))) ∧
  -- PARTITION_RESET
  (∀ (s : State) (part : Nat), s.msg = .partitionReset part →
    (part ∈ s.module_.hot → s.module_.overLimit = true → exec .partitionReset s = .next (s.refuseSteward part 0)) ∧
    (s.module_.overLimit = false → ∃ t, exec .partitionReset s = .next t ∧ (∀ d c, d < 4 → s.diePart d = part → c ∈ dieCores d → (t.core c).halted = true) ∧
      Due t (s.cycle + 2) .partitionReset (.partitionSteps part) ∧ t.mem = s.mem ∧ t.slots = s.slots ∧ t.hub = s.hub)) ∧
  (∀ (s : State) (part : Nat), s.msg = .partitionSteps part → ∃ t, exec .partitionReset s = .next t ∧ part ∉ t.module_.haltedParts ∧
    part ∉ t.module_.hot ∧ Due t (s.cycle - 2 + 8192) .partitionReset (.partitionBack part)) ∧
  -- a hub command that a steward issues travels to its core or its agent; one that acts in another partition is refused
  (∀ (s : State) (k : Nat) (m : Msg), s.msg = .issued k m →
    exec .resumeRetry s = .next (s.command k .resumeRetry m) ∧ exec .resumeSkip s = .next (s.command k .resumeSkip m) ∧
    exec .resumeEnd s = .next (s.command k .resumeEnd m) ∧ exec .preempt s = .next (s.command k .preempt m) ∧
    exec .pagefree s = .next (s.command k .pagefree m) ∧ exec .pagetake s = .next (s.command k .pagetake m) ∧
    exec .unpin s = .next (s.command k .unpin m) ∧ exec .unmap s = .next (s.command k .unmap m) ∧ exec .reset s = .next (s.command k .reset m) ∧
    exec .cordonReturn s = .next (s.command k .cordonReturn m) ∧ exec .dieReset s = .next (s.command k .dieReset m) ∧
    exec .returnDie s = .next (s.command k .returnDie m) ∧ exec .partitionReset s = .next (s.command k .partitionReset m)) ∧
  (∀ (s : State) (k : Nat) (ev : Instr) (p : Pos), k < 8 →
    (s.diePart (coreDie (posCore p)) = s.stewardPart k →
      s.command k ev (.preempt p) = s.postHub (s.cycle + (60 + 2 * portHops (posCore p) 3 + 80)) ev (.preempt p)) ∧
    (s.diePart (coreDie (posCore p)) ≠ s.stewardPart k → s.command k ev (.preempt p) = s.refuseSteward (s.stewardPart k) 0)) ∧
  (∀ (s : State) (k n page count : Nat) (force evict : Bool) (ev : Instr), k < 8 →
    s.command k ev (.unmap (s.stewardPart k) n page count force evict) =
      s.postHub (s.cycle + 1) ev (.unmap (s.stewardPart k) n page count force evict)) ∧
  -- ERRINJ
  (∀ (s : State) (c : Nat) (v : Word), s.msg = .errinj c v →
    exec .errinjDisarm s = .next (s.modCore c fun k => { k with errinj := 0, injCount := 0 }) ∧
    exec .errinjAccumulator s = .next (s.modCore c fun k => { k with errinj := BitVec.ofNat 64 (v.toNat / 2 ^ 17 * 2 ^ 17), injCount := 0 }) ∧
    (∀ loc, s.bankLoc c (s.task (mkPos c 0)).space (bits v.toNat 0 22 / 4 * 4) = some loc → ∃ t, exec .errinjScratchpadWord s = .next t ∧
      loc / 4 ∈ t.mem.errWords ∧ t.mem.bytes = s.mem.bytes ∧ (t.core c).errinj = 0 ∧ t.slots = s.slots) ∧
    (1 ≤ bits v.toNat 56 4 → bits v.toNat 56 4 ≤ 14 → bits v.toNat 52 4 ≠ 0 → (s.slot (mkPos c (bits v.toNat 56 4))).resident = true →
      ∃ t, exec .errinjRegister s = .next t ∧ (t.core c).errinj = 0 ∧ t.mem = s.mem ∧ (t.task (mkPos c (bits v.toNat 56 4))).regs = (s.task (mkPos c (bits v.toNat 56 4))).regs ∧
        (s.task (mkPos c (bits v.toNat 56 4))).strikeKey (bits v.toNat 52 4) ∈ (t.task (mkPos c (bits v.toNat 56 4))).struck) ∧
    (∀ key line, (s.heldLines c)[bits v.toNat 0 22]? = some (key, line) → ∃ t, exec .errinjVcacheLine s = .next t ∧ (t.core c).errinj = 0 ∧
      t.mem.bytes = s.mem.bytes ∧ t.slots = s.slots ∧ ∀ x ∈ t.mem.vsets, x.1 = key → ∀ y ∈ x.2, y.line = line → y.err = true) ∧
    ∃ u : State, (u.core c).errinj = 0 ∧ u.mem = s.mem ∧ u.slots = s.slots ∧ exec .errinjCordonReset s = .next (u.beginReset (s.cordonOf c) true)) ∧
  -- LIGHT_UNIT_CONFIG, TRACE_RING_CONTROL, HUB_REGISTER_WRITE
  (∀ (s : State) (part c v : Nat), s.msg = .lightUnitConfig part c v →
    (s.diePart (coreDie c) ≠ part → exec .lightUnitConfig s = .next (s.refuseSlot (mkPos c 0))) ∧
    (s.diePart (coreDie c) = part → ∃ u : State, (u.core c).kbase = bits v 81 35 * 2 ^ 17 ∧ (u.core c).ken = bit v 0 ∧ u.mem = s.mem ∧ u.slots = s.slots ∧
      exec .lightUnitConfig s = .next ((u.refillArrivals c s.cycle).schedule c))) ∧
  (∀ (s : State) (part n : Nat) (on : Bool),
    (s.msg = .traceRing part true n on → n < 128 → s.diePart (n / 32) = part →
      exec .traceRingControl s = .next (s.modMem fun m => { m with rings := m.rings.upd {} n fun g => { g with on := on } })) ∧
    (s.msg = .traceRing part false n on → n < 1024 → s.diePart (coreDie n) = part →
      exec .traceRingControl s = .next (s.modCore n fun c => { c with ring := { c.ring with on := on } }))) ∧
  (∀ (s : State) (k : Nat) (r : HubReg), s.msg = .hubWrite k r → k < 8 →
    let part := s.stewardPart k
    (∀ u, s.setHub part (s.stewardWorld k) r = some u → exec .hubRegisterWrite s = .next u) ∧
    (s.setHub part (s.stewardWorld k) r = none → (∀ loc n v, r ≠ .memory loc n v) → exec .hubRegisterWrite s = .next (s.refuseSteward part 0)) ∧
    (∀ loc n v, r = .memory loc n v → s.setHub part (s.stewardWorld k) r = none → exec .hubRegisterWrite s = .next (s.refuseSteward part loc))) ∧
  -- no write of a steward changes memory of another partition, of the other world, or that is executable
  (∀ (s : State) (part : Nat) (w : Bool) (loc n v : Nat), s.framePart loc ≠ some part ∨ s.secure loc ≠ w ∨ s.meetsCode loc n = true →
    s.setHub part w (.memory loc n v) = none) ∧
  -- FAULT_RECORD_DELIVERY
  (∀ (s : State) (l : List Nat), s.msg = .faultRecordDelivery l → s.partHalted (s.recordPart l) = false → ∃ (t : State) (r : FaultRec), exec .faultRecordDelivery s = .next t ∧
    t.hub.faults.get [] (s.recordPart l) = s.hub.faults.get [] (s.recordPart l) ++ [toBytes 32 r.word] ∧ r.cause = l.getD 3 0 ∧ r.sub = l.getD 4 0 ∧ r.addr = l.getD 1 0 ∧
    r.slot = l.getD 9 0 ∧ t.mem = s.mem ∧ t.slots = s.slots ∧ t.cores = s.cores)

/-- R450, R455, R456, R482 to R484, R487, R488, R490, R491: links, power, boot, the host port, features and error records. -/
def Obligations.EventsOfTheModule : Prop :=
  (∀ (s : State) (l part : Nat) (ok : Bool), s.msg = .linkFrame l ok →
    (s.linkOwner l = none → exec .linkFrame s = .next s) ∧
    (s.linkOwner l = some part → ok = true → ∃ t, exec .linkFrame s = .next t ∧
      (t.module_.links.get {} l).frames = (s.module_.links.get {} l).frames + 1 ∧ t.module_.haltedParts = s.module_.haltedParts ∧
      t.mem = s.mem ∧ t.cores = s.cores ∧ t.slots = s.slots ∧ t.agenda = s.agenda) ∧
    (s.linkOwner l = some part → ok = false → ∃ t e, exec .linkFrame s = .next t ∧ part ∈ t.module_.haltedParts ∧ e.code = 0x40 ∧ e.sev = 4 ∧
      e.part = part ∧ Due t s.cycle .errorRecordDelivery (.errorRecord e))) ∧
  (∀ (s : State) (die : Nat), s.msg = .thermalTrip die → ∃ t e due, exec .thermalTrip s = .next t ∧ t.module_.hot = List.range s.module_.parts ∧
    t.module_.overLimit = true ∧ t.module_.holdBack = true ∧ (∀ p, p < s.module_.parts → p ∈ t.module_.haltedParts) ∧ e.code = 0x60 ∧ e.sev = 4 ∧ e.detail = die ∧
    Due t due .errorRecordDelivery (.errorRecord e)) ∧
  (∀ (s : State) (hot : Bool), s.msg = .junction hot →
    exec .junctionLimitCrossing s = .next { s with module_ := { s.module_ with holdBack := hot, overLimit := hot } }) ∧
  (∀ (s : State) (w : Nat), s.msg = .powerCap w →
    (800 ≤ w → w ≤ 1650 → s.module_.recovery = false → exec .powerCap s = .next { s with module_ := { s.module_ with cap := w } }) ∧
    (w < 800 ∨ 1650 < w → exec .powerCap s = .next s)) ∧
  -- boot
  (∀ s : State, s.msg = .moduleReset → ∃ l : List Pending, (∀ x ∈ l, x.msg.outside = true) ∧
    exec .moduleReset s = .next { State.reset with agenda := l, freeCount := s.freeCount, module_ := s.module_.boot }) ∧
  (∀ (s : State) (v : Nat), s.msg = .startReport → s.module_.booted = some v → ∃ t, exec .startReport s = .next t ∧ t.module_.fuse = max s.module_.fuse v ∧
    t.mem = s.mem ∧ t.cores = s.cores ∧ ∀ c, c < 1024 → (s.slot (mkPos c 0)).st = .empty → (s.core c).fenced = false →
      (t.slot (mkPos c 0)).st = .ready ∧ t.task (mkPos c 0) = bankerTask c) ∧
  (∀ (s : State) (b : List (BitVec 8)), s.msg = .imageUpdate b → exec .imageUpdate s = .next { s with module_ := { s.module_ with imageB := b } }) ∧
  -- error records and time
  (∀ (s : State) (e : ErrRec), s.msg = .errorRecord e →
    (e.code = 0x01 → e.part ∉ s.hub.corrected → exec .errorRecordDelivery s = .next s) ∧
    (e.code ≠ 0x10 → e.code ≠ 0x01 → ∃ t ns, exec .errorRecordDelivery s = .next t ∧
      t.hub.errors = s.hub.errors ++ [toBytes 64 (e.words (s.hub.seqs.get 0 e.part) ns)] ∧
      t.hub.seqs.get 0 e.part = (s.hub.seqs.get 0 e.part + 1) % 65536 ∧ t.mem = s.mem ∧ t.slots = s.slots ∧ t.cores = s.cores)) ∧
  -- an error of the hardware that comes in: one that a unit corrects is counted and reported; an uncorrectable one stays in its line
  (∀ (s : State) (core : Nat), s.msg = .softError core none → ∃ t e, exec .errorRecordDelivery s = .next t ∧ e.code = 0x01 ∧ e.sev = 0 ∧
    Due t (s.cycle + hubTravel core) .errorRecordDelivery (.errorRecord e) ∧ t.mem = s.mem ∧ t.slots = s.slots) ∧
  (∀ (s : State) (core line : Nat), s.msg = .softError core (some line) → ∃ t, exec .errorRecordDelivery s = .next t ∧ line ∈ t.mem.tierErr ∧
    t.mem.bytes = s.mem.bytes ∧ t.slots = s.slots) ∧
  (∀ (s : State) (sec ns : Nat), s.msg = .ptpSample sec ns →
    exec .ptpSample s = .next { s with module_ := { s.module_ with ptp := (s.cycle, sec, ns) :: s.module_.ptp.take 1 } }) ∧
  -- the host port and the fabric ports
  (∀ (s : State) (a : Nat) (bs : List (BitVec 8)) (port : Option Nat), s.msg = .hostWrite a bs port → bs ≠ [] → (port ≠ none ∨ a < hostBar) →
    (s.portReaches port a bs.length = false → exec .hostWrite s = .next s) ∧
    (s.portReaches port a bs.length = true → s.inWorld (s.portSecure port) a bs.length = false ∨ s.meetsCode a bs.length = true →
      exec .hostWrite s = .next (s.refuse (s.portPartOf port a) a (s.portSecure port))) ∧
    (s.portReaches port a bs.length = true → s.inWorld (s.portSecure port) a bs.length = true → s.meetsCode a bs.length = false →
      a / 128 = (a + bs.length - 1) / 128 → exec .hostWrite s = .next (s.hubWrite a bs.length (ofBytes bs)))) ∧
  (∀ (s : State) (name a n : Nat) (port : Option Nat), s.msg = .hostRead name a n port → n ≠ 0 →
    (port = none → hostBar ≤ a → exec .hostRead s = .next
      { s with module_ := { s.module_ with reads := s.module_.reads ++ [(name, (List.range n).map fun k => s.windowByte (a - hostBar + k), false)] } }) ∧
    ((port ≠ none ∨ a < hostBar) → s.portReaches port a n = true → s.inWorld (s.portSecure port) a n = true → ∃ t, exec .hostRead s = .next t ∧
      t.module_.reads = s.module_.reads ++ [(name, s.mem.bytes.bytes a n, s.rangePoisoned a n)] ∧ t.mem.bytes = s.mem.bytes ∧ t.slots = s.slots) ∧
    ((port ≠ none ∨ a < hostBar) → s.portReaches port a n = true → s.inWorld (s.portSecure port) a n = false → ∃ t, exec .hostRead s = .next t ∧
      t.module_.reads = s.module_.reads ++ [(name, List.replicate n 0, true)] ∧ t.mem = s.mem ∧ t.slots = s.slots)) ∧
  -- features and the fabric
  (∀ (s : State) (v : Word),
    (s.msg = .facceptWrite v → s.module_.accepted = false → v &&& ~~~(featWord 0) = 0 → exec .facceptWrite s = .next
      (State.postHub { s with module_ := { s.module_ with accepted := true, faccept := v } } (s.cycle + 1000) .featureEnable (.featureEnable v))) ∧
    (s.msg = .facceptWrite v → s.module_.accepted = true → ∃ t, exec .facceptWrite s = .next t ∧ t.module_.faccept = s.module_.faccept ∧
      t.module_.enabled = s.module_.enabled ∧ t.mem = s.mem ∧ t.slots = s.slots) ∧
    (s.msg = .featureEnable v → exec .featureEnable s = .next { s with module_ := { s.module_ with enabled := s.module_.enabled ||| v } })) ∧
  (∀ (s : State) (port peer : Nat) (rsa slh : Bool), s.msg = .fabricBringUp port peer rsa slh → s.module_.enabled.getLsbD 1 = true → port < 12 →
    s.partHalted (s.module_.portPart.get 0 port) = false →
    (rsa = true → slh = true → ∃ t, exec .fabricBringUp s = .next t ∧ port ∈ t.module_.ports ∧ t.mem = s.mem ∧ t.slots = s.slots ∧ t.hub = s.hub) ∧
    (rsa = false ∨ slh = false → exec .fabricBringUp s = .next (s.refuse (s.module_.portPart.get 0 port) 0 (s.portSecure (some port)))))

/-- R19, R27, R33, R41, R43, R362, R385, R473, R490, Tables 1-9 and 1-10: what module reset leaves. Cycle 0; every slot empty; g registers 0;
permissions of the whole rectangle and no lock; no cordon, no injection, no light slot; what a task starts with: tiles of the start descriptor,
STATUS.FERETRY 1024 and every other control register 0; the scheduler's limits; a power cap of 1650 W. Memory is in its canonical form; that
it reads 0 is the model's choice (log entry 4), and so is 0 for the registers whose reset value the spec does not give (log entry 3). -/
def Obligations.ResetState : Prop :=
  State.reset.cycle = 0 ∧ State.reset.agenda = [] ∧ (∀ p, State.reset.slot p = {} ∧ (State.reset.slot p).st = .empty) ∧
  (∀ c k, (State.reset.core c).g.get 0 k = 0 ∧ (State.reset.core c).cordon = 0 ∧ (State.reset.core c).errinj = 0 ∧ (State.reset.core c).lmask = 0 ∧
    (State.reset.core c).ken = false ∧ (State.reset.core c).qcfgReg k = 0xFF00 ∧ (State.reset.core c).ring.on = false) ∧
  (∀ r, ({} : Task).sreg r = 0 ∧ ({} : Task).tile r = BitVec.ofNat 128 (8 * 2 ^ 64)) ∧
  (∀ c, ({} : Task).cr c = if c = 0 then 1024 * 2 ^ 32 else 0) ∧ ({} : Task).inTrap = false ∧ ({} : Task).hand = [] ∧ ({} : Task).callers = [] ∧
  (∀ part, State.reset.hub.limits.get {} part = { slots := 14, tiles := 16, accs := 16, pages := 768, wstack := 917504 }) ∧
  State.reset.module_.cap = 1650 ∧ State.reset.module_.faccept = 0 ∧
  State.reset.mem.bytes.wf = true ∧ ∀ a, State.reset.mem.bytes.byteAt a = 0

/-- R17, R18, R78, R83, R85, R102: with nothing due, the next position whose turn it is issues the instruction that its word at the pc encodes,
as `exec` of it at the state in which that position is the current one; an event that is due is taken first. The word comes from the page
whose fetched instructions the slot holds. -/
def Obligations.StepRunsDecodedInstruction : Prop :=
  (∀ (s : State) (p : Pos) (i : Instr) (f : FetchTr), (∀ x ∈ s.agenda.head?, s.cycle < x.due) → s.nextTurn = some p →
    let v := ({ s with cur := p, turn := posCore p + 1, msg := .none } : State).setMy fun t => (t.tidy s.cycle).dropKept
    (s.slot p).st = .ready → (s.slot p).notBefore ≤ s.cycle → (s.slot p).preempt = none → (s.slot p).endRes = false → v.my.runs = [] → v.my.waitsResult s.cycle = false → v.my.trapWaits = false →
    (v.mySlot.fetchTr.find? fun f => f.space == v.my.space && f.page == v.my.pc.toNat / 4096) = some f →
    -- the word: of the slot's own copy of a page whose frame has been unmapped since, else of memory
    ∀ w, (f.words[v.my.pc.toNat % 4096 / 4]? = some w ∨
      f.words = [] ∧ v.poisoned (f.frame * 4096 + v.my.pc.toNat % 4096) = false ∧ w = v.bytesAt (f.frame * 4096 + v.my.pc.toNat % 4096) 4) →
    decodeWord w = .ok i → v.issueWaits i = false → step s = exec i v) ∧
  (∀ (s : State) (x : Pending) (l : List Pending), s.agenda = x :: l → x.due ≤ s.cycle → step s = exec x.ev { s with agenda := l, msg := x.msg }) ∧
  (∀ s : State, (∀ x ∈ s.agenda.head?, s.cycle < x.due) → s.nextTurn = none → step s = .next s.tick ∧ s.tick.cycle = s.cycle + 1)

/-- R78 to R81, Tables 3-1 to 3-31: words of several families written out from their encodings decode to the instructions they stand for,
and a word with the zero major, a reserved major or an unused field that is not zero decodes to none. -/
def Obligations.WordsDecode : Prop :=
  decodeTableWord 32 (0x01 * 2 ^ 26 + 3 * 2 ^ 21 + 4 * 2 ^ 16 + 5 * 2 ^ 11) = some (.add 3 4 5) ∧
  decodeTableWord 32 (0x02 * 2 ^ 26 + 3 * 2 ^ 21 + 4 * 2 ^ 16 + 0xFFFF) = some (.addi 3 4 (-1)) ∧
  decodeTableWord 32 0x68640122 = some (.ld 3 4 4 2 2) ∧
  decodeTableWord 32 0xBC780000 = some (.qtry 3 24) ∧
  decodeTableWord 32 0xC9E45000 = some (.barw 15 4 10) ∧
  decodeTableWord 32 0xD0642810 = some (.cpym 3 4 5) ∧
  decodeTableWord 32 0x90C08000 = some (.tdef 3 4) ∧
  decodeTableWord 32 0xB4048000 = some (.mma 0 1 2) ∧
  decodeTableWord 32 0xB8140800 = some (.mdrain 0 5) ∧
  decodeTableWord 32 0xFC046001 = some (.tlbinv 4 1) ∧
  decodeTableWord 32 0 = none ∧ decodeTableWord 32 (0x0E * 2 ^ 26) = none ∧ decodeTableWord 32 (0x01 * 2 ^ 26 + 1) = none

/-- R79 to R81, R99, R100: every encoded instruction has one word and every word at most one instruction: what encodes is recovered by decoding
with every operand as it was, for all well-formed operand values; a word that decodes is the encoding of the well-formed instruction it gives. -/
def Obligations.EncodeDecodeRoundTrip : Prop :=
  (∀ (i : Instr) (w : Nat), i.wellFormed = true → encode i = some w → w < 2 ^ 32 ∧ decodeWord w = .ok i ∧ decodeTableWord 32 w = some i) ∧
  (∀ (i : Instr) (w : Nat), decodeWord w = .ok i → encode i = some w ∧ i.wellFormed = true)

/-- The byte memory keeps its canonical form (addresses strictly rising, no listed byte equal to what an unlisted one reads as) in every
step, so that equal memories are equal data. The form is the model's own (log entry 4). -/
def Obligations.MemoryCanonicalKeptByEveryStep : Prop :=
  ∀ s t : State, s.mem.bytes.wf = true → step s = .next t → t.mem.bytes.wf = true
end

