-- ==== Sys2Proof/Laws/Dispatch.lean ====
section
/-! SUPPORT. What exec is for each instruction: its meaning. -/
namespace Sys2Proof.Machine

@[simp] theorem exec_add (d a b) (s : State) : exec (.add d a b) s = Sys2Proof.Machine.execAdd d a b s := rfl
@[simp] theorem exec_sub (d a b) (s : State) : exec (.sub d a b) s = Sys2Proof.Machine.execSub d a b s := rfl
@[simp] theorem exec_and (d a b) (s : State) : exec (.and d a b) s = Sys2Proof.Machine.execAnd d a b s := rfl
@[simp] theorem exec_or (d a b) (s : State) : exec (.or d a b) s = Sys2Proof.Machine.execOr d a b s := rfl
@[simp] theorem exec_xor (d a b) (s : State) : exec (.xor d a b) s = Sys2Proof.Machine.execXor d a b s := rfl
@[simp] theorem exec_andn (d a b) (s : State) : exec (.andn d a b) s = Sys2Proof.Machine.execAndn d a b s := rfl
@[simp] theorem exec_sll (d a b) (s : State) : exec (.sll d a b) s = Sys2Proof.Machine.execSll d a b s := rfl
@[simp] theorem exec_srl (d a b) (s : State) : exec (.srl d a b) s = Sys2Proof.Machine.execSrl d a b s := rfl
@[simp] theorem exec_sra (d a b) (s : State) : exec (.sra d a b) s = Sys2Proof.Machine.execSra d a b s := rfl
@[simp] theorem exec_min (d a b) (s : State) : exec (.min d a b) s = Sys2Proof.Machine.execMin d a b s := rfl
@[simp] theorem exec_max (d a b) (s : State) : exec (.max d a b) s = Sys2Proof.Machine.execMax d a b s := rfl
@[simp] theorem exec_minu (d a b) (s : State) : exec (.minu d a b) s = Sys2Proof.Machine.execMinu d a b s := rfl
@[simp] theorem exec_maxu (d a b) (s : State) : exec (.maxu d a b) s = Sys2Proof.Machine.execMaxu d a b s := rfl
@[simp] theorem exec_slt (d a b) (s : State) : exec (.slt d a b) s = Sys2Proof.Machine.execSlt d a b s := rfl
@[simp] theorem exec_sltu (d a b) (s : State) : exec (.sltu d a b) s = Sys2Proof.Machine.execSltu d a b s := rfl
@[simp] theorem exec_cmov (d a b) (s : State) : exec (.cmov d a b) s = Sys2Proof.Machine.execCmov d a b s := rfl
@[simp] theorem exec_clz (d a) (s : State) : exec (.clz d a) s = Sys2Proof.Machine.execClz d a s := rfl
@[simp] theorem exec_ctz (d a) (s : State) : exec (.ctz d a) s = Sys2Proof.Machine.execCtz d a s := rfl
@[simp] theorem exec_popc (d a) (s : State) : exec (.popc d a) s = Sys2Proof.Machine.execPopc d a s := rfl
@[simp] theorem exec_bswap (d a) (s : State) : exec (.bswap d a) s = Sys2Proof.Machine.execBswap d a s := rfl
@[simp] theorem exec_sextB (d a) (s : State) : exec (.sextB d a) s = Sys2Proof.Machine.execSextB d a s := rfl
@[simp] theorem exec_sextH (d a) (s : State) : exec (.sextH d a) s = Sys2Proof.Machine.execSextH d a s := rfl
@[simp] theorem exec_sextW (d a) (s : State) : exec (.sextW d a) s = Sys2Proof.Machine.execSextW d a s := rfl
@[simp] theorem exec_zextB (d a) (s : State) : exec (.zextB d a) s = Sys2Proof.Machine.execZextB d a s := rfl
@[simp] theorem exec_zextH (d a) (s : State) : exec (.zextH d a) s = Sys2Proof.Machine.execZextH d a s := rfl
@[simp] theorem exec_zextW (d a) (s : State) : exec (.zextW d a) s = Sys2Proof.Machine.execZextW d a s := rfl
@[simp] theorem exec_addi (d a imm) (s : State) : exec (.addi d a imm) s = Sys2Proof.Machine.execAddi d a imm s := rfl
@[simp] theorem exec_andi (d a imm) (s : State) : exec (.andi d a imm) s = Sys2Proof.Machine.execAndi d a imm s := rfl
@[simp] theorem exec_ori (d a imm) (s : State) : exec (.ori d a imm) s = Sys2Proof.Machine.execOri d a imm s := rfl
@[simp] theorem exec_xori (d a imm) (s : State) : exec (.xori d a imm) s = Sys2Proof.Machine.execXori d a imm s := rfl
@[simp] theorem exec_slti (d a imm) (s : State) : exec (.slti d a imm) s = Sys2Proof.Machine.execSlti d a imm s := rfl
@[simp] theorem exec_sltiu (d a imm) (s : State) : exec (.sltiu d a imm) s = Sys2Proof.Machine.execSltiu d a imm s := rfl
@[simp] theorem exec_slli (d a sx) (s : State) : exec (.slli d a sx) s = Sys2Proof.Machine.execSlli d a sx s := rfl
@[simp] theorem exec_srli (d a sx) (s : State) : exec (.srli d a sx) s = Sys2Proof.Machine.execSrli d a sx s := rfl
@[simp] theorem exec_srai (d a sx) (s : State) : exec (.srai d a sx) s = Sys2Proof.Machine.execSrai d a sx s := rfl
@[simp] theorem exec_lui (d imm) (s : State) : exec (.lui d imm) s = Sys2Proof.Machine.execLui d imm s := rfl
@[simp] theorem exec_addpc (d imm) (s : State) : exec (.addpc d imm) s = Sys2Proof.Machine.execAddpc d imm s := rfl
@[simp] theorem exec_bfx (d a p l) (s : State) : exec (.bfx d a p l) s = Sys2Proof.Machine.execBfx d a p l s := rfl
@[simp] theorem exec_bfi (d a p l) (s : State) : exec (.bfi d a p l) s = Sys2Proof.Machine.execBfi d a p l s := rfl
@[simp] theorem exec_addx (d a k b) (s : State) : exec (.addx d a k b) s = Sys2Proof.Machine.execAddx d a k b s := rfl
@[simp] theorem exec_mul (d a b) (s : State) : exec (.mul d a b) s = Sys2Proof.Machine.execMul d a b s := rfl
@[simp] theorem exec_mulh (d a b) (s : State) : exec (.mulh d a b) s = Sys2Proof.Machine.execMulh d a b s := rfl
@[simp] theorem exec_mulhu (d a b) (s : State) : exec (.mulhu d a b) s = Sys2Proof.Machine.execMulhu d a b s := rfl
@[simp] theorem exec_madd (d a b) (s : State) : exec (.madd d a b) s = Sys2Proof.Machine.execMadd d a b s := rfl
@[simp] theorem exec_div (d a b n) (s : State) : exec (.div d a b n) s = Sys2Proof.Machine.execDiv d a b n s := rfl
@[simp] theorem exec_divu (d a b n) (s : State) : exec (.divu d a b n) s = Sys2Proof.Machine.execDivu d a b n s := rfl
@[simp] theorem exec_rem (d a b n) (s : State) : exec (.rem d a b n) s = Sys2Proof.Machine.execRem d a b n s := rfl
@[simp] theorem exec_remu (d a b n) (s : State) : exec (.remu d a b n) s = Sys2Proof.Machine.execRemu d a b n s := rfl
@[simp] theorem exec_fadd (d a b m p) (s : State) : exec (.fadd d a b m p) s = Sys2Proof.Machine.execFadd d a b m p s := rfl
@[simp] theorem exec_fsub (d a b m p) (s : State) : exec (.fsub d a b m p) s = Sys2Proof.Machine.execFsub d a b m p s := rfl
@[simp] theorem exec_fmul (d a b m p) (s : State) : exec (.fmul d a b m p) s = Sys2Proof.Machine.execFmul d a b m p s := rfl
@[simp] theorem exec_ffma (d a b m p) (s : State) : exec (.ffma d a b m p) s = Sys2Proof.Machine.execFfma d a b m p s := rfl
@[simp] theorem exec_fdiv (d a b m p n) (s : State) : exec (.fdiv d a b m p n) s = Sys2Proof.Machine.execFdiv d a b m p n s := rfl
@[simp] theorem exec_fsqrt (d a m p n) (s : State) : exec (.fsqrt d a m p n) s = Sys2Proof.Machine.execFsqrt d a m p n s := rfl
@[simp] theorem exec_fcvt (d a k m p) (s : State) : exec (.fcvt d a k m p) s = Sys2Proof.Machine.execFcvt d a k m p s := rfl
@[simp] theorem exec_fmin (d a b p) (s : State) : exec (.fmin d a b p) s = Sys2Proof.Machine.execFmin d a b p s := rfl
@[simp] theorem exec_fmax (d a b p) (s : State) : exec (.fmax d a b p) s = Sys2Proof.Machine.execFmax d a b p s := rfl
@[simp] theorem exec_fcmp (d a b c p) (s : State) : exec (.fcmp d a b c p) s = Sys2Proof.Machine.execFcmp d a b c p s := rfl
@[simp] theorem exec_beq (a b o) (s : State) : exec (.beq a b o) s = Sys2Proof.Machine.execBeq a b o s := rfl
@[simp] theorem exec_bne (a b o) (s : State) : exec (.bne a b o) s = Sys2Proof.Machine.execBne a b o s := rfl
@[simp] theorem exec_blt (a b o) (s : State) : exec (.blt a b o) s = Sys2Proof.Machine.execBlt a b o s := rfl
@[simp] theorem exec_bge (a b o) (s : State) : exec (.bge a b o) s = Sys2Proof.Machine.execBge a b o s := rfl
@[simp] theorem exec_bltu (a b o) (s : State) : exec (.bltu a b o) s = Sys2Proof.Machine.execBltu a b o s := rfl
@[simp] theorem exec_bgeu (a b o) (s : State) : exec (.bgeu a b o) s = Sys2Proof.Machine.execBgeu a b o s := rfl
@[simp] theorem exec_jmp (o) (s : State) : exec (.jmp o) s = Sys2Proof.Machine.execJmp o s := rfl
@[simp] theorem exec_call (o) (s : State) : exec (.call o) s = Sys2Proof.Machine.execCall o s := rfl
@[simp] theorem exec_jr (a) (s : State) : exec (.jr a) s = Sys2Proof.Machine.execJr a s := rfl
@[simp] theorem exec_callr (a) (s : State) : exec (.callr a) s = Sys2Proof.Machine.execCallr a s := rfl
@[simp] theorem exec_ret (s : State) : exec .ret s = Sys2Proof.Machine.execRet s := rfl
@[simp] theorem exec_loop (a o) (s : State) : exec (.loop a o) s = Sys2Proof.Machine.execLoop a o s := rfl
@[simp] theorem exec_ld (d a o z n) (s : State) : exec (.ld d a o z n) s = Sys2Proof.Machine.execLd d a o z n s := rfl
@[simp] theorem exec_lds (d a o z n) (s : State) : exec (.lds d a o z n) s = Sys2Proof.Machine.execLds d a o z n s := rfl
@[simp] theorem exec_st (v a o z) (s : State) : exec (.st v a o z) s = Sys2Proof.Machine.execSt v a o z s := rfl
@[simp] theorem exec_lda (d a o z sx) (s : State) : exec (.lda d a o z sx) s = Sys2Proof.Machine.execLda d a o z sx s := rfl
@[simp] theorem exec_stl (v a o z sx) (s : State) : exec (.stl v a o z sx) s = Sys2Proof.Machine.execStl v a o z sx s := rfl
@[simp] theorem exec_ldx (d a b z n) (s : State) : exec (.ldx d a b z n) s = Sys2Proof.Machine.execLdx d a b z n s := rfl
@[simp] theorem exec_stx (v a b z) (s : State) : exec (.stx v a b z) s = Sys2Proof.Machine.execStx v a b z s := rfl
@[simp] theorem exec_stp (v a o z) (s : State) : exec (.stp v a o z) s = Sys2Proof.Machine.execStp v a o z s := rfl
@[simp] theorem exec_ldfe (d a o z) (s : State) : exec (.ldfe d a o z) s = Sys2Proof.Machine.execLdfe d a o z s := rfl
@[simp] theorem exec_ldf (d a o z) (s : State) : exec (.ldf d a o z) s = Sys2Proof.Machine.execLdf d a o z s := rfl
@[simp] theorem exec_stfe (v a o z) (s : State) : exec (.stfe v a o z) s = Sys2Proof.Machine.execStfe v a o z s := rfl
@[simp] theorem exec_stf (v a o z) (s : State) : exec (.stf v a o z) s = Sys2Proof.Machine.execStf v a o z s := rfl
@[simp] theorem exec_feq (d a o z) (s : State) : exec (.feq d a o z) s = Sys2Proof.Machine.execFeq d a o z s := rfl
@[simp] theorem exec_feset (v a o z) (s : State) : exec (.feset v a o z) s = Sys2Proof.Machine.execFeset v a o z s := rfl
@[simp] theorem exec_amoadd (d a b sx r z) (s : State) : exec (.amoadd d a b sx r z) s = Sys2Proof.Machine.execAmoadd d a b sx r z s := rfl
@[simp] theorem exec_amoand (d a b sx r z) (s : State) : exec (.amoand d a b sx r z) s = Sys2Proof.Machine.execAmoand d a b sx r z s := rfl
@[simp] theorem exec_amoor (d a b sx r z) (s : State) : exec (.amoor d a b sx r z) s = Sys2Proof.Machine.execAmoor d a b sx r z s := rfl
@[simp] theorem exec_amoxor (d a b sx r z) (s : State) : exec (.amoxor d a b sx r z) s = Sys2Proof.Machine.execAmoxor d a b sx r z s := rfl
@[simp] theorem exec_amomin (d a b sx r z) (s : State) : exec (.amomin d a b sx r z) s = Sys2Proof.Machine.execAmomin d a b sx r z s := rfl
@[simp] theorem exec_amomax (d a b sx r z) (s : State) : exec (.amomax d a b sx r z) s = Sys2Proof.Machine.execAmomax d a b sx r z s := rfl
@[simp] theorem exec_amominu (d a b sx r z) (s : State) : exec (.amominu d a b sx r z) s = Sys2Proof.Machine.execAmominu d a b sx r z s := rfl
@[simp] theorem exec_amomaxu (d a b sx r z) (s : State) : exec (.amomaxu d a b sx r z) s = Sys2Proof.Machine.execAmomaxu d a b sx r z s := rfl
@[simp] theorem exec_amoswap (d a b sx r z) (s : State) : exec (.amoswap d a b sx r z) s = Sys2Proof.Machine.execAmoswap d a b sx r z s := rfl
@[simp] theorem exec_amocas (d a b sx r z) (s : State) : exec (.amocas d a b sx r z) s = Sys2Proof.Machine.execAmocas d a b sx r z s := rfl
@[simp] theorem exec_amofadd (d a b sx r z) (s : State) : exec (.amofadd d a b sx r z) s = Sys2Proof.Machine.execAmofadd d a b sx r z s := rfl
@[simp] theorem exec_hold (d a sx r z) (s : State) : exec (.hold d a sx r z) s = Sys2Proof.Machine.execHold d a sx r z s := rfl
@[simp] theorem exec_pass (a b sx r z) (s : State) : exec (.pass a b sx r z) s = Sys2Proof.Machine.execPass a b sx r z s := rfl
@[simp] theorem exec_fence (sx k) (s : State) : exec (.fence sx k) s = Sys2Proof.Machine.execFence sx k s := rfl
@[simp] theorem exec_scfence (sx) (s : State) : exec (.scfence sx) s = Sys2Proof.Machine.execScfence sx s := rfl
@[simp] theorem exec_wack (s : State) : exec .wack s = Sys2Proof.Machine.execWack s := rfl
@[simp] theorem exec_clean (a b sx) (s : State) : exec (.clean a b sx) s = Sys2Proof.Machine.execClean a b sx s := rfl
@[simp] theorem exec_inval (a b sx) (s : State) : exec (.inval a b sx) s = Sys2Proof.Machine.execInval a b sx s := rfl
@[simp] theorem exec_discard (a) (s : State) : exec (.discard a) s = Sys2Proof.Machine.execDiscard a s := rfl
@[simp] theorem exec_pref (a) (s : State) : exec (.pref a) s = Sys2Proof.Machine.execPref a s := rfl
@[simp] theorem exec_waita (d a b) (s : State) : exec (.waita d a b) s = Sys2Proof.Machine.execWaita d a b s := rfl
@[simp] theorem exec_wake (a) (s : State) : exec (.wake a) s = Sys2Proof.Machine.execWake a s := rfl
@[simp] theorem exec_cdef (d a b) (s : State) : exec (.cdef d a b) s = Sys2Proof.Machine.execCdef d a b s := rfl
@[simp] theorem exec_cparent (d a b) (s : State) : exec (.cparent d a b) s = Sys2Proof.Machine.execCparent d a b s := rfl
@[simp] theorem exec_cresize (d a b) (s : State) : exec (.cresize d a b) s = Sys2Proof.Machine.execCresize d a b s := rfl
@[simp] theorem exec_cbind (d a b) (s : State) : exec (.cbind d a b) s = Sys2Proof.Machine.execCbind d a b s := rfl
@[simp] theorem exec_cunbind (d a) (s : State) : exec (.cunbind d a) s = Sys2Proof.Machine.execCunbind d a s := rfl
@[simp] theorem exec_cquery (d a) (s : State) : exec (.cquery d a) s = Sys2Proof.Machine.execCquery d a s := rfl
@[simp] theorem exec_cdrop (d a) (s : State) : exec (.cdrop d a) s = Sys2Proof.Machine.execCdrop d a s := rfl
@[simp] theorem exec_tdef (t sx) (s : State) : exec (.tdef t sx) s = Sys2Proof.Machine.execTdef t sx s := rfl
@[simp] theorem exec_tshape (t sx) (s : State) : exec (.tshape t sx) s = Sys2Proof.Machine.execTshape t sx s := rfl
@[simp] theorem exec_tbase (t sx) (s : State) : exec (.tbase t sx) s = Sys2Proof.Machine.execTbase t sx s := rfl
@[simp] theorem exec_tgetHalf0 (a sx) (s : State) : exec (.tgetHalf0 a sx) s = Sys2Proof.Machine.execTgetHalf0 a sx s := rfl
@[simp] theorem exec_tgetHalf1 (a sx) (s : State) : exec (.tgetHalf1 a sx) s = Sys2Proof.Machine.execTgetHalf1 a sx s := rfl
@[simp] theorem exec_tld (t sx n) (s : State) : exec (.tld t sx n) s = Sys2Proof.Machine.execTld t sx n s := rfl
@[simp] theorem exec_tst (t sx n) (s : State) : exec (.tst t sx n) s = Sys2Proof.Machine.execTst t sx n s := rfl
@[simp] theorem exec_tgath (t a sx n) (s : State) : exec (.tgath t a sx n) s = Sys2Proof.Machine.execTgath t a sx n s := rfl
@[simp] theorem exec_tscat (t a sx n) (s : State) : exec (.tscat t a sx n) s = Sys2Proof.Machine.execTscat t a sx n s := rfl
@[simp] theorem exec_tcpy (t a n) (s : State) : exec (.tcpy t a n) s = Sys2Proof.Machine.execTcpy t a n s := rfl
@[simp] theorem exec_tfill (t sx n) (s : State) : exec (.tfill t sx n) s = Sys2Proof.Machine.execTfill t sx n s := rfl
@[simp] theorem exec_ttrans (t a n) (s : State) : exec (.ttrans t a n) s = Sys2Proof.Machine.execTtrans t a n s := rfl
@[simp] theorem exec_trot (t a sx n) (s : State) : exec (.trot t a sx n) s = Sys2Proof.Machine.execTrot t a sx n s := rfl
@[simp] theorem exec_tadd (d a b x n) (s : State) : exec (.tadd d a b x n) s = Sys2Proof.Machine.execTadd d a b x n s := rfl
@[simp] theorem exec_tsub (d a b x n) (s : State) : exec (.tsub d a b x n) s = Sys2Proof.Machine.execTsub d a b x n s := rfl
@[simp] theorem exec_tmul (d a b x n) (s : State) : exec (.tmul d a b x n) s = Sys2Proof.Machine.execTmul d a b x n s := rfl
@[simp] theorem exec_tfma (d a b c x n) (s : State) : exec (.tfma d a b c x n) s = Sys2Proof.Machine.execTfma d a b c x n s := rfl
@[simp] theorem exec_tdiv (d a b x n) (s : State) : exec (.tdiv d a b x n) s = Sys2Proof.Machine.execTdiv d a b x n s := rfl
@[simp] theorem exec_tmax (d a b n) (s : State) : exec (.tmax d a b n) s = Sys2Proof.Machine.execTmax d a b n s := rfl
@[simp] theorem exec_tmin (d a b n) (s : State) : exec (.tmin d a b n) s = Sys2Proof.Machine.execTmin d a b n s := rfl
@[simp] theorem exec_tabs (d a n) (s : State) : exec (.tabs d a n) s = Sys2Proof.Machine.execTabs d a n s := rfl
@[simp] theorem exec_tneg (d a n) (s : State) : exec (.tneg d a n) s = Sys2Proof.Machine.execTneg d a n s := rfl
@[simp] theorem exec_texp (d a x n) (s : State) : exec (.texp d a x n) s = Sys2Proof.Machine.execTexp d a x n s := rfl
@[simp] theorem exec_tlog (d a x n) (s : State) : exec (.tlog d a x n) s = Sys2Proof.Machine.execTlog d a x n s := rfl
@[simp] theorem exec_trsq (d a x n) (s : State) : exec (.trsq d a x n) s = Sys2Proof.Machine.execTrsq d a x n s := rfl
@[simp] theorem exec_trcp (d a x n) (s : State) : exec (.trcp d a x n) s = Sys2Proof.Machine.execTrcp d a x n s := rfl
@[simp] theorem exec_ttanh (d a x n) (s : State) : exec (.ttanh d a x n) s = Sys2Proof.Machine.execTtanh d a x n s := rfl
@[simp] theorem exec_terf (d a x n) (s : State) : exec (.terf d a x n) s = Sys2Proof.Machine.execTerf d a x n s := rfl
@[simp] theorem exec_tiadd (d a b x n) (s : State) : exec (.tiadd d a b x n) s = Sys2Proof.Machine.execTiadd d a b x n s := rfl
@[simp] theorem exec_tisub (d a b x n) (s : State) : exec (.tisub d a b x n) s = Sys2Proof.Machine.execTisub d a b x n s := rfl
@[simp] theorem exec_timul (d a b x n) (s : State) : exec (.timul d a b x n) s = Sys2Proof.Machine.execTimul d a b x n s := rfl
@[simp] theorem exec_tand (d a b n) (s : State) : exec (.tand d a b n) s = Sys2Proof.Machine.execTand d a b n s := rfl
@[simp] theorem exec_tor (d a b n) (s : State) : exec (.tor d a b n) s = Sys2Proof.Machine.execTor d a b n s := rfl
@[simp] theorem exec_txor (d a b n) (s : State) : exec (.txor d a b n) s = Sys2Proof.Machine.execTxor d a b n s := rfl
@[simp] theorem exec_tshl (d a b n) (s : State) : exec (.tshl d a b n) s = Sys2Proof.Machine.execTshl d a b n s := rfl
@[simp] theorem exec_tshr (d a b n) (s : State) : exec (.tshr d a b n) s = Sys2Proof.Machine.execTshr d a b n s := rfl
@[simp] theorem exec_tadds (d a sx x n) (s : State) : exec (.tadds d a sx x n) s = Sys2Proof.Machine.execTadds d a sx x n s := rfl
@[simp] theorem exec_tmuls (d a sx x n) (s : State) : exec (.tmuls d a sx x n) s = Sys2Proof.Machine.execTmuls d a sx x n s := rfl
@[simp] theorem exec_tfmas (d a sx x n) (s : State) : exec (.tfmas d a sx x n) s = Sys2Proof.Machine.execTfmas d a sx x n s := rfl
@[simp] theorem exec_tmaxs (d a sx n) (s : State) : exec (.tmaxs d a sx n) s = Sys2Proof.Machine.execTmaxs d a sx n s := rfl
@[simp] theorem exec_tcmp (d a b k n) (s : State) : exec (.tcmp d a b k n) s = Sys2Proof.Machine.execTcmp d a b k n s := rfl
@[simp] theorem exec_tsel (d a b c n) (s : State) : exec (.tsel d a b c n) s = Sys2Proof.Machine.execTsel d a b c n s := rfl
@[simp] theorem exec_trsum (d a n) (s : State) : exec (.trsum d a n) s = Sys2Proof.Machine.execTrsum d a n s := rfl
@[simp] theorem exec_tcsum (d a n) (s : State) : exec (.tcsum d a n) s = Sys2Proof.Machine.execTcsum d a n s := rfl
@[simp] theorem exec_trmax (d a n) (s : State) : exec (.trmax d a n) s = Sys2Proof.Machine.execTrmax d a n s := rfl
@[simp] theorem exec_tcmax (d a n) (s : State) : exec (.tcmax d a n) s = Sys2Proof.Machine.execTcmax d a n s := rfl
@[simp] theorem exec_tsum (d a n) (s : State) : exec (.tsum d a n) s = Sys2Proof.Machine.execTsum d a n s := rfl
@[simp] theorem exec_tcvt (d a r x n) (s : State) : exec (.tcvt d a r x n) s = Sys2Proof.Machine.execTcvt d a r x n s := rfl
@[simp] theorem exec_tpack (d a n) (s : State) : exec (.tpack d a n) s = Sys2Proof.Machine.execTpack d a n s := rfl
@[simp] theorem exec_tunpack (d a n) (s : State) : exec (.tunpack d a n) s = Sys2Proof.Machine.execTunpack d a n s := rfl
@[simp] theorem exec_trand (d sx n) (s : State) : exec (.trand d sx n) s = Sys2Proof.Machine.execTrand d sx n s := rfl
@[simp] theorem exec_tdrop (d a sx n) (s : State) : exec (.tdrop d a sx n) s = Sys2Proof.Machine.execTdrop d a sx n s := rfl
@[simp] theorem exec_mma (c a b) (s : State) : exec (.mma c a b) s = Sys2Proof.Machine.execMma c a b s := rfl
@[simp] theorem exec_mmat (c a b) (s : State) : exec (.mmat c a b) s = Sys2Proof.Machine.execMmat c a b s := rfl
@[simp] theorem exec_mmas (c a b) (s : State) : exec (.mmas c a b) s = Sys2Proof.Machine.execMmas c a b s := rfl
@[simp] theorem exec_mmaj (c a b) (s : State) : exec (.mmaj c a b) s = Sys2Proof.Machine.execMmaj c a b s := rfl
@[simp] theorem exec_mzero (c) (s : State) : exec (.mzero c) s = Sys2Proof.Machine.execMzero c s := rfl
@[simp] theorem exec_mload (c a) (s : State) : exec (.mload c a) s = Sys2Proof.Machine.execMload c a s := rfl
@[simp] theorem exec_mdrain (c a) (s : State) : exec (.mdrain c a) s = Sys2Proof.Machine.execMdrain c a s := rfl
@[simp] theorem exec_mchk (c) (s : State) : exec (.mchk c) s = Sys2Proof.Machine.execMchk c s := rfl
@[simp] theorem exec_mstat (c sx) (s : State) : exec (.mstat c sx) s = Sys2Proof.Machine.execMstat c sx s := rfl
@[simp] theorem exec_mwait (c) (s : State) : exec (.mwait c) s = Sys2Proof.Machine.execMwait c s := rfl
@[simp] theorem exec_mjoin (sx) (s : State) : exec (.mjoin sx) s = Sys2Proof.Machine.execMjoin sx s := rfl
@[simp] theorem exec_mleave (s : State) : exec .mleave s = Sys2Proof.Machine.execMleave s := rfl
@[simp] theorem exec_qtry (d a) (s : State) : exec (.qtry d a) s = Sys2Proof.Machine.execQtry d a s := rfl
@[simp] theorem exec_qcfg (a n) (s : State) : exec (.qcfg a n) s = Sys2Proof.Machine.execQcfg a n s := rfl
@[simp] theorem exec_start (a) (s : State) : exec (.start a) s = Sys2Proof.Machine.execStart a s := rfl
@[simp] theorem exec_reap (d a) (s : State) : exec (.reap d a) s = Sys2Proof.Machine.execReap d a s := rfl
@[simp] theorem exec_spawn (d a) (s : State) : exec (.spawn d a) s = Sys2Proof.Machine.execSpawn d a s := rfl
@[simp] theorem exec_exit (s : State) : exec .exit s = Sys2Proof.Machine.execExit s := rfl
@[simp] theorem exec_sleep (a) (s : State) : exec (.sleep a) s = Sys2Proof.Machine.execSleep a s := rfl
@[simp] theorem exec_launch (d a b) (s : State) : exec (.launch d a b) s = Sys2Proof.Machine.execLaunch d a b s := rfl
@[simp] theorem exec_coord (d k) (s : State) : exec (.coord d k) s = Sys2Proof.Machine.execCoord d k s := rfl
@[simp] theorem exec_depinit (a b) (s : State) : exec (.depinit a b) s = Sys2Proof.Machine.execDepinit a b s := rfl
@[simp] theorem exec_depdec (a) (s : State) : exec (.depdec a) s = Sys2Proof.Machine.execDepdec a s := rfl
@[simp] theorem exec_barw (d a b) (s : State) : exec (.barw d a b) s = Sys2Proof.Machine.execBarw d a b s := rfl
@[simp] theorem exec_bara (a) (s : State) : exec (.bara a) s = Sys2Proof.Machine.execBara a s := rfl
@[simp] theorem exec_barq (d a) (s : State) : exec (.barq d a) s = Sys2Proof.Machine.execBarq d a s := rfl
@[simp] theorem exec_probe (d a) (s : State) : exec (.probe d a) s = Sys2Proof.Machine.execProbe d a s := rfl
@[simp] theorem exec_drain (a) (s : State) : exec (.drain a) s = Sys2Proof.Machine.execDrain a s := rfl
@[simp] theorem exec_coll (d a) (s : State) : exec (.coll d a) s = Sys2Proof.Machine.execColl d a s := rfl
@[simp] theorem exec_cwait (d a) (s : State) : exec (.cwait d a) s = Sys2Proof.Machine.execCwait d a s := rfl
@[simp] theorem exec_evgath (d a) (s : State) : exec (.evgath d a) s = Sys2Proof.Machine.execEvgath d a s := rfl
@[simp] theorem exec_cpy (d a) (s : State) : exec (.cpy d a) s = Sys2Proof.Machine.execCpy d a s := rfl
@[simp] theorem exec_cpym (d a b) (s : State) : exec (.cpym d a b) s = Sys2Proof.Machine.execCpym d a b s := rfl
@[simp] theorem exec_cpyd (d a) (s : State) : exec (.cpyd d a) s = Sys2Proof.Machine.execCpyd d a s := rfl
@[simp] theorem exec_cpyq (d a) (s : State) : exec (.cpyq d a) s = Sys2Proof.Machine.execCpyq d a s := rfl
@[simp] theorem exec_trap (c) (s : State) : exec (.trap c) s = Sys2Proof.Machine.execTrap c s := rfl
@[simp] theorem exec_eret (s : State) : exec .eret s = Sys2Proof.Machine.execEret s := rfl
@[simp] theorem exec_crrd (d r) (s : State) : exec (.crrd d r) s = Sys2Proof.Machine.execCrrd d r s := rfl
@[simp] theorem exec_crwr (a r) (s : State) : exec (.crwr a r) s = Sys2Proof.Machine.execCrwr a r s := rfl
@[simp] theorem exec_crset (a r) (s : State) : exec (.crset a r) s = Sys2Proof.Machine.execCrset a r s := rfl
@[simp] theorem exec_crclr (a r) (s : State) : exec (.crclr a r) s = Sys2Proof.Machine.execCrclr a r s := rfl
@[simp] theorem exec_tlbinv (a e) (s : State) : exec (.tlbinv a e) s = Sys2Proof.Machine.execTlbinv a e s := rfl
@[simp] theorem exec_iflush (s : State) : exec .iflush s = Sys2Proof.Machine.execIflush s := rfl
@[simp] theorem exec_idle (s : State) : exec .idle s = Sys2Proof.Machine.execIdle s := rfl
@[simp] theorem exec_brk (c) (s : State) : exec (.brk c) s = Sys2Proof.Machine.execBrk c s := rfl
@[simp] theorem exec_deferredFaultTaken (s : State) : exec .deferredFaultTaken s = Sys2Proof.Machine.execDeferredFaultTaken s := rfl
@[simp] theorem exec_longResultReady (s : State) : exec .longResultReady s = Sys2Proof.Machine.execLongResultReady s := rfl
@[simp] theorem exec_windowSpill (s : State) : exec .windowSpill s = Sys2Proof.Machine.execWindowSpill s := rfl
@[simp] theorem exec_windowFill (s : State) : exec .windowFill s = Sys2Proof.Machine.execWindowFill s := rfl
@[simp] theorem exec_channelWordArrival (s : State) : exec .channelWordArrival s = Sys2Proof.Machine.execChannelWordArrival s := rfl
@[simp] theorem exec_scratchpadPageRefill (s : State) : exec .scratchpadPageRefill s = Sys2Proof.Machine.execScratchpadPageRefill s := rfl
@[simp] theorem exec_remoteAccessArrival (s : State) : exec .remoteAccessArrival s = Sys2Proof.Machine.execRemoteAccessArrival s := rfl
@[simp] theorem exec_remoteStoreAck (s : State) : exec .remoteStoreAck s = Sys2Proof.Machine.execRemoteStoreAck s := rfl
@[simp] theorem exec_feRequestRetry (s : State) : exec .feRequestRetry s = Sys2Proof.Machine.execFeRequestRetry s := rfl
@[simp] theorem exec_reservationGrant (s : State) : exec .reservationGrant s = Sys2Proof.Machine.execReservationGrant s := rfl
@[simp] theorem exec_reservationTimeout (s : State) : exec .reservationTimeout s = Sys2Proof.Machine.execReservationTimeout s := rfl
@[simp] theorem exec_postedWriteApply (s : State) : exec .postedWriteApply s = Sys2Proof.Machine.execPostedWriteApply s := rfl
@[simp] theorem exec_postedWriteAck (s : State) : exec .postedWriteAck s = Sys2Proof.Machine.execPostedWriteAck s := rfl
@[simp] theorem exec_monitorWake (s : State) : exec .monitorWake s = Sys2Proof.Machine.execMonitorWake s := rfl
@[simp] theorem exec_vcacheAccessArrival (s : State) : exec .vcacheAccessArrival s = Sys2Proof.Machine.execVcacheAccessArrival s := rfl
@[simp] theorem exec_lineFill (s : State) : exec .lineFill s = Sys2Proof.Machine.execLineFill s := rfl
@[simp] theorem exec_homeProbe (s : State) : exec .homeProbe s = Sys2Proof.Machine.execHomeProbe s := rfl
@[simp] theorem exec_configAgentTake (s : State) : exec .configAgentTake s = Sys2Proof.Machine.execConfigAgentTake s := rfl
@[simp] theorem exec_reconfigResume (s : State) : exec .reconfigResume s = Sys2Proof.Machine.execReconfigResume s := rfl
@[simp] theorem exec_vcacheStatusWrite (s : State) : exec .vcacheStatusWrite s = Sys2Proof.Machine.execVcacheStatusWrite s := rfl
@[simp] theorem exec_callServe (s : State) : exec .callServe s = Sys2Proof.Machine.execCallServe s := rfl
@[simp] theorem exec_callReply (s : State) : exec .callReply s = Sys2Proof.Machine.execCallReply s := rfl
@[simp] theorem exec_notifyWord (s : State) : exec .notifyWord s = Sys2Proof.Machine.execNotifyWord s := rfl
@[simp] theorem exec_queueSlotBind (s : State) : exec .queueSlotBind s = Sys2Proof.Machine.execQueueSlotBind s := rfl
@[simp] theorem exec_dealIntake (s : State) : exec .dealIntake s = Sys2Proof.Machine.execDealIntake s := rfl
@[simp] theorem exec_tableReadRetry (s : State) : exec .tableReadRetry s = Sys2Proof.Machine.execTableReadRetry s := rfl
@[simp] theorem exec_completionRecordWrite (s : State) : exec .completionRecordWrite s = Sys2Proof.Machine.execCompletionRecordWrite s := rfl
@[simp] theorem exec_completionRecordRetry (s : State) : exec .completionRecordRetry s = Sys2Proof.Machine.execCompletionRecordRetry s := rfl
@[simp] theorem exec_placementEvent (s : State) : exec .placementEvent s = Sys2Proof.Machine.execPlacementEvent s := rfl
@[simp] theorem exec_dealMappingFix (s : State) : exec .dealMappingFix s = Sys2Proof.Machine.execDealMappingFix s := rfl
@[simp] theorem exec_agingTick (s : State) : exec .agingTick s = Sys2Proof.Machine.execAgingTick s := rfl
@[simp] theorem exec_sliceExpiry (s : State) : exec .sliceExpiry s = Sys2Proof.Machine.execSliceExpiry s := rfl
@[simp] theorem exec_budgetPeriod (s : State) : exec .budgetPeriod s = Sys2Proof.Machine.execBudgetPeriod s := rfl
@[simp] theorem exec_counterRequestArrival (s : State) : exec .counterRequestArrival s = Sys2Proof.Machine.execCounterRequestArrival s := rfl
@[simp] theorem exec_outboundEventDelivery (s : State) : exec .outboundEventDelivery s = Sys2Proof.Machine.execOutboundEventDelivery s := rfl
@[simp] theorem exec_exitEventPush (s : State) : exec .exitEventPush s = Sys2Proof.Machine.execExitEventPush s := rfl
@[simp] theorem exec_channelAgentRequest (s : State) : exec .channelAgentRequest s = Sys2Proof.Machine.execChannelAgentRequest s := rfl
@[simp] theorem exec_barrierComplete (s : State) : exec .barrierComplete s = Sys2Proof.Machine.execBarrierComplete s := rfl
@[simp] theorem exec_barrierTimeout (s : State) : exec .barrierTimeout s = Sys2Proof.Machine.execBarrierTimeout s := rfl
@[simp] theorem exec_matrixOpStart (s : State) : exec .matrixOpStart s = Sys2Proof.Machine.execMatrixOpStart s := rfl
@[simp] theorem exec_kBlockComplete (s : State) : exec .kBlockComplete s = Sys2Proof.Machine.execKBlockComplete s := rfl
@[simp] theorem exec_matrixCommandComplete (s : State) : exec .matrixCommandComplete s = Sys2Proof.Machine.execMatrixCommandComplete s := rfl
@[simp] theorem exec_jointOpStart (s : State) : exec .jointOpStart s = Sys2Proof.Machine.execJointOpStart s := rfl
@[simp] theorem exec_jointGroupForm (s : State) : exec .jointGroupForm s = Sys2Proof.Machine.execJointGroupForm s := rfl
@[simp] theorem exec_mapExecutable (s : State) : exec .mapExecutable s = Sys2Proof.Machine.execMapExecutable s := rfl
@[simp] theorem exec_pageScan (s : State) : exec .pageScan s = Sys2Proof.Machine.execPageScan s := rfl
@[simp] theorem exec_lightRecordArrival (s : State) : exec .lightRecordArrival s = Sys2Proof.Machine.execLightRecordArrival s := rfl
@[simp] theorem exec_kittyRefill (s : State) : exec .kittyRefill s = Sys2Proof.Machine.execKittyRefill s := rfl
@[simp] theorem exec_lightDispatch (s : State) : exec .lightDispatch s = Sys2Proof.Machine.execLightDispatch s := rfl
@[simp] theorem exec_migrationShip (s : State) : exec .migrationShip s = Sys2Proof.Machine.execMigrationShip s := rfl
@[simp] theorem exec_migrationAnswer (s : State) : exec .migrationAnswer s = Sys2Proof.Machine.execMigrationAnswer s := rfl
@[simp] theorem exec_recordResend (s : State) : exec .recordResend s = Sys2Proof.Machine.execRecordResend s := rfl
@[simp] theorem exec_lightPreemptRecord (s : State) : exec .lightPreemptRecord s = Sys2Proof.Machine.execLightPreemptRecord s := rfl
@[simp] theorem exec_dealerAccept (s : State) : exec .dealerAccept s = Sys2Proof.Machine.execDealerAccept s := rfl
@[simp] theorem exec_copyRun (s : State) : exec .copyRun s = Sys2Proof.Machine.execCopyRun s := rfl
@[simp] theorem exec_copyComplete (s : State) : exec .copyComplete s = Sys2Proof.Machine.execCopyComplete s := rfl
@[simp] theorem exec_cpymFollowOn (s : State) : exec .cpymFollowOn s = Sys2Proof.Machine.execCpymFollowOn s := rfl
@[simp] theorem exec_spillRingReturn (s : State) : exec .spillRingReturn s = Sys2Proof.Machine.execSpillRingReturn s := rfl
@[simp] theorem exec_sleepExpiry (s : State) : exec .sleepExpiry s = Sys2Proof.Machine.execSleepExpiry s := rfl
@[simp] theorem exec_collCommit (s : State) : exec .collCommit s = Sys2Proof.Machine.execCollCommit s := rfl
@[simp] theorem exec_collResultWrite (s : State) : exec .collResultWrite s = Sys2Proof.Machine.execCollResultWrite s := rfl
@[simp] theorem exec_cwaitTimeout (s : State) : exec .cwaitTimeout s = Sys2Proof.Machine.execCwaitTimeout s := rfl
@[simp] theorem exec_translationWalk (s : State) : exec .translationWalk s = Sys2Proof.Machine.execTranslationWalk s := rfl
@[simp] theorem exec_resumeRetry (s : State) : exec .resumeRetry s = Sys2Proof.Machine.execResumeRetry s := rfl
@[simp] theorem exec_resumeSkip (s : State) : exec .resumeSkip s = Sys2Proof.Machine.execResumeSkip s := rfl
@[simp] theorem exec_resumeEnd (s : State) : exec .resumeEnd s = Sys2Proof.Machine.execResumeEnd s := rfl
@[simp] theorem exec_preempt (s : State) : exec .preempt s = Sys2Proof.Machine.execPreempt s := rfl
@[simp] theorem exec_preemptSaveComplete (s : State) : exec .preemptSaveComplete s = Sys2Proof.Machine.execPreemptSaveComplete s := rfl
@[simp] theorem exec_unpin (s : State) : exec .unpin s = Sys2Proof.Machine.execUnpin s := rfl
@[simp] theorem exec_pagefree (s : State) : exec .pagefree s = Sys2Proof.Machine.execPagefree s := rfl
@[simp] theorem exec_pagetake (s : State) : exec .pagetake s = Sys2Proof.Machine.execPagetake s := rfl
@[simp] theorem exec_unmap (s : State) : exec .unmap s = Sys2Proof.Machine.execUnmap s := rfl
@[simp] theorem exec_reset (s : State) : exec .reset s = Sys2Proof.Machine.execReset s := rfl
@[simp] theorem exec_cordonReturn (s : State) : exec .cordonReturn s = Sys2Proof.Machine.execCordonReturn s := rfl
@[simp] theorem exec_dieReset (s : State) : exec .dieReset s = Sys2Proof.Machine.execDieReset s := rfl
@[simp] theorem exec_dieLost (s : State) : exec .dieLost s = Sys2Proof.Machine.execDieLost s := rfl
@[simp] theorem exec_returnDie (s : State) : exec .returnDie s = Sys2Proof.Machine.execReturnDie s := rfl
@[simp] theorem exec_partitionReset (s : State) : exec .partitionReset s = Sys2Proof.Machine.execPartitionReset s := rfl
@[simp] theorem exec_linkFrame (s : State) : exec .linkFrame s = Sys2Proof.Machine.execLinkFrame s := rfl
@[simp] theorem exec_thermalTrip (s : State) : exec .thermalTrip s = Sys2Proof.Machine.execThermalTrip s := rfl
@[simp] theorem exec_powerCap (s : State) : exec .powerCap s = Sys2Proof.Machine.execPowerCap s := rfl
@[simp] theorem exec_moduleReset (s : State) : exec .moduleReset s = Sys2Proof.Machine.execModuleReset s := rfl
@[simp] theorem exec_startReport (s : State) : exec .startReport s = Sys2Proof.Machine.execStartReport s := rfl
@[simp] theorem exec_imageUpdate (s : State) : exec .imageUpdate s = Sys2Proof.Machine.execImageUpdate s := rfl
@[simp] theorem exec_errorRecordDelivery (s : State) : exec .errorRecordDelivery s = Sys2Proof.Machine.execErrorRecordDelivery s := rfl
@[simp] theorem exec_ptpSample (s : State) : exec .ptpSample s = Sys2Proof.Machine.execPtpSample s := rfl
@[simp] theorem exec_hostWrite (s : State) : exec .hostWrite s = Sys2Proof.Machine.execHostWrite s := rfl
@[simp] theorem exec_hostRead (s : State) : exec .hostRead s = Sys2Proof.Machine.execHostRead s := rfl
@[simp] theorem exec_facceptWrite (s : State) : exec .facceptWrite s = Sys2Proof.Machine.execFacceptWrite s := rfl
@[simp] theorem exec_featureEnable (s : State) : exec .featureEnable s = Sys2Proof.Machine.execFeatureEnable s := rfl
@[simp] theorem exec_fabricBringUp (s : State) : exec .fabricBringUp s = Sys2Proof.Machine.execFabricBringUp s := rfl
@[simp] theorem exec_errinjDisarm (s : State) : exec .errinjDisarm s = Sys2Proof.Machine.execErrinjDisarm s := rfl
@[simp] theorem exec_errinjAccumulator (s : State) : exec .errinjAccumulator s = Sys2Proof.Machine.execErrinjAccumulator s := rfl
@[simp] theorem exec_errinjScratchpadWord (s : State) : exec .errinjScratchpadWord s = Sys2Proof.Machine.execErrinjScratchpadWord s := rfl
@[simp] theorem exec_errinjRegister (s : State) : exec .errinjRegister s = Sys2Proof.Machine.execErrinjRegister s := rfl
@[simp] theorem exec_errinjVcacheLine (s : State) : exec .errinjVcacheLine s = Sys2Proof.Machine.execErrinjVcacheLine s := rfl
@[simp] theorem exec_errinjCordonReset (s : State) : exec .errinjCordonReset s = Sys2Proof.Machine.execErrinjCordonReset s := rfl
@[simp] theorem exec_qcfgDefault (s : State) : exec .qcfgDefault s = Sys2Proof.Machine.execQcfgDefault s := rfl
@[simp] theorem exec_lightUnitConfig (s : State) : exec .lightUnitConfig s = Sys2Proof.Machine.execLightUnitConfig s := rfl
@[simp] theorem exec_traceRingControl (s : State) : exec .traceRingControl s = Sys2Proof.Machine.execTraceRingControl s := rfl
@[simp] theorem exec_hubRegisterWrite (s : State) : exec .hubRegisterWrite s = Sys2Proof.Machine.execHubRegisterWrite s := rfl
@[simp] theorem exec_homeSliceRequestArrival (s : State) : exec .homeSliceRequestArrival s = Sys2Proof.Machine.execHomeSliceRequestArrival s := rfl
@[simp] theorem exec_homeBufferFill (s : State) : exec .homeBufferFill s = Sys2Proof.Machine.execHomeBufferFill s := rfl
@[simp] theorem exec_classBCompletion (s : State) : exec .classBCompletion s = Sys2Proof.Machine.execClassBCompletion s := rfl
@[simp] theorem exec_probeCircuitEnd (s : State) : exec .probeCircuitEnd s = Sys2Proof.Machine.execProbeCircuitEnd s := rfl
@[simp] theorem exec_junctionLimitCrossing (s : State) : exec .junctionLimitCrossing s = Sys2Proof.Machine.execJunctionLimitCrossing s := rfl
@[simp] theorem exec_faultRecordDelivery (s : State) : exec .faultRecordDelivery s = Sys2Proof.Machine.execFaultRecordDelivery s := rfl

end Sys2Proof.Machine
end

