-- ==== Sys2Proof/Laws/Table.lean ====
section
/-! SUPPORT. Laws of sparse tables and of byte memory: a read after a write, and that every memory operation keeps the canonical form. -/
namespace Sys2Proof.Machine

-- tables

@[simp] theorem Tbl.look_nil (k : Nat) : Tbl.look ([] : Tbl α) k = none := rfl

@[simp] theorem Tbl.look_put_self (t : Tbl α) (k : Nat) (v : α) : Tbl.look (Tbl.put t k v) k = some v := by
  induction t with
  | nil => simp [Tbl.put, Tbl.look]
  | cons x r ih =>
    obtain ⟨j, w⟩ := x
    simp only [Tbl.put]
    split
    · simp [Tbl.look]
    · split
      · simp [Tbl.look]
      · simp only [Tbl.look]
        rw [if_neg (by omega), ih]

theorem Tbl.look_put_of_ne (t : Tbl α) {k j : Nat} (v : α) (h : j ≠ k) : Tbl.look (Tbl.put t k v) j = Tbl.look t j := by
  induction t with
  | nil => simp [Tbl.put, Tbl.look, h.symm]
  | cons x r ih =>
    obtain ⟨i, w⟩ := x
    simp only [Tbl.put]
    split
    · subst_vars
      simp [Tbl.look, h.symm]
    · split
      · simp only [Tbl.look]
        rw [if_neg (fun e => h e.symm)]
      · simp only [Tbl.look]
        rw [ih]

@[simp] theorem Tbl.get_put_self (t : Tbl α) (d : α) (k : Nat) (v : α) : Tbl.get (Tbl.put t k v) d k = v := by
  simp [Tbl.get]

theorem Tbl.get_put_of_ne (t : Tbl α) (d : α) {k j : Nat} (v : α) (h : j ≠ k) : Tbl.get (Tbl.put t k v) d j = Tbl.get t d j := by
  simp [Tbl.get, Tbl.look_put_of_ne t v h]

theorem Tbl.get_put (t : Tbl α) (d : α) (k j : Nat) (v : α) :
    Tbl.get (Tbl.put t k v) d j = if j = k then v else Tbl.get t d j := by
  split
  · subst_vars
    simp
  · exact Tbl.get_put_of_ne t d v ‹_›

@[simp] theorem Tbl.get_upd_self (t : Tbl α) (d : α) (k : Nat) (f : α → α) : Tbl.get (Tbl.upd t d k f) d k = f (Tbl.get t d k) := by
  simp [Tbl.upd]

theorem Tbl.get_upd (t : Tbl α) (d : α) (k j : Nat) (f : α → α) :
    Tbl.get (Tbl.upd t d k f) d j = if j = k then f (Tbl.get t d k) else Tbl.get t d j := Tbl.get_put t d k j _

theorem Tbl.look_del (t : Tbl α) (k j : Nat) : Tbl.look (Tbl.del t k) j = if j = k then none else Tbl.look t j := by
  induction t with
  | nil => simp [Tbl.del]
  | cons x r ih =>
    obtain ⟨i, w⟩ := x
    simp only [Tbl.del, Tbl.look]
    split
    · rw [ih]
      split
      · rfl
      · rw [if_neg (by omega)]
    · simp only [Tbl.look, ih]
      split
      · rw [if_neg (by omega)]
      · rfl

-- bytes

@[simp] theorem Memory.byteAt_nil (a : Nat) : Memory.byteAt [] a = Memory.blank := rfl

theorem Memory.wfFrom_mono {m : Memory} {a b : Nat} (h : a ≤ b) (w : Memory.wfFrom b m = true) : Memory.wfFrom a m = true := by
  cases m with
  | nil => rfl
  | cons x r =>
    obtain ⟨j, c⟩ := x
    simp only [Memory.wfFrom, Bool.and_eq_true, decide_eq_true_eq] at w ⊢
    exact ⟨⟨by omega, w.1.2⟩, w.2⟩

/-- Below the least listed address everything is blank. -/
theorem Memory.byteAt_below {m : Memory} {lo a : Nat} (w : Memory.wfFrom lo m = true) (h : a < lo) : Memory.byteAt m a = Memory.blank := by
  induction m generalizing lo with
  | nil => rfl
  | cons x r ih =>
    obtain ⟨j, c⟩ := x
    simp only [Memory.wfFrom, Bool.and_eq_true, decide_eq_true_eq] at w
    simp only [Memory.byteAt]
    rw [if_neg (by omega)]
    exact ih w.2 (by omega)

theorem Memory.put_wfFrom {m : Memory} {lo a : Nat} (b : BitVec 8) (w : Memory.wfFrom lo m = true) (h : lo ≤ a) :
    Memory.wfFrom lo (m.put a b) = true := by
  induction m generalizing lo with
  | nil =>
    simp only [Memory.put]
    split
    · rfl
    · simp [Memory.wfFrom, h, *]
  | cons x r ih =>
    obtain ⟨j, c⟩ := x
    have w' := w
    simp only [Memory.wfFrom, Bool.and_eq_true, decide_eq_true_eq] at w
    simp only [Memory.put]
    split
    · split
      · exact w'
      · simp only [Memory.wfFrom, Bool.and_eq_true, decide_eq_true_eq]
        exact ⟨⟨h, by simp [*]⟩, ⟨by omega, w.1.2⟩, w.2⟩
    · split
      · split
        · exact Memory.wfFrom_mono (by omega) w.2
        · simp only [Memory.wfFrom, Bool.and_eq_true, decide_eq_true_eq]
          exact ⟨⟨h, by simp [*]⟩, by simp_all⟩
      · simp only [Memory.wfFrom, Bool.and_eq_true, decide_eq_true_eq]
        exact ⟨w.1, ih w.2 (by omega)⟩

/-- A write of one byte keeps the canonical form. -/
theorem Memory.put_wf {m : Memory} (a : Nat) (b : BitVec 8) (w : m.wf = true) : (m.put a b).wf = true :=
  Memory.put_wfFrom b w (Nat.zero_le a)

/-- A write of bytes keeps the canonical form. -/
theorem Memory.putBytes_wf {m : Memory} (a : Nat) (bs : List (BitVec 8)) (w : m.wf = true) : (m.putBytes a bs).wf = true := by
  induction bs generalizing m a with
  | nil => exact w
  | cons b r ih => exact ih _ (Memory.put_wf a b w)

/-- A masked write keeps the canonical form. -/
theorem Memory.putMasked_wf {m : Memory} (a : Nat) (bs : List (BitVec 8 × Bool)) (w : m.wf = true) : (m.putMasked a bs).wf = true := by
  induction bs generalizing m a with
  | nil => exact w
  | cons b r ih =>
    obtain ⟨b, k⟩ := b
    simp only [Memory.putMasked]
    refine ih _ ?_
    split
    · exact Memory.put_wf a b w
    · exact w

theorem Memory.filter_wfFrom {m : Memory} {lo : Nat} (p : Host.Cell → Bool) (w : Memory.wfFrom lo m = true) :
    Memory.wfFrom lo (m.filter p) = true := by
  induction m generalizing lo with
  | nil => rfl
  | cons x r ih =>
    obtain ⟨j, c⟩ := x
    simp only [Memory.wfFrom, Bool.and_eq_true, decide_eq_true_eq] at w
    simp only [List.filter_cons]
    split
    · simp only [Memory.wfFrom, Bool.and_eq_true, decide_eq_true_eq]
      exact ⟨w.1, ih w.2⟩
    · exact Memory.wfFrom_mono (by omega) (ih w.2)

/-- Dropping listed bytes keeps the canonical form. -/
theorem Memory.filter_wf {m : Memory} (p : Host.Cell → Bool) (w : m.wf = true) : Memory.wf (m.filter p) = true :=
  Memory.filter_wfFrom p w

theorem Memory.byteAt_put_from {m : Memory} {lo a x : Nat} (b : BitVec 8) (w : Memory.wfFrom lo m = true) :
    Memory.byteAt (m.put a b) x = if x = a then b else Memory.byteAt m x := by
  induction m generalizing lo with
  | nil =>
    simp only [Memory.put]
    split
    · split <;> simp_all
    · simp only [Memory.byteAt]
      split <;> split <;> simp_all
  | cons y r ih =>
    obtain ⟨j, c⟩ := y
    have w' := w
    simp only [Memory.wfFrom, Bool.and_eq_true, decide_eq_true_eq] at w
    have below : ∀ z, z ≤ j → Memory.byteAt r z = Memory.blank := fun z h => Memory.byteAt_below w.2 (by omega)
    simp only [Memory.put]
    split
    · split
      · simp only [Memory.byteAt]
        split
        · rw [if_neg (by omega)]
        · split
          · subst_vars
            exact below _ (by omega)
          · rfl
      · simp only [Memory.byteAt, eq_comm (a := x)]
    · split
      · subst_vars
        split
        · simp only [Memory.byteAt]
          split
          · subst_vars
            exact below _ (by omega)
          · rw [if_neg (by omega)]
        · simp only [Memory.byteAt]
          split
          · simp_all
          · rw [if_neg (by omega)]
      · simp only [Memory.byteAt]
        split
        · rw [if_neg (by omega)]
        · exact ih w.2

/-- A byte read after a write of one byte. -/
theorem Memory.byteAt_put {m : Memory} (a x : Nat) (b : BitVec 8) (w : m.wf = true) :
    Memory.byteAt (m.put a b) x = if x = a then b else Memory.byteAt m x := Memory.byteAt_put_from b w

/-- A write of bytes leaves every byte outside them alone. -/
theorem Memory.byteAt_putBytes_outside {m : Memory} {a x : Nat} (bs : List (BitVec 8)) (w : m.wf = true)
    (h : x < a ∨ a + bs.length ≤ x) : Memory.byteAt (m.putBytes a bs) x = Memory.byteAt m x := by
  induction bs generalizing m a with
  | nil => rfl
  | cons b r ih =>
    simp only [Memory.putBytes]
    rw [ih (Memory.put_wf a b w) (by simp only [List.length_cons] at h; omega), Memory.byteAt_put a x b w,
      if_neg (by simp only [List.length_cons] at h; omega)]

/-- A written byte reads back. -/
theorem Memory.byteAt_putBytes_inside {m : Memory} (a i : Nat) (bs : List (BitVec 8)) (w : m.wf = true) (h : i < bs.length) :
    Memory.byteAt (m.putBytes a bs) (a + i) = bs[i] := by
  induction bs generalizing m a i with
  | nil => simp at h
  | cons b r ih =>
    simp only [Memory.putBytes]
    cases i with
    | zero =>
      rw [Memory.byteAt_putBytes_outside r (Memory.put_wf a b w) (by omega), Memory.byteAt_put a _ b w, if_pos (by omega)]
      rfl
    | succ k =>
      have := ih (a + 1) k (Memory.put_wf a b w) (by simpa using h)
      rw [show a + (k + 1) = a + 1 + k by omega, this]
      rfl

end Sys2Proof.Machine
end

