-- ==== Sys2Proof/Laws/State.lean ====
section
/-! SUPPORT. What the updates of the state leave alone, one lemma per field, and what they change. -/
namespace Sys2Proof.Machine

-- setSlot

@[simp] theorem State.setSlot_cycle (s : State) (p : Pos) (x : Slot) : (s.setSlot p x).cycle = s.cycle := rfl
@[simp] theorem State.setSlot_turn (s : State) (p : Pos) (x : Slot) : (s.setSlot p x).turn = s.turn := rfl
@[simp] theorem State.setSlot_cur (s : State) (p : Pos) (x : Slot) : (s.setSlot p x).cur = s.cur := rfl
@[simp] theorem State.setSlot_msg (s : State) (p : Pos) (x : Slot) : (s.setSlot p x).msg = s.msg := rfl
@[simp] theorem State.setSlot_agenda (s : State) (p : Pos) (x : Slot) : (s.setSlot p x).agenda = s.agenda := rfl
@[simp] theorem State.setSlot_nextId (s : State) (p : Pos) (x : Slot) : (s.setSlot p x).nextId = s.nextId := rfl
@[simp] theorem State.setSlot_freeCount (s : State) (p : Pos) (x : Slot) : (s.setSlot p x).freeCount = s.freeCount := rfl
@[simp] theorem State.setSlot_cores (s : State) (p : Pos) (x : Slot) : (s.setSlot p x).cores = s.cores := rfl
@[simp] theorem State.setSlot_mem (s : State) (p : Pos) (x : Slot) : (s.setSlot p x).mem = s.mem := rfl
@[simp] theorem State.setSlot_spaces (s : State) (p : Pos) (x : Slot) : (s.setSlot p x).spaces = s.spaces := rfl
@[simp] theorem State.setSlot_joints (s : State) (p : Pos) (x : Slot) : (s.setSlot p x).joints = s.joints := rfl
@[simp] theorem State.setSlot_away (s : State) (p : Pos) (x : Slot) : (s.setSlot p x).away = s.away := rfl
@[simp] theorem State.setSlot_wires (s : State) (p : Pos) (x : Slot) : (s.setSlot p x).wires = s.wires := rfl
@[simp] theorem State.setSlot_hub (s : State) (p : Pos) (x : Slot) : (s.setSlot p x).hub = s.hub := rfl
@[simp] theorem State.setSlot_saved (s : State) (p : Pos) (x : Slot) : (s.setSlot p x).saved = s.saved := rfl
@[simp] theorem State.setSlot_module_ (s : State) (p : Pos) (x : Slot) : (s.setSlot p x).module_ = s.module_ := rfl

-- modSlot

@[simp] theorem State.modSlot_cycle (s : State) (p : Pos) (f : Slot → Slot) : (s.modSlot p f).cycle = s.cycle := rfl
@[simp] theorem State.modSlot_turn (s : State) (p : Pos) (f : Slot → Slot) : (s.modSlot p f).turn = s.turn := rfl
@[simp] theorem State.modSlot_cur (s : State) (p : Pos) (f : Slot → Slot) : (s.modSlot p f).cur = s.cur := rfl
@[simp] theorem State.modSlot_msg (s : State) (p : Pos) (f : Slot → Slot) : (s.modSlot p f).msg = s.msg := rfl
@[simp] theorem State.modSlot_agenda (s : State) (p : Pos) (f : Slot → Slot) : (s.modSlot p f).agenda = s.agenda := rfl
@[simp] theorem State.modSlot_nextId (s : State) (p : Pos) (f : Slot → Slot) : (s.modSlot p f).nextId = s.nextId := rfl
@[simp] theorem State.modSlot_freeCount (s : State) (p : Pos) (f : Slot → Slot) : (s.modSlot p f).freeCount = s.freeCount := rfl
@[simp] theorem State.modSlot_cores (s : State) (p : Pos) (f : Slot → Slot) : (s.modSlot p f).cores = s.cores := rfl
@[simp] theorem State.modSlot_mem (s : State) (p : Pos) (f : Slot → Slot) : (s.modSlot p f).mem = s.mem := rfl
@[simp] theorem State.modSlot_spaces (s : State) (p : Pos) (f : Slot → Slot) : (s.modSlot p f).spaces = s.spaces := rfl
@[simp] theorem State.modSlot_joints (s : State) (p : Pos) (f : Slot → Slot) : (s.modSlot p f).joints = s.joints := rfl
@[simp] theorem State.modSlot_away (s : State) (p : Pos) (f : Slot → Slot) : (s.modSlot p f).away = s.away := rfl
@[simp] theorem State.modSlot_wires (s : State) (p : Pos) (f : Slot → Slot) : (s.modSlot p f).wires = s.wires := rfl
@[simp] theorem State.modSlot_hub (s : State) (p : Pos) (f : Slot → Slot) : (s.modSlot p f).hub = s.hub := rfl
@[simp] theorem State.modSlot_saved (s : State) (p : Pos) (f : Slot → Slot) : (s.modSlot p f).saved = s.saved := rfl
@[simp] theorem State.modSlot_module_ (s : State) (p : Pos) (f : Slot → Slot) : (s.modSlot p f).module_ = s.module_ := rfl

-- modTask

@[simp] theorem State.modTask_cycle (s : State) (p : Pos) (f : Task → Task) : (s.modTask p f).cycle = s.cycle := rfl
@[simp] theorem State.modTask_turn (s : State) (p : Pos) (f : Task → Task) : (s.modTask p f).turn = s.turn := rfl
@[simp] theorem State.modTask_cur (s : State) (p : Pos) (f : Task → Task) : (s.modTask p f).cur = s.cur := rfl
@[simp] theorem State.modTask_msg (s : State) (p : Pos) (f : Task → Task) : (s.modTask p f).msg = s.msg := rfl
@[simp] theorem State.modTask_agenda (s : State) (p : Pos) (f : Task → Task) : (s.modTask p f).agenda = s.agenda := rfl
@[simp] theorem State.modTask_nextId (s : State) (p : Pos) (f : Task → Task) : (s.modTask p f).nextId = s.nextId := rfl
@[simp] theorem State.modTask_freeCount (s : State) (p : Pos) (f : Task → Task) : (s.modTask p f).freeCount = s.freeCount := rfl
@[simp] theorem State.modTask_cores (s : State) (p : Pos) (f : Task → Task) : (s.modTask p f).cores = s.cores := rfl
@[simp] theorem State.modTask_mem (s : State) (p : Pos) (f : Task → Task) : (s.modTask p f).mem = s.mem := rfl
@[simp] theorem State.modTask_spaces (s : State) (p : Pos) (f : Task → Task) : (s.modTask p f).spaces = s.spaces := rfl
@[simp] theorem State.modTask_joints (s : State) (p : Pos) (f : Task → Task) : (s.modTask p f).joints = s.joints := rfl
@[simp] theorem State.modTask_away (s : State) (p : Pos) (f : Task → Task) : (s.modTask p f).away = s.away := rfl
@[simp] theorem State.modTask_wires (s : State) (p : Pos) (f : Task → Task) : (s.modTask p f).wires = s.wires := rfl
@[simp] theorem State.modTask_hub (s : State) (p : Pos) (f : Task → Task) : (s.modTask p f).hub = s.hub := rfl
@[simp] theorem State.modTask_saved (s : State) (p : Pos) (f : Task → Task) : (s.modTask p f).saved = s.saved := rfl
@[simp] theorem State.modTask_module_ (s : State) (p : Pos) (f : Task → Task) : (s.modTask p f).module_ = s.module_ := rfl

-- setMy

@[simp] theorem State.setMy_cycle (s : State) (f : Task → Task) : (s.setMy f).cycle = s.cycle := rfl
@[simp] theorem State.setMy_turn (s : State) (f : Task → Task) : (s.setMy f).turn = s.turn := rfl
@[simp] theorem State.setMy_cur (s : State) (f : Task → Task) : (s.setMy f).cur = s.cur := rfl
@[simp] theorem State.setMy_msg (s : State) (f : Task → Task) : (s.setMy f).msg = s.msg := rfl
@[simp] theorem State.setMy_agenda (s : State) (f : Task → Task) : (s.setMy f).agenda = s.agenda := rfl
@[simp] theorem State.setMy_nextId (s : State) (f : Task → Task) : (s.setMy f).nextId = s.nextId := rfl
@[simp] theorem State.setMy_freeCount (s : State) (f : Task → Task) : (s.setMy f).freeCount = s.freeCount := rfl
@[simp] theorem State.setMy_cores (s : State) (f : Task → Task) : (s.setMy f).cores = s.cores := rfl
@[simp] theorem State.setMy_mem (s : State) (f : Task → Task) : (s.setMy f).mem = s.mem := rfl
@[simp] theorem State.setMy_spaces (s : State) (f : Task → Task) : (s.setMy f).spaces = s.spaces := rfl
@[simp] theorem State.setMy_joints (s : State) (f : Task → Task) : (s.setMy f).joints = s.joints := rfl
@[simp] theorem State.setMy_away (s : State) (f : Task → Task) : (s.setMy f).away = s.away := rfl
@[simp] theorem State.setMy_wires (s : State) (f : Task → Task) : (s.setMy f).wires = s.wires := rfl
@[simp] theorem State.setMy_hub (s : State) (f : Task → Task) : (s.setMy f).hub = s.hub := rfl
@[simp] theorem State.setMy_saved (s : State) (f : Task → Task) : (s.setMy f).saved = s.saved := rfl
@[simp] theorem State.setMy_module_ (s : State) (f : Task → Task) : (s.setMy f).module_ = s.module_ := rfl

-- setMySlot

@[simp] theorem State.setMySlot_cycle (s : State) (f : Slot → Slot) : (s.setMySlot f).cycle = s.cycle := rfl
@[simp] theorem State.setMySlot_turn (s : State) (f : Slot → Slot) : (s.setMySlot f).turn = s.turn := rfl
@[simp] theorem State.setMySlot_cur (s : State) (f : Slot → Slot) : (s.setMySlot f).cur = s.cur := rfl
@[simp] theorem State.setMySlot_msg (s : State) (f : Slot → Slot) : (s.setMySlot f).msg = s.msg := rfl
@[simp] theorem State.setMySlot_agenda (s : State) (f : Slot → Slot) : (s.setMySlot f).agenda = s.agenda := rfl
@[simp] theorem State.setMySlot_nextId (s : State) (f : Slot → Slot) : (s.setMySlot f).nextId = s.nextId := rfl
@[simp] theorem State.setMySlot_freeCount (s : State) (f : Slot → Slot) : (s.setMySlot f).freeCount = s.freeCount := rfl
@[simp] theorem State.setMySlot_cores (s : State) (f : Slot → Slot) : (s.setMySlot f).cores = s.cores := rfl
@[simp] theorem State.setMySlot_mem (s : State) (f : Slot → Slot) : (s.setMySlot f).mem = s.mem := rfl
@[simp] theorem State.setMySlot_spaces (s : State) (f : Slot → Slot) : (s.setMySlot f).spaces = s.spaces := rfl
@[simp] theorem State.setMySlot_joints (s : State) (f : Slot → Slot) : (s.setMySlot f).joints = s.joints := rfl
@[simp] theorem State.setMySlot_away (s : State) (f : Slot → Slot) : (s.setMySlot f).away = s.away := rfl
@[simp] theorem State.setMySlot_wires (s : State) (f : Slot → Slot) : (s.setMySlot f).wires = s.wires := rfl
@[simp] theorem State.setMySlot_hub (s : State) (f : Slot → Slot) : (s.setMySlot f).hub = s.hub := rfl
@[simp] theorem State.setMySlot_saved (s : State) (f : Slot → Slot) : (s.setMySlot f).saved = s.saved := rfl
@[simp] theorem State.setMySlot_module_ (s : State) (f : Slot → Slot) : (s.setMySlot f).module_ = s.module_ := rfl

-- setEndpoint

@[simp] theorem State.setEndpoint_cycle (s : State) (p : Pos) (n : Nat) (f : Endpoint → Endpoint) : (s.setEndpoint p n f).cycle = s.cycle := rfl
@[simp] theorem State.setEndpoint_turn (s : State) (p : Pos) (n : Nat) (f : Endpoint → Endpoint) : (s.setEndpoint p n f).turn = s.turn := rfl
@[simp] theorem State.setEndpoint_cur (s : State) (p : Pos) (n : Nat) (f : Endpoint → Endpoint) : (s.setEndpoint p n f).cur = s.cur := rfl
@[simp] theorem State.setEndpoint_msg (s : State) (p : Pos) (n : Nat) (f : Endpoint → Endpoint) : (s.setEndpoint p n f).msg = s.msg := rfl
@[simp] theorem State.setEndpoint_agenda (s : State) (p : Pos) (n : Nat) (f : Endpoint → Endpoint) : (s.setEndpoint p n f).agenda = s.agenda := rfl
@[simp] theorem State.setEndpoint_nextId (s : State) (p : Pos) (n : Nat) (f : Endpoint → Endpoint) : (s.setEndpoint p n f).nextId = s.nextId := rfl
@[simp] theorem State.setEndpoint_freeCount (s : State) (p : Pos) (n : Nat) (f : Endpoint → Endpoint) : (s.setEndpoint p n f).freeCount = s.freeCount := rfl
@[simp] theorem State.setEndpoint_cores (s : State) (p : Pos) (n : Nat) (f : Endpoint → Endpoint) : (s.setEndpoint p n f).cores = s.cores := rfl
@[simp] theorem State.setEndpoint_mem (s : State) (p : Pos) (n : Nat) (f : Endpoint → Endpoint) : (s.setEndpoint p n f).mem = s.mem := rfl
@[simp] theorem State.setEndpoint_spaces (s : State) (p : Pos) (n : Nat) (f : Endpoint → Endpoint) : (s.setEndpoint p n f).spaces = s.spaces := rfl
@[simp] theorem State.setEndpoint_joints (s : State) (p : Pos) (n : Nat) (f : Endpoint → Endpoint) : (s.setEndpoint p n f).joints = s.joints := rfl
@[simp] theorem State.setEndpoint_away (s : State) (p : Pos) (n : Nat) (f : Endpoint → Endpoint) : (s.setEndpoint p n f).away = s.away := rfl
@[simp] theorem State.setEndpoint_wires (s : State) (p : Pos) (n : Nat) (f : Endpoint → Endpoint) : (s.setEndpoint p n f).wires = s.wires := rfl
@[simp] theorem State.setEndpoint_hub (s : State) (p : Pos) (n : Nat) (f : Endpoint → Endpoint) : (s.setEndpoint p n f).hub = s.hub := rfl
@[simp] theorem State.setEndpoint_saved (s : State) (p : Pos) (n : Nat) (f : Endpoint → Endpoint) : (s.setEndpoint p n f).saved = s.saved := rfl
@[simp] theorem State.setEndpoint_module_ (s : State) (p : Pos) (n : Nat) (f : Endpoint → Endpoint) : (s.setEndpoint p n f).module_ = s.module_ := rfl

-- park

@[simp] theorem State.park_cycle (s : State) (p : Pos) (w : Wait) : (s.park p w).cycle = s.cycle := rfl
@[simp] theorem State.park_turn (s : State) (p : Pos) (w : Wait) : (s.park p w).turn = s.turn := rfl
@[simp] theorem State.park_cur (s : State) (p : Pos) (w : Wait) : (s.park p w).cur = s.cur := rfl
@[simp] theorem State.park_msg (s : State) (p : Pos) (w : Wait) : (s.park p w).msg = s.msg := rfl
@[simp] theorem State.park_agenda (s : State) (p : Pos) (w : Wait) : (s.park p w).agenda = s.agenda := rfl
@[simp] theorem State.park_nextId (s : State) (p : Pos) (w : Wait) : (s.park p w).nextId = s.nextId := rfl
@[simp] theorem State.park_freeCount (s : State) (p : Pos) (w : Wait) : (s.park p w).freeCount = s.freeCount := rfl
@[simp] theorem State.park_cores (s : State) (p : Pos) (w : Wait) : (s.park p w).cores = s.cores := rfl
@[simp] theorem State.park_mem (s : State) (p : Pos) (w : Wait) : (s.park p w).mem = s.mem := rfl
@[simp] theorem State.park_spaces (s : State) (p : Pos) (w : Wait) : (s.park p w).spaces = s.spaces := rfl
@[simp] theorem State.park_joints (s : State) (p : Pos) (w : Wait) : (s.park p w).joints = s.joints := rfl
@[simp] theorem State.park_away (s : State) (p : Pos) (w : Wait) : (s.park p w).away = s.away := rfl
@[simp] theorem State.park_wires (s : State) (p : Pos) (w : Wait) : (s.park p w).wires = s.wires := rfl
@[simp] theorem State.park_hub (s : State) (p : Pos) (w : Wait) : (s.park p w).hub = s.hub := rfl
@[simp] theorem State.park_saved (s : State) (p : Pos) (w : Wait) : (s.park p w).saved = s.saved := rfl
@[simp] theorem State.park_module_ (s : State) (p : Pos) (w : Wait) : (s.park p w).module_ = s.module_ := rfl

-- modCore

@[simp] theorem State.modCore_cycle (s : State) (c : Nat) (f : Core → Core) : (s.modCore c f).cycle = s.cycle := rfl
@[simp] theorem State.modCore_turn (s : State) (c : Nat) (f : Core → Core) : (s.modCore c f).turn = s.turn := rfl
@[simp] theorem State.modCore_cur (s : State) (c : Nat) (f : Core → Core) : (s.modCore c f).cur = s.cur := rfl
@[simp] theorem State.modCore_msg (s : State) (c : Nat) (f : Core → Core) : (s.modCore c f).msg = s.msg := rfl
@[simp] theorem State.modCore_agenda (s : State) (c : Nat) (f : Core → Core) : (s.modCore c f).agenda = s.agenda := rfl
@[simp] theorem State.modCore_nextId (s : State) (c : Nat) (f : Core → Core) : (s.modCore c f).nextId = s.nextId := rfl
@[simp] theorem State.modCore_freeCount (s : State) (c : Nat) (f : Core → Core) : (s.modCore c f).freeCount = s.freeCount := rfl
@[simp] theorem State.modCore_slots (s : State) (c : Nat) (f : Core → Core) : (s.modCore c f).slots = s.slots := rfl
@[simp] theorem State.modCore_mem (s : State) (c : Nat) (f : Core → Core) : (s.modCore c f).mem = s.mem := rfl
@[simp] theorem State.modCore_spaces (s : State) (c : Nat) (f : Core → Core) : (s.modCore c f).spaces = s.spaces := rfl
@[simp] theorem State.modCore_joints (s : State) (c : Nat) (f : Core → Core) : (s.modCore c f).joints = s.joints := rfl
@[simp] theorem State.modCore_away (s : State) (c : Nat) (f : Core → Core) : (s.modCore c f).away = s.away := rfl
@[simp] theorem State.modCore_wires (s : State) (c : Nat) (f : Core → Core) : (s.modCore c f).wires = s.wires := rfl
@[simp] theorem State.modCore_hub (s : State) (c : Nat) (f : Core → Core) : (s.modCore c f).hub = s.hub := rfl
@[simp] theorem State.modCore_saved (s : State) (c : Nat) (f : Core → Core) : (s.modCore c f).saved = s.saved := rfl
@[simp] theorem State.modCore_module_ (s : State) (c : Nat) (f : Core → Core) : (s.modCore c f).module_ = s.module_ := rfl

-- countSent

@[simp] theorem State.countSent_cycle (s : State) (c : Nat) : (s.countSent c).cycle = s.cycle := rfl
@[simp] theorem State.countSent_turn (s : State) (c : Nat) : (s.countSent c).turn = s.turn := rfl
@[simp] theorem State.countSent_cur (s : State) (c : Nat) : (s.countSent c).cur = s.cur := rfl
@[simp] theorem State.countSent_msg (s : State) (c : Nat) : (s.countSent c).msg = s.msg := rfl
@[simp] theorem State.countSent_agenda (s : State) (c : Nat) : (s.countSent c).agenda = s.agenda := rfl
@[simp] theorem State.countSent_nextId (s : State) (c : Nat) : (s.countSent c).nextId = s.nextId := rfl
@[simp] theorem State.countSent_freeCount (s : State) (c : Nat) : (s.countSent c).freeCount = s.freeCount := rfl
@[simp] theorem State.countSent_slots (s : State) (c : Nat) : (s.countSent c).slots = s.slots := rfl
@[simp] theorem State.countSent_mem (s : State) (c : Nat) : (s.countSent c).mem = s.mem := rfl
@[simp] theorem State.countSent_spaces (s : State) (c : Nat) : (s.countSent c).spaces = s.spaces := rfl
@[simp] theorem State.countSent_joints (s : State) (c : Nat) : (s.countSent c).joints = s.joints := rfl
@[simp] theorem State.countSent_away (s : State) (c : Nat) : (s.countSent c).away = s.away := rfl
@[simp] theorem State.countSent_wires (s : State) (c : Nat) : (s.countSent c).wires = s.wires := rfl
@[simp] theorem State.countSent_hub (s : State) (c : Nat) : (s.countSent c).hub = s.hub := rfl
@[simp] theorem State.countSent_saved (s : State) (c : Nat) : (s.countSent c).saved = s.saved := rfl
@[simp] theorem State.countSent_module_ (s : State) (c : Nat) : (s.countSent c).module_ = s.module_ := rfl

-- countRecv

@[simp] theorem State.countRecv_cycle (s : State) (c : Nat) : (s.countRecv c).cycle = s.cycle := rfl
@[simp] theorem State.countRecv_turn (s : State) (c : Nat) : (s.countRecv c).turn = s.turn := rfl
@[simp] theorem State.countRecv_cur (s : State) (c : Nat) : (s.countRecv c).cur = s.cur := rfl
@[simp] theorem State.countRecv_msg (s : State) (c : Nat) : (s.countRecv c).msg = s.msg := rfl
@[simp] theorem State.countRecv_agenda (s : State) (c : Nat) : (s.countRecv c).agenda = s.agenda := rfl
@[simp] theorem State.countRecv_nextId (s : State) (c : Nat) : (s.countRecv c).nextId = s.nextId := rfl
@[simp] theorem State.countRecv_freeCount (s : State) (c : Nat) : (s.countRecv c).freeCount = s.freeCount := rfl
@[simp] theorem State.countRecv_slots (s : State) (c : Nat) : (s.countRecv c).slots = s.slots := rfl
@[simp] theorem State.countRecv_mem (s : State) (c : Nat) : (s.countRecv c).mem = s.mem := rfl
@[simp] theorem State.countRecv_spaces (s : State) (c : Nat) : (s.countRecv c).spaces = s.spaces := rfl
@[simp] theorem State.countRecv_joints (s : State) (c : Nat) : (s.countRecv c).joints = s.joints := rfl
@[simp] theorem State.countRecv_away (s : State) (c : Nat) : (s.countRecv c).away = s.away := rfl
@[simp] theorem State.countRecv_wires (s : State) (c : Nat) : (s.countRecv c).wires = s.wires := rfl
@[simp] theorem State.countRecv_hub (s : State) (c : Nat) : (s.countRecv c).hub = s.hub := rfl
@[simp] theorem State.countRecv_saved (s : State) (c : Nat) : (s.countRecv c).saved = s.saved := rfl
@[simp] theorem State.countRecv_module_ (s : State) (c : Nat) : (s.countRecv c).module_ = s.module_ := rfl

-- modMem

@[simp] theorem State.modMem_cycle (s : State) (f : Mem → Mem) : (s.modMem f).cycle = s.cycle := rfl
@[simp] theorem State.modMem_turn (s : State) (f : Mem → Mem) : (s.modMem f).turn = s.turn := rfl
@[simp] theorem State.modMem_cur (s : State) (f : Mem → Mem) : (s.modMem f).cur = s.cur := rfl
@[simp] theorem State.modMem_msg (s : State) (f : Mem → Mem) : (s.modMem f).msg = s.msg := rfl
@[simp] theorem State.modMem_agenda (s : State) (f : Mem → Mem) : (s.modMem f).agenda = s.agenda := rfl
@[simp] theorem State.modMem_nextId (s : State) (f : Mem → Mem) : (s.modMem f).nextId = s.nextId := rfl
@[simp] theorem State.modMem_freeCount (s : State) (f : Mem → Mem) : (s.modMem f).freeCount = s.freeCount := rfl
@[simp] theorem State.modMem_slots (s : State) (f : Mem → Mem) : (s.modMem f).slots = s.slots := rfl
@[simp] theorem State.modMem_cores (s : State) (f : Mem → Mem) : (s.modMem f).cores = s.cores := rfl
@[simp] theorem State.modMem_spaces (s : State) (f : Mem → Mem) : (s.modMem f).spaces = s.spaces := rfl
@[simp] theorem State.modMem_joints (s : State) (f : Mem → Mem) : (s.modMem f).joints = s.joints := rfl
@[simp] theorem State.modMem_away (s : State) (f : Mem → Mem) : (s.modMem f).away = s.away := rfl
@[simp] theorem State.modMem_wires (s : State) (f : Mem → Mem) : (s.modMem f).wires = s.wires := rfl
@[simp] theorem State.modMem_hub (s : State) (f : Mem → Mem) : (s.modMem f).hub = s.hub := rfl
@[simp] theorem State.modMem_saved (s : State) (f : Mem → Mem) : (s.modMem f).saved = s.saved := rfl
@[simp] theorem State.modMem_module_ (s : State) (f : Mem → Mem) : (s.modMem f).module_ = s.module_ := rfl

-- modSpace

@[simp] theorem State.modSpace_cycle (s : State) (i : Nat) (f : Space → Space) : (s.modSpace i f).cycle = s.cycle := rfl
@[simp] theorem State.modSpace_turn (s : State) (i : Nat) (f : Space → Space) : (s.modSpace i f).turn = s.turn := rfl
@[simp] theorem State.modSpace_cur (s : State) (i : Nat) (f : Space → Space) : (s.modSpace i f).cur = s.cur := rfl
@[simp] theorem State.modSpace_msg (s : State) (i : Nat) (f : Space → Space) : (s.modSpace i f).msg = s.msg := rfl
@[simp] theorem State.modSpace_agenda (s : State) (i : Nat) (f : Space → Space) : (s.modSpace i f).agenda = s.agenda := rfl
@[simp] theorem State.modSpace_nextId (s : State) (i : Nat) (f : Space → Space) : (s.modSpace i f).nextId = s.nextId := rfl
@[simp] theorem State.modSpace_freeCount (s : State) (i : Nat) (f : Space → Space) : (s.modSpace i f).freeCount = s.freeCount := rfl
@[simp] theorem State.modSpace_slots (s : State) (i : Nat) (f : Space → Space) : (s.modSpace i f).slots = s.slots := rfl
@[simp] theorem State.modSpace_cores (s : State) (i : Nat) (f : Space → Space) : (s.modSpace i f).cores = s.cores := rfl
@[simp] theorem State.modSpace_mem (s : State) (i : Nat) (f : Space → Space) : (s.modSpace i f).mem = s.mem := rfl
@[simp] theorem State.modSpace_joints (s : State) (i : Nat) (f : Space → Space) : (s.modSpace i f).joints = s.joints := rfl
@[simp] theorem State.modSpace_away (s : State) (i : Nat) (f : Space → Space) : (s.modSpace i f).away = s.away := rfl
@[simp] theorem State.modSpace_wires (s : State) (i : Nat) (f : Space → Space) : (s.modSpace i f).wires = s.wires := rfl
@[simp] theorem State.modSpace_hub (s : State) (i : Nat) (f : Space → Space) : (s.modSpace i f).hub = s.hub := rfl
@[simp] theorem State.modSpace_saved (s : State) (i : Nat) (f : Space → Space) : (s.modSpace i f).saved = s.saved := rfl
@[simp] theorem State.modSpace_module_ (s : State) (i : Nat) (f : Space → Space) : (s.modSpace i f).module_ = s.module_ := rfl

-- post

@[simp] theorem State.post_cycle (s : State) (due tie : Nat) (ev : Instr) (m : Msg) : (s.post due tie ev m).cycle = s.cycle := rfl
@[simp] theorem State.post_turn (s : State) (due tie : Nat) (ev : Instr) (m : Msg) : (s.post due tie ev m).turn = s.turn := rfl
@[simp] theorem State.post_cur (s : State) (due tie : Nat) (ev : Instr) (m : Msg) : (s.post due tie ev m).cur = s.cur := rfl
@[simp] theorem State.post_msg (s : State) (due tie : Nat) (ev : Instr) (m : Msg) : (s.post due tie ev m).msg = s.msg := rfl
@[simp] theorem State.post_nextId (s : State) (due tie : Nat) (ev : Instr) (m : Msg) : (s.post due tie ev m).nextId = s.nextId := rfl
@[simp] theorem State.post_freeCount (s : State) (due tie : Nat) (ev : Instr) (m : Msg) : (s.post due tie ev m).freeCount = s.freeCount := rfl
@[simp] theorem State.post_slots (s : State) (due tie : Nat) (ev : Instr) (m : Msg) : (s.post due tie ev m).slots = s.slots := rfl
@[simp] theorem State.post_cores (s : State) (due tie : Nat) (ev : Instr) (m : Msg) : (s.post due tie ev m).cores = s.cores := rfl
@[simp] theorem State.post_mem (s : State) (due tie : Nat) (ev : Instr) (m : Msg) : (s.post due tie ev m).mem = s.mem := rfl
@[simp] theorem State.post_spaces (s : State) (due tie : Nat) (ev : Instr) (m : Msg) : (s.post due tie ev m).spaces = s.spaces := rfl
@[simp] theorem State.post_joints (s : State) (due tie : Nat) (ev : Instr) (m : Msg) : (s.post due tie ev m).joints = s.joints := rfl
@[simp] theorem State.post_away (s : State) (due tie : Nat) (ev : Instr) (m : Msg) : (s.post due tie ev m).away = s.away := rfl
@[simp] theorem State.post_wires (s : State) (due tie : Nat) (ev : Instr) (m : Msg) : (s.post due tie ev m).wires = s.wires := rfl
@[simp] theorem State.post_hub (s : State) (due tie : Nat) (ev : Instr) (m : Msg) : (s.post due tie ev m).hub = s.hub := rfl
@[simp] theorem State.post_saved (s : State) (due tie : Nat) (ev : Instr) (m : Msg) : (s.post due tie ev m).saved = s.saved := rfl
@[simp] theorem State.post_module_ (s : State) (due tie : Nat) (ev : Instr) (m : Msg) : (s.post due tie ev m).module_ = s.module_ := rfl

-- postAt

@[simp] theorem State.postAt_cycle (s : State) (due : Nat) (p : Pos) (ev : Instr) (m : Msg) : (s.postAt due p ev m).cycle = s.cycle := rfl
@[simp] theorem State.postAt_turn (s : State) (due : Nat) (p : Pos) (ev : Instr) (m : Msg) : (s.postAt due p ev m).turn = s.turn := rfl
@[simp] theorem State.postAt_cur (s : State) (due : Nat) (p : Pos) (ev : Instr) (m : Msg) : (s.postAt due p ev m).cur = s.cur := rfl
@[simp] theorem State.postAt_msg (s : State) (due : Nat) (p : Pos) (ev : Instr) (m : Msg) : (s.postAt due p ev m).msg = s.msg := rfl
@[simp] theorem State.postAt_nextId (s : State) (due : Nat) (p : Pos) (ev : Instr) (m : Msg) : (s.postAt due p ev m).nextId = s.nextId := rfl
@[simp] theorem State.postAt_freeCount (s : State) (due : Nat) (p : Pos) (ev : Instr) (m : Msg) : (s.postAt due p ev m).freeCount = s.freeCount := rfl
@[simp] theorem State.postAt_slots (s : State) (due : Nat) (p : Pos) (ev : Instr) (m : Msg) : (s.postAt due p ev m).slots = s.slots := rfl
@[simp] theorem State.postAt_cores (s : State) (due : Nat) (p : Pos) (ev : Instr) (m : Msg) : (s.postAt due p ev m).cores = s.cores := rfl
@[simp] theorem State.postAt_mem (s : State) (due : Nat) (p : Pos) (ev : Instr) (m : Msg) : (s.postAt due p ev m).mem = s.mem := rfl
@[simp] theorem State.postAt_spaces (s : State) (due : Nat) (p : Pos) (ev : Instr) (m : Msg) : (s.postAt due p ev m).spaces = s.spaces := rfl
@[simp] theorem State.postAt_joints (s : State) (due : Nat) (p : Pos) (ev : Instr) (m : Msg) : (s.postAt due p ev m).joints = s.joints := rfl
@[simp] theorem State.postAt_away (s : State) (due : Nat) (p : Pos) (ev : Instr) (m : Msg) : (s.postAt due p ev m).away = s.away := rfl
@[simp] theorem State.postAt_wires (s : State) (due : Nat) (p : Pos) (ev : Instr) (m : Msg) : (s.postAt due p ev m).wires = s.wires := rfl
@[simp] theorem State.postAt_hub (s : State) (due : Nat) (p : Pos) (ev : Instr) (m : Msg) : (s.postAt due p ev m).hub = s.hub := rfl
@[simp] theorem State.postAt_saved (s : State) (due : Nat) (p : Pos) (ev : Instr) (m : Msg) : (s.postAt due p ev m).saved = s.saved := rfl
@[simp] theorem State.postAt_module_ (s : State) (due : Nat) (p : Pos) (ev : Instr) (m : Msg) : (s.postAt due p ev m).module_ = s.module_ := rfl

-- postHub

@[simp] theorem State.postHub_cycle (s : State) (due : Nat) (ev : Instr) (m : Msg) : (s.postHub due ev m).cycle = s.cycle := rfl
@[simp] theorem State.postHub_turn (s : State) (due : Nat) (ev : Instr) (m : Msg) : (s.postHub due ev m).turn = s.turn := rfl
@[simp] theorem State.postHub_cur (s : State) (due : Nat) (ev : Instr) (m : Msg) : (s.postHub due ev m).cur = s.cur := rfl
@[simp] theorem State.postHub_msg (s : State) (due : Nat) (ev : Instr) (m : Msg) : (s.postHub due ev m).msg = s.msg := rfl
@[simp] theorem State.postHub_nextId (s : State) (due : Nat) (ev : Instr) (m : Msg) : (s.postHub due ev m).nextId = s.nextId := rfl
@[simp] theorem State.postHub_freeCount (s : State) (due : Nat) (ev : Instr) (m : Msg) : (s.postHub due ev m).freeCount = s.freeCount := rfl
@[simp] theorem State.postHub_slots (s : State) (due : Nat) (ev : Instr) (m : Msg) : (s.postHub due ev m).slots = s.slots := rfl
@[simp] theorem State.postHub_cores (s : State) (due : Nat) (ev : Instr) (m : Msg) : (s.postHub due ev m).cores = s.cores := rfl
@[simp] theorem State.postHub_mem (s : State) (due : Nat) (ev : Instr) (m : Msg) : (s.postHub due ev m).mem = s.mem := rfl
@[simp] theorem State.postHub_spaces (s : State) (due : Nat) (ev : Instr) (m : Msg) : (s.postHub due ev m).spaces = s.spaces := rfl
@[simp] theorem State.postHub_joints (s : State) (due : Nat) (ev : Instr) (m : Msg) : (s.postHub due ev m).joints = s.joints := rfl
@[simp] theorem State.postHub_away (s : State) (due : Nat) (ev : Instr) (m : Msg) : (s.postHub due ev m).away = s.away := rfl
@[simp] theorem State.postHub_wires (s : State) (due : Nat) (ev : Instr) (m : Msg) : (s.postHub due ev m).wires = s.wires := rfl
@[simp] theorem State.postHub_hub (s : State) (due : Nat) (ev : Instr) (m : Msg) : (s.postHub due ev m).hub = s.hub := rfl
@[simp] theorem State.postHub_saved (s : State) (due : Nat) (ev : Instr) (m : Msg) : (s.postHub due ev m).saved = s.saved := rfl
@[simp] theorem State.postHub_module_ (s : State) (due : Nat) (ev : Instr) (m : Msg) : (s.postHub due ev m).module_ = s.module_ := rfl

-- sendRecord

@[simp] theorem State.sendRecord_cycle (s : State) (c : Nat) (r : FaultRec) : (s.sendRecord c r).cycle = s.cycle := rfl
@[simp] theorem State.sendRecord_turn (s : State) (c : Nat) (r : FaultRec) : (s.sendRecord c r).turn = s.turn := rfl
@[simp] theorem State.sendRecord_cur (s : State) (c : Nat) (r : FaultRec) : (s.sendRecord c r).cur = s.cur := rfl
@[simp] theorem State.sendRecord_msg (s : State) (c : Nat) (r : FaultRec) : (s.sendRecord c r).msg = s.msg := rfl
@[simp] theorem State.sendRecord_nextId (s : State) (c : Nat) (r : FaultRec) : (s.sendRecord c r).nextId = s.nextId := rfl
@[simp] theorem State.sendRecord_freeCount (s : State) (c : Nat) (r : FaultRec) : (s.sendRecord c r).freeCount = s.freeCount := rfl
@[simp] theorem State.sendRecord_slots (s : State) (c : Nat) (r : FaultRec) : (s.sendRecord c r).slots = s.slots := rfl
@[simp] theorem State.sendRecord_cores (s : State) (c : Nat) (r : FaultRec) : (s.sendRecord c r).cores = s.cores := rfl
@[simp] theorem State.sendRecord_mem (s : State) (c : Nat) (r : FaultRec) : (s.sendRecord c r).mem = s.mem := rfl
@[simp] theorem State.sendRecord_spaces (s : State) (c : Nat) (r : FaultRec) : (s.sendRecord c r).spaces = s.spaces := rfl
@[simp] theorem State.sendRecord_joints (s : State) (c : Nat) (r : FaultRec) : (s.sendRecord c r).joints = s.joints := rfl
@[simp] theorem State.sendRecord_away (s : State) (c : Nat) (r : FaultRec) : (s.sendRecord c r).away = s.away := rfl
@[simp] theorem State.sendRecord_wires (s : State) (c : Nat) (r : FaultRec) : (s.sendRecord c r).wires = s.wires := rfl
@[simp] theorem State.sendRecord_hub (s : State) (c : Nat) (r : FaultRec) : (s.sendRecord c r).hub = s.hub := rfl
@[simp] theorem State.sendRecord_saved (s : State) (c : Nat) (r : FaultRec) : (s.sendRecord c r).saved = s.saved := rfl
@[simp] theorem State.sendRecord_module_ (s : State) (c : Nat) (r : FaultRec) : (s.sendRecord c r).module_ = s.module_ := rfl

-- behalfFault

@[simp] theorem State.behalfFault_cycle (s : State) (t : Tk) (pc cause sub addr acc space : Nat) (world : Bool) : (s.behalfFault t pc cause sub addr acc space world).cycle = s.cycle := rfl
@[simp] theorem State.behalfFault_turn (s : State) (t : Tk) (pc cause sub addr acc space : Nat) (world : Bool) : (s.behalfFault t pc cause sub addr acc space world).turn = s.turn := rfl
@[simp] theorem State.behalfFault_cur (s : State) (t : Tk) (pc cause sub addr acc space : Nat) (world : Bool) : (s.behalfFault t pc cause sub addr acc space world).cur = s.cur := rfl
@[simp] theorem State.behalfFault_msg (s : State) (t : Tk) (pc cause sub addr acc space : Nat) (world : Bool) : (s.behalfFault t pc cause sub addr acc space world).msg = s.msg := rfl
@[simp] theorem State.behalfFault_nextId (s : State) (t : Tk) (pc cause sub addr acc space : Nat) (world : Bool) : (s.behalfFault t pc cause sub addr acc space world).nextId = s.nextId := rfl
@[simp] theorem State.behalfFault_freeCount (s : State) (t : Tk) (pc cause sub addr acc space : Nat) (world : Bool) : (s.behalfFault t pc cause sub addr acc space world).freeCount = s.freeCount := rfl
@[simp] theorem State.behalfFault_slots (s : State) (t : Tk) (pc cause sub addr acc space : Nat) (world : Bool) : (s.behalfFault t pc cause sub addr acc space world).slots = s.slots := rfl
@[simp] theorem State.behalfFault_cores (s : State) (t : Tk) (pc cause sub addr acc space : Nat) (world : Bool) : (s.behalfFault t pc cause sub addr acc space world).cores = s.cores := rfl
@[simp] theorem State.behalfFault_mem (s : State) (t : Tk) (pc cause sub addr acc space : Nat) (world : Bool) : (s.behalfFault t pc cause sub addr acc space world).mem = s.mem := rfl
@[simp] theorem State.behalfFault_spaces (s : State) (t : Tk) (pc cause sub addr acc space : Nat) (world : Bool) : (s.behalfFault t pc cause sub addr acc space world).spaces = s.spaces := rfl
@[simp] theorem State.behalfFault_joints (s : State) (t : Tk) (pc cause sub addr acc space : Nat) (world : Bool) : (s.behalfFault t pc cause sub addr acc space world).joints = s.joints := rfl
@[simp] theorem State.behalfFault_away (s : State) (t : Tk) (pc cause sub addr acc space : Nat) (world : Bool) : (s.behalfFault t pc cause sub addr acc space world).away = s.away := rfl
@[simp] theorem State.behalfFault_wires (s : State) (t : Tk) (pc cause sub addr acc space : Nat) (world : Bool) : (s.behalfFault t pc cause sub addr acc space world).wires = s.wires := rfl
@[simp] theorem State.behalfFault_hub (s : State) (t : Tk) (pc cause sub addr acc space : Nat) (world : Bool) : (s.behalfFault t pc cause sub addr acc space world).hub = s.hub := rfl
@[simp] theorem State.behalfFault_saved (s : State) (t : Tk) (pc cause sub addr acc space : Nat) (world : Bool) : (s.behalfFault t pc cause sub addr acc space world).saved = s.saved := rfl
@[simp] theorem State.behalfFault_module_ (s : State) (t : Tk) (pc cause sub addr acc space : Nat) (world : Bool) : (s.behalfFault t pc cause sub addr acc space world).module_ = s.module_ := rfl

-- errorEvent

@[simp] theorem State.errorEvent_cycle (s : State) (c : Nat) (e : ErrRec) : (s.errorEvent c e).cycle = s.cycle := rfl
@[simp] theorem State.errorEvent_turn (s : State) (c : Nat) (e : ErrRec) : (s.errorEvent c e).turn = s.turn := rfl
@[simp] theorem State.errorEvent_cur (s : State) (c : Nat) (e : ErrRec) : (s.errorEvent c e).cur = s.cur := rfl
@[simp] theorem State.errorEvent_msg (s : State) (c : Nat) (e : ErrRec) : (s.errorEvent c e).msg = s.msg := rfl
@[simp] theorem State.errorEvent_nextId (s : State) (c : Nat) (e : ErrRec) : (s.errorEvent c e).nextId = s.nextId := rfl
@[simp] theorem State.errorEvent_freeCount (s : State) (c : Nat) (e : ErrRec) : (s.errorEvent c e).freeCount = s.freeCount := rfl
@[simp] theorem State.errorEvent_slots (s : State) (c : Nat) (e : ErrRec) : (s.errorEvent c e).slots = s.slots := rfl
@[simp] theorem State.errorEvent_cores (s : State) (c : Nat) (e : ErrRec) : (s.errorEvent c e).cores = s.cores := rfl
@[simp] theorem State.errorEvent_mem (s : State) (c : Nat) (e : ErrRec) : (s.errorEvent c e).mem = s.mem := rfl
@[simp] theorem State.errorEvent_spaces (s : State) (c : Nat) (e : ErrRec) : (s.errorEvent c e).spaces = s.spaces := rfl
@[simp] theorem State.errorEvent_joints (s : State) (c : Nat) (e : ErrRec) : (s.errorEvent c e).joints = s.joints := rfl
@[simp] theorem State.errorEvent_away (s : State) (c : Nat) (e : ErrRec) : (s.errorEvent c e).away = s.away := rfl
@[simp] theorem State.errorEvent_wires (s : State) (c : Nat) (e : ErrRec) : (s.errorEvent c e).wires = s.wires := rfl
@[simp] theorem State.errorEvent_hub (s : State) (c : Nat) (e : ErrRec) : (s.errorEvent c e).hub = s.hub := rfl
@[simp] theorem State.errorEvent_saved (s : State) (c : Nat) (e : ErrRec) : (s.errorEvent c e).saved = s.saved := rfl
@[simp] theorem State.errorEvent_module_ (s : State) (c : Nat) (e : ErrRec) : (s.errorEvent c e).module_ = s.module_ := rfl

-- tally

@[simp] theorem State.tally_cycle (s : State) (kind unit n : Nat) : (s.tally kind unit n).cycle = s.cycle := rfl
@[simp] theorem State.tally_turn (s : State) (kind unit n : Nat) : (s.tally kind unit n).turn = s.turn := rfl
@[simp] theorem State.tally_cur (s : State) (kind unit n : Nat) : (s.tally kind unit n).cur = s.cur := rfl
@[simp] theorem State.tally_msg (s : State) (kind unit n : Nat) : (s.tally kind unit n).msg = s.msg := rfl
@[simp] theorem State.tally_agenda (s : State) (kind unit n : Nat) : (s.tally kind unit n).agenda = s.agenda := rfl
@[simp] theorem State.tally_nextId (s : State) (kind unit n : Nat) : (s.tally kind unit n).nextId = s.nextId := rfl
@[simp] theorem State.tally_freeCount (s : State) (kind unit n : Nat) : (s.tally kind unit n).freeCount = s.freeCount := rfl
@[simp] theorem State.tally_slots (s : State) (kind unit n : Nat) : (s.tally kind unit n).slots = s.slots := rfl
@[simp] theorem State.tally_cores (s : State) (kind unit n : Nat) : (s.tally kind unit n).cores = s.cores := rfl
@[simp] theorem State.tally_mem (s : State) (kind unit n : Nat) : (s.tally kind unit n).mem = s.mem := rfl
@[simp] theorem State.tally_spaces (s : State) (kind unit n : Nat) : (s.tally kind unit n).spaces = s.spaces := rfl
@[simp] theorem State.tally_joints (s : State) (kind unit n : Nat) : (s.tally kind unit n).joints = s.joints := rfl
@[simp] theorem State.tally_away (s : State) (kind unit n : Nat) : (s.tally kind unit n).away = s.away := rfl
@[simp] theorem State.tally_wires (s : State) (kind unit n : Nat) : (s.tally kind unit n).wires = s.wires := rfl
@[simp] theorem State.tally_saved (s : State) (kind unit n : Nat) : (s.tally kind unit n).saved = s.saved := rfl
@[simp] theorem State.tally_module_ (s : State) (kind unit n : Nat) : (s.tally kind unit n).module_ = s.module_ := rfl

-- charge

@[simp] theorem State.charge_cycle (s : State) (part cls kind n : Nat) : (s.charge part cls kind n).cycle = s.cycle := rfl
@[simp] theorem State.charge_turn (s : State) (part cls kind n : Nat) : (s.charge part cls kind n).turn = s.turn := rfl
@[simp] theorem State.charge_cur (s : State) (part cls kind n : Nat) : (s.charge part cls kind n).cur = s.cur := rfl
@[simp] theorem State.charge_msg (s : State) (part cls kind n : Nat) : (s.charge part cls kind n).msg = s.msg := rfl
@[simp] theorem State.charge_agenda (s : State) (part cls kind n : Nat) : (s.charge part cls kind n).agenda = s.agenda := rfl
@[simp] theorem State.charge_nextId (s : State) (part cls kind n : Nat) : (s.charge part cls kind n).nextId = s.nextId := rfl
@[simp] theorem State.charge_freeCount (s : State) (part cls kind n : Nat) : (s.charge part cls kind n).freeCount = s.freeCount := rfl
@[simp] theorem State.charge_slots (s : State) (part cls kind n : Nat) : (s.charge part cls kind n).slots = s.slots := rfl
@[simp] theorem State.charge_cores (s : State) (part cls kind n : Nat) : (s.charge part cls kind n).cores = s.cores := rfl
@[simp] theorem State.charge_mem (s : State) (part cls kind n : Nat) : (s.charge part cls kind n).mem = s.mem := rfl
@[simp] theorem State.charge_spaces (s : State) (part cls kind n : Nat) : (s.charge part cls kind n).spaces = s.spaces := rfl
@[simp] theorem State.charge_joints (s : State) (part cls kind n : Nat) : (s.charge part cls kind n).joints = s.joints := rfl
@[simp] theorem State.charge_away (s : State) (part cls kind n : Nat) : (s.charge part cls kind n).away = s.away := rfl
@[simp] theorem State.charge_wires (s : State) (part cls kind n : Nat) : (s.charge part cls kind n).wires = s.wires := rfl
@[simp] theorem State.charge_saved (s : State) (part cls kind n : Nat) : (s.charge part cls kind n).saved = s.saved := rfl
@[simp] theorem State.charge_module_ (s : State) (part cls kind n : Nat) : (s.charge part cls kind n).module_ = s.module_ := rfl

-- supFault

@[simp] theorem State.supFault_cycle (s : State) (p : Pos) (cause sub addr acc arg : Nat) (pc : Option Word) : (s.supFault p cause sub addr acc arg pc).cycle = s.cycle := rfl
@[simp] theorem State.supFault_turn (s : State) (p : Pos) (cause sub addr acc arg : Nat) (pc : Option Word) : (s.supFault p cause sub addr acc arg pc).turn = s.turn := rfl
@[simp] theorem State.supFault_cur (s : State) (p : Pos) (cause sub addr acc arg : Nat) (pc : Option Word) : (s.supFault p cause sub addr acc arg pc).cur = s.cur := rfl
@[simp] theorem State.supFault_msg (s : State) (p : Pos) (cause sub addr acc arg : Nat) (pc : Option Word) : (s.supFault p cause sub addr acc arg pc).msg = s.msg := rfl
@[simp] theorem State.supFault_nextId (s : State) (p : Pos) (cause sub addr acc arg : Nat) (pc : Option Word) : (s.supFault p cause sub addr acc arg pc).nextId = s.nextId := rfl
@[simp] theorem State.supFault_freeCount (s : State) (p : Pos) (cause sub addr acc arg : Nat) (pc : Option Word) : (s.supFault p cause sub addr acc arg pc).freeCount = s.freeCount := rfl
@[simp] theorem State.supFault_cores (s : State) (p : Pos) (cause sub addr acc arg : Nat) (pc : Option Word) : (s.supFault p cause sub addr acc arg pc).cores = s.cores := rfl
@[simp] theorem State.supFault_mem (s : State) (p : Pos) (cause sub addr acc arg : Nat) (pc : Option Word) : (s.supFault p cause sub addr acc arg pc).mem = s.mem := rfl
@[simp] theorem State.supFault_spaces (s : State) (p : Pos) (cause sub addr acc arg : Nat) (pc : Option Word) : (s.supFault p cause sub addr acc arg pc).spaces = s.spaces := rfl
@[simp] theorem State.supFault_joints (s : State) (p : Pos) (cause sub addr acc arg : Nat) (pc : Option Word) : (s.supFault p cause sub addr acc arg pc).joints = s.joints := rfl
@[simp] theorem State.supFault_away (s : State) (p : Pos) (cause sub addr acc arg : Nat) (pc : Option Word) : (s.supFault p cause sub addr acc arg pc).away = s.away := rfl
@[simp] theorem State.supFault_wires (s : State) (p : Pos) (cause sub addr acc arg : Nat) (pc : Option Word) : (s.supFault p cause sub addr acc arg pc).wires = s.wires := rfl
@[simp] theorem State.supFault_hub (s : State) (p : Pos) (cause sub addr acc arg : Nat) (pc : Option Word) : (s.supFault p cause sub addr acc arg pc).hub = s.hub := rfl
@[simp] theorem State.supFault_saved (s : State) (p : Pos) (cause sub addr acc arg : Nat) (pc : Option Word) : (s.supFault p cause sub addr acc arg pc).saved = s.saved := rfl
@[simp] theorem State.supFault_module_ (s : State) (p : Pos) (cause sub addr acc arg : Nat) (pc : Option Word) : (s.supFault p cause sub addr acc arg pc).module_ = s.module_ := rfl

-- fresh

@[simp] theorem State.fresh_cycle (s : State) : s.fresh.2.cycle = s.cycle := rfl
@[simp] theorem State.fresh_turn (s : State) : s.fresh.2.turn = s.turn := rfl
@[simp] theorem State.fresh_cur (s : State) : s.fresh.2.cur = s.cur := rfl
@[simp] theorem State.fresh_msg (s : State) : s.fresh.2.msg = s.msg := rfl
@[simp] theorem State.fresh_agenda (s : State) : s.fresh.2.agenda = s.agenda := rfl
@[simp] theorem State.fresh_freeCount (s : State) : s.fresh.2.freeCount = s.freeCount := rfl
@[simp] theorem State.fresh_slots (s : State) : s.fresh.2.slots = s.slots := rfl
@[simp] theorem State.fresh_cores (s : State) : s.fresh.2.cores = s.cores := rfl
@[simp] theorem State.fresh_mem (s : State) : s.fresh.2.mem = s.mem := rfl
@[simp] theorem State.fresh_spaces (s : State) : s.fresh.2.spaces = s.spaces := rfl
@[simp] theorem State.fresh_joints (s : State) : s.fresh.2.joints = s.joints := rfl
@[simp] theorem State.fresh_away (s : State) : s.fresh.2.away = s.away := rfl
@[simp] theorem State.fresh_wires (s : State) : s.fresh.2.wires = s.wires := rfl
@[simp] theorem State.fresh_hub (s : State) : s.fresh.2.hub = s.hub := rfl
@[simp] theorem State.fresh_saved (s : State) : s.fresh.2.saved = s.saved := rfl
@[simp] theorem State.fresh_module_ (s : State) : s.fresh.2.module_ = s.module_ := rfl

-- countEv

@[simp] theorem State.countEv_cycle (s : State) (p : Pos) (code n : Nat) : (s.countEv p code n).cycle = s.cycle := by
  unfold State.countEv
  split <;> rfl
@[simp] theorem State.countEv_turn (s : State) (p : Pos) (code n : Nat) : (s.countEv p code n).turn = s.turn := by
  unfold State.countEv
  split <;> rfl
@[simp] theorem State.countEv_cur (s : State) (p : Pos) (code n : Nat) : (s.countEv p code n).cur = s.cur := by
  unfold State.countEv
  split <;> rfl
@[simp] theorem State.countEv_msg (s : State) (p : Pos) (code n : Nat) : (s.countEv p code n).msg = s.msg := by
  unfold State.countEv
  split <;> rfl
@[simp] theorem State.countEv_agenda (s : State) (p : Pos) (code n : Nat) : (s.countEv p code n).agenda = s.agenda := by
  unfold State.countEv
  split <;> rfl
@[simp] theorem State.countEv_nextId (s : State) (p : Pos) (code n : Nat) : (s.countEv p code n).nextId = s.nextId := by
  unfold State.countEv
  split <;> rfl
@[simp] theorem State.countEv_freeCount (s : State) (p : Pos) (code n : Nat) : (s.countEv p code n).freeCount = s.freeCount := by
  unfold State.countEv
  split <;> rfl
@[simp] theorem State.countEv_cores (s : State) (p : Pos) (code n : Nat) : (s.countEv p code n).cores = s.cores := by
  unfold State.countEv
  split <;> rfl
@[simp] theorem State.countEv_mem (s : State) (p : Pos) (code n : Nat) : (s.countEv p code n).mem = s.mem := by
  unfold State.countEv
  split <;> rfl
@[simp] theorem State.countEv_spaces (s : State) (p : Pos) (code n : Nat) : (s.countEv p code n).spaces = s.spaces := by
  unfold State.countEv
  split <;> rfl
@[simp] theorem State.countEv_joints (s : State) (p : Pos) (code n : Nat) : (s.countEv p code n).joints = s.joints := by
  unfold State.countEv
  split <;> rfl
@[simp] theorem State.countEv_away (s : State) (p : Pos) (code n : Nat) : (s.countEv p code n).away = s.away := by
  unfold State.countEv
  split <;> rfl
@[simp] theorem State.countEv_wires (s : State) (p : Pos) (code n : Nat) : (s.countEv p code n).wires = s.wires := by
  unfold State.countEv
  split <;> rfl
@[simp] theorem State.countEv_hub (s : State) (p : Pos) (code n : Nat) : (s.countEv p code n).hub = s.hub := by
  unfold State.countEv
  split <;> rfl
@[simp] theorem State.countEv_saved (s : State) (p : Pos) (code n : Nat) : (s.countEv p code n).saved = s.saved := by
  unfold State.countEv
  split <;> rfl
@[simp] theorem State.countEv_module_ (s : State) (p : Pos) (code n : Nat) : (s.countEv p code n).module_ = s.module_ := by
  unfold State.countEv
  split <;> rfl

-- noteAt

@[simp] theorem State.noteAt_cycle (s : State) (p : Pos) (e : Events) : (s.noteAt p e).cycle = s.cycle := by
  unfold State.noteAt
  split <;> rfl
@[simp] theorem State.noteAt_turn (s : State) (p : Pos) (e : Events) : (s.noteAt p e).turn = s.turn := by
  unfold State.noteAt
  split <;> rfl
@[simp] theorem State.noteAt_cur (s : State) (p : Pos) (e : Events) : (s.noteAt p e).cur = s.cur := by
  unfold State.noteAt
  split <;> rfl
@[simp] theorem State.noteAt_msg (s : State) (p : Pos) (e : Events) : (s.noteAt p e).msg = s.msg := by
  unfold State.noteAt
  split <;> rfl
@[simp] theorem State.noteAt_agenda (s : State) (p : Pos) (e : Events) : (s.noteAt p e).agenda = s.agenda := by
  unfold State.noteAt
  split <;> rfl
@[simp] theorem State.noteAt_nextId (s : State) (p : Pos) (e : Events) : (s.noteAt p e).nextId = s.nextId := by
  unfold State.noteAt
  split <;> rfl
@[simp] theorem State.noteAt_freeCount (s : State) (p : Pos) (e : Events) : (s.noteAt p e).freeCount = s.freeCount := by
  unfold State.noteAt
  split <;> rfl
@[simp] theorem State.noteAt_cores (s : State) (p : Pos) (e : Events) : (s.noteAt p e).cores = s.cores := by
  unfold State.noteAt
  split <;> rfl
@[simp] theorem State.noteAt_mem (s : State) (p : Pos) (e : Events) : (s.noteAt p e).mem = s.mem := by
  unfold State.noteAt
  split <;> rfl
@[simp] theorem State.noteAt_spaces (s : State) (p : Pos) (e : Events) : (s.noteAt p e).spaces = s.spaces := by
  unfold State.noteAt
  split <;> rfl
@[simp] theorem State.noteAt_joints (s : State) (p : Pos) (e : Events) : (s.noteAt p e).joints = s.joints := by
  unfold State.noteAt
  split <;> rfl
@[simp] theorem State.noteAt_away (s : State) (p : Pos) (e : Events) : (s.noteAt p e).away = s.away := by
  unfold State.noteAt
  split <;> rfl
@[simp] theorem State.noteAt_wires (s : State) (p : Pos) (e : Events) : (s.noteAt p e).wires = s.wires := by
  unfold State.noteAt
  split <;> rfl
@[simp] theorem State.noteAt_hub (s : State) (p : Pos) (e : Events) : (s.noteAt p e).hub = s.hub := by
  unfold State.noteAt
  split <;> rfl
@[simp] theorem State.noteAt_saved (s : State) (p : Pos) (e : Events) : (s.noteAt p e).saved = s.saved := by
  unfold State.noteAt
  split <;> rfl
@[simp] theorem State.noteAt_module_ (s : State) (p : Pos) (e : Events) : (s.noteAt p e).module_ = s.module_ := by
  unfold State.noteAt
  split <;> rfl

-- onTask

@[simp] theorem State.onTask_cycle (s : State) (t : Tk) (f : Task → Task) : (s.onTask t f).cycle = s.cycle := by
  unfold State.onTask
  split <;> rfl
@[simp] theorem State.onTask_turn (s : State) (t : Tk) (f : Task → Task) : (s.onTask t f).turn = s.turn := by
  unfold State.onTask
  split <;> rfl
@[simp] theorem State.onTask_cur (s : State) (t : Tk) (f : Task → Task) : (s.onTask t f).cur = s.cur := by
  unfold State.onTask
  split <;> rfl
@[simp] theorem State.onTask_msg (s : State) (t : Tk) (f : Task → Task) : (s.onTask t f).msg = s.msg := by
  unfold State.onTask
  split <;> rfl
@[simp] theorem State.onTask_agenda (s : State) (t : Tk) (f : Task → Task) : (s.onTask t f).agenda = s.agenda := by
  unfold State.onTask
  split <;> rfl
@[simp] theorem State.onTask_nextId (s : State) (t : Tk) (f : Task → Task) : (s.onTask t f).nextId = s.nextId := by
  unfold State.onTask
  split <;> rfl
@[simp] theorem State.onTask_freeCount (s : State) (t : Tk) (f : Task → Task) : (s.onTask t f).freeCount = s.freeCount := by
  unfold State.onTask
  split <;> rfl
@[simp] theorem State.onTask_cores (s : State) (t : Tk) (f : Task → Task) : (s.onTask t f).cores = s.cores := by
  unfold State.onTask
  split <;> rfl
@[simp] theorem State.onTask_mem (s : State) (t : Tk) (f : Task → Task) : (s.onTask t f).mem = s.mem := by
  unfold State.onTask
  split <;> rfl
@[simp] theorem State.onTask_spaces (s : State) (t : Tk) (f : Task → Task) : (s.onTask t f).spaces = s.spaces := by
  unfold State.onTask
  split <;> rfl
@[simp] theorem State.onTask_joints (s : State) (t : Tk) (f : Task → Task) : (s.onTask t f).joints = s.joints := by
  unfold State.onTask
  split <;> rfl
@[simp] theorem State.onTask_away (s : State) (t : Tk) (f : Task → Task) : (s.onTask t f).away = s.away := by
  unfold State.onTask
  split <;> rfl
@[simp] theorem State.onTask_wires (s : State) (t : Tk) (f : Task → Task) : (s.onTask t f).wires = s.wires := by
  unfold State.onTask
  split <;> rfl
@[simp] theorem State.onTask_hub (s : State) (t : Tk) (f : Task → Task) : (s.onTask t f).hub = s.hub := by
  unfold State.onTask
  split <;> rfl
@[simp] theorem State.onTask_module_ (s : State) (t : Tk) (f : Task → Task) : (s.onTask t f).module_ = s.module_ := by
  unfold State.onTask
  split <;> rfl

-- unpark

@[simp] theorem State.unpark_cycle (s : State) (p : Pos) : (s.unpark p).cycle = s.cycle := by
  simp only [State.unpark]
  split
  · simp
  · rfl
@[simp] theorem State.unpark_turn (s : State) (p : Pos) : (s.unpark p).turn = s.turn := by
  simp only [State.unpark]
  split
  · simp
  · rfl
@[simp] theorem State.unpark_cur (s : State) (p : Pos) : (s.unpark p).cur = s.cur := by
  simp only [State.unpark]
  split
  · simp
  · rfl
@[simp] theorem State.unpark_msg (s : State) (p : Pos) : (s.unpark p).msg = s.msg := by
  simp only [State.unpark]
  split
  · simp
  · rfl
@[simp] theorem State.unpark_agenda (s : State) (p : Pos) : (s.unpark p).agenda = s.agenda := by
  simp only [State.unpark]
  split
  · simp
  · rfl
@[simp] theorem State.unpark_nextId (s : State) (p : Pos) : (s.unpark p).nextId = s.nextId := by
  simp only [State.unpark]
  split
  · simp
  · rfl
@[simp] theorem State.unpark_freeCount (s : State) (p : Pos) : (s.unpark p).freeCount = s.freeCount := by
  simp only [State.unpark]
  split
  · simp
  · rfl
@[simp] theorem State.unpark_cores (s : State) (p : Pos) : (s.unpark p).cores = s.cores := by
  simp only [State.unpark]
  split
  · simp
  · rfl
@[simp] theorem State.unpark_mem (s : State) (p : Pos) : (s.unpark p).mem = s.mem := by
  simp only [State.unpark]
  split
  · simp
  · rfl
@[simp] theorem State.unpark_spaces (s : State) (p : Pos) : (s.unpark p).spaces = s.spaces := by
  simp only [State.unpark]
  split
  · simp
  · rfl
@[simp] theorem State.unpark_joints (s : State) (p : Pos) : (s.unpark p).joints = s.joints := by
  simp only [State.unpark]
  split
  · simp
  · rfl
@[simp] theorem State.unpark_away (s : State) (p : Pos) : (s.unpark p).away = s.away := by
  simp only [State.unpark]
  split
  · simp
  · rfl
@[simp] theorem State.unpark_wires (s : State) (p : Pos) : (s.unpark p).wires = s.wires := by
  simp only [State.unpark]
  split
  · simp
  · rfl
@[simp] theorem State.unpark_hub (s : State) (p : Pos) : (s.unpark p).hub = s.hub := by
  simp only [State.unpark]
  split
  · simp
  · rfl
@[simp] theorem State.unpark_saved (s : State) (p : Pos) : (s.unpark p).saved = s.saved := by
  simp only [State.unpark]
  split
  · simp
  · rfl
@[simp] theorem State.unpark_module_ (s : State) (p : Pos) : (s.unpark p).module_ = s.module_ := by
  simp only [State.unpark]
  split
  · simp
  · rfl

-- wake

@[simp] theorem State.wake_cycle (s : State) (p : Pos) (w : Wait) : (s.wake p w).cycle = s.cycle := by
  unfold State.wake
  split
  · simp
  · rfl
@[simp] theorem State.wake_turn (s : State) (p : Pos) (w : Wait) : (s.wake p w).turn = s.turn := by
  unfold State.wake
  split
  · simp
  · rfl
@[simp] theorem State.wake_cur (s : State) (p : Pos) (w : Wait) : (s.wake p w).cur = s.cur := by
  unfold State.wake
  split
  · simp
  · rfl
@[simp] theorem State.wake_msg (s : State) (p : Pos) (w : Wait) : (s.wake p w).msg = s.msg := by
  unfold State.wake
  split
  · simp
  · rfl
@[simp] theorem State.wake_agenda (s : State) (p : Pos) (w : Wait) : (s.wake p w).agenda = s.agenda := by
  unfold State.wake
  split
  · simp
  · rfl
@[simp] theorem State.wake_nextId (s : State) (p : Pos) (w : Wait) : (s.wake p w).nextId = s.nextId := by
  unfold State.wake
  split
  · simp
  · rfl
@[simp] theorem State.wake_freeCount (s : State) (p : Pos) (w : Wait) : (s.wake p w).freeCount = s.freeCount := by
  unfold State.wake
  split
  · simp
  · rfl
@[simp] theorem State.wake_cores (s : State) (p : Pos) (w : Wait) : (s.wake p w).cores = s.cores := by
  unfold State.wake
  split
  · simp
  · rfl
@[simp] theorem State.wake_mem (s : State) (p : Pos) (w : Wait) : (s.wake p w).mem = s.mem := by
  unfold State.wake
  split
  · simp
  · rfl
@[simp] theorem State.wake_spaces (s : State) (p : Pos) (w : Wait) : (s.wake p w).spaces = s.spaces := by
  unfold State.wake
  split
  · simp
  · rfl
@[simp] theorem State.wake_joints (s : State) (p : Pos) (w : Wait) : (s.wake p w).joints = s.joints := by
  unfold State.wake
  split
  · simp
  · rfl
@[simp] theorem State.wake_away (s : State) (p : Pos) (w : Wait) : (s.wake p w).away = s.away := by
  unfold State.wake
  split
  · simp
  · rfl
@[simp] theorem State.wake_wires (s : State) (p : Pos) (w : Wait) : (s.wake p w).wires = s.wires := by
  unfold State.wake
  split
  · simp
  · rfl
@[simp] theorem State.wake_hub (s : State) (p : Pos) (w : Wait) : (s.wake p w).hub = s.hub := by
  unfold State.wake
  split
  · simp
  · rfl
@[simp] theorem State.wake_saved (s : State) (p : Pos) (w : Wait) : (s.wake p w).saved = s.saved := by
  unfold State.wake
  split
  · simp
  · rfl
@[simp] theorem State.wake_module_ (s : State) (p : Pos) (w : Wait) : (s.wake p w).module_ = s.module_ := by
  unfold State.wake
  split
  · simp
  · rfl

-- trapEntry

@[simp] theorem State.trapEntry_cycle (s : State) (p : Pos) (tr : Trap) (pc : Option Word) : (s.trapEntry p tr pc).cycle = s.cycle := by
  simp only [State.trapEntry]
  split
  · simp
  · split
    · simp
    · simp
@[simp] theorem State.trapEntry_turn (s : State) (p : Pos) (tr : Trap) (pc : Option Word) : (s.trapEntry p tr pc).turn = s.turn := by
  simp only [State.trapEntry]
  split
  · simp
  · split
    · simp
    · simp
@[simp] theorem State.trapEntry_cur (s : State) (p : Pos) (tr : Trap) (pc : Option Word) : (s.trapEntry p tr pc).cur = s.cur := by
  simp only [State.trapEntry]
  split
  · simp
  · split
    · simp
    · simp
@[simp] theorem State.trapEntry_msg (s : State) (p : Pos) (tr : Trap) (pc : Option Word) : (s.trapEntry p tr pc).msg = s.msg := by
  simp only [State.trapEntry]
  split
  · simp
  · split
    · simp
    · simp
@[simp] theorem State.trapEntry_nextId (s : State) (p : Pos) (tr : Trap) (pc : Option Word) : (s.trapEntry p tr pc).nextId = s.nextId := by
  simp only [State.trapEntry]
  split
  · simp
  · split
    · simp
    · simp
@[simp] theorem State.trapEntry_freeCount (s : State) (p : Pos) (tr : Trap) (pc : Option Word) : (s.trapEntry p tr pc).freeCount = s.freeCount := by
  simp only [State.trapEntry]
  split
  · simp
  · split
    · simp
    · simp
@[simp] theorem State.trapEntry_cores (s : State) (p : Pos) (tr : Trap) (pc : Option Word) : (s.trapEntry p tr pc).cores = s.cores := by
  simp only [State.trapEntry]
  split
  · simp
  · split
    · simp
    · simp
@[simp] theorem State.trapEntry_mem (s : State) (p : Pos) (tr : Trap) (pc : Option Word) : (s.trapEntry p tr pc).mem = s.mem := by
  simp only [State.trapEntry]
  split
  · simp
  · split
    · simp
    · simp
@[simp] theorem State.trapEntry_spaces (s : State) (p : Pos) (tr : Trap) (pc : Option Word) : (s.trapEntry p tr pc).spaces = s.spaces := by
  simp only [State.trapEntry]
  split
  · simp
  · split
    · simp
    · simp
@[simp] theorem State.trapEntry_joints (s : State) (p : Pos) (tr : Trap) (pc : Option Word) : (s.trapEntry p tr pc).joints = s.joints := by
  simp only [State.trapEntry]
  split
  · simp
  · split
    · simp
    · simp
@[simp] theorem State.trapEntry_away (s : State) (p : Pos) (tr : Trap) (pc : Option Word) : (s.trapEntry p tr pc).away = s.away := by
  simp only [State.trapEntry]
  split
  · simp
  · split
    · simp
    · simp
@[simp] theorem State.trapEntry_wires (s : State) (p : Pos) (tr : Trap) (pc : Option Word) : (s.trapEntry p tr pc).wires = s.wires := by
  simp only [State.trapEntry]
  split
  · simp
  · split
    · simp
    · simp
@[simp] theorem State.trapEntry_hub (s : State) (p : Pos) (tr : Trap) (pc : Option Word) : (s.trapEntry p tr pc).hub = s.hub := by
  simp only [State.trapEntry]
  split
  · simp
  · split
    · simp
    · simp
@[simp] theorem State.trapEntry_saved (s : State) (p : Pos) (tr : Trap) (pc : Option Word) : (s.trapEntry p tr pc).saved = s.saved := by
  simp only [State.trapEntry]
  split
  · simp
  · split
    · simp
    · simp
@[simp] theorem State.trapEntry_module_ (s : State) (p : Pos) (tr : Trap) (pc : Option Word) : (s.trapEntry p tr pc).module_ = s.module_ := by
  simp only [State.trapEntry]
  split
  · simp
  · split
    · simp
    · simp

-- takeTraps

@[simp] theorem State.takeTraps_cycle (s : State) (p : Pos) : (s.takeTraps p).cycle = s.cycle := by
  simp only [State.takeTraps]
  split
  · split
    · split
      · split <;> simp
      · rfl
    · split
      · rfl
      · simp
  · rfl
@[simp] theorem State.takeTraps_turn (s : State) (p : Pos) : (s.takeTraps p).turn = s.turn := by
  simp only [State.takeTraps]
  split
  · split
    · split
      · split <;> simp
      · rfl
    · split
      · rfl
      · simp
  · rfl
@[simp] theorem State.takeTraps_cur (s : State) (p : Pos) : (s.takeTraps p).cur = s.cur := by
  simp only [State.takeTraps]
  split
  · split
    · split
      · split <;> simp
      · rfl
    · split
      · rfl
      · simp
  · rfl
@[simp] theorem State.takeTraps_msg (s : State) (p : Pos) : (s.takeTraps p).msg = s.msg := by
  simp only [State.takeTraps]
  split
  · split
    · split
      · split <;> simp
      · rfl
    · split
      · rfl
      · simp
  · rfl
@[simp] theorem State.takeTraps_nextId (s : State) (p : Pos) : (s.takeTraps p).nextId = s.nextId := by
  simp only [State.takeTraps]
  split
  · split
    · split
      · split <;> simp
      · rfl
    · split
      · rfl
      · simp
  · rfl
@[simp] theorem State.takeTraps_freeCount (s : State) (p : Pos) : (s.takeTraps p).freeCount = s.freeCount := by
  simp only [State.takeTraps]
  split
  · split
    · split
      · split <;> simp
      · rfl
    · split
      · rfl
      · simp
  · rfl
@[simp] theorem State.takeTraps_cores (s : State) (p : Pos) : (s.takeTraps p).cores = s.cores := by
  simp only [State.takeTraps]
  split
  · split
    · split
      · split <;> simp
      · rfl
    · split
      · rfl
      · simp
  · rfl
@[simp] theorem State.takeTraps_mem (s : State) (p : Pos) : (s.takeTraps p).mem = s.mem := by
  simp only [State.takeTraps]
  split
  · split
    · split
      · split <;> simp
      · rfl
    · split
      · rfl
      · simp
  · rfl
@[simp] theorem State.takeTraps_spaces (s : State) (p : Pos) : (s.takeTraps p).spaces = s.spaces := by
  simp only [State.takeTraps]
  split
  · split
    · split
      · split <;> simp
      · rfl
    · split
      · rfl
      · simp
  · rfl
@[simp] theorem State.takeTraps_joints (s : State) (p : Pos) : (s.takeTraps p).joints = s.joints := by
  simp only [State.takeTraps]
  split
  · split
    · split
      · split <;> simp
      · rfl
    · split
      · rfl
      · simp
  · rfl
@[simp] theorem State.takeTraps_away (s : State) (p : Pos) : (s.takeTraps p).away = s.away := by
  simp only [State.takeTraps]
  split
  · split
    · split
      · split <;> simp
      · rfl
    · split
      · rfl
      · simp
  · rfl
@[simp] theorem State.takeTraps_wires (s : State) (p : Pos) : (s.takeTraps p).wires = s.wires := by
  simp only [State.takeTraps]
  split
  · split
    · split
      · split <;> simp
      · rfl
    · split
      · rfl
      · simp
  · rfl
@[simp] theorem State.takeTraps_hub (s : State) (p : Pos) : (s.takeTraps p).hub = s.hub := by
  simp only [State.takeTraps]
  split
  · split
    · split
      · split <;> simp
      · rfl
    · split
      · rfl
      · simp
  · rfl
@[simp] theorem State.takeTraps_saved (s : State) (p : Pos) : (s.takeTraps p).saved = s.saved := by
  simp only [State.takeTraps]
  split
  · split
    · split
      · split <;> simp
      · rfl
    · split
      · rfl
      · simp
  · rfl
@[simp] theorem State.takeTraps_module_ (s : State) (p : Pos) : (s.takeTraps p).module_ = s.module_ := by
  simp only [State.takeTraps]
  split
  · split
    · split
      · split <;> simp
      · rfl
    · split
      · rfl
      · simp
  · rfl

-- idleTurn

@[simp] theorem State.idleTurn_cycle (s : State) (c : Nat) : (s.idleTurn c).cycle = s.cycle := by
  unfold State.idleTurn
  split
  · split <;> rfl
  · split <;> rfl
@[simp] theorem State.idleTurn_turn (s : State) (c : Nat) : (s.idleTurn c).turn = s.turn := by
  unfold State.idleTurn
  split
  · split <;> rfl
  · split <;> rfl
@[simp] theorem State.idleTurn_cur (s : State) (c : Nat) : (s.idleTurn c).cur = s.cur := by
  unfold State.idleTurn
  split
  · split <;> rfl
  · split <;> rfl
@[simp] theorem State.idleTurn_msg (s : State) (c : Nat) : (s.idleTurn c).msg = s.msg := by
  unfold State.idleTurn
  split
  · split <;> rfl
  · split <;> rfl
@[simp] theorem State.idleTurn_nextId (s : State) (c : Nat) : (s.idleTurn c).nextId = s.nextId := by
  unfold State.idleTurn
  split
  · split <;> rfl
  · split <;> rfl
@[simp] theorem State.idleTurn_freeCount (s : State) (c : Nat) : (s.idleTurn c).freeCount = s.freeCount := by
  unfold State.idleTurn
  split
  · split <;> rfl
  · split <;> rfl
@[simp] theorem State.idleTurn_slots (s : State) (c : Nat) : (s.idleTurn c).slots = s.slots := by
  unfold State.idleTurn
  split
  · split <;> rfl
  · split <;> rfl
@[simp] theorem State.idleTurn_mem (s : State) (c : Nat) : (s.idleTurn c).mem = s.mem := by
  unfold State.idleTurn
  split
  · split <;> rfl
  · split <;> rfl
@[simp] theorem State.idleTurn_spaces (s : State) (c : Nat) : (s.idleTurn c).spaces = s.spaces := by
  unfold State.idleTurn
  split
  · split <;> rfl
  · split <;> rfl
@[simp] theorem State.idleTurn_joints (s : State) (c : Nat) : (s.idleTurn c).joints = s.joints := by
  unfold State.idleTurn
  split
  · split <;> rfl
  · split <;> rfl
@[simp] theorem State.idleTurn_away (s : State) (c : Nat) : (s.idleTurn c).away = s.away := by
  unfold State.idleTurn
  split
  · split <;> rfl
  · split <;> rfl
@[simp] theorem State.idleTurn_wires (s : State) (c : Nat) : (s.idleTurn c).wires = s.wires := by
  unfold State.idleTurn
  split
  · split <;> rfl
  · split <;> rfl
@[simp] theorem State.idleTurn_hub (s : State) (c : Nat) : (s.idleTurn c).hub = s.hub := by
  unfold State.idleTurn
  split
  · split <;> rfl
  · split <;> rfl
@[simp] theorem State.idleTurn_saved (s : State) (c : Nat) : (s.idleTurn c).saved = s.saved := by
  unfold State.idleTurn
  split
  · split <;> rfl
  · split <;> rfl
@[simp] theorem State.idleTurn_module_ (s : State) (c : Nat) : (s.idleTurn c).module_ = s.module_ := by
  unfold State.idleTurn
  split
  · split <;> rfl
  · split <;> rfl

-- waitTurn

@[simp] theorem State.waitTurn_cycle (s : State)  : s.waitTurn.cycle = s.cycle := by
  unfold State.waitTurn
  simp
@[simp] theorem State.waitTurn_turn (s : State)  : s.waitTurn.turn = s.turn := by
  unfold State.waitTurn
  simp
@[simp] theorem State.waitTurn_cur (s : State)  : s.waitTurn.cur = s.cur := by
  unfold State.waitTurn
  simp
@[simp] theorem State.waitTurn_msg (s : State)  : s.waitTurn.msg = s.msg := by
  unfold State.waitTurn
  simp
@[simp] theorem State.waitTurn_nextId (s : State)  : s.waitTurn.nextId = s.nextId := by
  unfold State.waitTurn
  simp
@[simp] theorem State.waitTurn_freeCount (s : State)  : s.waitTurn.freeCount = s.freeCount := by
  unfold State.waitTurn
  simp
@[simp] theorem State.waitTurn_slots (s : State)  : s.waitTurn.slots = s.slots := by
  unfold State.waitTurn
  simp
@[simp] theorem State.waitTurn_mem (s : State)  : s.waitTurn.mem = s.mem := by
  unfold State.waitTurn
  simp
@[simp] theorem State.waitTurn_spaces (s : State)  : s.waitTurn.spaces = s.spaces := by
  unfold State.waitTurn
  simp
@[simp] theorem State.waitTurn_joints (s : State)  : s.waitTurn.joints = s.joints := by
  unfold State.waitTurn
  simp
@[simp] theorem State.waitTurn_away (s : State)  : s.waitTurn.away = s.away := by
  unfold State.waitTurn
  simp
@[simp] theorem State.waitTurn_wires (s : State)  : s.waitTurn.wires = s.wires := by
  unfold State.waitTurn
  simp
@[simp] theorem State.waitTurn_hub (s : State)  : s.waitTurn.hub = s.hub := by
  unfold State.waitTurn
  simp
@[simp] theorem State.waitTurn_saved (s : State)  : s.waitTurn.saved = s.saved := by
  unfold State.waitTurn
  simp
@[simp] theorem State.waitTurn_module_ (s : State)  : s.waitTurn.module_ = s.module_ := by
  unfold State.waitTurn
  simp

-- trapAt

@[simp] theorem State.trapAt_cycle (s : State) (tr : Trap) : (s.trapAt tr).cycle = s.cycle := by
  simp only [State.trapAt]
  split
  · simp
  · split
    · simp
    · simp
@[simp] theorem State.trapAt_turn (s : State) (tr : Trap) : (s.trapAt tr).turn = s.turn := by
  simp only [State.trapAt]
  split
  · simp
  · split
    · simp
    · simp
@[simp] theorem State.trapAt_cur (s : State) (tr : Trap) : (s.trapAt tr).cur = s.cur := by
  simp only [State.trapAt]
  split
  · simp
  · split
    · simp
    · simp
@[simp] theorem State.trapAt_msg (s : State) (tr : Trap) : (s.trapAt tr).msg = s.msg := by
  simp only [State.trapAt]
  split
  · simp
  · split
    · simp
    · simp
@[simp] theorem State.trapAt_nextId (s : State) (tr : Trap) : (s.trapAt tr).nextId = s.nextId := by
  simp only [State.trapAt]
  split
  · simp
  · split
    · simp
    · simp
@[simp] theorem State.trapAt_freeCount (s : State) (tr : Trap) : (s.trapAt tr).freeCount = s.freeCount := by
  simp only [State.trapAt]
  split
  · simp
  · split
    · simp
    · simp
@[simp] theorem State.trapAt_mem (s : State) (tr : Trap) : (s.trapAt tr).mem = s.mem := by
  simp only [State.trapAt]
  split
  · simp
  · split
    · simp
    · simp
@[simp] theorem State.trapAt_spaces (s : State) (tr : Trap) : (s.trapAt tr).spaces = s.spaces := by
  simp only [State.trapAt]
  split
  · simp
  · split
    · simp
    · simp
@[simp] theorem State.trapAt_joints (s : State) (tr : Trap) : (s.trapAt tr).joints = s.joints := by
  simp only [State.trapAt]
  split
  · simp
  · split
    · simp
    · simp
@[simp] theorem State.trapAt_away (s : State) (tr : Trap) : (s.trapAt tr).away = s.away := by
  simp only [State.trapAt]
  split
  · simp
  · split
    · simp
    · simp
@[simp] theorem State.trapAt_wires (s : State) (tr : Trap) : (s.trapAt tr).wires = s.wires := by
  simp only [State.trapAt]
  split
  · simp
  · split
    · simp
    · simp
@[simp] theorem State.trapAt_hub (s : State) (tr : Trap) : (s.trapAt tr).hub = s.hub := by
  simp only [State.trapAt]
  split
  · simp
  · split
    · simp
    · simp
@[simp] theorem State.trapAt_saved (s : State) (tr : Trap) : (s.trapAt tr).saved = s.saved := by
  simp only [State.trapAt]
  split
  · simp
  · split
    · simp
    · simp
@[simp] theorem State.trapAt_module_ (s : State) (tr : Trap) : (s.trapAt tr).module_ = s.module_ := by
  simp only [State.trapAt]
  split
  · simp
  · split
    · simp
    · simp

-- noIssue

@[simp] theorem State.noIssue_cycle (s : State) (cause sub addr acc : Nat) : (s.noIssue cause sub addr acc).cycle = s.cycle := by
  unfold State.noIssue
  simp
@[simp] theorem State.noIssue_turn (s : State) (cause sub addr acc : Nat) : (s.noIssue cause sub addr acc).turn = s.turn := by
  unfold State.noIssue
  simp
@[simp] theorem State.noIssue_cur (s : State) (cause sub addr acc : Nat) : (s.noIssue cause sub addr acc).cur = s.cur := by
  unfold State.noIssue
  simp
@[simp] theorem State.noIssue_msg (s : State) (cause sub addr acc : Nat) : (s.noIssue cause sub addr acc).msg = s.msg := by
  unfold State.noIssue
  simp
@[simp] theorem State.noIssue_nextId (s : State) (cause sub addr acc : Nat) : (s.noIssue cause sub addr acc).nextId = s.nextId := by
  unfold State.noIssue
  simp
@[simp] theorem State.noIssue_freeCount (s : State) (cause sub addr acc : Nat) : (s.noIssue cause sub addr acc).freeCount = s.freeCount := by
  unfold State.noIssue
  simp
@[simp] theorem State.noIssue_mem (s : State) (cause sub addr acc : Nat) : (s.noIssue cause sub addr acc).mem = s.mem := by
  unfold State.noIssue
  simp
@[simp] theorem State.noIssue_spaces (s : State) (cause sub addr acc : Nat) : (s.noIssue cause sub addr acc).spaces = s.spaces := by
  unfold State.noIssue
  simp
@[simp] theorem State.noIssue_joints (s : State) (cause sub addr acc : Nat) : (s.noIssue cause sub addr acc).joints = s.joints := by
  unfold State.noIssue
  simp
@[simp] theorem State.noIssue_away (s : State) (cause sub addr acc : Nat) : (s.noIssue cause sub addr acc).away = s.away := by
  unfold State.noIssue
  simp
@[simp] theorem State.noIssue_wires (s : State) (cause sub addr acc : Nat) : (s.noIssue cause sub addr acc).wires = s.wires := by
  unfold State.noIssue
  simp
@[simp] theorem State.noIssue_hub (s : State) (cause sub addr acc : Nat) : (s.noIssue cause sub addr acc).hub = s.hub := by
  unfold State.noIssue
  simp
@[simp] theorem State.noIssue_saved (s : State) (cause sub addr acc : Nat) : (s.noIssue cause sub addr acc).saved = s.saved := by
  unfold State.noIssue
  simp
@[simp] theorem State.noIssue_module_ (s : State) (cause sub addr acc : Nat) : (s.noIssue cause sub addr acc).module_ = s.module_ := by
  unfold State.noIssue
  simp

-- trapAfter

@[simp] theorem State.trapAfter_cycle (s : State) (p : Pos) (pc : Word) (tr : Trap) : (s.trapAfter p pc tr).cycle = s.cycle := by
  unfold State.trapAfter
  simp
@[simp] theorem State.trapAfter_turn (s : State) (p : Pos) (pc : Word) (tr : Trap) : (s.trapAfter p pc tr).turn = s.turn := by
  unfold State.trapAfter
  simp
@[simp] theorem State.trapAfter_cur (s : State) (p : Pos) (pc : Word) (tr : Trap) : (s.trapAfter p pc tr).cur = s.cur := by
  unfold State.trapAfter
  simp
@[simp] theorem State.trapAfter_msg (s : State) (p : Pos) (pc : Word) (tr : Trap) : (s.trapAfter p pc tr).msg = s.msg := by
  unfold State.trapAfter
  simp
@[simp] theorem State.trapAfter_freeCount (s : State) (p : Pos) (pc : Word) (tr : Trap) : (s.trapAfter p pc tr).freeCount = s.freeCount := by
  unfold State.trapAfter
  simp
@[simp] theorem State.trapAfter_cores (s : State) (p : Pos) (pc : Word) (tr : Trap) : (s.trapAfter p pc tr).cores = s.cores := by
  unfold State.trapAfter
  simp
@[simp] theorem State.trapAfter_mem (s : State) (p : Pos) (pc : Word) (tr : Trap) : (s.trapAfter p pc tr).mem = s.mem := by
  unfold State.trapAfter
  simp
@[simp] theorem State.trapAfter_spaces (s : State) (p : Pos) (pc : Word) (tr : Trap) : (s.trapAfter p pc tr).spaces = s.spaces := by
  unfold State.trapAfter
  simp
@[simp] theorem State.trapAfter_joints (s : State) (p : Pos) (pc : Word) (tr : Trap) : (s.trapAfter p pc tr).joints = s.joints := by
  unfold State.trapAfter
  simp
@[simp] theorem State.trapAfter_away (s : State) (p : Pos) (pc : Word) (tr : Trap) : (s.trapAfter p pc tr).away = s.away := by
  unfold State.trapAfter
  simp
@[simp] theorem State.trapAfter_wires (s : State) (p : Pos) (pc : Word) (tr : Trap) : (s.trapAfter p pc tr).wires = s.wires := by
  unfold State.trapAfter
  simp
@[simp] theorem State.trapAfter_hub (s : State) (p : Pos) (pc : Word) (tr : Trap) : (s.trapAfter p pc tr).hub = s.hub := by
  unfold State.trapAfter
  simp
@[simp] theorem State.trapAfter_saved (s : State) (p : Pos) (pc : Word) (tr : Trap) : (s.trapAfter p pc tr).saved = s.saved := by
  unfold State.trapAfter
  simp
@[simp] theorem State.trapAfter_module_ (s : State) (p : Pos) (pc : Word) (tr : Trap) : (s.trapAfter p pc tr).module_ = s.module_ := by
  unfold State.trapAfter
  simp

-- trapUnissued

@[simp] theorem State.trapUnissued_cycle (s : State) (tr : Trap) : (s.trapUnissued tr).cycle = s.cycle := by
  unfold State.trapUnissued
  split <;> simp
@[simp] theorem State.trapUnissued_turn (s : State) (tr : Trap) : (s.trapUnissued tr).turn = s.turn := by
  unfold State.trapUnissued
  split <;> simp
@[simp] theorem State.trapUnissued_cur (s : State) (tr : Trap) : (s.trapUnissued tr).cur = s.cur := by
  unfold State.trapUnissued
  split <;> simp
@[simp] theorem State.trapUnissued_msg (s : State) (tr : Trap) : (s.trapUnissued tr).msg = s.msg := by
  unfold State.trapUnissued
  split <;> simp
@[simp] theorem State.trapUnissued_nextId (s : State) (tr : Trap) : (s.trapUnissued tr).nextId = s.nextId := by
  unfold State.trapUnissued
  split <;> simp
@[simp] theorem State.trapUnissued_freeCount (s : State) (tr : Trap) : (s.trapUnissued tr).freeCount = s.freeCount := by
  unfold State.trapUnissued
  split <;> simp
@[simp] theorem State.trapUnissued_mem (s : State) (tr : Trap) : (s.trapUnissued tr).mem = s.mem := by
  unfold State.trapUnissued
  split <;> simp
@[simp] theorem State.trapUnissued_spaces (s : State) (tr : Trap) : (s.trapUnissued tr).spaces = s.spaces := by
  unfold State.trapUnissued
  split <;> simp
@[simp] theorem State.trapUnissued_joints (s : State) (tr : Trap) : (s.trapUnissued tr).joints = s.joints := by
  unfold State.trapUnissued
  split <;> simp
@[simp] theorem State.trapUnissued_away (s : State) (tr : Trap) : (s.trapUnissued tr).away = s.away := by
  unfold State.trapUnissued
  split <;> simp
@[simp] theorem State.trapUnissued_wires (s : State) (tr : Trap) : (s.trapUnissued tr).wires = s.wires := by
  unfold State.trapUnissued
  split <;> simp
@[simp] theorem State.trapUnissued_hub (s : State) (tr : Trap) : (s.trapUnissued tr).hub = s.hub := by
  unfold State.trapUnissued
  split <;> simp
@[simp] theorem State.trapUnissued_saved (s : State) (tr : Trap) : (s.trapUnissued tr).saved = s.saved := by
  unfold State.trapUnissued
  split <;> simp
@[simp] theorem State.trapUnissued_module_ (s : State) (tr : Trap) : (s.trapUnissued tr).module_ = s.module_ := by
  unfold State.trapUnissued
  split <;> simp

-- formatFault

@[simp] theorem State.formatFault_cycle (s : State) (sub : Nat) : (s.formatFault sub).cycle = s.cycle := by
  unfold State.formatFault
  simp
@[simp] theorem State.formatFault_turn (s : State) (sub : Nat) : (s.formatFault sub).turn = s.turn := by
  unfold State.formatFault
  simp
@[simp] theorem State.formatFault_cur (s : State) (sub : Nat) : (s.formatFault sub).cur = s.cur := by
  unfold State.formatFault
  simp
@[simp] theorem State.formatFault_msg (s : State) (sub : Nat) : (s.formatFault sub).msg = s.msg := by
  unfold State.formatFault
  simp
@[simp] theorem State.formatFault_nextId (s : State) (sub : Nat) : (s.formatFault sub).nextId = s.nextId := by
  unfold State.formatFault
  simp
@[simp] theorem State.formatFault_freeCount (s : State) (sub : Nat) : (s.formatFault sub).freeCount = s.freeCount := by
  unfold State.formatFault
  simp
@[simp] theorem State.formatFault_mem (s : State) (sub : Nat) : (s.formatFault sub).mem = s.mem := by
  unfold State.formatFault
  simp
@[simp] theorem State.formatFault_spaces (s : State) (sub : Nat) : (s.formatFault sub).spaces = s.spaces := by
  unfold State.formatFault
  simp
@[simp] theorem State.formatFault_joints (s : State) (sub : Nat) : (s.formatFault sub).joints = s.joints := by
  unfold State.formatFault
  simp
@[simp] theorem State.formatFault_away (s : State) (sub : Nat) : (s.formatFault sub).away = s.away := by
  unfold State.formatFault
  simp
@[simp] theorem State.formatFault_wires (s : State) (sub : Nat) : (s.formatFault sub).wires = s.wires := by
  unfold State.formatFault
  simp
@[simp] theorem State.formatFault_hub (s : State) (sub : Nat) : (s.formatFault sub).hub = s.hub := by
  unfold State.formatFault
  simp
@[simp] theorem State.formatFault_saved (s : State) (sub : Nat) : (s.formatFault sub).saved = s.saved := by
  unfold State.formatFault
  simp
@[simp] theorem State.formatFault_module_ (s : State) (sub : Nat) : (s.formatFault sub).module_ = s.module_ := by
  unfold State.formatFault
  simp

-- formatFaultAt

@[simp] theorem State.formatFaultAt_cycle (s : State) (sub addr : Nat) : (s.formatFaultAt sub addr).cycle = s.cycle := by
  unfold State.formatFaultAt
  simp
@[simp] theorem State.formatFaultAt_turn (s : State) (sub addr : Nat) : (s.formatFaultAt sub addr).turn = s.turn := by
  unfold State.formatFaultAt
  simp
@[simp] theorem State.formatFaultAt_cur (s : State) (sub addr : Nat) : (s.formatFaultAt sub addr).cur = s.cur := by
  unfold State.formatFaultAt
  simp
@[simp] theorem State.formatFaultAt_msg (s : State) (sub addr : Nat) : (s.formatFaultAt sub addr).msg = s.msg := by
  unfold State.formatFaultAt
  simp
@[simp] theorem State.formatFaultAt_nextId (s : State) (sub addr : Nat) : (s.formatFaultAt sub addr).nextId = s.nextId := by
  unfold State.formatFaultAt
  simp
@[simp] theorem State.formatFaultAt_freeCount (s : State) (sub addr : Nat) : (s.formatFaultAt sub addr).freeCount = s.freeCount := by
  unfold State.formatFaultAt
  simp
@[simp] theorem State.formatFaultAt_mem (s : State) (sub addr : Nat) : (s.formatFaultAt sub addr).mem = s.mem := by
  unfold State.formatFaultAt
  simp
@[simp] theorem State.formatFaultAt_spaces (s : State) (sub addr : Nat) : (s.formatFaultAt sub addr).spaces = s.spaces := by
  unfold State.formatFaultAt
  simp
@[simp] theorem State.formatFaultAt_joints (s : State) (sub addr : Nat) : (s.formatFaultAt sub addr).joints = s.joints := by
  unfold State.formatFaultAt
  simp
@[simp] theorem State.formatFaultAt_away (s : State) (sub addr : Nat) : (s.formatFaultAt sub addr).away = s.away := by
  unfold State.formatFaultAt
  simp
@[simp] theorem State.formatFaultAt_wires (s : State) (sub addr : Nat) : (s.formatFaultAt sub addr).wires = s.wires := by
  unfold State.formatFaultAt
  simp
@[simp] theorem State.formatFaultAt_hub (s : State) (sub addr : Nat) : (s.formatFaultAt sub addr).hub = s.hub := by
  unfold State.formatFaultAt
  simp
@[simp] theorem State.formatFaultAt_saved (s : State) (sub addr : Nat) : (s.formatFaultAt sub addr).saved = s.saved := by
  unfold State.formatFaultAt
  simp
@[simp] theorem State.formatFaultAt_module_ (s : State) (sub addr : Nat) : (s.formatFaultAt sub addr).module_ = s.module_ := by
  unfold State.formatFaultAt
  simp

-- goTo

@[simp] theorem State.goTo_cycle (s : State) (pc : Word) : (s.goTo pc).cycle = s.cycle := by
  unfold State.goTo
  simp
@[simp] theorem State.goTo_turn (s : State) (pc : Word) : (s.goTo pc).turn = s.turn := by
  unfold State.goTo
  simp
@[simp] theorem State.goTo_cur (s : State) (pc : Word) : (s.goTo pc).cur = s.cur := by
  unfold State.goTo
  simp
@[simp] theorem State.goTo_msg (s : State) (pc : Word) : (s.goTo pc).msg = s.msg := by
  unfold State.goTo
  simp
@[simp] theorem State.goTo_agenda (s : State) (pc : Word) : (s.goTo pc).agenda = s.agenda := by
  unfold State.goTo
  simp
@[simp] theorem State.goTo_nextId (s : State) (pc : Word) : (s.goTo pc).nextId = s.nextId := by
  unfold State.goTo
  simp
@[simp] theorem State.goTo_freeCount (s : State) (pc : Word) : (s.goTo pc).freeCount = s.freeCount := by
  unfold State.goTo
  simp
@[simp] theorem State.goTo_cores (s : State) (pc : Word) : (s.goTo pc).cores = s.cores := by
  unfold State.goTo
  simp
@[simp] theorem State.goTo_mem (s : State) (pc : Word) : (s.goTo pc).mem = s.mem := by
  unfold State.goTo
  simp
@[simp] theorem State.goTo_spaces (s : State) (pc : Word) : (s.goTo pc).spaces = s.spaces := by
  unfold State.goTo
  simp
@[simp] theorem State.goTo_joints (s : State) (pc : Word) : (s.goTo pc).joints = s.joints := by
  unfold State.goTo
  simp
@[simp] theorem State.goTo_away (s : State) (pc : Word) : (s.goTo pc).away = s.away := by
  unfold State.goTo
  simp
@[simp] theorem State.goTo_wires (s : State) (pc : Word) : (s.goTo pc).wires = s.wires := by
  unfold State.goTo
  simp
@[simp] theorem State.goTo_hub (s : State) (pc : Word) : (s.goTo pc).hub = s.hub := by
  unfold State.goTo
  simp
@[simp] theorem State.goTo_saved (s : State) (pc : Word) : (s.goTo pc).saved = s.saved := by
  unfold State.goTo
  simp
@[simp] theorem State.goTo_module_ (s : State) (pc : Word) : (s.goTo pc).module_ = s.module_ := by
  unfold State.goTo
  simp

-- advance

@[simp] theorem State.advance_cycle (s : State)  : s.advance.cycle = s.cycle := by
  unfold State.advance
  simp
@[simp] theorem State.advance_turn (s : State)  : s.advance.turn = s.turn := by
  unfold State.advance
  simp
@[simp] theorem State.advance_cur (s : State)  : s.advance.cur = s.cur := by
  unfold State.advance
  simp
@[simp] theorem State.advance_msg (s : State)  : s.advance.msg = s.msg := by
  unfold State.advance
  simp
@[simp] theorem State.advance_agenda (s : State)  : s.advance.agenda = s.agenda := by
  unfold State.advance
  simp
@[simp] theorem State.advance_nextId (s : State)  : s.advance.nextId = s.nextId := by
  unfold State.advance
  simp
@[simp] theorem State.advance_freeCount (s : State)  : s.advance.freeCount = s.freeCount := by
  unfold State.advance
  simp
@[simp] theorem State.advance_cores (s : State)  : s.advance.cores = s.cores := by
  unfold State.advance
  simp
@[simp] theorem State.advance_mem (s : State)  : s.advance.mem = s.mem := by
  unfold State.advance
  simp
@[simp] theorem State.advance_spaces (s : State)  : s.advance.spaces = s.spaces := by
  unfold State.advance
  simp
@[simp] theorem State.advance_joints (s : State)  : s.advance.joints = s.joints := by
  unfold State.advance
  simp
@[simp] theorem State.advance_away (s : State)  : s.advance.away = s.away := by
  unfold State.advance
  simp
@[simp] theorem State.advance_wires (s : State)  : s.advance.wires = s.wires := by
  unfold State.advance
  simp
@[simp] theorem State.advance_hub (s : State)  : s.advance.hub = s.hub := by
  unfold State.advance
  simp
@[simp] theorem State.advance_saved (s : State)  : s.advance.saved = s.saved := by
  unfold State.advance
  simp
@[simp] theorem State.advance_module_ (s : State)  : s.advance.module_ = s.module_ := by
  unfold State.advance
  simp

-- slots, tasks and cores after an update

theorem State.slot_setSlot (s : State) (p q : Pos) (x : Slot) : (s.setSlot p x).slot q = if q = p then x else s.slot q :=
  Tbl.get_put s.slots {} p q x

@[simp] theorem State.slot_setSlot_self (s : State) (p : Pos) (x : Slot) : (s.setSlot p x).slot p = x := by
  simp [State.slot_setSlot]

theorem State.slot_modSlot (s : State) (p q : Pos) (f : Slot → Slot) :
    (s.modSlot p f).slot q = if q = p then f (s.slot p) else s.slot q := State.slot_setSlot s p q _

@[simp] theorem State.slot_modSlot_self (s : State) (p : Pos) (f : Slot → Slot) : (s.modSlot p f).slot p = f (s.slot p) := by
  simp [State.slot_modSlot]

theorem State.slot_modTask (s : State) (p q : Pos) (f : Task → Task) :
    (s.modTask p f).slot q = if q = p then { s.slot p with task := f (s.task p) } else s.slot q := State.slot_modSlot s p q _

@[simp] theorem State.task_modTask_self (s : State) (p : Pos) (f : Task → Task) : (s.modTask p f).task p = f (s.task p) := by
  simp [State.task, State.modTask]

theorem State.task_modTask (s : State) (p q : Pos) (f : Task → Task) :
    (s.modTask p f).task q = if q = p then f (s.task p) else s.task q := by
  unfold State.task
  rw [State.slot_modTask]
  split
  · subst_vars
    rfl
  · rfl

theorem State.core_modCore (s : State) (c d : Nat) (f : Core → Core) :
    (s.modCore c f).core d = if d = c then f (s.core c) else s.core d := Tbl.get_put s.cores {} c d _

@[simp] theorem State.core_modCore_self (s : State) (c : Nat) (f : Core → Core) : (s.modCore c f).core c = f (s.core c) := by
  simp [State.core_modCore]

theorem State.space_modSpace (s : State) (i j : Nat) (f : Space → Space) :
    (s.modSpace i f).space j = if j = i then f (s.space i) else s.space j := Tbl.get_put s.spaces {} i j _

@[simp] theorem State.core_of_slots (s : State) (x : Tbl Slot) (c : Nat) : State.core { s with slots := x } c = s.core c := rfl

@[simp] theorem State.slot_of_cores (s : State) (x : Tbl Core) (p : Pos) : State.slot { s with cores := x } p = s.slot p := rfl

@[simp] theorem State.slot_modCore (s : State) (c : Nat) (f : Core → Core) (p : Pos) : (s.modCore c f).slot p = s.slot p := rfl
@[simp] theorem State.slot_modMem (s : State) (f : Mem → Mem) (p : Pos) : (s.modMem f).slot p = s.slot p := rfl
@[simp] theorem State.slot_post (s : State) (d t : Nat) (e : Instr) (m : Msg) (p : Pos) : (s.post d t e m).slot p = s.slot p := rfl
@[simp] theorem State.slot_postAt (s : State) (d : Nat) (q : Pos) (e : Instr) (m : Msg) (p : Pos) : (s.postAt d q e m).slot p = s.slot p := rfl
@[simp] theorem State.slot_postHub (s : State) (d : Nat) (e : Instr) (m : Msg) (p : Pos) : (s.postHub d e m).slot p = s.slot p := rfl
@[simp] theorem State.slot_sendRecord (s : State) (c : Nat) (r : FaultRec) (p : Pos) : (s.sendRecord c r).slot p = s.slot p := rfl
@[simp] theorem State.core_modTask (s : State) (p : Pos) (f : Task → Task) (c : Nat) : (s.modTask p f).core c = s.core c := rfl
@[simp] theorem State.core_modSlot (s : State) (p : Pos) (f : Slot → Slot) (c : Nat) : (s.modSlot p f).core c = s.core c := rfl
@[simp] theorem State.core_setMy (s : State) (f : Task → Task) (c : Nat) : (s.setMy f).core c = s.core c := rfl
@[simp] theorem State.core_park (s : State) (p : Pos) (w : Wait) (c : Nat) : (s.park p w).core c = s.core c := rfl
@[simp] theorem State.core_post (s : State) (d t : Nat) (e : Instr) (m : Msg) (c : Nat) : (s.post d t e m).core c = s.core c := rfl

@[simp] theorem State.core_countEv (s : State) (p : Pos) (code n c : Nat) : (s.countEv p code n).core c = s.core c := by
  simp only [State.core, State.countEv_cores]

@[simp] theorem State.core_goTo (s : State) (pc : Word) (c : Nat) : (s.goTo pc).core c = s.core c := by
  simp only [State.core, State.goTo_cores]

@[simp] theorem State.core_advance (s : State) (c : Nat) : s.advance.core c = s.core c := by
  simp only [State.core, State.advance_cores]

@[simp] theorem State.my_setMy (s : State) (f : Task → Task) : (s.setMy f).my = f s.my := State.task_modTask_self s s.cur f

-- an event count changes EVCNT0 to EVCNT7 of one task only (R489)

theorem foldl_keeps {α β γ : Type} (g : α → γ) (f : α → β → α) (h : ∀ a b, g (f a b) = g a) (l : List β) (a : α) :
    g (l.foldl f a) = g a := by
  induction l generalizing a with
  | nil => rfl
  | cons b r ih => rw [List.foldl_cons, ih, h]

theorem Task.countEv_keeps {γ : Type} (g : Task → γ) (h : ∀ t c v, g (Task.setCr t c v) = g t) (t : Task) (code n : Nat) :
    g (t.countEv code n) = g t := by
  unfold Task.countEv
  split
  · rfl
  · refine foldl_keeps g _ (fun a b => ?_) _ _
    split
    · exact h _ _ _
    · rfl

theorem State.slot_countEv_of_ne (s : State) {p q : Pos} (code n : Nat) (h : q ≠ p) : (s.countEv p code n).slot q = s.slot q := by
  unfold State.countEv
  split
  · rfl
  · rw [State.slot_modTask, if_neg h]

theorem State.task_countEv_keeps {γ : Type} (g : Task → γ) (h : ∀ t c v, g (Task.setCr t c v) = g t) (s : State) (p q : Pos) (code n : Nat) :
    g ((s.countEv p code n).task q) = g (s.task q) := by
  unfold State.countEv
  split
  · rfl
  · rw [State.task_modTask]
    split
    · subst_vars
      exact Task.countEv_keeps g h _ _ _
    · rfl

theorem State.slot_countEv_keeps {γ : Type} (g : Slot → γ) (h : ∀ (x : Slot) t, g { x with task := t } = g x) (s : State) (p q : Pos) (code n : Nat) :
    g ((s.countEv p code n).slot q) = g (s.slot q) := by
  unfold State.countEv
  split
  · rfl
  · rw [State.slot_modTask]
    split
    · subst_vars
      exact h _ _
    · rfl


end Sys2Proof.Machine
end

