-- ==== Sys2Proof/Laws/Ops.lean ====
section
/-! SUPPORT. What each shared operation can do, said once: reading sources, going on, parking, supervisor-level faults, taking
a trap and leaving it, and putting events on the agenda. -/
namespace Sys2Proof.Machine

-- sources

theorem with1_of_fetch {a : Reg} {s s₁ : State} {x : Word} (h : fetchSrcs [a] s = .ok [x] s₁) (k : Word → State → State) :
    with1 a s k = k x s₁ := by simp [with1, withSrcs, h]

theorem with2_of_fetch {a b : Reg} {s s₁ : State} {x y : Word} (h : fetchSrcs [a, b] s = .ok [x, y] s₁) (k : Word → Word → State → State) :
    with2 a b s k = k x y s₁ := by simp [with2, withSrcs, h]

theorem with3_of_fetch {a b c : Reg} {s s₁ : State} {x y z : Word} (h : fetchSrcs [a, b, c] s = .ok [x, y, z] s₁)
    (k : Word → Word → Word → State → State) : with3 a b c s k = k x y z s₁ := by simp [with3, withSrcs, h]

-- control registers

theorem Task.cr_setCr (t : Task) (c v d : Nat) : (t.setCr c v).cr d = if d = c then v % 2 ^ 64 else t.cr d := by
  unfold Task.cr Task.setCr
  simp only [Tbl.get_put]
  split
  · simp [word]
  · rfl

theorem Task.cr_lt (t : Task) (c : Nat) : t.cr c < 2 ^ 64 := (t.crs.get (crReset c) c).isLt

/-- Counting events changes the counters EVCNT0 to EVCNT7 alone. -/
theorem Task.cr_countEv (t : Task) (code n c : Nat) (h : ¬(0x48 ≤ c ∧ c ≤ 0x4F)) : (t.countEv code n).cr c = t.cr c := by
  unfold Task.countEv
  split
  · rfl
  · refine List.foldlRecOn (motive := fun (x : Task) => x.cr c = t.cr c) _ _ rfl ?_
    intro b hb k hk
    split
    · rw [Task.cr_setCr, if_neg (by simp at hk; omega), hb]
    · exact hb

-- the agenda

theorem mem_insertPending (x y : Pending) (l : List Pending) : y ∈ insertPending x l ↔ y = x ∨ y ∈ l := by
  induction l with
  | nil => simp [insertPending]
  | cons z r ih =>
    unfold insertPending
    split
    · simp
    · simp only [List.mem_cons, ih]; tauto

theorem State.mem_post (s : State) (d t : Nat) (e : Instr) (m : Msg) (y : Pending) :
    y ∈ (s.post d t e m).agenda ↔ y = { due := d, tie := t, ev := e, msg := m } ∨ y ∈ s.agenda := mem_insertPending _ _ _

theorem State.mem_postAt (s : State) (d : Nat) (p : Pos) (e : Instr) (m : Msg) (y : Pending) :
    y ∈ (s.postAt d p e m).agenda ↔ y = { due := d, tie := 16 + p, ev := e, msg := m } ∨ y ∈ s.agenda := mem_insertPending _ _ _

theorem State.mem_postHub (s : State) (d : Nat) (e : Instr) (m : Msg) (y : Pending) :
    y ∈ (s.postHub d e m).agenda ↔ y = { due := d, tie := tieHub, ev := e, msg := m } ∨ y ∈ s.agenda := mem_insertPending _ _ _

-- going on

/-- Any reading of the task that the control registers do not enter, after going on at `pc`. -/
theorem State.goTo_my (s : State) (pc : Word) {γ : Type} (g : Task → γ) (h : ∀ t c v, g (Task.setCr t c v) = g t) :
    g (s.goTo pc).my = g { s.my with pc := s.my.resume.getD pc, resume := none, tileFrom := 0, kept := s.my.kept.del s.my.keptKey, waited := false,
                                     outst := s.my.outst.map fun o => { o with left := o.left - 1 } } := by
  unfold State.goTo State.my
  rw [State.task_countEv_keeps g h]
  simp [State.setMy, State.my]

theorem State.goTo_cr (s : State) (pc : Word) (c : Nat) (h : ¬(0x48 ≤ c ∧ c ≤ 0x4F)) : (s.goTo pc).my.cr c = s.my.cr c := by
  unfold State.goTo State.countEv State.my
  split
  · simp [State.setMy, Task.cr]
  · simp [State.setMy]
    rw [Task.cr_countEv _ _ _ _ h]; rfl

theorem State.goTo_slot_of_ne (s : State) (pc : Word) {p : Pos} (h : p ≠ s.cur) : (s.goTo pc).slot p = s.slot p := by
  unfold State.goTo
  rw [State.slot_countEv_of_ne _ _ _ h, State.setMy, State.slot_modTask, if_neg h]

theorem State.goTo_rest (s : State) (pc : Word) : s.goTo pc = { s with slots := (s.goTo pc).slots } := by
  unfold State.goTo State.countEv
  split <;> rfl

theorem State.goTo_slot_keeps {γ : Type} (g : Slot → γ) (h : ∀ (x : Slot) t, g { x with task := t } = g x) (s : State) (pc : Word) (p : Pos) :
    g ((s.goTo pc).slot p) = g (s.slot p) := by
  unfold State.goTo
  rw [State.slot_countEv_keeps g h, State.setMy, State.slot_modTask]
  split
  · subst_vars; exact h _ _
  · rfl

-- parking

theorem State.slot_park (s : State) (p q : Pos) (w : Wait) : (s.park p w).slot q =
    if q = p then { s.slot p with st := .parked, parkedAt := if (s.slot p).st == .parked then (s.slot p).parkedAt else s.cycle,
                                  task := { (s.slot p).task with wait := some w } } else s.slot q := by
  unfold State.park; rw [State.slot_modSlot]

/-- A supervisor-level fault parks its slot with the record, which goes to the steward; nothing else changes. -/
theorem State.supFault_spec (s : State) (p : Pos) (cause sub addr acc arg : Nat) : ∃ t, s.supFault p cause sub addr acc arg = t ∧
    (t.slot p).st = .parked ∧ t.task p = { s.task p with wait := some .fault } ∧ t.mem = s.mem ∧ t.cores = s.cores ∧
    (∀ q, q ≠ p → t.slot q = s.slot q) ∧
    (∃ r, (t.slot p).pending? = some r ∧ r.cause = cause ∧ r.sub = sub ∧ r.pc = (s.task p).pc.toNat ∧ r.addr = addr ∧ r.arg = arg ∧
      r.slot = p ∧ r.behalf = false) ∧
    ∃ x ∈ t.agenda, x.ev = .faultRecordDelivery ∧ x.due = s.cycle + hubTravel (posCore p) := by
  refine ⟨_, rfl, ?_⟩
  unfold State.supFault
  simp only [State.task, State.slot_sendRecord, State.slot_park, State.slot_modSlot, if_true, State.sendRecord_mem, State.park_mem, State.modSlot_mem,
    State.sendRecord_cores, State.park_cores, State.modSlot_cores, true_and]
  refine ⟨fun q h => by simp [h], ⟨_, rfl, by simp⟩, ?_⟩
  simp only [State.sendRecord]
  exact ⟨_, (State.mem_postAt ..).2 (.inl rfl), rfl, rfl⟩

-- traps

theorem State.task_modTask_of_ne (s : State) {p q : Pos} (f : Task → Task) (h : q ≠ p) : (s.modTask p f).slot q = s.slot q := by
  rw [State.slot_modTask, if_neg h]

/-- Entering a trap with no handler running, a handler's address and no light slot: the task goes on at the handler, in a later
cycle. -/
theorem State.trapEntry_of_enabled (s : State) (p : Pos) (tr : Trap) (pc : Option Word) (h : (s.task p).inTrap = false)
    (h1 : (s.task p).cr 1 ≠ 0) (h2 : s.isLight p = false) : s.trapEntry p tr pc = s.modSlot p fun x =>
      { x with
        task := { (((x.task.setCr 2 x.task.pc.toNat).setCr 4 tr.val).setCr 3
          (tr.cause + 256 * tr.sub + 65536 * tr.deferred.toNat)).setInTrap true with pc := word (x.task.cr 1), resume := none },
        notBefore := max x.notBefore (s.cycle + 1) } := by
  unfold State.trapEntry
  simp only [h, h1, h2, Bool.false_eq_true, if_false, decide_false, Bool.or_self]
  simp only [Task.cr_setCr]
  rfl

theorem State.trapEntry_in_trap (s : State) (p : Pos) (tr : Trap) (pc : Option Word) (h : (s.task p).inTrap = true) :
    s.trapEntry p tr pc = s.supFault p 0x47 0 0 3 tr.cause pc := by
  unfold State.trapEntry; simp [h]

theorem State.trapEntry_no_handler (s : State) (p : Pos) (tr : Trap) (pc : Option Word) (h : (s.task p).inTrap = false) (h1 : (s.task p).cr 1 = 0 ∨ s.isLight p = true) :
    s.trapEntry p tr pc = s.supFault p 0x48 0 0 3 tr.cause pc := by
  unfold State.trapEntry; rcases h1 with h1 | h1 <;> simp [h, h1]

end Sys2Proof.Machine
end

