-- ==== Sys2Proof/Laws/Windows.lean ====
section
/-! SUPPORT. Register windows: what writing an s register, replacing the current window, pushing one and popping one do. -/
namespace Sys2Proof.Machine

theorem Task.sreg_setSreg (t : Task) (r q : Nat) (v : Word) : (t.setSreg r v).sreg q = if q = r ∧ r ≠ 0 then v else t.sreg q := by
  unfold Task.setSreg Task.sreg
  by_cases h1 : r = 0 <;> by_cases h2 : q = 0 <;> by_cases h3 : q = r <;> simp_all [Tbl.get_put]

theorem Task.setSreg_keeps {γ : Type} (g : Task → γ) (hg : ∀ (t : Task) (r : Tbl Word) (k : List Nat), g { t with regs := r, struck := k } = g t)
    (t : Task) (r : Nat) (v : Word) : g (t.setSreg r v) = g t := by
  rw [Task.setSreg]; split
  · rfl
  · exact hg _ _ _

theorem Task.sreg_setWindow (t : Task) (w : Window) (r : Nat) :
    (t.setWindow w).sreg r = if 8 ≤ r ∧ r < 16 then w.getD (r - 8) 0 else t.sreg r := by
  unfold Task.setWindow
  have : List.range 8 = [0,1,2,3,4,5,6,7] := rfl
  simp only [this, List.foldl, Task.sreg_setSreg]
  by_cases h : 8 ≤ r ∧ r < 16
  · rw [if_pos h]
    obtain ⟨k, rfl⟩ : ∃ k, r = 8 + k := ⟨r - 8, by omega⟩
    have : k < 8 := by omega
    interval_cases k <;> simp
  · rw [if_neg h]
    repeat' rw [if_neg (by omega)]

theorem Task.setWindow_keeps {γ : Type} (g : Task → γ) (hg : ∀ (t : Task) (r : Tbl Word) (k : List Nat), g { t with regs := r, struck := k } = g t)
    (t : Task) (w : Window) : g (t.setWindow w) = g t :=
  foldl_keeps g _ (fun a _ => Task.setSreg_keeps g hg a _ _) _ _

theorem Task.window_getD (t : Task) (k : Nat) (d : Word) (h : k < 8) : t.window.getD k d = t.sreg (8 + k) := by
  unfold Task.window; simp [h]

theorem Task.window_length (t : Task) : t.window.length = 8 := by simp [Task.window]

/-- A push, as replacing the window of the task with its caller's window put aside. -/
theorem Task.pushWindow_eq (t : Task) (ret : Word) : ∃ k, t.pushWindow ret =
    { ({ t with callers := t.window.set 7 ret :: t.callers, onChip := t.onChip + 1 } : Task).setWindow
      [t.sreg 12, t.sreg 13, t.sreg 14, t.sreg 15, 0, 0, 0, 0] with struck := k } := by
  rw [show t.sreg 12 = t.window.getD 4 0 from (t.window_getD 4 0 (by decide)).symm, show t.sreg 13 = t.window.getD 5 0 from (t.window_getD 5 0 (by decide)).symm,
    show t.sreg 14 = t.window.getD 6 0 from (t.window_getD 6 0 (by decide)).symm, show t.sreg 15 = t.window.getD 7 0 from (t.window_getD 7 0 (by decide)).symm]
  unfold Task.pushWindow
  exact ⟨_, rfl⟩

theorem Task.sreg_pushWindow (t : Task) (ret : Word) (r : Nat) : (t.pushWindow ret).sreg r =
    if 8 ≤ r ∧ r < 16 then [t.sreg 12, t.sreg 13, t.sreg 14, t.sreg 15, 0, 0, 0, 0].getD (r - 8) 0 else t.sreg r := by
  obtain ⟨k, e⟩ := t.pushWindow_eq ret
  rw [e, show ∀ (x : Task) k, ({ x with struck := k } : Task).sreg r = x.sreg r from fun _ _ => rfl, Task.sreg_setWindow]
  rfl

/-- What neither the registers, the windows nor the count on chip enter is kept by a push. -/
theorem Task.pushWindow_keeps {γ : Type} (g : Task → γ)
    (hg : ∀ (t : Task) (r : Tbl Word) (k : List Nat) (c : List Window) (n : Nat), g { t with regs := r, struck := k, callers := c, onChip := n } = g t)
    (t : Task) (ret : Word) : g (t.pushWindow ret) = g t := by
  obtain ⟨k, e⟩ := t.pushWindow_eq ret
  rw [e, show ∀ (x : Task) k, g { x with struck := k } = g x from fun x k => hg x x.regs k x.callers x.onChip,
    Task.setWindow_keeps g fun t r k => hg t r k t.callers t.onChip]
  exact hg t t.regs t.struck _ _

theorem Task.callers_pushWindow (t : Task) (ret : Word) : (t.pushWindow ret).callers = t.window.set 7 ret :: t.callers := by
  obtain ⟨k, e⟩ := t.pushWindow_eq ret
  rw [e, show ∀ (x : Task) k, ({ x with struck := k } : Task).callers = x.callers from fun _ _ => rfl, Task.setWindow_keeps (·.callers) (fun _ _ _ => rfl)]

theorem Task.onChip_pushWindow (t : Task) (ret : Word) : (t.pushWindow ret).onChip = t.onChip + 1 := by
  obtain ⟨k, e⟩ := t.pushWindow_eq ret
  rw [e, show ∀ (x : Task) k, ({ x with struck := k } : Task).onChip = x.onChip from fun _ _ => rfl, Task.setWindow_keeps (·.onChip) (fun _ _ _ => rfl)]

/-- A pop, as replacing the window by the caller's with the callee's s8 and s9 in s12 and s13. -/
theorem Task.popWindow_eq (t : Task) (c : Window) (r : List Window) (h : t.callers = c :: r) : ∃ k, t.popWindow =
    { ({ t with callers := r, onChip := t.onChip - 1 } : Task).setWindow ((c.set 4 (t.sreg 8)).set 5 (t.sreg 9)) with struck := k } := by
  rw [show t.sreg 8 = t.window.getD 0 0 from (t.window_getD 0 0 (by decide)).symm, show t.sreg 9 = t.window.getD 1 0 from (t.window_getD 1 0 (by decide)).symm]
  unfold Task.popWindow
  rw [h]
  exact ⟨_, rfl⟩

theorem Task.sreg_popWindow (t : Task) (c : Window) (r : List Window) (h : t.callers = c :: r) (q : Nat) : t.popWindow.sreg q =
    if 8 ≤ q ∧ q < 16 then ((c.set 4 (t.sreg 8)).set 5 (t.sreg 9)).getD (q - 8) 0 else t.sreg q := by
  obtain ⟨k, e⟩ := t.popWindow_eq c r h
  rw [e, show ∀ (x : Task) k, ({ x with struck := k } : Task).sreg q = x.sreg q from fun _ _ => rfl, Task.sreg_setWindow]
  rfl

theorem Task.callers_popWindow (t : Task) (c : Window) (r : List Window) (h : t.callers = c :: r) : t.popWindow.callers = r := by
  obtain ⟨k, e⟩ := t.popWindow_eq c r h
  rw [e, show ∀ (x : Task) k, ({ x with struck := k } : Task).callers = x.callers from fun _ _ => rfl, Task.setWindow_keeps (·.callers) (fun _ _ _ => rfl)]

theorem Task.popWindow_keeps {γ : Type} (g : Task → γ)
    (hg : ∀ (t : Task) (r : Tbl Word) (k : List Nat) (c : List Window) (n : Nat), g { t with regs := r, struck := k, callers := c, onChip := n } = g t)
    (t : Task) (c : Window) (r : List Window) (h : t.callers = c :: r) : g t.popWindow = g t := by
  obtain ⟨k, e⟩ := t.popWindow_eq c r h
  rw [e, show ∀ (x : Task) k, g { x with struck := k } = g x from fun x k => hg x x.regs k x.callers x.onChip,
    Task.setWindow_keeps g fun t r k => hg t r k t.callers t.onChip]
  exact hg t t.regs t.struck _ _

end Sys2Proof.Machine
end

