-- ==== Sys2Proof/Safety.lean ====
section
/-! DEFINITION. What a safe run is. -/
namespace Sys2Proof

/-- A state from which no number of steps up to `n` stops the machine. -/
def SafeFor (n : Nat) (s : Machine.State) : Prop :=
  match n with
  | 0 => True
  | n + 1 => ∃ t, Machine.step s = .next t ∧ SafeFor n t

end Sys2Proof
end

