-- ==== Sys2Proof/Tests/Slice0.lean ====
section
/-! SUPPORT. Small tests: words of the encoding tables, refused terms, single steps, and for every statement a state that meets its
hypotheses. Expected results come from the spec's tables and rules. -/
namespace Sys2Proof.Tests
open Sys2Proof Sys2Proof.Machine

/-- A task in slot 1 of core 0 with s1 = 7, s2 = 9, s3 = 2^64 - 1 and s4 = 64, at its turn of cycle 17. -/
def demoTask : Task := { pc := 0x1000, regs := [(1, 7), (2, 9), (3, -1), (4, 64)] }
def demo : State := { State.reset with cycle := 17, cur := 1, slots := [(1, { st := .ready, task := demoTask })] }
def demoT (f : Task → Task) : State := demo.setMy f
def demoS (f : Slot → Slot) : State := demo.setMySlot f
def demoM (m : Msg) : State := { demo with msg := m }
def demoTk : Tk := { pos := 1, serial := 0 }
def demoParked (w : Wait) (m : Msg) : State := { demo.park 1 w with msg := m }

/-- The next state, if there is one. -/
def nextOf (o : Host.Outcome State Fault Refusal) : State := match o with | .next s => s | _ => State.reset
/-- The words of sources that a fetch gives. -/
def wordsOf (f : Fetched) : List Word := match f with | .ok l _ => l | _ => []
/-- The state in which the next thing due is served. -/
def serve (s : State) : State := match s.agenda with | x :: l => nextOf (exec x.ev { s with cycle := x.due, agenda := l, msg := x.msg }) | [] => s

/-- Major 0x01: words written from the fields of the encoding tables (03_encoding.md). -/
theorem test_decode_major_01 : [
    0x04642800, 0x04642810, 0x04642820, 0x04642830, 0x04642840, 0x04642850, 0x04642880, 0x04642890, 0x046428A0,
    0x04642900, 0x04642910, 0x04642920, 0x04642930, 0x04642940, 0x04642950, 0x04642980, 0x04640200, 0x04640210,
    0x04640220, 0x04640230, 0x04640280, 0x04640290, 0x046402A0, 0x046402C0, 0x046402D0, 0x046402E0].map (decodeTableWord 32) = [
    some (.add 3 4 5), some (.sub 3 4 5), some (.and 3 4 5), some (.or 3 4 5), some (.xor 3 4 5), some (.andn 3 4 5),
    some (.sll 3 4 5), some (.srl 3 4 5), some (.sra 3 4 5), some (.min 3 4 5), some (.max 3 4 5), some (.minu 3 4 5),
    some (.maxu 3 4 5), some (.slt 3 4 5), some (.sltu 3 4 5), some (.cmov 3 4 5), some (.clz 3 4), some (.ctz 3 4),
    some (.popc 3 4), some (.bswap 3 4), some (.sextB 3 4), some (.sextH 3 4), some (.sextW 3 4), some (.zextB 3 4),
    some (.zextH 3 4), some (.zextW 3 4)] := by decide

/-- Major 0x02: words written from the fields of the encoding tables (03_encoding.md). -/
theorem test_decode_major_02 : [
    0x08640002].map (decodeTableWord 32) = [
    some (.addi 3 4 2)] := by decide

/-- Major 0x03: words written from the fields of the encoding tables (03_encoding.md). -/
theorem test_decode_major_03 : [
    0x0C640002].map (decodeTableWord 32) = [
    some (.andi 3 4 2)] := by decide

/-- Major 0x04: words written from the fields of the encoding tables (03_encoding.md). -/
theorem test_decode_major_04 : [
    0x10640002].map (decodeTableWord 32) = [
    some (.ori 3 4 2)] := by decide

/-- Major 0x05: words written from the fields of the encoding tables (03_encoding.md). -/
theorem test_decode_major_05 : [
    0x14640002].map (decodeTableWord 32) = [
    some (.xori 3 4 2)] := by decide

/-- Major 0x06: words written from the fields of the encoding tables (03_encoding.md). -/
theorem test_decode_major_06 : [
    0x18640002].map (decodeTableWord 32) = [
    some (.slti 3 4 2)] := by decide

/-- Major 0x07: words written from the fields of the encoding tables (03_encoding.md). -/
theorem test_decode_major_07 : [
    0x1C640002].map (decodeTableWord 32) = [
    some (.sltiu 3 4 2)] := by decide

/-- Major 0x08: words written from the fields of the encoding tables (03_encoding.md). -/
theorem test_decode_major_08 : [
    0x20640002, 0x20644002, 0x20648002].map (decodeTableWord 32) = [
    some (.slli 3 4 2), some (.srli 3 4 2), some (.srai 3 4 2)] := by decide

/-- Major 0x09: words written from the fields of the encoding tables (03_encoding.md). -/
theorem test_decode_major_09 : [
    0x24600002].map (decodeTableWord 32) = [
    some (.lui 3 2)] := by decide

/-- Major 0x0A: words written from the fields of the encoding tables (03_encoding.md). -/
theorem test_decode_major_0A : [
    0x28600002].map (decodeTableWord 32) = [
    some (.addpc 3 2)] := by decide

/-- Major 0x0B: words written from the fields of the encoding tables (03_encoding.md). -/
theorem test_decode_major_0B : [
    0x2C640082, 0x2C644082, 0x2C649940].map (decodeTableWord 32) = [
    some (.bfx 3 4 2 2), some (.bfi 3 4 2 2), some (.addx 3 4 3 5)] := by decide

/-- Major 0x0C: words written from the fields of the encoding tables (03_encoding.md). -/
theorem test_decode_major_0C : [
    0x30642800, 0x30642810, 0x30642820, 0x30642830, 0x30642882, 0x30642892, 0x306428A2, 0x306428B2].map (decodeTableWord 32) = [
    some (.mul 3 4 5), some (.mulh 3 4 5), some (.mulhu 3 4 5), some (.madd 3 4 5), some (.div 3 4 5 2),
    some (.divu 3 4 5 2), some (.rem 3 4 5 2), some (.remu 3 4 5 2)] := by decide

/-- Major 0x0D: words written from the fields of the encoding tables (03_encoding.md). -/
theorem test_decode_major_0D : [
    0x34642B80, 0x34642B90, 0x34642BA0, 0x34642BB0, 0x34642BC2, 0x346403D2, 0x346423D0, 0x346428E0, 0x346429E0,
    0x34642AF0].map (decodeTableWord 32) = [
    some (.fadd 3 4 5 3 1), some (.fsub 3 4 5 3 1), some (.fmul 3 4 5 3 1), some (.ffma 3 4 5 3 1),
    some (.fdiv 3 4 5 3 1 2), some (.fsqrt 3 4 3 1 2), some (.fcvt 3 4 4 3 1), some (.fmin 3 4 5 1),
    some (.fmax 3 4 5 1), some (.fcmp 3 4 5 2 1)] := by decide

/-- Major 0x10: words written from the fields of the encoding tables (03_encoding.md). -/
theorem test_decode_major_10 : [
    0x40850155].map (decodeTableWord 32) = [
    some (.beq 4 5 341)] := by decide

/-- Major 0x11: words written from the fields of the encoding tables (03_encoding.md). -/
theorem test_decode_major_11 : [
    0x44850155].map (decodeTableWord 32) = [
    some (.bne 4 5 341)] := by decide

/-- Major 0x12: words written from the fields of the encoding tables (03_encoding.md). -/
theorem test_decode_major_12 : [
    0x48850155].map (decodeTableWord 32) = [
    some (.blt 4 5 341)] := by decide

/-- Major 0x13: words written from the fields of the encoding tables (03_encoding.md). -/
theorem test_decode_major_13 : [
    0x4C850155].map (decodeTableWord 32) = [
    some (.bge 4 5 341)] := by decide

/-- Major 0x14: words written from the fields of the encoding tables (03_encoding.md). -/
theorem test_decode_major_14 : [
    0x50850155].map (decodeTableWord 32) = [
    some (.bltu 4 5 341)] := by decide

/-- Major 0x15: words written from the fields of the encoding tables (03_encoding.md). -/
theorem test_decode_major_15 : [
    0x54850155].map (decodeTableWord 32) = [
    some (.bgeu 4 5 341)] := by decide

/-- Major 0x16: words written from the fields of the encoding tables (03_encoding.md). -/
theorem test_decode_major_16 : [
    0x58000155].map (decodeTableWord 32) = [
    some (.jmp 341)] := by decide

/-- Major 0x17: words written from the fields of the encoding tables (03_encoding.md). -/
theorem test_decode_major_17 : [
    0x5C000155].map (decodeTableWord 32) = [
    some (.call 341)] := by decide

/-- Major 0x18: words written from the fields of the encoding tables (03_encoding.md). -/
theorem test_decode_major_18 : [
    0x60040000, 0x60040010, 0x60000020].map (decodeTableWord 32) = [
    some (.jr 4), some (.callr 4), some .ret] := by decide

/-- Major 0x19: words written from the fields of the encoding tables (03_encoding.md). -/
theorem test_decode_major_19 : [
    0x64800155].map (decodeTableWord 32) = [
    some (.loop 4 341)] := by decide

/-- Major 0x1A: words written from the fields of the encoding tables (03_encoding.md). -/
theorem test_decode_major_1A : [
    0x68645562].map (decodeTableWord 32) = [
    some (.ld 3 4 341 2 2)] := by decide

/-- Major 0x1B: words written from the fields of the encoding tables (03_encoding.md). -/
theorem test_decode_major_1B : [
    0x6C645562].map (decodeTableWord 32) = [
    some (.lds 3 4 341 2 2)] := by decide

/-- Major 0x1C: words written from the fields of the encoding tables (03_encoding.md). -/
theorem test_decode_major_1C : [
    0x70445560].map (decodeTableWord 32) = [
    some (.st 2 4 341 2)] := by decide

/-- Major 0x1D: words written from the fields of the encoding tables (03_encoding.md). -/
theorem test_decode_major_1D : [
    0x74645573, 0x7444557B].map (decodeTableWord 32) = [
    some (.lda 3 4 341 1 3), some (.stl 2 4 341 1 3)] := by decide

/-- Major 0x1E: words written from the fields of the encoding tables (03_encoding.md). -/
theorem test_decode_major_1E : [
    0x78642A02, 0x78442E00].map (decodeTableWord 32) = [
    some (.ldx 3 4 5 2 2), some (.stx 2 4 5 2)] := by decide

/-- Major 0x1F: words written from the fields of the encoding tables (03_encoding.md). -/
theorem test_decode_major_1F : [
    0x7C445560].map (decodeTableWord 32) = [
    some (.stp 2 4 341 2)] := by decide

/-- Major 0x20: words written from the fields of the encoding tables (03_encoding.md). -/
theorem test_decode_major_20 : [
    0x80645570, 0x80645571, 0x80445572, 0x80445573, 0x80645574, 0x80445575].map (decodeTableWord 32) = [
    some (.ldfe 3 4 341 1), some (.ldf 3 4 341 1), some (.stfe 2 4 341 1), some (.stf 2 4 341 1),
    some (.feq 3 4 341 1), some (.feset 2 4 341 1)] := by decide

/-- Major 0x21: words written from the fields of the encoding tables (03_encoding.md). -/
theorem test_decode_major_21 : [
    0x8464283A, 0x846428BA, 0x8464293A, 0x846429BA, 0x84642A3A, 0x84642ABA, 0x84642B3A, 0x84642BBA, 0x84642C3A,
    0x84642CBA, 0x84642D3A, 0x8464063A, 0x84042EBA].map (decodeTableWord 32) = [
    some (.amoadd 3 4 5 3 2 1), some (.amoand 3 4 5 3 2 1), some (.amoor 3 4 5 3 2 1), some (.amoxor 3 4 5 3 2 1),
    some (.amomin 3 4 5 3 2 1), some (.amomax 3 4 5 3 2 1), some (.amominu 3 4 5 3 2 1), some (.amomaxu 3 4 5 3 2 1),
    some (.amoswap 3 4 5 3 2 1), some (.amocas 3 4 5 3 2 1), some (.amofadd 3 4 5 3 2 1), some (.hold 3 4 3 2 1),
    some (.pass 4 5 3 2 1)] := by decide

/-- Major 0x22: words written from the fields of the encoding tables (03_encoding.md). -/
theorem test_decode_major_22 : [
    0x88000038, 0x880000B0, 0x88000100, 0x880429B0, 0x88042A30, 0x88040280, 0x88040300, 0x88642B80, 0x88040400].map (decodeTableWord 32) = [
    some (.fence 3 2), some (.scfence 3), some .wack, some (.clean 4 5 3), some (.inval 4 5 3), some (.discard 4),
    some (.pref 4), some (.waita 3 4 5), some (.wake 4)] := by decide

/-- Major 0x23: words written from the fields of the encoding tables (03_encoding.md). -/
theorem test_decode_major_23 : [
    0x8C642800, 0x8C642810, 0x8C642820, 0x8C642830, 0x8C640040, 0x8C640050, 0x8C640060].map (decodeTableWord 32) = [
    some (.cdef 3 4 5), some (.cparent 3 4 5), some (.cresize 3 4 5), some (.cbind 3 4 5), some (.cunbind 3 4),
    some (.cquery 3 4), some (.cdrop 3 4)] := by decide

/-- Major 0x24: words written from the fields of the encoding tables (03_encoding.md). -/
theorem test_decode_major_24 : [
    0x90804000, 0x90804010, 0x90804020, 0x90104030, 0x90104040].map (decodeTableWord 32) = [
    some (.tdef 2 2), some (.tshape 2 2), some (.tbase 2 2), some (.tgetHalf0 4 2), some (.tgetHalf1 4 2)] := by decide

/-- Major 0x25: words written from the fields of the encoding tables (03_encoding.md). -/
theorem test_decode_major_25 : [
    0x94804002, 0x94804012, 0x94904022, 0x94904032, 0x94900042, 0x94804052, 0x94900062, 0x94904072].map (decodeTableWord 32) = [
    some (.tld 2 2 2), some (.tst 2 2 2), some (.tgath 2 4 2 2), some (.tscat 2 4 2 2), some (.tcpy 2 4 2),
    some (.tfill 2 2 2), some (.ttrans 2 4 2), some (.trot 2 4 2 2)] := by decide

/-- Major 0x26: words written from the fields of the encoding tables (03_encoding.md). -/
theorem test_decode_major_26 : [
    0x98D14022, 0x98D14062, 0x98D140A2, 0x98D158E2, 0x98D14122, 0x98D14142, 0x98D14182, 0x98D001C2, 0x98D00202].map (decodeTableWord 32) = [
    some (.tadd 3 4 5 1 2), some (.tsub 3 4 5 1 2), some (.tmul 3 4 5 1 2), some (.tfma 3 4 5 6 1 2),
    some (.tdiv 3 4 5 1 2), some (.tmax 3 4 5 2), some (.tmin 3 4 5 2), some (.tabs 3 4 2), some (.tneg 3 4 2)] := by decide

/-- Major 0x27: words written from the fields of the encoding tables (03_encoding.md). -/
theorem test_decode_major_27 : [
    0x9CD00022, 0x9CD00062, 0x9CD000A2, 0x9CD000E2, 0x9CD00122, 0x9CD00162].map (decodeTableWord 32) = [
    some (.texp 3 4 1 2), some (.tlog 3 4 1 2), some (.trsq 3 4 1 2), some (.trcp 3 4 1 2), some (.ttanh 3 4 1 2),
    some (.terf 3 4 1 2)] := by decide

/-- Major 0x28: words written from the fields of the encoding tables (03_encoding.md). -/
theorem test_decode_major_28 : [
    0xA0D14022, 0xA0D14062, 0xA0D140A2, 0xA0D140C2, 0xA0D14102, 0xA0D14142, 0xA0D14182, 0xA0D141C2].map (decodeTableWord 32) = [
    some (.tiadd 3 4 5 1 2), some (.tisub 3 4 5 1 2), some (.timul 3 4 5 1 2), some (.tand 3 4 5 2),
    some (.tor 3 4 5 2), some (.txor 3 4 5 2), some (.tshl 3 4 5 2), some (.tshr 3 4 5 2)] := by decide

/-- Major 0x29: words written from the fields of the encoding tables (03_encoding.md). -/
theorem test_decode_major_29 : [
    0xA4D04102, 0xA4D04302, 0xA4D04502, 0xA4D04602].map (decodeTableWord 32) = [
    some (.tadds 3 4 2 1 2), some (.tmuls 3 4 2 1 2), some (.tfmas 3 4 2 1 2), some (.tmaxs 3 4 2 2)] := by decide

/-- Major 0x2A: words written from the fields of the encoding tables (03_encoding.md). -/
theorem test_decode_major_2A : [
    0xA8D14032, 0xA8D15882, 0xA8D00102, 0xA8D00182, 0xA8D00202, 0xA8D00282, 0xA8D00302].map (decodeTableWord 32) = [
    some (.tcmp 3 4 5 3 2), some (.tsel 3 4 5 6 2), some (.trsum 3 4 2), some (.tcsum 3 4 2), some (.trmax 3 4 2),
    some (.tcmax 3 4 2), some (.tsum 3 4 2)] := by decide

/-- Major 0x2B: words written from the fields of the encoding tables (03_encoding.md). -/
theorem test_decode_major_2B : [
    0xACD00072, 0xACD00102, 0xACD00202].map (decodeTableWord 32) = [
    some (.tcvt 3 4 3 1 2), some (.tpack 3 4 2), some (.tunpack 3 4 2)] := by decide

/-- Major 0x2C: words written from the fields of the encoding tables (03_encoding.md). -/
theorem test_decode_major_2C : [
    0xB0C04002, 0xB0D04202].map (decodeTableWord 32) = [
    some (.trand 3 2 2), some (.tdrop 3 4 2 2)] := by decide

/-- Major 0x2D: words written from the fields of the encoding tables (03_encoding.md). -/
theorem test_decode_major_2D : [
    0xB5914000, 0xB5914100, 0xB5914200, 0xB5914300].map (decodeTableWord 32) = [
    some (.mma 6 4 5), some (.mmat 6 4 5), some (.mmas 6 4 5), some (.mmaj 6 4 5)] := by decide

/-- Major 0x2E: words written from the fields of the encoding tables (03_encoding.md). -/
theorem test_decode_major_2E : [
    0xB9800000, 0xB9900400, 0xB9900800, 0xB9800C00, 0xB9805000, 0xB9801400, 0xB8005800, 0xB8001C00].map (decodeTableWord 32) = [
    some (.mzero 6), some (.mload 6 4), some (.mdrain 6 4), some (.mchk 6), some (.mstat 6 2), some (.mwait 6),
    some (.mjoin 2), some .mleave] := by decide

/-- Major 0x2F: words written from the fields of the encoding tables (03_encoding.md). -/
theorem test_decode_major_2F : [
    0xBC7D0000, 0xBC040120].map (decodeTableWord 32) = [
    some (.qtry 3 29), some (.qcfg 4 2)] := by decide

/-- Major 0x30: words written from the fields of the encoding tables (03_encoding.md). -/
theorem test_decode_major_30 : [
    0xC0040000, 0xC0640010, 0xC0640020, 0xC0000030, 0xC0040040, 0xC0642850, 0xC06000A0].map (decodeTableWord 32) = [
    some (.start 4), some (.reap 3 4), some (.spawn 3 4), some .exit, some (.sleep 4), some (.launch 3 4 5),
    some (.coord 3 2)] := by decide

/-- Major 0x31: words written from the fields of the encoding tables (03_encoding.md). -/
theorem test_decode_major_31 : [
    0xC4042800, 0xC4040010].map (decodeTableWord 32) = [
    some (.depinit 4 5), some (.depdec 4)] := by decide

/-- Major 0x32: words written from the fields of the encoding tables (03_encoding.md). -/
theorem test_decode_major_32 : [
    0xC8642800, 0xC8040010, 0xC8640020, 0xC8640030, 0xC8040040].map (decodeTableWord 32) = [
    some (.barw 3 4 5), some (.bara 4), some (.barq 3 4), some (.probe 3 4), some (.drain 4)] := by decide

/-- Major 0x33: words written from the fields of the encoding tables (03_encoding.md). -/
theorem test_decode_major_33 : [
    0xCC640000, 0xCC640010, 0xCC640020].map (decodeTableWord 32) = [
    some (.coll 3 4), some (.cwait 3 4), some (.evgath 3 4)] := by decide

/-- Major 0x34: words written from the fields of the encoding tables (03_encoding.md). -/
theorem test_decode_major_34 : [
    0xD0640000, 0xD0642810, 0xD0640020, 0xD0640030].map (decodeTableWord 32) = [
    some (.cpy 3 4), some (.cpym 3 4 5), some (.cpyd 3 4), some (.cpyq 3 4)] := by decide

/-- Major 0x3F: words written from the fields of the encoding tables (03_encoding.md). -/
theorem test_decode_major_3F : [
    0xFC000006, 0xFC001000, 0xFC602010, 0xFC043010, 0xFC044010, 0xFC045010, 0xFC046001, 0xFC007000, 0xFC008000,
    0xFC009006].map (decodeTableWord 32) = [
    some (.trap 6), some .eret, some (.crrd 3 16), some (.crwr 4 16), some (.crset 4 16), some (.crclr 4 16),
    some (.tlbinv 4 1), some .iflush, some .idle, some (.brk 6)] := by decide

/-- Every check of an operand refuses a term that fails it. -/
theorem test_wellFormed_refuses : (
    (Instr.fence 5 1).modifiersOk || (Instr.fadd 1 2 3 6 0).modifiersOk || (Instr.bfx 1 2 60 4).modifiersOk || (Instr.bfi 1 2 63 1).modifiersOk
      || (Instr.fcvt 1 2 0 0 0).modifiersOk || (Instr.fcvt 1 2 6 0 0).modifiersOk || (Instr.lds 1 2 0 3 0).modifiersOk || (Instr.fence 0 0).modifiersOk
      || (Instr.tcmp 1 2 3 5 0).modifiersOk || (Instr.tdef 1 0).modifiersOk || (Instr.tdef 1 15).modifiersOk || (Instr.tdef 1 23).modifiersOk
      || (Instr.add 30 1 2).writesNoQ6 || (Instr.loop 30 1).writesNoQ6 || (Instr.crrd 1 6).crOk || (Instr.crwr 1 0x81).crOk
      || (Instr.crset 1 0x840).crOk || (Instr.ld 1 24 0 0 0).portsOk || (Instr.qtry 1 23).portsOk) = false := by decide

/-- Terms at the edge of each check pass it. -/
theorem test_wellFormed_admits : (
    (Instr.fence 4 1).wellFormed && (Instr.fadd 1 2 3 5 0).wellFormed && (Instr.bfx 1 2 60 3).wellFormed && (Instr.lds 1 2 0 2 0).wellFormed
      && (Instr.fcvt 1 2 5 0 0).wellFormed && (Instr.tcmp 1 2 3 4 0).wellFormed && (Instr.tdef 1 14).wellFormed && (Instr.add 29 30 2).wellFormed
      && (Instr.crwr 1 0x16).wellFormed && (Instr.ld 1 23 0 0 0).wellFormed && (Instr.qtry 1 24).wellFormed) = true := by decide

/-- Words that no instruction has, each by a reason of Table 3-32. -/
theorem test_reject : [0x00000000, 0x38000000, 0x04642860, 0x6C640030, 0x04642A00, 0x0464280F, 0x07C42800, 0xFC602006, 0x68780000].map (fun w =>
    match decodeWord w with | .error r => r.code | .ok _ => 0) = [0x01, 0x02, 0x03, 0x04, 0x05, 0x06, 0x0B, 0x0C, 0x0D] := by decide

-- witnesses of the statements' hypotheses, and small results beside them

theorem test_plainSources : (∀ r ∈ ([0, 1, 15, 16, 23] : List Reg), PlainReg demo r) ∧ wordsOf (fetchSrcs [0, 3, 16] demo) = [0, -1, 0] := by
  constructor
  · simp only [PlainReg]; decide
  · decide

/-- Every port: words waiting, and none. -/
theorem test_ports :
    (24 : Reg).toNat = 24 ∧ demo.my.kept.look demo.my.keptKey = none ∧ demo.isLight demo.cur = false ∧
    (demoS fun x => { x with comps := [5, 6] }).mySlot.comps = [5, 6] ∧ demo.mySlot.comps = [] ∧ demo.mySlot.returns = [] ∧ demo.mySlot.evq = [] ∧
    wordsOf (fetchSrcs [28] (demoS fun x => { x with comps := [5, 6] })) = [5] ∧ demo.popPort demo.cur 4 = .empty ∧ demo.popPort demo.cur 6 = .misuse ∧
    demo.popPort demo.cur 0 = .empty := ⟨by decide, by decide, by decide, by decide, by decide, by decide, by decide, by decide, rfl, rfl, rfl⟩

/-- Two sources, and one. -/
theorem test_sources : fetchSrcs [1, 2] demo = .ok [7, 9] demo ∧ fetchSrcs [3] demo = .ok [-1] demo ∧ fetchSrcs [] demo = .ok [] demo := ⟨rfl, rfl, rfl⟩
theorem test_threeSources : fetchSrcs [1, 2, 4] demo = .ok [7, 9, 64] demo := rfl

/-- A free port, and the full mailbox of q5. -/
theorem test_pushes : (demo.pushPort demo.cur 5 1).isSome = true ∧
    ((demoS fun x => { x with mailbox := [{ word := 1 }, { word := 2 }, { word := 3 }, { word := 4 }] }).pushPort demo.cur 5 1).isNone = true := by decide

theorem test_sll_uses_six_bits : (nextOf (exec (.sll 5 1 4) demo)).my.sreg 5 = 7 := by decide
theorem test_slt_is_signed : (nextOf (exec (.slt 5 3 0) demo)).my.sreg 5 = 1 := by decide
theorem test_mulh : (nextOf (exec (.mulh 5 3 3) demo)).my.sreg 5 = 0 := by decide
theorem test_mulhu : (nextOf (exec (.mulhu 5 3 3) demo)).my.sreg 5 = -2 := by decide
theorem test_s0_discards : (nextOf (exec (.add 0 1 2) demo)).my.sreg 0 = 0 := by decide
theorem test_cmov_keeps : (nextOf (exec (.cmov 1 2 0) demo)).my.sreg 1 = 7 := by decide
theorem test_clz_of_zero : (nextOf (exec (.clz 5 0) demo)).my.sreg 5 = 64 := by decide
theorem test_ctz : (nextOf (exec (.ctz 5 4) demo)).my.sreg 5 = 6 := by decide
theorem test_bswap : (nextOf (exec (.bswap 5 1) demo)).my.sreg 5 = 0x0700000000000000 := by decide
theorem test_lui : (nextOf (exec (.lui 5 1) demo)).my.sreg 5 = 65536 := by decide
theorem test_addpc : (nextOf (exec (.addpc 5 0x1FFFFF) demo)).my.sreg 5 = 0x1000 - 65536 := by decide
theorem test_bfi : (nextOf (exec (.bfi 1 3 1 0) demo)).my.sreg 1 = 7 ∧ (nextOf (exec (.bfi 4 3 0 2) demo)).my.sreg 4 = 71 ∧
    (0 : BitVec 6).toNat + (63 : BitVec 6).toNat + 1 ≤ 64 := by decide
theorem test_madd : (nextOf (exec (.madd 4 1 2) demo)).my.sreg 4 = 127 := by decide
theorem test_pc_advances : (nextOf (exec (.add 5 1 2) demo)).my.pc = 0x1004 := by decide

/-- DIV by 0 and of the most negative number (Table 5-1, R137). -/
theorem test_div_fixed : (nextOf (exec (.div 5 1 0 0) demo)).my.outst.map (·.value) = [2 ^ 64 - 1] ∧
    (nextOf (exec (.rem 5 1 0 0) demo)).my.outst.map (·.value) = [7] := by decide

/-- Branches; a LOOP whose counter is 1, 0 and in a register that can be written. -/
theorem test_branches : (nextOf (exec (.beq 1 2 4) demo)).my.pc = 0x1004 ∧ (nextOf (exec (.bne 1 2 4) demo)).my.pc = 0x1010 ∧
    (nextOf (exec (.bltu 1 3 (-1)) demo)).my.pc = 0xFFC ∧ (nextOf (exec (.blt 1 3 4) demo)).my.pc = 0x1004 ∧
    (nextOf (exec (.jr 3) demo)).my.pc = 0x01FFFFFFFFFFFFFC := by decide
theorem test_loop : (demo.writeDest demo.cur 4 1 6).isSome = true ∧ (nextOf (exec (.loop 1 2) demo)).my.pc = 0x1008 ∧
    (nextOf (exec (.loop 1 2) demo)).my.sreg 1 = 6 ∧ (nextOf (exec (.loop 0 2) demo)).my.pc = 0x1008 := by decide

/-- CALL within the depth and beyond it, RET with a window and without. -/
def demoCalled : State := demoT fun t => { t with callers := [[1, 2, 3, 4, 5, 6, 7, 0x2000]], onChip := 2 }
theorem test_windows : demo.isLight demo.cur = false ∧ 1 + demo.my.callers.length + 1 ≤ demo.my.depth ∧
    (demoT fun t => { t with depth := 1 }).my.depth < 1 + demo.my.callers.length + 1 ∧ demo.my.callers = [] ∧
    demoCalled.my.callers = [[1, 2, 3, 4, 5, 6, 7, 0x2000]] ∧ demoCalled.isLight demoCalled.cur = false ∧
    (nextOf (exec .ret demoCalled)).my.pc = 0x2000 ∧ (nextOf (exec (.call 4) demo)).my.pc = 0x1010 := by decide

/-- The task of `demo` with addresses: s5 own scratchpad page 0, s6 a plain page, s7 a sync-class page, s8 the scratchpad of core 1, s9 an
address of no class, s10 a misaligned one. -/
def demoMem : State :=
  { demo with
    slots := [(1, { st := .ready, task := { demoTask with regs := [(1, 7), (2, 9), (3, -1), (4, 64), (5, 0x01FFF00000000010), (6, 0x2000), (7, 0x3000),
      (8, 0x01FFF80004000000), (9, 0x0200000000000000), (10, 0x2001)] } })],
    cores := [(0, { tlb := [{ space := 0, page := 2, count := 1, frame := 2, w := true, x := false }, { space := 0, page := 3, count := 1, frame := 3, w := true, x := false }] })],
    mem := { wpages := [(wpageKey 0 0 0, { backing := 0, shadow := none, bank := some 0 }), (wpageKey 1 0 0, { backing := 0, shadow := none, bank := some 1 })] },
    spaces := [(0, { binds := [(1, { base := 3, pages := 1, tensor := 1, vc := 0, sync := true, posted := false, packed := false, migrate := false, world := false })] })] }

/-- Two FP64 operands, the canonical NaN, +0 and -0. -/
def demoF : State := demoT fun t => { t with regs := [(1, 0x3FF0000000000000), (2, 0x4000000000000000), (3, 0x7FF8000000000000), (4, 0), (5, 0x8000000000000000)] }
theorem test_floats : fetchSrcs [1, 2] demoF = .ok [0x3FF0000000000000, 0x4000000000000000] demoF ∧
    (decodeVal .fp64 0x7FF8000000000000).isNan = true ∧ (decodeVal .fp64 0x3FF0000000000000).isNan = false ∧
    Val.cmp (decodeVal .fp64 0x3FF0000000000000) (decodeVal .fp64 0x4000000000000000) = .lt ∧
    (decodeVal .fp64 0x8000000000000000).isZero = true ∧ (decodeVal .fp64 0x8000000000000000).neg? = true ∧ (decodeVal .fp64 0).neg? = false :=
  ⟨rfl, by decide, by decide, by decide, by decide, by decide, by decide⟩
set_option maxRecDepth 20000 in
theorem test_fadd : (nextOf (exec (.fadd 6 1 2 0 0) demoF)).my.sreg 6 = 0x4008000000000000 := by decide
set_option maxRecDepth 20000 in
theorem test_fsub : (nextOf (exec (.fsub 6 1 2 0 0) demoF)).my.sreg 6 = 0xBFF0000000000000 := by decide
set_option maxRecDepth 20000 in
theorem test_fmul : (nextOf (exec (.fmul 6 2 2 0 0) demoF)).my.sreg 6 = 0x4010000000000000 := by decide
set_option maxRecDepth 20000 in
theorem test_ffma : (nextOf (exec (.ffma 1 2 2 0 0) demoF)).my.sreg 1 = 0x4014000000000000 := by decide
theorem test_fmin_zeros : (nextOf (exec (.fmin 6 4 5 0) demoF)).my.sreg 6 = 0x8000000000000000 ∧
    (nextOf (exec (.fmin 6 5 4 0) demoF)).my.sreg 6 = 0x8000000000000000 ∧ (nextOf (exec (.fmax 6 5 4 0) demoF)).my.sreg 6 = 0 := by decide
theorem test_fcmp : (nextOf (exec (.fcmp 6 4 5 0 0) demoF)).my.sreg 6 = 1 ∧ (nextOf (exec (.fcmp 6 3 1 3 0) demoF)).my.sreg 6 = 1 ∧
    (nextOf (exec (.fcmp 6 3 1 2 0) demoF)).my.sreg 6 = 0 := by decide
theorem test_fcvt : (nextOf (exec (.fcvt 6 2 2 0 0) demoF)).my.sreg 6 = 2 ∧ (nextOf (exec (.fcvt 6 2 1 0 0) demoF)).my.sreg 6 = 0x40000000 := by decide
theorem test_fdiv_by_zero : (nextOf (exec (.fdiv 6 1 4 0 0 0) demoF)).my.outst.map (·.value) = [0x7FF0000000000000] := by decide

/-- A trap handler is there and the flag of an event is enabled; none of it; and a handler that runs. -/
def demoTrap : State := demoT fun t => (t.setCr 1 0x8000).setCr 0 (1024 * 2 ^ 32 + 31 * 256)
theorem test_trapEntry : demoTrap.my.inTrap = false ∧ demoTrap.my.cr 1 ≠ 0 ∧ demoTrap.isLight 1 = false ∧ (demoT fun t => t.setInTrap true).my.inTrap = true ∧
    demo.my.cr 1 = 0 ∧ (5 : Reg).toNat < 16 ∧ demoTrap.my.resume = none ∧ (16 : Flags) &&& demoTrap.my.xen ≠ 0 ∧ (0 : Flags) &&& demoTrap.my.xen = 0 ∧
    demoTrap.my.traps = [] ∧ demoTrap.my.outst = [] ∧ (demoTrap.slot demoTrap.cur).st = .ready ∧
    (demoTrap.formatFault 5).my.pc = 0x8000 ∧ (demoTrap.formatFault 5).my.cr 2 = 0x1000 ∧ (demoTrap.formatFault 5).my.cr 3 = 0x502 ∧
    (demoTrap.formatFault 5).my.cr 4 = 0x1000 ∧ (demo.formatFault 5).mySlot.st = .parked := by decide

/-- Misaligned addresses of every size above a byte. -/
theorem test_misaligned : offsetAddress 0x2001 0 (2 ^ (1 : BitVec 2).toNat) % 2 ≠ 0 ∧ offsetAddress 0x2001 0 4 % 4 ≠ 0 ∧ offsetAddress 0x2001 0 8 % 8 ≠ 0 ∧
    offsetAddress 0x2000 (-1) 8 = 0x1FF8 ∧ wordsOf (fetchSrcs [10] demoMem) = [0x2001] ∧ wordsOf (fetchSrcs [10, 1] demoMem) = [0x2001, 7] ∧
    (nextOf (exec (.ld 1 10 0 3 0) demoMem)).mySlot.st = .parked := by decide

/-- A place in the own scratchpad that a load and a store reach; a plain line, a sync-class line and another core's scratchpad. -/
theorem test_reaches_local : ∃ p s₂, Reaches demoMem 0x01FFF00000000010 8 false p s₂ ∧ Reaches demoMem 0x01FFF00000000010 8 true p s₂ ∧ Local s₂ p ∧
    s₂.scratchErr p.loc 8 = false ∧ s₂.recordAt p.loc = none ∧ s₂.mem.bytes.wf = true ∧ s₂.mem.feWait = [] ∧ s₂.my.fenceRel = none ∧
    s₂.migrates p = false ∧ p.scratch = true ∧ s₂.my.accessesDone s₂.cycle = true ∧ (∃ c k, classify (posCore demoMem.cur) 0x01FFF00000000010 = .scratch c k) :=
  ⟨_, _, ⟨by decide, rfl, by decide⟩, ⟨by decide, rfl, by decide⟩, ⟨by decide, by decide⟩, by decide, by decide, by decide, by decide, by decide, by decide,
    by decide, by decide, 0, 16, by decide⟩
theorem test_reaches_plain : ∃ p s₂, Reaches demoMem 0x2000 8 false p s₂ ∧ s₂.migrates p = false ∧ ¬ Local s₂ p ∧ p.scratch = false ∧ p.sync = false ∧
    p.posted = false ∧ s₂.my.fenceRel = none ∧ s₂.chain s₂.my.space (posCore s₂.cur) p.vc = [] ∧ (∃ g, classify (posCore demoMem.cur) 0x2000 = .global g) ∧
    (∀ c k, classify (posCore demoMem.cur) 0x2000 ≠ .scratch c k) :=
  ⟨_, _, ⟨by decide, rfl, by decide⟩, by decide, by simp only [Local]; decide, by decide, by decide, by decide, by decide, by decide, ⟨0x2000, by decide⟩,
    fun c k h => by revert h; simp [show classify (posCore demoMem.cur) 0x2000 = .global 0x2000 from by decide]⟩
theorem test_reaches_plain_store : ∃ p s₂, Reaches demoMem 0x2000 8 true p s₂ ∧ s₂.migrates p = false ∧ ¬ Local s₂ p ∧ p.scratch = false ∧ p.posted = false :=
  ⟨_, _, ⟨by decide, rfl, by decide⟩, by decide, by simp only [Local]; decide, by decide, by decide⟩
theorem test_reaches_sync : ∃ p s₂, Reaches demoMem 0x3000 8 true p s₂ ∧ Reaches demoMem 0x3000 8 false p s₂ ∧ s₂.migrates p = false ∧ ¬ Local s₂ p ∧
    p.sync = true ∧ p.posted = false ∧ s₂.my.accessesDone s₂.cycle = true ∧ bit (2 : BitVec 2).toNat 1 = true ∧ s₂.my.held = none :=
  ⟨_, _, ⟨by decide, rfl, by decide⟩, ⟨by decide, rfl, by decide⟩, by decide, by simp only [Local]; decide, by decide, by decide, by decide, by decide, by decide⟩
theorem test_reaches_remote : ∃ p s₂, Reaches demoMem 0x01FFF80004000000 4 true p s₂ ∧ ¬ Local s₂ p ∧ p.scratch = true ∧ p.owner = 1 :=
  ⟨_, _, ⟨by decide, rfl, by decide⟩, by simp only [Local]; decide, by decide, by decide⟩

theorem test_load_local : (nextOf (exec (.ld 1 5 0 3 0) { demoMem with mem := demoMem.mem.bytes.putBytes (scratchLoc 0 0 16) [0x34, 0x12] |> fun b => { demoMem.mem with bytes := b } })).my.outst.map
    (·.value) = [0x1234] := by decide
theorem test_store_local : (nextOf (exec (.st 1 5 0 1) demoMem)).mem.bytes = [(scratchLoc 0 0 16, 7)] := by decide
theorem test_store_keeps_form : (nextOf (exec (.st 0 5 0 3) demoMem)).mem.bytes = [] := by decide
theorem test_lda_not_sync : (nextOf (exec (.lda 1 6 0 1 0) demoMem)).mySlot.st = .parked := by decide

/-- A hand whose seals are recent. -/
theorem test_seal : (∀ e ∈ (demoT fun t => { t with hand := [{ region := { space := 0, v := 1, p := 1 }, sealNo := 0, inh := false }] }).my.hand,
      e.sealNo = 0 ∨ (nextRelease 0 + 65536 - e.sealNo) % 65536 < 32768) ∧ nextRelease 65535 = 1 ∧
    ((demoT fun t => { t with hand := [{ region := { space := 0, v := 1, p := 1 }, sealNo := 0, inh := false }] }).sealHand 1).2.my.hand.map (·.sealNo) = [1] := by decide

/-- A full/empty request of each kind, at a full word and at an empty one. -/
def demoFe (op : PortOp) : PortReq :=
  { t := demoTk, id := 0, core := 0, space := 0, world := false, va := 0x01FFF00000000010, loc := scratchLoc 0 0 16, size := 4, op := op, dest := none, start := 17, tries := 0 }
theorem test_fullEmpty : demo.feReady (demoFe .ldfe) (scratchLoc 0 0 16) = true ∧ demo.feReady (demoFe (.stfe 1 none)) (scratchLoc 0 0 16) = false ∧
    ({ demo with mem := { empties := [scratchLoc 0 0 16 / 4] } } : State).feReady (demoFe .ldf) (scratchLoc 0 0 16) = false ∧
    ({ demo with mem := { empties := [scratchLoc 0 0 16 / 4] } } : State).feReady (demoFe (.stfe 1 none)) (scratchLoc 0 0 16) = true ∧
    (demoFe .ldfe).core = (demoFe .ldfe).owner ∧ (demoFe .ldfe).size = 4 ∧ (demoFe .feq).op = .feq := by decide

theorem test_amo : (amoNew 0 4 0xFFFFFFFF 1 0).1 = some 0 ∧ (amoNew 4 4 0xFFFFFFFF 1 0).1 = some 0xFFFFFFFF ∧ (amoNew 6 4 0xFFFFFFFF 1 0).1 = some 1 ∧
    (amoNew 9 8 5 6 5).1 = some 6 ∧ (amoNew 9 8 5 6 4).1 = none ∧ 0xFFFFFFFF < 2 ^ (8 * 4) := by decide

/-- PASS without a reservation and with it, HOLD while one is held. -/
def demoHeld : State := { demoMem.setMy fun t => { t with held := some { loc := 0x3000, size := 8 } } with mem := { demoMem.mem with resv := [(0x600, { t := demoTk, id := 0, hold := true, since := 0 })] } }
theorem test_held : demoMem.my.held ≠ some { loc := 0x3000, size := 8 } ∧ demoHeld.my.held = some { loc := 0x3000, size := 8 } ∧
    demoHeld.my.held.isSome = true ∧ demoHeld.holds (demoHeld.tk demoHeld.cur) = true ∧ wordsOf (fetchSrcs [7, 1] demoHeld) = [0x3000, 7] := by decide
theorem test_held_reaches : ∃ p s₂, Reaches demoHeld 0x3000 8 true p s₂ ∧ s₂.migrates p = false ∧ p.sync = true ∧ s₂.my.accessesDone s₂.cycle = true :=
  ⟨_, _, ⟨by decide, rfl, by decide⟩, by decide, by decide, by decide⟩

/-- WACK with and without an acknowledgement outstanding; DISCARD's tags; ranges. -/
theorem test_fences : (∀ a ∈ demo.my.pend, a.ackOnly = true → a.doneAt ≠ none) ∧
    ¬(∀ a ∈ (demoT fun t => { t with pend := [{ id := 1, write := true, ranges := [], ackOnly := true }] }).my.pend, a.ackOnly = true → a.doneAt ≠ none) ∧
    wordsOf (fetchSrcs [1] demo) = [7] ∧ wordsOf (fetchSrcs [0] demo) = [0] ∧ (4095 : Word).toNat < 4096 ∧ wordsOf (fetchSrcs [6, 0] demoMem) = [0x2000, 0] := by decide
theorem test_cleanRange : ∃ ps s₂, placesOf (pagesOf 0x2000 64) demoMem [] = .ok (ps, s₂) ∧
    s₂.my.mustWait s₂.cycle true (ps.map fun e => (e.2.loc / 128, e.2.loc / 128 + (linesIn e.1 (0x2000 + 64) e.2).length)) = false := ⟨_, _, rfl, by decide⟩

/-- PREF of an address of no class, of one without a translation, and of one with; WAITA and WAKE reach what the loads above reach. -/
theorem test_pref : classify 0 0x0200000000000000 = .bad ∧ classify 0 0x7000 = .global 0x7000 ∧ (demoMem.tlbLook 0 0 7).isNone = true ∧
    (demoMem.tlbLook 0 0 2).isSome = true ∧ classify 0 0x2000 = .global 0x2000 ∧ 0x2000 % 128 = 0 ∧ demoMem.secure 0x2000 = false ∧ demoMem.poisoned 0x2000 = false := by decide

/-- Vcache operands, reserved and not. -/
theorem test_vcOperands : vcReserved 0 (2 ^ 23) 0 = true ∧ vcReserved 1 64 0 = true ∧ vcReserved 2 0 17 = true ∧ vcReserved 2 63 16 = false ∧
    vcReserved 3 1 1 = true ∧ vcReserved 4 16 0 = true ∧ vcReserved 4 15 0 = false ∧ vcReserved 5 63 0 = false ∧ vcReserved 6 64 0 = true := by decide


-- tiles

/-- The task of `demo` with words for descriptors: s5 and s6 the start descriptor, s7 a format that is reserved; s8 the own scratchpad. -/
def demoTl : State :=
  { demo with
    slots := [(1, { st := .ready, task := { demoTask with regs := [(1, 7), (5, 0), (6, 8), (7, 0xC0008), (8, 0x01FFF00000000010), (9, 0x10000), (10, 0x2000000), (11, 1), (12, 3)] } })],
    mem := { wpages := [(wpageKey 0 0 0, { backing := 0, shadow := none, bank := some 0 })] } }
theorem test_tileDescriptors : (demoT fun t => { t with nTiles := 2 }).tileCount ≤ (2 : TReg).toNat ∧ (15 : TReg).toNat < demoTl.tileCount ∧
    fetchSrcs [5, if (5 : Reg).toNat < 24 then 5 + 1 else 5] demoTl = .ok [0, 8] demoTl ∧ fetchSrcs [6, if (6 : Reg).toNat < 24 then 6 + 1 else 6] demoTl = .ok [8, 0xC0008] demoTl ∧
    (Desc.ofBits ((8 : Word) ++ (0 : Word))).wf = true ∧ (Desc.ofBits ((0xC0008 : Word) ++ (8 : Word))).wf = false ∧
    wordsOf (fetchSrcs [9, 10, 11] demoTl) = [0x10000, 0x2000000, 1] := ⟨by decide, by decide, rfl, rfl, by decide, by decide, by decide⟩
set_option maxRecDepth 20000 in
theorem test_tshape_field : (∀ k, k < 128 → ((8 : Word) ++ (0x1000000000000 : Word) : BitVec 128).getLsbD k =
      if 48 ≤ k ∧ k < 64 then (1 : Word).getLsbD (k - 48) else (demoTl.my.tile 3).getLsbD k) ∧ (Desc.ofBits ((8 : Word) ++ (0x1000000000000 : Word))).wf = false ∧
    (∀ k, k < 128 → ((8 : Word) ++ (0 : Word) : BitVec 128).getLsbD k = if 48 ≤ k ∧ k < 64 then (0 : Word).getLsbD (k - 48) else (demoTl.my.tile 3).getLsbD k) := by decide
set_option maxRecDepth 20000 in
theorem test_tbase_field : (∀ k, k < 128 → ((8 : Word) ++ (0x2FFFF8 : Word) : BitVec 128).getLsbD k =
      if k < 25 then (0x2FFFF8 : Word).getLsbD k else (demoTl.my.tile 3).getLsbD k) ∧ (Desc.ofBits ((8 : Word) ++ (0x2FFFF8 : Word))).wf = true ∧
    (Desc.ofBits ((8 : Word) ++ (0x300000 : Word))).wf = false := by decide
theorem test_tdef : (nextOf (exec (.tdef 15 5) demoTl)).my.tile 15 = BitVec.ofNat 128 (8 * 2 ^ 64) ∧ (nextOf (exec (.tdef 15 6) demoTl)).mySlot.st = .parked := by decide
theorem test_tget : (nextOf (exec (.tgetHalf1 3 4) demoTl)).my.sreg 4 = 8 ∧ (nextOf (exec (.tgetHalf0 3 6) demoTl)).my.sreg 6 = 0 := by decide

set_option maxRecDepth 40000 in
/-- A run that may start, one whose formats do not conform, and a tile beyond the deal's number. -/
theorem test_runMayStart : ∃ s₂, RunMayStart demoTl s₂ (demoTl.newRun .cpy 1 2 0 0 0 false) := by
  exact ⟨demoTl, by decide, ⟨_, _, rfl, rfl⟩, by decide⟩
theorem test_tileMember : (∀ t ∈ ([1, 2] : List TReg), t.toNat < demoTl.tileCount) ∧ TileOp.cpy.checks (Desc.ofBits (demoTl.my.tile 0)) (Desc.ofBits (demoTl.my.tile 0)) (Desc.ofBits (demoTl.my.tile 0)) (Desc.ofBits (demoTl.my.tile 0)) 0 = true ∧
    TileOp.sel.checks (Desc.ofBits (demoTl.my.tile 0)) (Desc.ofBits (demoTl.my.tile 0)) (Desc.ofBits (demoTl.my.tile 0)) (Desc.ofBits (demoTl.my.tile 0)) 0 = false ∧ (∃ t ∈ ([1, 2] : List TReg), (demoT fun t => { t with nTiles := 2 }).tileCount ≤ t.toNat) := by decide

/-- Addresses of an image and of a parameter block, aligned and not; a block in the own window and one beyond it. -/
theorem test_tileOperands : wordsOf (fetchSrcs [8, 11, 12] demoTl) = [0x01FFF00000000010, 1, 3] ∧ (0x01FFF00000000010 : Nat) % 8 = 0 ∧ (3 : Nat) % 8 ≠ 0 ∧
    classify 0 0x01FFF00000000010 = .scratch 0 16 ∧ 16 + 32 ≤ 0x300000 ∧ paramOff 0 0x01FFF000002FFFE8 = none ∧ paramOff 0 0x01FFF000002FFFE0 = some 0x2FFFE0 ∧
    paramOff 0 0x01FFF00000000014 = some 20 ∧ (20 : Nat) % 8 ≠ 0 ∧ paramOff 0 0x2FFFE0 = none ∧ paramOff 0 0x01FFF80004000000 = none ∧ paramOff 0 0x2000000000000000 = none := by decide
theorem test_tld_misaligned : (nextOf (exec (.tld 1 12 0) demoTl)).mySlot.st = .parked := by decide

/-- A unit of TADD of two tiles of the start descriptor: the rows at offset 0 of the own window read +0 and give +0. -/
theorem test_tileUnit : ((demoTl.sourceRows 0 0 1 [Desc.ofBits (demoTl.my.tile 0), Desc.ofBits (demoTl.my.tile 0)] 0).1.map (·.2)) = [[0], [0]] ∧
    (demoTl.sourceRows 0 0 1 [Desc.ofBits (demoTl.my.tile 0), Desc.ofBits (demoTl.my.tile 0)] 0).2.1 = false ∧
    (demoTl.tileUnit 1 (demoTl.newRun .fill 0 0 0 0 7 false) 0 |> fun r => match r with | .ok _ t => t.mem.bytes | _ => []) = [(scratchLoc 0 0 0, 7)] := by decide
theorem test_poisonUnit : (({ demoTl with mem := { demoTl.mem with poison := [scratchLoc 0 0 0 / 128] } } : State).sourceRows 0 0 1
    [Desc.ofBits (demoTl.my.tile 0)] 0).2.1 = true := by decide

/-- A tile instruction that stops. -/
theorem test_stoppedTile : ∃ o, (demoT fun t => { t with outst := [{ id := 0, pc := 0x1000, dest := none, left := 0, value := 0, events := {} }] }).my.outst.find?
      (·.id == (demoTl.newRun .cpy 1 2 0 0 0 false).id) = some o ∧ o.events = {} ∧ (∀ x ∈ demo.my.traps, x.due = false) ∧ demo.isLight 1 = false :=
  ⟨_, rfl, rfl, by decide, by decide⟩


-- matrix

/-- A task with two accumulators and two E4M3 tiles, t1 and t2, on a narrow core; t3 is FP32. -/
def demoX (f : Task → Task) : State := demoT fun t => f { t with
  nAccs := 2, tiles := [(1, BitVec.ofNat 128 (4 * 2 ^ 64 + 4 * 2 ^ 80)), (2, BitVec.ofNat 128 (4 * 2 ^ 64 + 4 * 2 ^ 80)), (3, BitVec.ofNat 128 (4 * 2 ^ 64 + 2 ^ 80))] }
def demoCmd (w : Nat) : MCmd := captureCommand (demoX id).my w false 0
theorem test_matrixEntry : (demoX id).my.nAccs ≤ (2 : TReg).toNat ∧ (1 : TReg).toNat < (demoX id).my.nAccs ∧ ((demoX id).my.acc 1).pois = false ∧
    ((demoX fun t => { t with accs := [(1, { pois := true })] }).my.acc 1).pois = true ∧
    (demoCmd (0 + 16 + 256 * 1 + 4096 * 2)).passes 0 16 2 = true ∧ (demoCmd (0 + 16 + 256 * 1 + 4096 * 3)).passes 0 16 2 = false ∧
    (demoCmd (1 + 16 + 256 * 1 + 4096 * 2)).passes 0 16 2 = true ∧ (demoCmd (2 + 16 + 256 * 1 + 4096 * 2)).passes 0 16 2 = true ∧
    (demoCmd (3 + 16 + 256 * 1 + 4096 * 2)).passes 0 16 2 = true ∧ (demoCmd (4 + 16)).passes 0 16 2 = true ∧
    (demoCmd (5 + 16 + 256 * 3)).passes 0 16 2 = true ∧ (demoCmd (6 + 16 + 256 * 3)).passes 0 16 2 = true ∧ (demoCmd (7 + 16)).passes 0 16 2 = true ∧
    (∀ w, (demoX id).my.mustWait 17 w (if w then ((demoCmd 0x2110).ranges 0 0).2 else ((demoCmd 0x2110).ranges 0 0).1) = false) ∧
    (demoX id).mySlot.cmds.length < 8 ∧ 8 ≤ (demoS fun x => { x with cmds := List.replicate 8 (demoCmd 0x2110) }).mySlot.cmds.length ∧
    8 ≤ (demoS fun x => { x with compsRes := 8 }).mySlot.compsRes := by decide
/-- MMAJ of a joint member: 32 rows of A for its group. -/
theorem test_jointEntry : (demoX id).my.jointIn = false ∧ (demoX fun t => { t with jointIn := true }).my.jointIn = true := by decide
theorem test_mma_enters : (nextOf (exec (.mma 1 1 2) (demoX id))).mySlot.cmds.map (fun m => (m.op, m.acc, m.id)) = [(0, 1, 0)] := by decide
theorem test_mma_format_parks : (nextOf (exec (.mma 1 1 3) (demoX id))).mySlot.st = .parked := by decide

theorem test_matrixWaits : (demoX id).commandPending 1 1 5 = false ∧
    (demoX id |>.setMySlot fun x => { x with cmds := [demoCmd 0x2110] }).commandPending 1 1 5 = true ∧
    (demoX id |>.setMySlot fun x => { x with cmds := [demoCmd 0x2113] }).commandPending 1 16 5 = true ∧
    fetchSrcs [1] (demoX id) = .ok [7] (demoX id) ∧ 256 ≤ ((-1 : Word)).toNat ∧ wordsOf (fetchSrcs [3] (demoX id)) = [-1] := ⟨by decide, by decide, by decide, rfl, by decide, by decide⟩

/-- A partner whose running operation ends with the block it works on, and one that goes on. -/
def demoRun (w k : Nat) : PRun := {
  t := demoTk, cmd := demoCmd w, k := k,
  a := { d := 0, fmt := 4, scale := none, core := 0, space := 0, byRow := true, first := 0, lines := 1 },
  b := { d := 0, fmt := 4, scale := none, core := 0, space := 0, byRow := true, first := 0, lines := 1 } }
def demoPartner (m : Msg) (x : Partner) : State := ({ demoX id with msg := m } : State).modPartner 0 fun _ => x
theorem test_partner_runs : ∀ k ∈ [64, 65], ((demoPartner (.matrixBlock 0) { run := some (demoRun 0x2110 k) }).partner 0).run = some (demoRun 0x2110 k) ∧
    ((demoPartner (.matrixBlock 0) { run := some (demoRun 0x2110 k) }).core 0).errinj = 0 ∧ (demoPartner (.matrixBlock 0) {}).isAt (demoRun 0x2110 k).t = true ∧
    ((demoPartner (.matrixBlock 0) {}).slot 1).st = .ready ∧ ((demoPartner (.matrixBlock 0) {}).slot 1).preempt = none ∧ (demoRun 0x2110 k).cmd.op ≠ 3 ∧
    (demoRun 0x14 k).cmd.op = 4 := by decide
theorem test_partner_takes : serviceOrder 14 = [0] ++ 1 :: (List.range 13).map (· + 2) ∧
    ((demoPartner (.matrixOpStart 0) {}).setMySlot fun x => { x with cmds := [demoCmd 0x2110] }).pick 0 1 = .take (demoCmd 0x2110) ∧
    ((demoPartner (.matrixOpStart 0) {}).setMySlot fun x => { x with cmds := [demoCmd 0x2110] }).pick 0 2 = .skip ∧ serviceOrder 1 = [2, 3, 4, 5, 6, 7, 8, 9, 10, 11, 12, 13, 14, 0, 1] ∧
    ((demoPartner (.matrixOpStart 0) {}).partner 0).run = none := ⟨rfl, rfl, rfl, by decide, by decide⟩

/-- The 32 members of quad 0 with an MMAJ at their heads, and 32 tasks that wait in MJOIN with one tag. -/
def demoQuad (f : Pos → Slot) : State := { demo with slots := (quadCores 0).map fun c => (mkPos c 1, f (mkPos c 1)) }
def demoHeads : State := demoQuad fun _ => { st := .ready, task := { demoTask with jointIn := true }, cmds := [demoCmd 3] }
def demoGroup : Joint := { tag := 0, members := (quadCores 0).map fun c => { pos := mkPos c 1, serial := 0 } }
set_option maxRecDepth 20000 in
theorem test_jointHeads : demoHeads.jointAtHeads demoGroup 0 = true ∧ (∀ t ∈ demoGroup.members, (demoHeads.partner (posCore t.pos)).run = none) ∧
    (demoGroup.members.map fun t => posCore t.pos).Nodup ∧ (∀ k, k < 4 → ∃ t ∈ demoGroup.members, clusterMember (posCore t.pos) = k) ∧
    (∀ t ∈ demoGroup.members, ∀ x, (demoHeads.slot t.pos).cmds.head? = some x → x = demoCmd 3) := by
  refine ⟨by decide, by decide, by decide, by decide, ?_⟩
  have h : ∀ t ∈ demoGroup.members, (demoHeads.slot t.pos).cmds.head? = some (demoCmd 3) := by decide
  intro t ht x hx
  rw [h t ht] at hx
  exact (Option.some.inj hx).symm
set_option maxRecDepth 20000 in
theorem test_jointForm : (∀ c ∈ quadCores 0, ((demoQuad fun _ => { st := .parked, task := { demoTask with wait := some (.join 7) } }).joiner c 7).isSome = true) ∧
    (demoQuad fun _ => {}).joints.look 0 = none := by decide

/-- Two products, one group: 1 x 2 + 2 x 2 = 6 in FP32. -/
theorem test_accumulator : ((({} : Accum).group [[decodeVal .fp32 0x3F800000, decodeVal .fp32 0x40000000]] [[decodeVal .fp32 0x40000000, decodeVal .fp32 0x40000000]]).1.elem 0 0) = 0x40C00000 := by
  decide


-- queues, tasks, barriers, collectives

/-- `demo` with other s registers; the banker of core 0 at its turn; a light task; the hub with counter 2^14 - 1 owned by space 0. -/
def demoR (l : Tbl Word) : State := demoT fun t => { t with regs := l }
def demoB (l : Tbl Word) : State := { demo with cur := 0, slots := [(0, { st := .ready, task := { demoTask with regs := l } }), (1, { st := .exited, task := {} })] }
def demoL : State := { demoR [(1, 0x2000), (2, 3)] with cores := [(0, { lmask := 2, ken := true })] }
def demoH : State := { demo with hub := { counters := [(16383, { owner := some 0, value := 1 })] } }
theorem test_channels : ((24 : Reg).toNat - 24, (27 : Reg).toNat - 24) = (0, 3) ∧ demo.isLight demo.cur = false ∧ posSlot demo.cur ≠ 0 ∧ posSlot (demoB []).cur = 0 ∧
    wordsOf (fetchSrcs [1, 2] (demoR [(1, 0x8000), (2, 0x4000)])) = [0x8000, 0x4000] ∧ (0x8000 : Word).toNat = 2 ^ 15 ∧ (0x4000 : Word).toNat = 2 ^ 14 ∧
    0x100 / 256 % 16 = 1 ∧ 0x3EFF / 256 % 16 = 14 ∧ 0x3EFF < 2 ^ 14 := by decide
theorem test_qtry : (nextOf (exec (.qtry 5 24) demo)).my.sreg 5 / 65536 = 1 ∧ (nextOf (exec (.qtry 5 29) demo)).my.sreg 5 = 1024 ∧ (nextOf (exec (.qtry 5 30) demo)).my.sreg 5 = 0 := by decide
theorem test_counters : (demoH.hub.counters.get {} 16383).owner = some demoH.my.space ∧ (demo.hub.counters.get {} 16383).owner ≠ some demo.my.space ∧
    (demoH.hub.counters.get {} 16383).held = none ∧ demoH.partHalted (demoH.diePart (16383 / 4096)) = false ∧ 16383 < 2 ^ 14 ∧ 65535 < 2 ^ 16 ∧
    wordsOf (fetchSrcs [1, 2] (demoR [(1, 16383), (2, 65535)])) = [16383, 65535] ∧ wordsOf (fetchSrcs [1, 2] (demoR [(1, 16384), (2, 65536)])) = [16384, 65536] := by decide
theorem test_counter_request : ((nextOf (exec .counterRequestArrival { demoH with msg := .counterRequest 16383 true 0 })).hub.counters.get {} 16383).value = 0 ∧
    ((nextOf (exec .counterRequestArrival { demoH with msg := .counterRequest 16383 false 5 })).hub.counters.get {} 16383).value = 5 := by decide
theorem test_launch : (64 : Word).toNat % 64 = 0 ∧ (65 : Word).toNat % 64 ≠ 0 ∧ ∃ p, demoMem.resolve 0x2000 false = .ok p demoMem := ⟨by decide, by decide, _, rfl⟩

/-- START of a deal that has started here, at an empty slot and at one that is taken; REAP's slots; EXIT with a result outstanding and without. -/
def demoDeal : ActiveDeal := { slot := 0, queue := 0, space := 0, part := 0, world := false, aging := false, ceil := 0 }
def demoStart : State := { demoB [(1, 0x1201000000000005), (2, 0x1101000000000005)] with hub := { deals := [(1, demoDeal)] }, cores := [(0, { started := [1] })] }
theorem test_start : posSlot demoStart.cur = 0 ∧ (0x1201000000000005 : Word).toNat = 2 ^ 60 + 2 * 2 ^ 56 + 1 * 2 ^ 48 + 5 ∧ demoStart.deal 1 = some demoDeal ∧
    (demoStart.slot 2).st = .empty ∧ (demoStart.slot 1).st ≠ .empty ∧ demoStart.isLight 2 = demoDeal.light ∧ demoStart.accsHeld 0 + demoDeal.accs ≤ 16 ∧
    (demoStart.core 0).started.contains 1 = true ∧ demoDeal.counted = false ∧ fetchSrcs [1] demoStart = .ok [0x1201000000000005] demoStart ∧
    fetchSrcs [2] demoStart = .ok [0x1101000000000005] demoStart := ⟨by decide, by decide, rfl, by decide, by decide, by decide, by decide, by decide, by decide, rfl, rfl⟩
theorem test_start_result : ((nextOf (exec (.start 1) demoStart)).slot 2).st = .ready ∧ ((nextOf (exec (.start 1) demoStart)).task 2).index = 5 ∧
    ((nextOf (exec (.start 2) demoStart)).slot 2).st = .empty := by decide
theorem test_reap : (demoB []).slot 1 = { st := .exited, task := {} } ∧ ((demoB []).slot 14).st ≠ .exited ∧ wordsOf (fetchSrcs [1, 2] (demoB [(1, 1), (2, 14)])) = [1, 14] ∧
    wordsOf (fetchSrcs [1, 2] (demoB [(1, 0), (2, 15)])) = [0, 15] := by decide
theorem test_exit : (demo.park demo.cur .exiting).quiet demo.cur = true ∧
    ((demoT fun t => { t with outst := [{ id := 0, pc := 0, dest := none, left := 0 }] }).park 1 .exiting).quiet 1 = false := by decide
def demoSleep : State := { demoTrap.setMy fun t => { t with regs := [(1, 17), (2, 18)], tags := [(0, 0)] } with
  hub := { copies := [(0, { t := demoTk, core := 0, pc := 0, kind := 0, space := 0, world := false, budget := 0, desc := 0, cmd := 0, tag := 0, promise := 17, est := 0, lines := [] })] } }
theorem test_sleep : wordsOf (fetchSrcs [1, 2] demoSleep) = [17, 18] ∧ demoSleep.cycle = 17 ∧ (demoR [(1, 17)]).promised 1 17 = none ∧
    (demoSleep.promised 1 17).map (fun x => (x.1, x.2.outcome)) = some (0, none) ∧ demoSleep.my.inTrap = false ∧ demoSleep.isLight 1 = false ∧ demoSleep.my.cr 1 ≠ 0 ∧
    demoSleep.my.outst = [] ∧ demoSleep.my.traps = [] ∧ demoSleep.my.resume = none ∧ (demoSleep.slot 1).st = .ready := by decide
theorem test_spawn : demoL.isLight demoL.cur = true ∧ demo.isLight demo.cur = false ∧ wordsOf (fetchSrcs [1, 2] demoL) = [0x2000, 3] ∧ 0x2000 % 4 = 0 ∧ 0x2000 < 2 ^ 57 := by decide

set_option maxRecDepth 40000 in
/-- Barrier descriptors: row wire, member core 0, slot 1; slot 1 missing; kind 3. A rectangle of the whole die and one that leaves it. -/
theorem test_barrierDescs : barValid (2 ^ 33 + 2 ^ 48) 1 = true ∧ barValid (2 ^ 34 + 2 ^ 48) 1 = false ∧ barValid (2 ^ 33 + 2 ^ 48 + 3) 1 = false ∧
    (2 ^ 33 + 2 ^ 48) % 4 ≠ 3 ∧ 2 ^ 32 - 1 < 2 ^ 32 ∧ ((rectCores 0 0xFF00).getD []).length = 256 ∧ rectCores 0 0xFF01 = none ∧ rectCores 0 0 = some [0] ∧ posCore demo.cur ∈ [0] := by decide
theorem test_arrival : demo.my.allDone demo.cycle = true ∧ (demoT fun t => { t with pend := [{ id := 0, write := true, ranges := [], ackOnly := false }] }).my.allDone 17 = false ∧
    (demo.wire (barWire 0 0)).latch = none ∧ ({ demo with wires := [(0, { latch := some 5 })] } : State).wire (barWire 0 0) = { latch := some 5 } ∧
    posSlot demo.cur ∉ (demo.barUnit 0 0).arrived ∧ (demo.wire (barWire 0 0)).due = none ∧ barCores (barWire 0 0) (2 ^ 33 + 2 ^ 48) = [0] ∧
    onesOf 16 (barSlots (2 ^ 33 + 2 ^ 48)) = [1] ∧ (∃ b : Nat → BarWait, ∀ id, (b id).t = demo.tk demo.cur ∧ (b id).id = id) :=
  ⟨by decide, by decide, by decide, by decide, by decide, by decide, by decide, by decide, fun id => { t := demo.tk demo.cur, id := id, kind := 1, pc := 0 }, fun _ => ⟨rfl, rfl⟩⟩
theorem test_barrier_completes : ((nextOf (exec (.bara 1) (demoR [(1, 0x1000200000000)]))).agenda.map fun x => (x.due, x.ev)) = [(18, .classBCompletion)] ∧
    ((serve (nextOf (exec (.bara 1) (demoR [(1, 0x1000200000000)])))).agenda.map fun x => (x.due, x.ev)) = [(21, .classBCompletion), (23, .barrierComplete)] := by decide
/-- EVGATH's block in the own window, of which the first 64 bits name the barrier; and a block elsewhere. -/
def demoGath : State := { demoMem with mem := { demoMem.mem with bytes := [(scratchLoc 0 0 4, 2), (scratchLoc 0 0 6, 1)] } }
theorem test_evgath : ∃ p s₂, Reaches { demoGath with cycle := 17 } 0x01FFF00000000000 128 false p s₂ ∧ (∃ v s₃, s₂.readScratch 0 0 0 p.loc 128 = (v, false, s₃)) ∧
    classify 0 0x01FFF00000000000 = .scratch 0 0 ∧ classify 0 0x01FFF80004000000 = .scratch 1 0 :=
  ⟨_, _, ⟨by decide, rfl, by decide⟩, ⟨_, _, rfl⟩, by decide, by decide⟩

/-- Copy requests; COLL's descriptor, CWAIT without an instance and with one in flight. -/
def demoColl : Coll := { part := 0, group := 0, seq := 0, op := 0, fmt := 0, count := 1, root := 0 }
def demoCw : State := { demoMem.setMy fun t => { t with colls := [(0x2000, 0)] } with hub := { colls := [(0, demoColl)] } }
theorem test_collectives : (0x2001 : Word).toNat % 64 ≠ 0 ∧ (0x2000 : Word).toNat % 64 = 0 ∧ (∃ p s₂, Reaches demoMem 0x2000 64 false p s₂) ∧
    demoMem.my.colls.look 0x2000 = none ∧ demoCw.my.colls.look 0x2000 = some 0 ∧ demoCw.hub.colls.look 0 = some demoColl ∧ demoColl.inFlight = true :=
  ⟨by decide, by decide, ⟨_, _, ⟨by decide, rfl, by decide⟩⟩, by decide, by decide, by decide, by decide⟩
theorem test_cwait_reads : ∃ p e s₃, demoCw.resolve 0x2000 false = .ok p demoCw ∧ demoCw.engineRead 0 0 false 0x2000 64 = .ok (e, s₃) ∧ s₃.hub.colls = demoCw.hub.colls :=
  ⟨_, _, _, rfl, rfl, rfl⟩
theorem test_mailPush : (demo.park 1 (.mailbox 0)).waitsFor demoTk (.mailbox 0) = true ∧ (∀ a ∈ demo.my.pend, a.partner = true → ∃ c, a.doneAt = some c ∧ c ≤ 17) ∧
    demo.mySlot.mailbox.length + 2 ≤ 4 := by
  refine ⟨by decide, ?_, by decide⟩
  intro a h
  rw [show demo.my.pend = [] from by decide] at h
  exact absurd h List.not_mem_nil


-- control registers and system instructions

theorem test_crKinds : posSlot demo.cur ≠ 0 ∧ (0x800 : BitVec 12).toNat = 0x800 ∧ (0x7FF : BitVec 12).toNat < 0x800 ∧ posSlot (demoB []).cur = 0 ∧
    demoL.isLight demoL.cur = true ∧ demo.isLight demo.cur = false := by decide
/-- What each register stores, at the edges of its values (Table 1-9). -/
theorem test_crStores : CrStores 0 0 (2 ^ 31) none ∧ CrStores 1 0 (2 ^ 57 + 7) (some 4) ∧ CrStores 5 0 (2 ^ 31 + 511) (some (2 ^ 31 + 511)) ∧ CrStores 0x10 0 11 (some 11) ∧
    CrStores 0x10 0 12 none ∧ CrStores 0x12 0 1 none ∧ CrStores 0x13 0 4 (some 4) ∧ CrStores 0x14 0 6 none ∧ CrStores 0x16 0 4 (some 4) ∧ CrStores 0x16 0 5 none ∧
    CrStores 0x20 0 63 (some 31) ∧ CrStores 0x2D 0 (2 ^ 31) none ∧ CrStores 0x40 0 8 (some 8) ∧ CrStores 0x47 0 9 none := by
  refine ⟨?_, ?_, ?_, ?_, ?_, ?_, ?_, ?_, ?_, ?_, ?_, ?_, ?_, ?_⟩ <;> simp [CrStores]
theorem test_crStatus : CrStores 0 0 (1024 * 2 ^ 32 + 2 ^ 23 + 1) (some (1024 * 2 ^ 32 + 2 ^ 23)) := by
  refine ⟨by decide, fun _ _ => ⟨_, rfl, by decide⟩, ?_, ?_, ?_, ?_, ?_, ?_, ?_, ?_, ?_, ?_, ?_, ?_⟩ <;> simp
theorem test_crwr : (nextOf (exec (.crwr 1 1) (demoR [(1, 0x4003)]))).my.cr 1 = 0x4000 ∧ (nextOf (exec (.crset 1 0x20) (demoR [(1, 9)]))).my.cr 0x20 = 9 ∧
    (nextOf (exec (.crwr 1 0x16) (demoR [(1, 5)]))).mySlot.st = .parked := by decide
theorem test_crrd : (nextOf (exec (.crrd 5 0x81) demo)).my.sreg 5 = 1 ∧ (nextOf (exec (.crrd 5 0) demo)).my.sreg 5 = 1024 * 4294967296 ∧
    (nextOf (exec (.crrd 5 0) (demoB []))).my.sreg 5 = 1024 * 4294967296 + 1 ∧ (nextOf (exec (.crrd 5 0x800) demo)).mySlot.st = .parked := by decide
theorem test_banker_values : (15 + 16 * 15 + 256 * 15 + 4096 * 15) % 16 ≤ 15 ∧ cordonValid 0 (2 ^ 63) = true ∧ cordonValid 0 (2 ^ 63 + 1) = false ∧ cordonValid 0 (2 ^ 63 + 0xFF01) = false ∧
    errinjRefused 0 = false ∧ errinjRefused (5 * 2 ^ 60) = false ∧ (2 ^ 62 + 0xFF00).testBit 62 = true ∧ fetchSrcs [1] (demoB [(1, 5)]) = .ok [5] (demoB [(1, 5)]) :=
  ⟨by decide, by decide, by decide, by decide, by decide, by decide, by decide, rfl⟩

/-- TRAP and ERET: outside a handler; inside it with a plain return and with a progress word. -/
def demoIn (tres : Nat) : State := demoT fun t => (((t.setCr 2 0x2003).setCr 4 0x3000).setCr 5 tres).setInTrap true
theorem test_traps : (demoIn 0).my.inTrap = true ∧ (demoIn 0).my.traps = [] ∧ (demoIn 0).my.cr 5 / 2 ^ 31 % 2 = 0 ∧ (demoIn (2 ^ 31 + 3)).my.cr 5 / 2 ^ 31 % 2 = 1 ∧
    demo.my.inTrap = false ∧ (demoIn 0).my.settled = true ∧ demo.mySlot.evq = [] ∧ (demoS fun x => { x with evq := [1] }).mySlot.evq ≠ [] := by decide
theorem test_trap : (nextOf (exec (.trap 7) demoTrap)).my.pc = 0x8000 ∧ (nextOf (exec (.trap 7) demoTrap)).my.cr 2 = 0x1004 ∧ (nextOf (exec (.trap 7) demoTrap)).my.cr 3 = 1 ∧
    (nextOf (exec (.trap 7) demoTrap)).my.cr 4 = 7 := by decide
theorem test_eret : (nextOf (exec .eret (demoIn 0))).my.pc = 0x2000 ∧ (nextOf (exec .eret (demoIn (2 ^ 31 + 3)))).my.pc = 0x3000 ∧
    (nextOf (exec .eret (demoIn (2 ^ 31 + 3)))).my.tileFrom = 3 ∧ (nextOf (exec .eret (demoIn (2 ^ 31 + 3)))).my.resume = some 0x2000 := by decide
/-- TLBINV by the banker of a space of its own partition, of another's, and beyond the address space. -/
def demoInv : State := { demoB [(1, 0x2000), (2, 0x0200000000000000), (3, 5)] with
  spaces := [(5, { part := 1 })],
  cores := [(0, { tlb := [{ space := 0, page := 2, count := 1, frame := 2, w := true, x := false }] })] }
theorem test_tlbinv : wordsOf (fetchSrcs [1, 2, 3] demoInv) = [0x2000, 0x0200000000000000, 5] ∧ (demoInv.space (0x2000 % 4096)).part = demoInv.diePart 0 ∧
    (demoInv.space 5).part ≠ demoInv.diePart 0 ∧ (nextOf (exec (.tlbinv 1 0) demoInv)).mySlot.st = .parked ∧
    ((nextOf (exec (.tlbinv 1 0) demoInv)).core 0).tlb = [] := by decide


-- events

def demoOut : Outst := { id := 3, pc := 0x1000, dest := some 5, left := 0 }
theorem test_taskEvents :
    -- DEFERRED_FAULT_TAKEN, LONG_RESULT_READY
    (demoTrap.setMy fun t => { t with traps := [{ trap := accTrap 0, due := true, id := 0, inHandler := false }] }).my.traps =
      [{ trap := accTrap 0, due := true, id := 0, inHandler := false }] ∧
    demoTrap.my.settled = true ∧ demo.isAt demoTk = true ∧ [demoOut].find? (·.id == 3) = some demoOut ∧ demoOut.dest = some 5 ∧ (15 : Reg).toNat < 16 ∧
    -- WINDOW_SPILL, CHANNEL_WORD_ARRIVAL, CHANNEL_AGENT_REQUEST
    (demo.task 1).struck = [] ∧ (demo.core 0).fenced = false ∧ ((demo.park 1 (.pop 0)).task 1).wait = some (.pop 0) ∧
    demo.channelRefused 1 0 0 (2 ^ 14) = false ∧ demo.channelRefused 1 0 0 0x1100 = false ∧ ({ demo with cores := [(0, { qcfg := [(0, 0x800000000000FF00)] })] } : State).channelRefused 1 0 0 0x1100 = true ∧
    bit (2 ^ 14) 14 = true ∧ bit 0x1100 14 = false := by decide
/-- A row barrier in which one BARW waits. -/
def demoBw : BarWait := { t := demoTk, id := 0, kind := 0, pc := 0x1000, dest := 5 }
def demoWire : State := { demo with wires := [(0, { latch := some (2 ^ 33 + 2 ^ 48), waits := [demoBw] })], cores := [(0, { bars := [(0, { arrived := [1] })] })] }
theorem test_barrierEvents : (demoWire.wire 0).latch = some (2 ^ 33 + 2 ^ 48) ∧ (demoWire.wire 0).stamp = 0 ∧ (demoWire.wire 0).waits = [demoBw] ∧
    demoWire.allArrived 0 (2 ^ 33 + 2 ^ 48) = true ∧ (demoWire.wire 0).due = none ∧ demoBw.kind = 0 ∧ demoBw.btotrap = false := by decide
theorem test_taskWaits : (probeRing 0 [0])[1]? = none ∧ ((demo.park 1 (.sleep 17 none)).task 1).wait = some (.sleep 17 none) ∧
    ((demo.park 1 (.sleep 17 none)).slot 1).st = .parked ∧ (demo.park 1 (.blocking 0)).waitsFor demoTk (.blocking 0) = true ∧
    (demo.park 1 (.reconfig 0)).waitsFor demoTk (.reconfig 0) = true ∧ adjacent 0 1 = some 1 ∧ adjacent 0 0 = none ∧ (demo.park 1 .walk).waitsFor demoTk .walk = true := by decide
/-- A translation walk with one requester, of page 7: the cached last-level table at 0x8000 maps it to frame 9, or it has no entry. -/
def demoWalk : Walk := { space := 0, page := 7, va := 0x7000, acc := 0, by_ := 1, running := true, slots := [demoTk] }
def demoWalks (b : Memory) : State := { demo.park 1 .walk with
  msg := .translationWalk 0 7, mem := { walks := [demoWalk], bytes := b, walkerTlb := [(0, [(0, walkKey 4 0x7000, 0x8000)])] } }
theorem test_walks : (demoWalks []).mem.walks.find? (fun w => w.space == 0 && w.page == 7) = some demoWalk ∧ (demoWalks []).walk 0 0 0x7000 = (1, .fault 0, []) ∧
    (demoWalks [(0x8038, 7), (0x8039, 0x90)]).walk 0 0 0x7000 = (1, .leaf { space := 0, page := 7, count := 1, frame := 9, w := true, x := false }, []) := by decide
theorem test_walk_fault : ((nextOf (exec .translationWalk (demoWalks []))).slot 1).pending?.map (fun r => (r.cause, r.sub, r.addr)) = some (0x40, 0, 0x7000) := by decide
/-- Calls to a releaser that is here, that has drained, and that is gone; the calls of an acquire. -/
def demoRec (n drain : Nat) : Record := { num := 1, drain := drain, serial := n, space := 0, scope := 0, pos := 1, mark := false }
theorem test_calls : (match demo.releaser (demoRec 0 0) with | .here => true | _ => false) = true ∧ (match demo.releaser (demoRec 0 1) with | .here => true | _ => false) = true ∧
    (match demo.releaser (demoRec 5 0) with | .gone => true | _ => false) = true ∧ (demo.slot 1).callBusy ≤ demo.cycle ∧ 17 < (demoS fun x => { x with callBusy := 18 }).mySlot.callBusy := by decide
def demoCalls (n : Nat) (inval : Bool) : State := { demo with mem := { calls := [{ t := demoTk, id := 2, left := n, inval := inval, va := 0, after := .fence 0 false }] } }
theorem test_call_replies : ∀ n ∈ [1, 2], ((demoCalls n false).mem.calls.find? fun c => c.t == demoTk && c.id == 2).map (fun c => (c.left, c.inval)) = some (n, false) := by decide


/-- Requests at a port: full/empty, remote, home; a read-modify-write of a free word and of one that another holds. -/
def demoRmw (op : Nat) : Rmw := { op := op, x := 1, c := 0, acq := false, rel := false, scope := 0, num := 0, dest := 5 }
def demoReq (op : PortOp) : PortReq := { demoFe op with loc := 0x3000, size := 8, va := 0x3000 }
theorem test_portEvents :
    (demoMem.bankLoc 0 0 16) = some (scratchLoc 0 0 16) ∧ demoMem.hub.budgets = [] ∧ (demoMem.core 0).fenced = false ∧
    (demoReq (.reserve (demoRmw 0))).op = .reserve (demoRmw 0) ∧ demo.mem.resv.look (0x3000 / 8) = none ∧ (demoHeld.mem.resv.look (0x3000 / 8)).isSome = true ∧
    (demoRmw 0).acq = false ∧ (demoRmw 12).op = 12 ∧ (demo.park 1 (.grant 0)).waitsFor (demoReq .feq).t (.grant (demoReq .feq).id) = true ∧
    (demoFe .feq).scratch = true ∧ demoMem.behindHeld 0 (demoMem.pointCore (demoFe .feq)) (demoFe .feq).held = false ∧
    demoMem.bankLoc (demoFe .feq).owner (demoFe .feq).space (demoFe .feq).off = some (scratchLoc 0 0 16) ∧
    (demo.findTask demoTk).map (·.feRetry) = some 1024 ∧ (demoFe .ldf).tries < 1024 ∧ 1024 ≤ ({ demoFe .ldf with tries := 1024 } : PortReq).tries := by decide
/-- A page refill for which no one waits. -/
def demoRefill : State := { demo with mem := { refills := [{ core := 0, space := 0, page := 0, bank := 2, running := true }], wpages := [(wpageKey 0 0 0, { backing := 0x4000, shadow := none })] } }
theorem test_refill : (demoRefill.mem.refills.find? (fun r => r.core == 0 && r.space == 0 && r.page == 0 && r.running)).map (fun r => (r.bank, r.reqs, r.slots)) = some (2, [], []) ∧
    (demoRefill.mem.wpages.look (wpageKey 0 0 0)).map (·.shadow) = some none := by decide
/-- A reservation whose time is up and for which no one waits; a posted write at a line without copies; a monitor. -/
theorem test_homeEvents : (demoHeld.mem.resv.look 0x600).map (fun x => (x.t, x.hold, x.since, x.queue)) = some (demoTk, true, 0, []) ∧
    demo.holders (0x3000 / 128) = [] ∧ demo.homeLost 0x3000 = false ∧ demo.mem.bytes.wf = true ∧ (demoReq (.posted 5 none)).op = .posted 5 none ∧
    ([({ t := demoTk, id := 4, core := 0, loc := 0x3000, expected := 0, point := 0, dest := 5 } : Monitor)].find? fun m => m.t == demoTk && m.id == 4).isSome = true ∧
    (demo.space 0).taken = false ∧ ({ demo with spaces := [(0, { taken := true })] } : State).space 0 = { taken := true } ∧ demo.mem.bufFills.get 0 5 ≤ demo.cycle := by decide
theorem test_monitor_wake : ((nextOf (exec .monitorWake { demo with mem := { monitors := [{ t := demoTk, id := 4, core := 0, loc := 0x3000, expected := 0, point := 0, dest := 5 }] }, msg := .monitorWake demoTk 4 0x3000 })).agenda.map
    (·.ev)) = [.classBCompletion] := by decide
/-- A load at the first set of a one-level chain, which holds its line whole. -/
def demoAcc : Acc := { t := demoTk, id := 0, core := 0, space := 0, first := 1, tensor := 1, world := false, line := 64, off := 0, size := 8, write := false, data := 0, start := 17, level := 0, signed := false, va := 0x2000 }
def demoInst : Inst := ⟨0, 1, 0, { parent := 64, place := 1, log2s := 0 }⟩
def demoVc : State := { demo with
  mem := { vsets := [(demoInst.key 64, [{ line := 64, valid := ~~~0 }])] },
  spaces := [(0, { domain := [0], grants := [(0, 1)], vcs := [(1, demoInst.df)] })] }
theorem test_vcacheHit : (demoVc.chain 0 0 1)[0]? = some demoInst ∧ demoVc.frozenFor demoInst 0x2000 = false ∧ demoVc.setFenced demoInst 64 = false ∧
    (demoVc.vline demoInst 64).map (fun y => (y.line, y.err, decide (y.valid &&& maskOf 0 8 = maskOf 0 8))) = some (64, false, true) ∧
    demo.chain 0 0 1 = [] ∧ (demo.space 0).waiting = false := by decide
theorem test_agentEvents : (({ demo with spaces := [(0, { taken := true, jobs := [⟨demoTk, 0, 0, 0, 0, 5, false⟩] })] } : State).space 0).jobs = [⟨demoTk, 0, 0, 0, 0, 5, false⟩] ∧
    (({ demo with spaces := [(0, { taken := true })] } : State).space 0).parked = [] := by decide


/-- The hub with a queue table at 0x40000 whose queue 0 holds one record, and active deal 1. -/
def demoQ : State := { demo with
  mem := { bytes := [(0x8000, 7), (0x10000, 1), (0x10001, 0x80), (0x40008, 1), (0x40010, 0x84)] },
  spaces := [(0, { valid := true, root := 0x10000 })], hub := { queueBase := [(0, 0x40000)] } }
def demoD (d : ActiveDeal) (f : Hub → Hub) (m : Msg) : State := { demoQ with msg := m, hub := f { demoQ.hub with deals := [(1, d)] } }
set_option maxRecDepth 20000 in
theorem test_queues : queuePending (demoQ.queueDesc 0) = true ∧ queuePending (demoQ.queueDesc 1) = false ∧ demoQ.hub.slots = [] ∧ 0 ∉ demoQ.hub.waiting ∧
    demoQ.slotForQueue = some 0 ∧ demoQ.freeEntry = some 0 ∧ (demoD demoDeal id .none).deal 1 = some demoDeal := by decide
theorem test_intake : demoQ.intakeCode demoDeal ≠ 0 := by
  simp [State.intakeCode, State.intakeCode.lowestCode, show demoDeal.malformed = true from by decide]
set_option maxRecDepth 40000 in
theorem test_notify : (nextOf (exec .notifyWord { demoQ with msg := .notifyWord 0 })).hub.waiting = [0] ∧
    (nextOf (exec .queueSlotBind { demoQ with hub := { demoQ.hub with waiting := [0] } })).hub.entryQ = [0] := by decide
/-- Eligible cores and a mapping; a place for the completion record. -/
theorem test_mapping : (∃ l, demoQ.checkMap demoDeal (demoQ.eligibleCores 0 0) = .ok l) ∧ demoQ.eligibleCores 0 0 ≠ [] ∧ 5 ∈ demoQ.eligibleCores 0 0 ∧ { demoDeal with phase := .ready }.phase = .ready ∧
    demoDeal.mapped = false ∧ (∃ ps, demoQ.hubPlaces 0 false true (demoDeal.recordVa / 16 * 16) 64 = .ok ps) ∧ demoQ.partHalted demoDeal.part = false := by
  have h : 5 ∈ demoQ.eligibleCores 0 0 := by
    simp only [State.eligibleCores, State.classCores, List.mem_filter, List.mem_range]
    decide
  exact ⟨⟨[], by simp [State.checkMap, show demoDeal.map_ = 0 from by decide]⟩, List.ne_nil_of_mem h, h, rfl, rfl, ⟨_, rfl⟩, by decide⟩
set_option maxRecDepth 20000 in
/-- A deal all of whose tasks have been placed and of which one lives. -/
theorem test_lastTask : ∃ t, exec .completionRecordWrite (demoD { demoDeal with phase := .ready, mapped := true, placed := demoDeal.total, live := 1 } id (.taskEnded 1 false)) = .next t ∧
    (t.deal 1).map (fun d => (d.live, d.tasks, d.phase)) = some (0, 1, .ended) := ⟨_, rfl, by decide⟩
theorem test_bankerEvents : ((demoB []).slot (mkPos 0 0)).evq.length < 16 ∧ 16 ≤ ((demoB []).modSlot 0 fun x => { x with evq := List.replicate 16 0 }).mySlot.evq.length ∧
    demo.isAt demoTk = true ∧ demo.my.sliceEnd = 0 ∧ ({ demo with cores := [(0, { outq := [7] })] } : State).core 0 = { outq := [7] } ∧
    (demo.park 1 .exiting).waitsFor demoTk .exiting = true ∧ demo.isLight 1 = false ∧ posSlot 1 ≠ 0 ∧ demo.my.jointIn = false := by decide
theorem test_exit_event : ((nextOf (exec .exitEventPush { demo.park 1 .exiting with msg := .exitPush demoTk none })).slot 1).st = .exited := by decide
/-- A light record that arrives from core 1, one at the head of a refill, and one that a light slot takes. -/
def demoLr : LightRec := { words := [1, 2, 3, 4, 5, 6, 7, 0x2000, 0, 0x4000000000, 0, 0, 0, 0, 0, 0], origin := { pos := 17, serial := 0 } }
def demoLight : State := { demo with slots := [(1, { task := {} })], cores := [(0, { lmask := 2, ken := true, arrivals := [demoLr] })] }
theorem test_lightEvents : (demoLight.core 0).refuses = false ∧ ({ demoLight with cores := [(0, { fenced := true })] } : State).core 0 = { fenced := true } ∧ (0 : Nat) ≠ posCore demoLr.origin.pos ∧
    demoLight.dispatchable 1 = some demoLr ∧ demoLr.kind = 1 ∧ (demoLight.core 0).kittyLen = 0 ∧ (demoLight.core 0).arrivals.length < 48 := by decide
theorem test_dispatch : ((nextOf (exec .lightDispatch { demoLight with msg := .lightDispatch 1 })).task 1).sreg 7 = 7 ∧
    ((nextOf (exec .lightDispatch { demoLight with msg := .lightDispatch 1 })).task 1).pc = 0x2000 := by decide
theorem test_migrations : (demo.park 1 .migrate).waitsFor demoTk .migrate = true ∧
    (((demoT fun t => { t with outst := [demoOut] }).park 1 .migrate).quiet 1 && (((demoT fun t => { t with outst := [demoOut] }).park 1 .migrate).task 1).releaseDone 17) = false ∧
    (demoS fun x => { x with shipped := [demoLr] }).mySlot.shipped.find? (·.origin == demoLr.origin) = some demoLr ∧ (1 : Nat) ≠ posCore 1 := by decide
/-- The dealer: a request whose checks failed, a copy ready to run, one in the spill ring, one complete, a follow-on command with room and without. -/
def demoCopy : Copy := { t := demoTk, core := 0, pc := 0, kind := 0, space := 0, world := false, budget := 0, desc := 0, cmd := 4, tag := 3, promise := 17, est := 0, lines := [] }
def demoDealer (x : Dealer) : State := { demoX fun t => { t with tags := [(3, 0)] } with cores := [(0, { dealer := x })], hub := { copies := [(0, demoCopy)] } }
theorem test_dealer : ((demoDealer { queue := [0] }).core 0).dealer.queue = 0 :: [] ∧ ((demoDealer { queue := [0] }).core 0).fenced = false ∧
    ((demoDealer { queue := [0] }).core 0).halted = false ∧ ((demoDealer { queue := [0] }).core 0).stopped = false ∧ (demoDealer {}).hub.copies.look 0 = some demoCopy ∧ demoCopy.held = false ∧
    ((demoDealer { spill := [0] }).core 0).dealer.spill = 0 :: [] ∧ copyDepv demoCopy.desc = false ∧ copyDetach demoCopy.desc = false ∧
    ((demoDealer { busy := some { slot := 1, t := demoTk, pc := 0, kind := 0, va := 0, code := 3 } }).core 0).dealer.busy.map (·.code) = some 3 ∧
    ((demoDealer {}).slots.find? fun y => y.2.resident && y.2.task.tags.look demoCopy.tag == some 0).isSome = true ∧ demo.mySlot.commandRoom true = true ∧
    (demoS fun x => { x with compsRes := 8 }).mySlot.commandRoom true = false := by decide
/-- A collective that is full, one committed with one part, and a CWAIT whose time is up. -/
def demoPart : CollPart := { rank := 0, t := demoTk, space := 0, world := false, dst := 0x2000, data := [5] }
theorem test_collEvents : ({ demo with hub := { colls := [(0, { demoColl with st := .full })] } } : State).hub.colls.look 0 = some { demoColl with st := .full } ∧
    { demoColl with st := .committed, parts := [demoPart] }.parts = [demoPart] ∧
    ((({ demo with hub := { colls := [(0, { demoColl with waits := [(demoTk, 2, 5)] })] } } : State).hub.colls.find? fun x => x.2.waits.any fun w => w.1 == demoTk && w.2.1 == 2).map (·.1)) = some 0 := by decide


/-- The code scanner: a request of the own partition and of another, one page without a finding (two words of ADD) and one whose first word is 0. -/
def demoScan (b : Memory) : State := { demoQ with msg := .pageScan, mem := { demoQ.mem with bytes := b }, module_ := { scans := [{ part := 0, space := 0, va := 0x7000, n := 8 }] } }
theorem test_scans : (demoQ.space 0).part = 0 ∧ (({ demoQ with spaces := [(0, { part := 1 })] } : State).space 0).part ≠ 0 ∧ demoQ.module_.scans = [] ∧ 2 ^ 21 < 2 ^ 21 + 1 ∧
    (demoScan []).module_.scans ≠ [] ∧ ({ part := 0, space := 0, va := 0x7000, n := 8 } : ScanReq).pages = [7] ∧
    (match scanPage [0x04641800 + 0x0800, 0x04641800] [] 0 with | none => true | _ => false) = true ∧ (scanPage [0] [] 0).isSome = true := by decide
/-- A slot parked with its fault record, and an empty place for none. -/
def demoFault : State := (demo.park 1 .fault).modSlot 1 fun x => { x with pending? := some { cause := 0x40, addr := 0x7000 } }
theorem test_resume : (demoFault.saved.any fun y => y.t == demoTk) = false ∧ demoFault.isAt demoTk = true ∧ (demoFault.slot 1).pending?.isSome = true ∧ (demoFault.slot 1).preempt = none ∧
    (demoFault.slot 1).st = .parked ∧ (demoFault.task 1).wait = some .fault ∧ (demoFault.task 1).runs = [] := by decide
theorem test_resumeSkip : ((nextOf (exec .resumeSkip { demoFault with msg := .resumeSkip demoTk })).task 1).pc = 0x1004 ∧
    ((nextOf (exec .resumeRetry { demoFault with msg := .resumeRetry demoTk })).task 1).pc = 0x1000 := by decide
theorem test_preempt : (demo.slot 1).resident = true ∧ (demo.slot 1).endRes = false ∧ (demo.agenda.any fun e => e.msg == .preemptGo 1) = false ∧ demo.my.jointIn = false ∧
    ((demoS fun x => { x with preempt := some 3 }).slot 1).preempt.isSome = true ∧ (demo.slot (mkPos (posCore 1) 0)).evq.length < 16 := by decide
/-- Pinned pages, free pages, spans in use. -/
def demoPin : State := { demo with mem := { wpages := [(wpageKey 0 0 0, { backing := 0x4000, shadow := none, bank := some 5 })] }, cores := [(0, { bankUse := [(1, 1)], free := [9] })] }
theorem test_pages : (demoPin.mem.wpages.look (wpageKey 0 0 0)).isSome = true ∧ demoPin.agentBusy = false ∧ demoPin.pageBusy 0 0 0 = false ∧ (demoPin.core 0).bankUse.get 0 (5 / 4) = 1 ∧
    demoPin.bankTaken 0 5 = true ∧ demoPin.bankTaken 0 6 = false ∧ 6 ∉ (demoPin.core 0).free ∧ demoPin.mem.refills = [] ∧ demoPin.diePart 0 = 0 ∧
    demoPin.pinnedIn 0 4 1 ≠ [] ∧ demoPin.pinnedIn 0 5 1 = [] ∧ demoPin.inUse 0 [(0x4000, 0x5000)] = false ∧ (2 ^ 45 - 1) + 1 ≤ 2 ^ 45 ∧ 2 ^ 32 < 2 ^ 32 + 1 := by decide
/-- Two partitions: dies 0 and 1, and 2 and 3. -/
def demoTwo : State := { demo with module_ := { parts := 2, lostDies := [1] }, cores := [(0, { fenced := true, resetEnd := 17 }), (1, { fenced := true, resetEnd := 18 })] }
theorem test_resets : demoTwo.diePart (coreDie 0) = 0 ∧ demoTwo.diePart (coreDie 1023) ≠ 0 ∧ bit (demoTwo.core 0).cordon.toNat 63 = false ∧ (demo.core 0).halted = false ∧
    coreDie 0 ∉ demoTwo.module_.lostDies ∧ (demoTwo.core 0).fenced = true ∧ (demoTwo.core 0).resetEnd ≤ demoTwo.cycle ∧ demoTwo.cycle < (demoTwo.core 1).resetEnd ∧
    0 ∉ demoTwo.module_.lostDies ∧ 1 ∈ demoTwo.module_.lostDies ∧ demoTwo.diePart 1 = 0 ∧ demoTwo.diePart 2 ≠ 0 ∧ demoTwo.module_.overLimit = false := by decide
theorem test_dieBack : ∃ c ∈ dieCores 1, (demoTwo.core c).fenced = false := ⟨256, by simp [dieCores, List.mem_range], by decide⟩
theorem test_partitionHot : 0 ∈ ({ hot := [0], overLimit := true } : Module).hot ∧ ({ hot := [0], overLimit := true } : Module).overLimit = true := by decide
/-- Injections: a window word, registers s1 and s15 of slots 1 and 14, a held line. -/
theorem test_injections : demoMem.bankLoc 0 (demoMem.task (mkPos 0 0)).space (bits (0x2000000000000013 : Word).toNat 0 22 / 4 * 4) = some (scratchLoc 0 0 16) ∧
    bits (0x31F0000000000000 : Word).toNat 56 4 = 1 ∧ bits (0x31F0000000000000 : Word).toNat 52 4 ≠ 0 ∧ bits (0x3E10000000000000 : Word).toNat 56 4 ≤ 14 ∧ (demo.slot (mkPos 0 1)).resident = true ∧
    demoVc.heldLines 0 = [(demoInst.key 64, 64)] := by decide
theorem test_hubSettings : (0 : Nat) < 128 ∧ (127 : Nat) / 32 = 3 ∧ demo.diePart (1023 / 256) = 0 ∧ (demo.setHub 0 false (.limits 0 1 1 1 1 1)).isSome = true ∧ (demo.setHub 0 false (.limits 5 1 1 1 1 1)).isNone = true ∧
    demo.partHalted (demo.recordPart [0, 0x7000, 0, 0x40, 0, 0, 0, 0, 0, 1, 0, 0]) = false := by decide


/-- The module: power, boot, errors, ports, features. -/
def demoPorts : State := { demo with module_ := { enabled := 3, window := some (0x1000, 0x2000), scanned := [1] } }
theorem test_module : (800 : Nat) ≤ 800 ∧ 1650 ≤ 1650 ∧ demo.module_.recovery = false ∧ (799 : Nat) < 800 ∧ ({ booted := some 3 } : Module).booted = some 3 ∧
    (demo.slot (mkPos 5 0)).st = .empty ∧ (demo.core 5).fenced = false ∧ 0 ∉ demo.hub.corrected ∧
    demoPorts.portReaches none 0x1000 0x1000 = true ∧ demoPorts.portReaches none 0x1000 0x1001 = false ∧ demoPorts.inWorld (demoPorts.portSecure none) 0x1000 0x1000 = true ∧
    demoPorts.meetsCode 0x1000 1 = true ∧ ({ demoPorts with module_ := { demoPorts.module_ with scanned := [] } } : State).meetsCode 0x1000 128 = false ∧
    ({ demoPorts with module_ := { demoPorts.module_ with carves := [(0x1000, 0x2000)] } } : State).inWorld false 0x1000 1 = false ∧
    0x1000 < hostBar ∧ hostBar ≤ hostBar + 8 ∧ 0x1000 / 128 = (0x1000 + 128 - 1) / 128 := by decide
theorem test_features : demo.module_.accepted = false ∧ (0 : Word) &&& ~~~(featWord 0) = 0 ∧ demoPorts.module_.enabled.getLsbD 1 = true ∧
    demo.partHalted (demo.module_.portPart.get 0 11) = false := by
  refine ⟨by decide, by simp, by decide, by decide⟩
theorem test_powerCap : (nextOf (exec .powerCap { demo with msg := .powerCap 800 })).module_.cap = 800 ∧ (nextOf (exec .powerCap { demo with msg := .powerCap 1651 })).module_.cap = 1650 := by decide
theorem test_hostWrite : (nextOf (exec .hostWrite { demoPorts with msg := .hostWrite 0x1800 [5] none, module_ := { demoPorts.module_ with scanned := [] } })).agenda.length ≤ 1 := by decide

/-- A step runs the instruction of the word at the pc: the state that withFetchWord makes. -/
theorem test_step_runs : ∃ t, step (State.reset.withFetchWord 32 (0x02 * 2 ^ 26 + 3 * 2 ^ 21 + 5)) = .next t ∧ t.my.sreg 3 = 5 := ⟨_, rfl, by decide⟩
/-- The same with every condition of the statement about a step met. -/
def demoFetch : State := { demo with
  cur := 0, turn := 0, slots := [(1, { st := .ready, task := demoTask, fetchTr := [{ space := 0, page := 1, frame := 1 }] })],
  mem := { bytes := [(0x1000, 0x05), (0x1002, 0x60), (0x1003, 0x08)] } }
def demoV : State := ({ demoFetch with cur := 1, turn := posCore 1 + 1, msg := .none } : State).setMy fun t => (t.tidy demoFetch.cycle).dropKept
theorem test_step_conditions : (∀ x ∈ demoFetch.agenda.head?, demoFetch.cycle < x.due) ∧ demoFetch.nextTurn = some 1 ∧ (demoFetch.slot 1).st = .ready ∧
    (demoFetch.slot 1).notBefore ≤ demoFetch.cycle ∧ (demoFetch.slot 1).preempt = none ∧ (demoFetch.slot 1).endRes = false := by decide
theorem test_step_fetches : demoV.my.runs = [] ∧ demoV.my.waitsResult demoFetch.cycle = false ∧ demoV.my.faultWaits = false ∧
    (demoV.mySlot.fetchTr.find? fun f => f.space == demoV.my.space && f.page == demoV.my.pc.toNat / 4096) = some { space := 0, page := 1, frame := 1 } ∧
    demoV.poisoned (1 * 4096 + demoV.my.pc.toNat % 4096) = false ∧ demoV.issueWaits (.addi 3 0 5) = false := by decide
theorem test_step_decodes : (match decodeWord (demoV.bytesAt (1 * 4096 + demoV.my.pc.toNat % 4096) 4) with | .ok i => decide (i = .addi 3 0 5) | _ => false) = true := by
  decide
theorem test_step_event : step { demo with agenda := [{ due := 17, tie := 0, ev := .junctionLimitCrossing, msg := .junction true }] } =
    .next { demo with msg := .junction true, module_ := { demo.module_ with holdBack := true, overLimit := true } } := rfl
theorem test_step_tick : ({ demo with turn := 1024 } : State).nextTurn = none ∧ (State.reset).nextTurn = none ∧ State.reset.mem.bytes.wf = true := by decide
/-- A well-formed instruction that encodes, and a state whose memory is in its canonical form and steps. -/
theorem test_roundTrip : (Instr.addi 3 4 (-1)).wellFormed = true ∧ encode (.addi 3 4 (-1)) = some (0x02 * 2 ^ 26 + 3 * 2 ^ 21 + 4 * 2 ^ 16 + 0xFFFF) ∧
    encode .kBlockComplete = none := ⟨by decide, rfl, rfl⟩
theorem test_canonical : ∃ t, step demoFetch = .next t ∧ demoFetch.mem.bytes.wf = true ∧ t.my.sreg 3 = 5 := ⟨_, rfl, by decide, by decide⟩


-- more states that meet hypotheses, and the two steps of a read-modify-write

/-- A CALL that moves a window with a struck register, and a RET that does. -/
def demoStruck (n on : Nat) (k : Nat) : State := demoT fun t => { t with callers := List.replicate n [1, 2, 3, 4, 5, 6, 7, 0x2000], onChip := on, struck := [k], depth := 8 }
theorem test_struckWindows : (demoStruck 3 4 17).my.onChip = 4 ∧ (∃ k ∈ (demoStruck 3 4 17).my.struck, k / 16 = 1 + (demoStruck 3 4 17).my.callers.length + 1 - (demoStruck 3 4 17).my.onChip) ∧
    (demoStruck 3 1 49).my.onChip = 1 ∧ (∃ k ∈ (demoStruck 3 1 49).my.struck, k / 16 = (demoStruck 3 1 49).my.callers.length) := by decide
theorem test_struckCall : ((nextOf (exec (.call 4) (demoStruck 3 4 17))).agenda.map (·.ev)) = [.reset] ∧ ((nextOf (exec .ret (demoStruck 3 1 49))).agenda.map (·.ev)) = [.reset] ∧
    (nextOf (exec (.call 4) (demoStruck 3 4 33))).agenda = [] := by decide

/-- Two vcaches over page 2, posted: vcache 1 holds line 64 dirty; `fr` are under reconfiguration. -/
def demoLow : Inst := ⟨0, 1, 0, { parent := 2, place := 1, log2s := 0 }⟩
def demoHigh : Inst := ⟨0, 2, 0, { parent := 64, place := 1, log2s := 0 }⟩
def demoStuck (fr : List Nat) : State := { demoMem with
  mem := { demoMem.mem with vsets := [(demoLow.key 64, [{ line := 64, valid := ~~~0, dirty := 1 }])] },
  spaces := [(0, { domain := [0], grants := [(0, 2)], vcs := [(1, demoLow.df), (2, demoHigh.df)], frozen := fr, binds := [(1, { base := 2, pages := 1, tensor := 1, vc := 1, sync := false, posted := true, packed := false, migrate := false, world := false })] })] }
theorem test_chain : (demoStuck [2]).chain 0 0 1 = [demoLow, demoHigh] ∧ liftStuck (demoStuck [2]) 64 9 [demoLow, demoHigh] = true ∧
    liftStuck (demoStuck []) 64 9 [demoLow, demoHigh] = false ∧ (demoStuck [2]).drainStuck 1 = true ∧ (demoStuck []).drainStuck 1 = false ∧ liftStuck demoMem 64 9 [] = false := by decide
theorem test_posted : ∃ p s₂, Reaches (demoStuck [2]) 0x2000 8 true p s₂ ∧ s₂.migrates p = false ∧ p.scratch = false ∧ p.posted = true ∧ p.sync = false ∧
    s₂.chain s₂.my.space (posCore s₂.cur) p.vc = [demoLow, demoHigh] ∧ liftStuck s₂ (p.loc / 128) 9 [demoLow, demoHigh] = true ∧
    (∀ c k, classify (posCore (demoStuck [2]).cur) 0x2000 ≠ .scratch c k) ∧ wordsOf (fetchSrcs [6, 0, 1] (demoStuck [2])) = [0x2000, 0, 7] :=
  ⟨_, _, ⟨by decide, rfl, by decide⟩, by decide, by decide, by decide, by decide, by decide, by decide,
    fun c k h => by revert h; simp [show classify (posCore (demoStuck [2]).cur) 0x2000 = .global 0x2000 from by decide], by decide⟩
theorem test_stx_posted : ((nextOf (exec (.stx 1 6 0 3) (demoStuck []))).agenda.any (·.ev == .postedWriteApply)) = true ∧
    (nextOf (exec (.stx 1 6 0 3) (demoStuck [2]))).agenda = [] := by decide
/-- The store after a FENCE `.rel`, and one without. -/
theorem test_takeFence : demo.my.fenceRel = none ∧ (demoT fun t => { t with fenceRel := some (3, 2, 1) }).my.fenceRel = some (3, 2, 1) ∧
    ((demoT fun t => { t with fenceRel := some (3, 2, 1) }).takeFence 1).1.map (fun r => (r.num, r.scope, r.drain)) = some (3, 2, 1) := by decide

/-- A word of the own scratchpad that plain registers name. -/
theorem test_ownWord : OwnWord demoMem 0x01FFF00000000010 8 true 16 (scratchLoc 0 0 16) ∧ OwnWord demoMem 0x01FFF00000000010 4 true 16 (scratchLoc 0 0 16) ∧
    (regValue demoMem 5).toNat = 0x01FFF00000000010 ∧ demoMem.mem.resv.look (scratchLoc 0 0 16 / 8) = none ∧ demoMem.my.held = none ∧
    demoMem.poisoned (scratchLoc 0 0 16) = false ∧ demoMem.bytesAt (scratchLoc 0 0 16) 8 = 0 ∧ (regValue demoMem 1).toNat ≠ 0 ∧ (regValue demoMem 0).toNat = 0 := by
  simp only [OwnWord]; decide
theorem test_ownWord_read : OwnWord demoMem 0x01FFF00000000010 8 false 16 (scratchLoc 0 0 16) ∧ PlainReg demoMem 5 ∧ PlainReg demoMem 1 ∧ PlainReg demoMem 4 ∧
    ReleaseGoes demoMem ∧ demoMem.recordAt (scratchLoc 0 0 16) = none ∧ demoMem.displaced (scratchLoc 0 0 16) = none ∧ demoMem.mem.bytes.wf = true := by
  simp only [OwnWord, PlainReg, ReleaseGoes]; decide
/-- The event with a name and what it carries: when it is due. -/
def dueOf (s : State) (e : Instr) : List Nat := (s.agenda.filter (·.ev == e)).map (·.due)
theorem test_amoadd : dueOf (nextOf (exec (.amoadd 3 5 1 1 0 1) demoMem)) .reservationGrant = [27] ∧
    (nextOf (exec (.amoadd 3 5 1 1 0 1) demoMem)).mem.resv.look (scratchLoc 0 0 16 / 8) = some { t := demoTk, id := 0, hold := false, since := 17 } := by decide
theorem test_amoadd_completes : (serve (serve (nextOf (exec (.amoadd 3 5 1 1 0 1) demoMem)))).mem.bytes = [(scratchLoc 0 0 16, 7)] := by decide
theorem test_amocas_fails : (serve (serve (nextOf (exec (.amocas 4 5 1 1 0 0) demoMem)))).mem.bytes = [] ∧
    (serve (serve (nextOf (exec (.amocas 0 5 1 1 0 0) demoMem)))).mem.bytes = [(scratchLoc 0 0 16, 7)] := by decide
theorem test_hold : (serve (nextOf (exec (.hold 3 5 1 0 1) demoMem))).my.held = some { loc := 0x01FFF00000000010, size := 8 } := by decide
def demoHolds : State := { demoMem.setMy fun t => { t with held := some { loc := 0x01FFF00000000010, size := 8 } } with
  mem := { demoMem.mem with resv := [(scratchLoc 0 0 16 / 8, { t := demoTk, id := 9, hold := true, since := 0 })] } }
theorem test_holds : OwnWord demoHolds 0x01FFF00000000010 8 true 16 (scratchLoc 0 0 16) ∧ demoHolds.my.held = some { loc := 0x01FFF00000000010, size := 8 } ∧
    demoHolds.mem.resv.look (scratchLoc 0 0 16 / 8) = some { t := demoTk, id := 9, hold := true, since := 0 } ∧ demoHolds.mem.feWait = [] := by
  simp only [OwnWord]; decide
theorem test_pass : (nextOf (exec (.pass 5 1 1 2 1) demoHolds)).mem.bytes = [(scratchLoc 0 0 16, 7)] ∧ (nextOf (exec (.pass 5 1 1 2 1) demoHolds)).mem.resv = [] ∧
    dueOf (nextOf (exec (.pass 5 1 1 2 1) demoHolds)) .classBCompletion = [27] := by decide
/-- WAITA of a word that differs, of one that does not with every monitor of the cluster taken, and with one free. -/
def demoMonitors : State := { demoMem with mem := { demoMem.mem with monitors := List.replicate 64 { t := demoTk, id := 9, core := 0, loc := 0, expected := 0, point := 0, dest := 5 } } }
theorem test_waita : dueOf (nextOf (exec (.waita 3 5 1) demoMem)) .classBCompletion = [27] ∧ (nextOf (exec (.waita 3 5 0) demoMem)).mem.monitors.length = 1 ∧
    (demoMonitors.mem.monitors.filter fun m => clusterNo m.core == clusterNo (posCore demoMonitors.cur)).length = 64 ∧
    dueOf (nextOf (exec (.waita 3 5 0) demoMonitors)) .classBCompletion = [27] := by decide

/-- DEPDEC, SPAWN, EXIT and LAUNCH with a store on its way, and with a vcache under reconfiguration above a dirty line. -/
def demoStores (s : State) : State := s.setMy fun t => { t with pend := [{ id := 0, write := true, ranges := [], ackOnly := false }] }
theorem test_drainWaits : (demoStores demoL).drainWaits 1 = true ∧ demoL.drainWaits 1 = false ∧ (demoStuck [2]).drainWaits 1 = true ∧ (demoStores demoH).my.accessesDone 17 = false ∧
    ((demoStores demoH).hub.counters.get {} 16383).owner = some 0 ∧ demoH.my.accessesDone 17 = true ∧ demoH.drainStuck 1 = false ∧ demoMem.drainWaits 1 = false ∧
    ((demoStores demo).park 1 .exiting).drainWaits 1 = true ∧ ((demoStores demo).park 1 .exiting).quiet 1 = true ∧ (demo.park 1 .exiting).drainWaits 1 = false := by decide
theorem test_depdec_waits : (nextOf (exec (.depdec 1) (demoStores { demoH.setMy fun t => { t with regs := [(1, 16383)] } with cores := [] }))).my.pc = 0x1000 := by decide

/-- A call to a releaser that a reset has taken, to one that is saved, and to one whose drain must wait; an acquirer with stores to the regions. -/
def demoWs (fr : List Nat) : State := (demoStuck fr).setMy fun t => { t with ws := true }
theorem test_releasers : (match (demoS fun x => { x with lost := some 5 }).releaser (demoRec 5 0) with | .lost => true | _ => false) = true ∧
    (match ({ demo with saved := [{ t := { pos := 1, serial := 5 }, task := {} }] } : State).releaser (demoRec 5 0) with | .saved _ => true | _ => false) = true ∧
    (demoWs [2]).callStuck 1 1 (some (0, 0)) = true ∧ (demoWs []).callStuck 1 1 (some (0, 0)) = false ∧ (demoWs [2]).my.drains = (demoRec 0 0).drain ∧
    (demoStuck []).my.ws = false ∧ (demoStuck []).callStuck 1 1 (some (0, 0)) = false := by decide
theorem test_ownStores : (demoT fun t => { t with pend := [{ id := 0, write := true, ranges := [(4, 5)], ackOnly := false }] }).my.storesTo 17 [{ space := 0, v := 1, p := 1 }] = true ∧
    demo.my.storesTo 17 [{ space := 0, v := 1, p := 1 }] = false ∧ demo.dropStuck 1 [{ space := 0, v := 1, p := 1 }] = false := by decide
/-- A lane without requests held back; a slot that a transaction parked; a line on its way nowhere. -/
theorem test_lanes : demo.behindHeld 0 0 false = false ∧ (demo.park 1 (.frozen 3)).isAt demoTk = true ∧ ((demo.park 1 (.frozen 3)).task 1).wait = some (.frozen 3) ∧
    ((demo.park 1 (.frozen 3)).findTask demoTk).isSome = true ∧ demo.my.wait ≠ some (.frozen 3) ∧ demo.saved = [] ∧ (demoRun 0x2110 64).skip = false := by decide
theorem test_flushLine : demo.flushLine (0x3000 / 128) = demo := rfl

/-- A deal in each phase in which its mapping is fixed, and one that waits for its table; events of one cycle at the banker. -/
theorem test_phases : (∀ p ∈ ([.ready, .held, .busy] : List DealPhase), ((demoD { demoDeal with phase := p } id .none).deal 1).map (·.phase) = some p) ∧
    ((demoD { demoDeal with phase := .table } id .none).deal 1).map (·.phase) = some .table ∧
    (∀ x ∈ ((demoB []).slot (mkPos 0 0)).evqFrom, x ≤ 16) ∧ (∀ x ∈ ((demoB []).slot (mkPos (posCore 1) 0)).evqFrom, x ≤ posSlot 1) := by decide
theorem test_slotOrder : (((({ st := .ready } : Slot).enterEvent 17 13 130).enterEvent 17 1 10).enterEvent 17 16 160).evq = [10, 130, 160] := by decide
/-- A light record of an ordinary deal and of one that a counter released, while nothing is under reconfiguration and while something is. -/
def demoCounted (fr : List Nat) : State := { demoStuck fr with slots := [(1, { task := {} })], msg := .lightDispatch 1, cores := [(0, { lmask := 2, ken := true, arrivals := [demoLr] })], hub := { deals := [(0, { demoDeal with counted := true })] } }
theorem test_dispatches : (demoCounted [2]).dispatchable 1 = some demoLr ∧ (demoCounted [2]).regionsStuck 1 0 [] true = true ∧ (demoCounted []).regionsStuck 1 0 [] true = false ∧
    demoLight.regionsStuck 1 0 [] true = false ∧ ((demoLight.deal 0).any (·.counted)) = false ∧ ((demoCounted []).deal 0).any (·.counted) = true := by decide
/-- A page whose frame lost its mapping: the slot's own words go on. -/
theorem test_keptWords : ({ space := 0, page := 1, frame := 1, words := [0x08600005] } : FetchTr).words[demoV.my.pc.toNat % 4096 / 4]? = some 0x08600005 ∧
    (match decodeWord 0x08600005 with | .ok i => decide (i = .addi 3 0 5) | _ => false) = true ∧ demoV.my.trapWaits = false ∧
    ({ space := 0, page := 1, frame := 1 } : FetchTr).words = [] := by decide
/-- A region unit without poison, all zero, and one with. -/
theorem test_units : demo.rangePoisoned (64 / 4 * 512) 512 = false ∧ ({ demo with mem := { poison := [64] } } : State).rangePoisoned (64 / 4 * 512) 512 = true ∧
    (demo.mem.bytes.bytes (64 / 4 * 512) 8).all (· == 0) = true := by decide


-- conditions of the statements about ports, arrivals, copies and stewards

/-- Nothing that a port of the own core holds back, and a load behind a store that its retirement holds up. -/
theorem test_portHeld : demoMem.portHeld (ownPlace demoMem 16 (scratchLoc 0 0 16)) = false ∧ demo.behindHeld 0 0 true = false ∧
    demo.behindHeld 0 ((demoReq .feq).owner) false = false ∧ demo.postedWaits (demoReq (.posted 5 none)) = false ∧ (demoReq (.posted 5 none)).held = false := by decide
/-- A result of an instruction that an ERET ran, and of one that it did not; nothing waits at PC; a handler's return. -/
theorem test_resumed : ({ demoOut with resumed := true } : Outst).resumed = true ∧ demoOut.resumed = false ∧ demo.my.precise = none ∧ (demoIn 0).my.precise = none ∧
    demoTrap.mySlot.preempt = none ∧ demoTrap.msg = .none ∧ (demoTrap.setMy fun t => { t with traps := [{ trap := accTrap 0, due := false, id := 3, inHandler := false }], outst := [{ demoOut with doneAt := some 17 }] }).my.settled = true := by decide
/-- A partner of a core that is not halted, MJOIN on a light slot, a quad that is free and one that a group holds. -/
theorem test_quads : ((demoPartner (.matrixBlock 0) {}).core 0).halted = false ∧ demoL.isLight demoL.cur = true ∧ (demoX id).isLight 1 = false ∧
    (demoQuad fun _ => {}).quadHeld 0 = false ∧ ({ demo with joints := [(0, demoGroup)] } : State).quadHeld 0 = true := by decide
theorem test_mjoin_light : (nextOf (exec (.mjoin 1) demoL)).mySlot.st = .parked := by decide
/-- A counter of a die of the own partition, and of another's. -/
theorem test_near : demoTwo.diePart (4095 / 4096) = demoTwo.diePart (coreDie (posCore demoTwo.cur)) ∧ demoTwo.diePart (16383 / 4096) ≠ demoTwo.diePart (coreDie (posCore demoTwo.cur)) := by decide
/-- A slot whose arrival stands, one whose arrival is on its way to its wire, the cycle's arrivals; an instance that is full when one arrives. -/
theorem test_coming : posSlot demoWire.cur ∈ (demoWire.barUnit 0 0).arrived ∧ demoBw.kind = 0 ∧ (demoT fun t => { t with pend := [{ id := 0, write := true, ranges := [], ackOnly := false }] }).my.allDone 17 = false ∧
    ((nextOf (exec (.bara 1) (demoR [(1, 0x1000200000000)]))).wire 0).coming.map (fun x => (x.1, x.2.1, x.2.2.kind)) = [(17, 0x1000200000000, 1)] ∧
    ((demo.arrive 0 (2 ^ 33 + 2 ^ 48) { demoBw with kind := 1 }).wire 0).due = some 23 := by decide
theorem test_barrierEnds : ({ demo with wires := [(0, { latch := some (2 ^ 33 + 2 ^ 48), waits := [demoBw], due := some 17 })] } : State).wire 0 =
      { latch := some (2 ^ 33 + 2 ^ 48), waits := [demoBw], due := some 17 } ∧ demoBw.id = 0 ∧ demo.my.tags = [] := by decide
set_option maxRecDepth 20000 in
/-- EVGATH's block names a barrier that is valid, without an expiry. -/
theorem test_gathBlock : (demoGath.readScratch 0 0 0 (scratchLoc 0 0 0) 128).1 = 2 ^ 33 + 2 ^ 48 ∧ (2 ^ 33 + 2 ^ 48) / 2 ^ 64 = 0 ∧ barValid (2 ^ 33 + 2 ^ 48) 1 = true := by decide
/-- A walk that only a task waits for. -/
theorem test_walkOwners : demoWalk.runs = [] ∧ demoWalk.copies = [] ∧ demoWalk.slots = [demoTk] ∧ coreDie (posCore demoWalk.by_) = 0 ∧
    (∀ x ∈ (demoWalks []).mem.walks, x.space = 0 → x.page = 7 → x = demoWalk) := by decide
/-- A call of which one of two answers is in, and one whose releaser a reset has taken, with the location's address. -/
theorem test_callPlaces : ((demoCalls 2 false).mem.calls.find? fun c => c.t == demoTk && c.id == 2).map (fun c => (c.left, c.inval, c.sealNo)) = some (2, false, 0) ∧
    ([((demoRec 5 0), 0x3000)] : List (Record × Nat)).find? (·.1 == demoRec 5 0) = some (demoRec 5 0, 0x3000) := by decide
/-- A retry of a full/empty request by a task without retries left. -/
theorem test_retries : ((demoT fun t => t.setCr 0 0).findTask demoTk).map (·.feRetry) = some 0 ∧ (demoFe .ldf).tries = 0 := by decide
/-- A load of a space without bindings is not rebound; one whose region has another first vcache is. -/
theorem test_rebound : demo.rebound { demoAcc with first := 0 } = false ∧ demoVc.rebound demoAcc = true ∧ (demoStuck []).rebound { demoAcc with va := 0x2000, first := 1 } = false ∧
    (demoVc.mem.fills.any fun f => f.set == demoInst.key 64 && f.line == 64 && f.owner != 0) = false ∧ demoAcc.pref = false := by decide
set_option maxRecDepth 20000 in
/-- A unit that its tier keeps as zeros while its home buffer is dirty, and one that has poison. -/
theorem test_tierLines : (∀ k, k < 4 → demo.tierLine (64 / 4 * 4 + k) = (0, false)) ∧ (∃ k, k < 4 ∧ (({ demo with mem := { poison := [65] } } : State).tierLine (64 / 4 * 4 + k)).2 = true) ∧
    (({ demo with mem := { bytes := [(0x2000, 7)], bufDirty := [64], tier := [(64, 0, false)] } } : State).tierLine 64).1 = 0 := by decide
/-- Banker queues with two free places, with one, and with none. -/
theorem test_tight : (demoB []).eventTight 0 = false ∧ ((demoB []).modSlot 0 fun x => { x with evq := List.replicate 15 0 }).eventTight 0 = true := by decide
/-- A deal that waits for its tasks, at its own stamp and at another; a slice that is over. -/
theorem test_aging : ((demoD { demoDeal with phase := .ready, back := [{ index := 0, core := 0, redo := true }], stamp := 5 } id .none).deal 1).map (fun d => (d.phase, d.waits, d.stamp)) = some (.ready, true, 5) ∧ demo.my.sliceEnd ≠ 5 ∧
    demo.partHalted ((demoQ.hwSlot 0).queue / 65536) = false := by decide
/-- The head of a dealer's queue that stands still for a budget, until this cycle. -/
theorem test_throttled : ((demoDealer { queue := [0] }).core 0).dealer.running = false ∧ ({ demoCopy with throttled := 17 } : Copy).throttled ≠ 0 ∧ ({ demoCopy with throttled := 17 } : Copy).throttled ≤ demo.cycle := by decide
/-- A result buffer whose page is mapped, and one that is not. -/
theorem test_buffers : demoMem.bufferFault 0 0 false true 0x2000 8 = none ∧ (demoMem.bufferFault 0 0 false true 0x7000 8).isSome = true ∧ classify 0 0x7000 = .global 0x7000 ∧
    demoPart.written = false ∧ ({ demoPart with told := true } : CollPart).told = true ∧ (demoMem.bufferWrite demoPart 4 [5]).hub.colls = demoMem.hub.colls := by
  exact ⟨by decide, by decide, by decide, by decide, by decide, rfl⟩
/-- A page request in its last page; pages to be unpinned of which none is in use. -/
theorem test_scanEnds : ({ part := 0, space := 0, va := 0x7000, n := 8, frames := [9] } : ScanReq).pages.length ≤ 0 + 1 ∧ ({ part := 0, space := 0, va := 0x7000, n := 8, frames := [9] } : ScanReq).frames.length ≤ 0 + 1 ∧
    (State.forcePages 0 [] demo).1 = [] ∧ demo.inUse 0 [(0x4000, 0x5000)] = false ∧ ({ demoPin with agenda := [{ due := 20, tie := 0, ev := .postedWriteApply, msg := .postedWriteApply (demoReq (.posted 5 none)) }] } : State).inUse 0 [(0x3000, 0x4000)] = true := by
  exact ⟨by decide, by decide, rfl, by decide, by decide⟩
/-- Steward writes: to memory of the own partition and world, to another's, and to what is executable. -/
theorem test_stewards : demoTwo.stewardPart 0 = 0 ∧ demoTwo.stewardPart 7 = 1 ∧ demoTwo.stewardWorld 3 = false ∧ (demo.framePart 0x1000) = some 0 ∧ (demo.framePart 0x1000) ≠ some 1 ∧ demo.secure 0x1000 ≠ true ∧
    demoPorts.meetsCode 0x1000 4 = true ∧ (demo.setHub 0 false (.memory 0x1000 4 7)).isSome = true ∧ (demo.setHub 0 true (.memory 0x1000 4 7)).isNone = true := by decide
/-- Link directions within a partition, between two, and to the hub; a partition in which corrected errors are reported. -/
theorem test_links : demo.linkOwner 0 = some 0 ∧ demoTwo.linkOwner 1 = none ∧ demoTwo.linkOwner 3 = some 0 ∧ demoTwo.linkOwner 19 = some 1 ∧ demo.linkOwner 20 = none ∧
    ({ corrected := [0] } : Hub).corrected = [0] := by decide
set_option maxRecDepth 20000 in
theorem test_linkFrame : ((nextOf (exec .linkFrame { demo with msg := .linkFrame 3 true })).module_.links.get {} 3).frames = 1 ∧
    (nextOf (exec .linkFrame { demo with msg := .linkFrame 3 false })).module_.haltedParts = [0] := by decide
/-- The dealer: slot 1 asks for a copy whose descriptor lies in its own window; the request is taken, read, tagged and accepted. -/
def demoAsks : State := { demoMem.setMySlot fun x => { x with mailbox := [{ word := 0x2000 }] } with msg := .dealerScan 0 }
def demoBusy (a : Accepting) (m : Msg) : State := { demoMem with msg := m }.modCore 0 fun k => { k with dealer := { busy := some a } }
def demoAcc' : Accepting := { slot := 1, t := demoTk, pc := 0, kind := 0, va := 0x2000, tag := some 3 }
theorem test_dealerNext : demoAsks.dealerNext 0 = some 1 ∧ demo.dealerNext 0 = none ∧ (demoAsks.slot 1).mailbox = [{ word := 0x2000 }] ∧ ((demoAsks.core 0).dealer.busy).isNone = true ∧
    (demoAsks.core 0).dealer.spill.length < 4096 := by decide
theorem test_dealerTakes : ((nextOf (exec .dealerAccept demoAsks)).core 0).dealer.busy.map (fun a => (a.slot, a.kind, a.va)) = some (1, 0, 0x2000) := by decide
theorem test_descRead : (match (demoBusy demoAcc' (.dealerRead 0)).descRead 0 demoAcc' {} with | .ok (some _) => true | _ => false) = true ∧
    (match (demoBusy demoAcc' (.dealerRead 0)).descRead 0 { demoAcc' with before := 9 } { pend := [{ id := 0, write := true, ranges := [(64, 65)], ackOnly := false }] } with
      | .ok none => true | _ => false) = true := ⟨rfl, rfl⟩
theorem test_dealerTag : (demoMem.setMy fun t => { t with asking := some 5 }).copyOwner 5 64 = some (demoTk, (demoMem.setMy fun t => { t with asking := some 5 }).my) ∧
    (demoMem.setMy fun t => { t with asking := some 5 }).my.tags.look 0 = none ∧
    ((demoMem.setMy fun t => { t with asking := some 0, tags := (List.range 64).map fun k => (k, 9) }).dealerTag 0 { demoAcc' with tag := none }).isNone = true := by decide
theorem test_accept : ((demoBusy demoAcc' (.dealerAccept 0)).core 0).dealer.queue.length < 32 ∧ ((demoBusy demoAcc' (.dealerAccept 0)).core 0).dealer.spill = [] ∧
    ((nextOf (exec .dealerAccept (demoBusy demoAcc' (.dealerAccept 0)))).core 0).dealer.queue = [0] := by decide
/-- A ring page that the tables map for a write, and one they do not. -/
theorem test_ringPage : (match demoQ.hubPlace 0 false true 0x40000 with | .ok _ => true | .error _ => false) = true ∧
    (match demo.hubPlace 0 false true 0x40000 with | .ok _ => true | .error _ => false) = false := ⟨by decide, by decide⟩
/-- A steward's PREEMPT of a task of its partition is on its way; one of a task of another partition is refused. -/
theorem test_commands : demoTwo.diePart (coreDie (posCore 1)) = demoTwo.stewardPart 0 ∧ demoTwo.diePart (coreDie (posCore 1)) ≠ demoTwo.stewardPart 7 ∧
    (nextOf (exec .preempt { demoTwo with msg := .issued 0 (.preempt 1) })).agenda.map (fun x => (x.due - demoTwo.cycle, x.ev)) = [(60 + 2 * (8 + 8) + 80, .preempt)] ∧
    (nextOf (exec .preempt { demoTwo with msg := .issued 7 (.preempt 1) })).agenda.map (·.ev) = [.errorRecordDelivery] := by decide

end Sys2Proof.Tests
end

section
/-! PROOF. The byte memory keeps its canonical form (O60): `Canon` says that a state has it, and each function of the model has one rule,
`Canon.<function>`, by which what it leaves or returns is canonical when what it is given is. The listed bytes change
only in `putCells`, `putScratch` and `resetCores`, by `Memory.putBytes`, `Memory.putMasked` and `List.filter`, whose laws stand with those of
the byte memory, and are none after a reset of the module; every other rule follows its function's branches and cites the rules of the
functions that it calls. -/
namespace Sys2Proof.Machine
set_option autoImplicit true

-- the predicate, and how it passes conditionals, pairs and folds

/-- The byte memory of a state is in its canonical form. -/
def Canon (s : State) : Prop := s.mem.bytes.wf = true

/-- A change that leaves the listed bytes alone keeps the canonical form. -/
theorem Canon.congr (h : Canon s) (e : t.mem.bytes = s.mem.bytes) : Canon t := by
  unfold Canon; rw [e]; exact h

theorem Canon.ite {c : Prop} [Decidable c] (ha : Canon a) (hb : Canon b) : Canon (if c then a else b) := by
  split <;> assumption

theorem Canon.ite_snd {c : Prop} [Decidable c] {a b : α × State} (ha : Canon a.2) (hb : Canon b.2) : Canon (if c then a else b).2 := by
  split <;> assumption

theorem Canon.fst {p : State × α} (h : Canon p.1) (e : p = (t, a)) : Canon t := by
  subst e; exact h

theorem Canon.snd {p : α × State} (h : Canon p.2) (e : p = (a, t)) : Canon t := by
  subst e; exact h

theorem Canon.snd₂ {p : α × β × State} (h : Canon p.2.2) (e : p = (a, b, t)) : Canon t := by
  subst e; exact h

theorem Canon.snd₃ {p : α × β × γ × State} (h : Canon p.2.2.2) (e : p = (a, b, c, t)) : Canon t := by
  subst e; exact h

theorem Canon.of_snd {p : α × State} (e : p = (a, t)) (h : Canon p.2) : Canon t := h.snd e

theorem Canon.of_snd₂ {p : α × β × State} (e : p = (a, b, t)) (h : Canon p.2.2) : Canon t := h.snd₂ e

theorem Canon.foldl {l : List α} {f : State → α → State} (h : Canon s) (hf : ∀ s x, Canon s → Canon (f s x)) :
    Canon (l.foldl f s) :=
  l.foldlRecOn f h fun s h x _ => hf s x h

theorem Canon.foldl_snd {f : β × State → α → β × State} {l : List α} {p : β × State} (h : Canon p.2)
    (hf : ∀ p x, Canon p.2 → Canon (f p x).2) : Canon (l.foldl f p).2 :=
  l.foldlRecOn (motive := fun p : β × State => Canon p.2) f h fun p h x _ => hf p x h

theorem Canon.foldl_fst {f : State × β → α → State × β} {l : List α} {p : State × β} (e : l.foldl f p = (t, b)) (h : Canon p.1)
    (hf : ∀ p x, Canon p.1 → Canon (f p x).1) : Canon t :=
  .fst (l.foldlRecOn (motive := fun p : State × β => Canon p.1) f h fun p h x _ => hf p x h) e

theorem Canon.foldl₃ {f : γ × β × State → α → γ × β × State} {l : List α} {p : γ × β × State} (h : Canon p.2.2)
    (hf : ∀ p x, Canon p.2.2 → Canon (f p x).2.2) : Canon (l.foldl f p).2.2 :=
  l.foldlRecOn (motive := fun p : γ × β × State => Canon p.2.2) f h fun p h x _ => hf p x h

theorem Canon.foldl₄ {f : δ × γ × β × State → α → δ × γ × β × State} {l : List α} {p : δ × γ × β × State} (h : Canon p.2.2.2)
    (hf : ∀ p x, Canon p.2.2.2 → Canon (f p x).2.2.2) : Canon (l.foldl f p).2.2.2 :=
  l.foldlRecOn (motive := fun p : δ × γ × β × State => Canon p.2.2.2) f h fun p h x _ => hf p x h

/-- A stage of a continuation that a condition skips. -/
theorem Canon.gate {c : Prop} [Decidable c] {g : (State → State) → State} (h : Canon s)
    (hg : (∀ s, Canon s → Canon (k s)) → Canon (g k)) (hk : ∀ s, Canon s → Canon (k s)) :
    Canon ((if c then g else fun k => k s) k) := by
  split
  · exact hg hk
  · exact hk s h

-- the same of each kind of result that holds a state, and what a match on such a result gives

/-- An optional state, if there is one. -/
def OptCanon : Option State → Prop
  | some s => Canon s
  | none => True

/-- The next state of an outcome, if there is one. -/
def OutCanon : Host.Outcome State Fault Refusal → Prop
  | .next s => Canon s
  | _ => True

/-- The state a port's pop leaves, if it has a word. -/
def Popped.Canon : Popped → Prop
  | .word _ s => Machine.Canon s
  | _ => True

/-- The state a fetch of sources leaves, whether it gives them or stops. -/
def Fetched.Canon : Fetched → Prop
  | .ok _ s | .stop s => Machine.Canon s

/-- The state a fetch of one source leaves. -/
def Fetched1.Canon : Fetched1 → Prop
  | .ok _ _ _ s | .stop s => Machine.Canon s

/-- The state an instruction fetch leaves. -/
def FetchRes.Canon : FetchRes → Prop
  | .word _ s | .stop s => Machine.Canon s

/-- The state the resolution of an address leaves. -/
def Resolved.Canon : Resolved → Prop
  | .ok _ s | .stop s => Machine.Canon s

/-- The state in which a span's pages are all there, or the one in which the first is not. -/
def Reach.Canon : Reach → Prop
  | .ok s | .walk _ _ s | .refill _ _ _ _ s | .fault _ _ _ _ s => Machine.Canon s

/-- The state in which an operand's pages are held, or the one in which one is not. -/
def Grasp.Canon : Grasp → Prop
  | .ok s | .later s | .fault s => Machine.Canon s

/-- The state a unit of a tile instruction leaves. -/
def UnitRes.Canon : UnitRes → Prop
  | .ok _ s | .poison s | .malformed s => Machine.Canon s

/-- A state beside a value, if there is one. -/
def Opt₂Canon : Option (α × State) → Prop
  | some (_, s) => Canon s
  | none => True

/-- A state beside two values, if there is one. -/
def Opt₃Canon : Option (α × β × State) → Prop
  | some (_, _, s) => Canon s
  | none => True

/-- The state beside the places of an access, or the one that an error leaves. -/
def PlacesCanon : Except State (α × State) → Prop
  | .ok (_, s) | .error s => Canon s

/-- The state beside what an engine reads, if nothing faults. -/
def ReadCanon : Except ε (α × State) → Prop
  | .ok (_, s) => Canon s
  | .error _ => True

/-- The state beside a descriptor, if it is read in this cycle. -/
def DescCanon : Except ε (Option (α × State)) → Prop
  | .ok (some (_, s)) => Canon s
  | _ => True

theorem OptCanon.some (h : OptCanon r) (e : r = some s) : Machine.Canon s := by subst e; exact h
theorem OutCanon.next (h : OutCanon r) (e : r = .next s) : Machine.Canon s := by subst e; exact h
theorem Popped.Canon.word (h : Popped.Canon r) (e : r = .word w s) : Machine.Canon s := by subst e; exact h
theorem Fetched.Canon.ok (h : Fetched.Canon r) (e : r = .ok v s) : Machine.Canon s := by subst e; exact h
theorem Fetched.Canon.stop (h : Fetched.Canon r) (e : r = .stop s) : Machine.Canon s := by subst e; exact h
theorem Fetched1.Canon.ok (h : Fetched1.Canon r) (e : r = .ok v o g s) : Machine.Canon s := by subst e; exact h
theorem Fetched1.Canon.stop (h : Fetched1.Canon r) (e : r = .stop s) : Machine.Canon s := by subst e; exact h
theorem FetchRes.Canon.word (h : FetchRes.Canon r) (e : r = .word w s) : Machine.Canon s := by subst e; exact h
theorem FetchRes.Canon.stop (h : FetchRes.Canon r) (e : r = .stop s) : Machine.Canon s := by subst e; exact h
theorem Resolved.Canon.ok (h : Resolved.Canon r) (e : r = .ok p s) : Machine.Canon s := by subst e; exact h
theorem Resolved.Canon.stop (h : Resolved.Canon r) (e : r = .stop s) : Machine.Canon s := by subst e; exact h
theorem Reach.Canon.ok (h : Reach.Canon r) (e : r = .ok s) : Machine.Canon s := by subst e; exact h
theorem Reach.Canon.walk (h : Reach.Canon r) (e : r = .walk v a s) : Machine.Canon s := by subst e; exact h
theorem Reach.Canon.refill (h : Reach.Canon r) (e : r = .refill c p v a s) : Machine.Canon s := by subst e; exact h
theorem Reach.Canon.fault (h : Reach.Canon r) (e : r = .fault c b v a s) : Machine.Canon s := by subst e; exact h
theorem Grasp.Canon.ok (h : Grasp.Canon r) (e : r = .ok s) : Machine.Canon s := by subst e; exact h
theorem Grasp.Canon.later (h : Grasp.Canon r) (e : r = .later s) : Machine.Canon s := by subst e; exact h
theorem Grasp.Canon.fault (h : Grasp.Canon r) (e : r = .fault s) : Machine.Canon s := by subst e; exact h
theorem UnitRes.Canon.ok (h : UnitRes.Canon r) (e : r = .ok v s) : Machine.Canon s := by subst e; exact h
theorem UnitRes.Canon.poison (h : UnitRes.Canon r) (e : r = .poison s) : Machine.Canon s := by subst e; exact h
theorem UnitRes.Canon.malformed (h : UnitRes.Canon r) (e : r = .malformed s) : Machine.Canon s := by subst e; exact h
theorem Opt₂Canon.some (h : Opt₂Canon r) (e : r = some (a, s)) : Machine.Canon s := by subst e; exact h
theorem Opt₃Canon.some (h : Opt₃Canon r) (e : r = some (a, b, s)) : Machine.Canon s := by subst e; exact h
theorem PlacesCanon.ok (h : PlacesCanon r) (e : r = .ok (a, s)) : Machine.Canon s := by subst e; exact h
theorem PlacesCanon.error (h : PlacesCanon r) (e : r = .error s) : Machine.Canon s := by subst e; exact h
theorem ReadCanon.ok (h : ReadCanon r) (e : r = .ok (a, s)) : Machine.Canon s := by subst e; exact h
theorem DescCanon.ok (h : DescCanon r) (e : r = .ok (some (a, s))) : Machine.Canon s := by subst e; exact h

theorem UnitRes.Canon.ite {c : Prop} [Decidable c] (ha : UnitRes.Canon a) (hb : UnitRes.Canon b) :
    UnitRes.Canon (if c then a else b) := by
  split <;> assumption

theorem OptCanon.getD (h : OptCanon o) (hs : Canon s) : Canon (o.getD s) := by
  cases o with
  | some t => exact h
  | none => exact hs

theorem OptCanon.map {f : State → State} (h : OptCanon o) (hf : ∀ s, Canon s → Canon (f s)) : OptCanon (o.map f) := by
  cases o with
  | some t => exact hf t h
  | none => exact trivial

theorem OptCanon.map_of {o : Option α} {f : α → State} (hf : ∀ a, Canon (f a)) : OptCanon (o.map f) := by
  cases o with
  | some t => exact hf t
  | none => exact trivial

theorem OptCanon.filter (h : OptCanon o) : OptCanon (o.filter p) := by
  cases o with
  | some t =>
    rw [Option.filter_some]
    split
    · exact h
    · exact trivial
  | none => exact trivial


-- Sys2Proof/Machine/State.lean

/-- Memory after reset is empty. -/
theorem Canon.reset : Canon State.reset := rfl


-- Sys2Proof/Machine/Ops.lean

theorem Canon.setSlot (h : Canon s) : Canon (s.setSlot p x) := h.congr rfl

theorem Canon.modSlot (h : Canon s) : Canon (s.modSlot p f) := h.setSlot

theorem Canon.modTask (h : Canon s) : Canon (s.modTask p f) := h.modSlot

theorem Canon.modCore (h : Canon s) : Canon (s.modCore c f) := h.congr rfl

theorem Canon.mapCores (h : Canon s) : Canon (s.mapCores f) := h.congr rfl

theorem Canon.modSpace (h : Canon s) : Canon (s.modSpace i f) := h.congr rfl

/-- A change of the memory side that leaves the listed bytes alone. -/
theorem Canon.modMem (h : Canon s) (e : (f s.mem).bytes = s.mem.bytes) : Canon (s.modMem f) := h.congr e

/-- A change of the listed bytes that keeps their form. -/
theorem Canon.modMem_wf (h : Canon s) (hf : ∀ m : Mem, m.bytes.wf = true → (f m).bytes.wf = true) : Canon (s.modMem f) := hf _ h

theorem Canon.setMy (h : Canon s) : Canon (s.setMy f) := h.modTask

theorem Canon.setMySlot (h : Canon s) : Canon (s.setMySlot f) := h.modSlot

theorem Canon.onTask (h : Canon s) : Canon (s.onTask t f) := .ite h.modTask (h.congr rfl)

theorem Canon.laneTo (h : Canon s) : Canon (s.laneTo a b d).2 := .ite_snd h (h.modMem rfl)

theorem Canon.post (h : Canon s) : Canon (s.post d t e m) := h.congr rfl

theorem Canon.postAt (h : Canon s) : Canon (s.postAt d p e m) := h.post

theorem Canon.postHub (h : Canon s) : Canon (s.postHub d e m) := h.post

theorem Canon.asOf (h : Canon s) (hf : ∀ s, Canon s → Canon (f s)) : Canon (s.asOf c f) := hf _ h

theorem Canon.fresh (h : Canon s) : Canon s.fresh.2 := h.congr rfl

theorem Canon.freeVal (h : Canon s) : Canon s.freeVal.2 := h.congr rfl

theorem Canon.countEv (h : Canon s) : Canon (s.countEv p c n) := .ite h h.modTask

theorem Canon.tally (h : Canon s) : Canon (s.tally k u n) := h.congr rfl

theorem Canon.park (h : Canon s) : Canon (s.park p w) := h.modSlot

theorem Canon.unpark (h : Canon s) : Canon (s.unpark p) := .ite h.modSlot.countEv h

theorem Canon.wake (h : Canon s) : Canon (s.wake p w) := .ite h.unpark h

theorem Canon.wakeTk (h : Canon s) : Canon (s.wakeTk t w) := .ite h.wake (h.congr rfl)

theorem Canon.countSent (h : Canon s) : Canon (s.countSent c) := h.modCore

theorem Canon.countRecv (h : Canon s) : Canon (s.countRecv c) := h.modCore

theorem Canon.idleTurn (h : Canon s) : Canon (s.idleTurn c) := by
  unfold State.idleTurn
  split
  · exact .ite h h.modCore
  · exact .ite h.modCore h.modCore.post

theorem Canon.waitTurn (h : Canon s) : Canon s.waitTurn := h.idleTurn

theorem Canon.sendRecord (h : Canon s) : Canon (s.sendRecord c r) := h.postAt

theorem Canon.supFault (h : Canon s) : Canon (s.supFault p c a b d e f) := h.modSlot.park.sendRecord

theorem Canon.noIssue (h : Canon s) : Canon (s.noIssue c a b d) := h.supFault.waitTurn

theorem Canon.behalfFault (h : Canon s) : Canon (s.behalfFault t p c a b d e w) := h.sendRecord

theorem Canon.refuseSteward (h : Canon s) : Canon (s.refuseSteward p a) := h.postHub

theorem Canon.command (h : Canon s) : Canon (s.command k e m) := by
  unfold State.command
  split
  · exact h
  · exact .ite h (.ite h.refuseSteward h.postHub)

theorem Canon.errorEvent (h : Canon s) : Canon (s.errorEvent c e) := h.postHub

theorem Canon.taskError (h : Canon s) : Canon (s.taskError c t e) := h.errorEvent

theorem Canon.trapEntry (h : Canon s) : Canon (s.trapEntry p t a) := .ite h.supFault (.ite h.supFault h.modSlot)

theorem Canon.takeTraps (h : Canon s) : Canon (s.takeTraps p) := by
  unfold State.takeTraps
  extract_lets
  split
  · split
    · split
      · exact .ite h h.modTask.trapEntry
      · exact h
    · exact .ite h h.modTask.trapEntry
  · exact h

theorem Canon.trapAt (h : Canon s) : Canon (s.trapAt t) := .ite h.waitTurn (.ite h.trapEntry h.setMy.takeTraps)

theorem Canon.trapAfter (h : Canon s) : Canon (s.trapAfter p a t) := h.fresh.modTask.takeTraps

theorem Canon.trapUnissued (h : Canon s) : Canon (s.trapUnissued t) := .ite h.trapAt.waitTurn h.waitTurn

theorem Canon.formatFault (h : Canon s) : Canon (s.formatFault a) := h.trapAt

theorem Canon.formatFaultAt (h : Canon s) : Canon (s.formatFaultAt a b) := h.trapAt

theorem Canon.goTo (h : Canon s) : Canon (s.goTo p) := h.setMy.countEv

theorem Canon.advance (h : Canon s) : Canon s.advance := h.goTo

theorem Canon.asPos (h : Canon s) (hf : ∀ s, Canon s → Canon (f s)) : Canon (s.asPos p f) := hf _ h

theorem Canon.wakePast (h : Canon s) : Canon (s.wakePast p w) := .ite (.unpark (h.asPos fun _ h₁ => h₁.advance)) h

theorem Canon.trapReturn (h : Canon s) : Canon s.trapReturn := .ite (h.congr rfl) h.setMy.setMy.setMy

theorem Canon.charge (h : Canon s) : Canon (s.charge p c k n) := h.congr rfl

theorem Canon.budgeted (h : Canon s) : OptCanon (s.budgeted d t k n) := by
  unfold State.budgeted
  split
  · exact h
  · extract_lets
    split
    · exact trivial
    · exact h.foldl fun _ _ h₁ => h₁.charge


-- Sys2Proof/Machine/Operands.lean

theorem Canon.setEndpoint (h : Canon s) : Canon (s.setEndpoint p n f) := h.modSlot

theorem Canon.channelPush (h : Canon s) : Canon (s.channelPush p n w) := by
  unfold State.channelPush
  split
  · exact h
  · exact .ite h.setEndpoint (.post (.ite h.setEndpoint h.setEndpoint.countSent))

theorem Canon.putEvent (h : Canon s) : Canon (s.putEvent p f w) := h.modSlot.wake.wakePast

theorem Canon.wakeCore (h : Canon s) : Canon (s.wakeCore c w) := h.foldl fun _ _ h₁ => h₁.wake

theorem Canon.pushQ7 (h : Canon s) : OptCanon (s.pushQ7 p w) := by
  unfold State.pushQ7
  extract_lets
  split
  · split
    · split
      · exact h
      · split
        · exact trivial
        · exact h.putEvent
    · split
      · exact trivial
      · exact h.modCore.post
  · split
    · exact trivial
    · exact h.putEvent

theorem Canon.kickPartner (h : Canon s) : Canon (s.kickPartner c) := .ite h h.modCore.post

theorem Canon.enterCommand (h : Canon s) : Canon (s.enterCommand p w a c b) := h.fresh.modSlot.kickPartner

theorem Canon.kickDealer (h : Canon s) : Canon (s.kickDealer c) := h.postAt

theorem Canon.recordEnded (h : Canon s) : Canon (s.recordEnded c r) := h.postAt

theorem Canon.popArrival (h : Canon s) : Popped.Canon (s.popArrival p) := by
  unfold State.popArrival
  extract_lets
  split
  · exact trivial
  · extract_lets
    split
    · exact h.modCore.modSlot.postAt.recordEnded
    · exact h.modCore.modSlot

theorem Canon.popPort (h : Canon s) : Popped.Canon (s.popPort p n) := by
  unfold State.popPort
  extract_lets
  split
  · split
    · exact trivial
    · extract_lets
      split
      · exact h.setEndpoint.wake
      · exact h.setEndpoint
  · split
    · split
      · exact trivial
      · exact h.modSlot
    · split
      · split
        · exact trivial
        · exact h.modSlot.kickDealer
      · split
        · split
          · exact h.popArrival
          · exact trivial
        · split
          · exact trivial
          · exact .ite h.modSlot.wakeCore h.modSlot.wake

theorem Canon.pushPort (h : Canon s) : OptCanon (s.pushPort p n w) := by
  unfold State.pushPort
  extract_lets
  split
  · split
    · exact trivial
    · exact h.channelPush
  · split
    · split
      · exact h.enterCommand
      · exact trivial
    · split
      · split
        · exact trivial
        · exact h.modSlot.kickDealer
      · split
        · exact h
        · exact h.pushQ7

theorem Canon.fetchOne (h : Canon s) : Fetched1.Canon (Machine.fetchOne r o g s) := by
  unfold Machine.fetchOne
  split
  · split
    · exact h.post
    · exact h
  · split
    · exact h
    · split
      · exact h
      · split
        · rename_i e₁
          exact (h.popPort.word e₁).setMy
        · exact h.park
        · exact h.noIssue

theorem Fetched.Canon.cons (h : Fetched.Canon x) : Fetched.Canon (Machine.Fetched.cons v x) := by
  cases x with
  | ok vs s => exact h
  | stop s => exact h

theorem Canon.fetchFrom (h : Canon s) : Fetched.Canon (Machine.fetchFrom r o g s) := by
  induction r generalizing o g s with
  | nil => exact h
  | cons r rs ih =>
    unfold Machine.fetchFrom
    split
    · rename_i e
      exact (ih (h.fetchOne.ok e)).cons
    · rename_i e
      exact h.fetchOne.stop e

theorem Canon.fetchSrcs (h : Canon s) : Fetched.Canon (Machine.fetchSrcs r s) := h.fetchFrom

theorem Canon.withSrcs (h : Canon s) (hf : ∀ x s, Canon s → Canon (f x s)) : Canon (Machine.withSrcs r s f) := by
  unfold Machine.withSrcs
  split
  · rename_i e₁
    exact hf _ _ (h.fetchSrcs.ok e₁)
  · rename_i e₂
    exact h.fetchSrcs.stop e₂

theorem Canon.with1 (h : Canon s) (hf : ∀ x s, Canon s → Canon (f x s)) : Canon (Machine.with1 a s f) := h.withSrcs fun _ _ h₁ => hf _ _ h₁

theorem Canon.with2 (h : Canon s) (hf : ∀ x a s, Canon s → Canon (f x a s)) : Canon (Machine.with2 a b s f) :=
  h.withSrcs fun _ _ h₁ => hf _ _ _ h₁

theorem Canon.with3 (h : Canon s) (hf : ∀ x a b s, Canon s → Canon (f x a b s)) : Canon (Machine.with3 a b d s f) :=
  h.withSrcs fun _ _ h₁ => hf _ _ _ _ h₁

theorem Canon.writeDest (h : Canon s) : OptCanon (s.writeDest p d a v) := by
  unfold State.writeDest
  split
  · exact h.modTask
  · split
    · exact h.modCore
    · exact h.pushPort

theorem Canon.finishShort (h : Canon s) : Canon (Machine.finishShort d v s) := by
  unfold Machine.finishShort
  split
  · rename_i e₁
    exact (h.writeDest.some e₁).advance
  · exact h.park


-- Sys2Proof/Machine/Flags.lean

theorem Canon.noteAt (h : Canon s) : Canon (s.noteAt p e) := .ite h h.modTask

theorem Canon.noteTk (h : Canon s) : Canon (s.noteTk t e) := .ite h.noteAt h.onTask

theorem Canon.finishFloat (h : Canon s) : Canon (Machine.finishFloat d v e s) := by
  unfold Machine.finishFloat
  extract_lets
  split
  · exact h.park
  · rename_i s₁ e₁
    have h₁ : Canon s₁ := h.writeDest.some e₁
    exact .ite h₁.noteAt.advance h₁.noteAt.advance.trapAfter

theorem Canon.startLong (h : Canon s) : Canon (s.startLong o) := h.advance.setMy

theorem Canon.issueLong (h : Canon s) : Canon (Machine.issueLong d l a v e s) := h.fresh.startLong.postAt

theorem Canon.boundary (h : Canon s) : Canon (s.boundary p) := .ite h.post h

theorem Canon.finishLong (h : Canon s) : Canon (s.finishLong p i) := by
  unfold State.finishLong
  split
  · exact h
  · extract_lets +onlyGivenNames written
    have hw : OptCanon written := by
      dsimp only [written]
      split
      · exact h.writeDest
      · exact h
    clear_value written
    split
    · exact h.postAt
    · exact (Canon.noteAt hw).modTask.boundary

theorem Canon.execDeferredFaultTaken (h : Canon s) : OutCanon (Machine.execDeferredFaultTaken s) := by
  unfold Machine.execDeferredFaultTaken
  split
  · exact h.takeTraps
  · exact h.setMy.takeTraps.waitTurn


-- Sys2Proof/Machine/Scalar.lean

theorem Canon.alu2 (h : Canon s) : OutCanon (Machine.alu2 f d a b s) := h.with2 fun _ _ _ h₁ => h₁.finishShort

theorem Canon.alu1 (h : Canon s) : OutCanon (Machine.alu1 f d a s) := h.with1 fun _ _ h₁ => h₁.finishShort

theorem Canon.alu3 (h : Canon s) : OutCanon (Machine.alu3 f d a b s) := h.with3 fun _ _ _ _ h₁ => h₁.finishShort

theorem Canon.execAdd (h : Canon s) : OutCanon (Machine.execAdd d a b s) := h.alu2

theorem Canon.execSub (h : Canon s) : OutCanon (Machine.execSub d a b s) := h.alu2

theorem Canon.execAnd (h : Canon s) : OutCanon (Machine.execAnd d a b s) := h.alu2

theorem Canon.execOr (h : Canon s) : OutCanon (Machine.execOr d a b s) := h.alu2

theorem Canon.execXor (h : Canon s) : OutCanon (Machine.execXor d a b s) := h.alu2

theorem Canon.execAndn (h : Canon s) : OutCanon (Machine.execAndn d a b s) := h.alu2

theorem Canon.execSll (h : Canon s) : OutCanon (Machine.execSll d a b s) := h.alu2

theorem Canon.execSrl (h : Canon s) : OutCanon (Machine.execSrl d a b s) := h.alu2

theorem Canon.execSra (h : Canon s) : OutCanon (Machine.execSra d a b s) := h.alu2

theorem Canon.execMin (h : Canon s) : OutCanon (Machine.execMin d a b s) := h.alu2

theorem Canon.execMax (h : Canon s) : OutCanon (Machine.execMax d a b s) := h.alu2

theorem Canon.execMinu (h : Canon s) : OutCanon (Machine.execMinu d a b s) := h.alu2

theorem Canon.execMaxu (h : Canon s) : OutCanon (Machine.execMaxu d a b s) := h.alu2

theorem Canon.execSlt (h : Canon s) : OutCanon (Machine.execSlt d a b s) := h.alu2

theorem Canon.execSltu (h : Canon s) : OutCanon (Machine.execSltu d a b s) := h.alu2

theorem Canon.execCmov (h : Canon s) : OutCanon (Machine.execCmov d a b s) := h.with2 fun _ _ _ h₁ => .ite h₁.advance h₁.finishShort

theorem Canon.execClz (h : Canon s) : OutCanon (Machine.execClz d a s) := h.alu1

theorem Canon.execCtz (h : Canon s) : OutCanon (Machine.execCtz d a s) := h.alu1

theorem Canon.execPopc (h : Canon s) : OutCanon (Machine.execPopc d a s) := h.alu1

theorem Canon.execBswap (h : Canon s) : OutCanon (Machine.execBswap d a s) := h.alu1

theorem Canon.execSextB (h : Canon s) : OutCanon (Machine.execSextB d a s) := h.alu1

theorem Canon.execSextH (h : Canon s) : OutCanon (Machine.execSextH d a s) := h.alu1

theorem Canon.execSextW (h : Canon s) : OutCanon (Machine.execSextW d a s) := h.alu1

theorem Canon.execZextB (h : Canon s) : OutCanon (Machine.execZextB d a s) := h.alu1

theorem Canon.execZextH (h : Canon s) : OutCanon (Machine.execZextH d a s) := h.alu1

theorem Canon.execZextW (h : Canon s) : OutCanon (Machine.execZextW d a s) := h.alu1

theorem Canon.execAddi (h : Canon s) : OutCanon (Machine.execAddi d a i s) := h.alu1

theorem Canon.execAndi (h : Canon s) : OutCanon (Machine.execAndi d a i s) := h.alu1

theorem Canon.execOri (h : Canon s) : OutCanon (Machine.execOri d a i s) := h.alu1

theorem Canon.execXori (h : Canon s) : OutCanon (Machine.execXori d a i s) := h.alu1

theorem Canon.execSlti (h : Canon s) : OutCanon (Machine.execSlti d a i s) := h.alu1

theorem Canon.execSltiu (h : Canon s) : OutCanon (Machine.execSltiu d a i s) := h.alu1

theorem Canon.execSlli (h : Canon s) : OutCanon (Machine.execSlli d a n s) := h.alu1

theorem Canon.execSrli (h : Canon s) : OutCanon (Machine.execSrli d a n s) := h.alu1

theorem Canon.execSrai (h : Canon s) : OutCanon (Machine.execSrai d a n s) := h.alu1

theorem Canon.execLui (h : Canon s) : OutCanon (Machine.execLui d i s) := h.finishShort

theorem Canon.execAddpc (h : Canon s) : OutCanon (Machine.execAddpc d i s) := h.finishShort

theorem Canon.execBfx (h : Canon s) : OutCanon (Machine.execBfx d a p l s) := h.alu1

theorem Canon.execBfi (h : Canon s) : OutCanon (Machine.execBfi d a p l s) := h.with2 fun _ _ _ h₁ => h₁.finishShort

theorem Canon.execAddx (h : Canon s) : OutCanon (Machine.execAddx d a k b s) := h.alu2

theorem Canon.execMul (h : Canon s) : OutCanon (Machine.execMul d a b s) := h.alu2

theorem Canon.execMulh (h : Canon s) : OutCanon (Machine.execMulh d a b s) := h.alu2

theorem Canon.execMulhu (h : Canon s) : OutCanon (Machine.execMulhu d a b s) := h.alu2

theorem Canon.execMadd (h : Canon s) : OutCanon (Machine.execMadd d a b s) := h.alu3

theorem Canon.longDiv (h : Canon s) : OutCanon (Machine.longDiv f d a b l s) := h.with2 fun _ _ _ h₁ => h₁.issueLong

theorem Canon.execDiv (h : Canon s) : OutCanon (Machine.execDiv d a b n s) := h.longDiv

theorem Canon.execDivu (h : Canon s) : OutCanon (Machine.execDivu d a b n s) := h.longDiv

theorem Canon.execRem (h : Canon s) : OutCanon (Machine.execRem d a b n s) := h.longDiv

theorem Canon.execRemu (h : Canon s) : OutCanon (Machine.execRemu d a b n s) := h.longDiv


-- Sys2Proof/Machine/Blocking.lean

theorem Canon.finishBlocking (h : Canon s) : OptCanon (s.finishBlocking p f) := by
  unfold State.finishBlocking
  split
  · exact h.unpark.modTask.takeTraps
  · extract_lets +onlyGivenNames s₁
    have h₁ : OptCanon s₁ := by
      dsimp only [s₁]
      split
      · exact h.writeDest
      · exact h
    clear_value s₁
    refine OptCanon.map h₁ fun _ h₂ => ?_
    extract_lets +onlyGivenNames _ s₃
    have h₃ : Canon s₃ := .unpark (h₂.asPos fun _ h₄ => h₄.advance)
    split
    · exact h₃.trapAfter
    · exact h₃

theorem Canon.block (h : Canon s) : Canon (s.block d f) := h.fresh.park.postAt

theorem Canon.blockOpen (h : Canon s) : Canon s.blockOpen.2 := h.fresh.park

theorem Canon.finishSaved (h : Canon s) : Canon (s.finishSaved w f) := h.fresh.congr rfl

theorem Canon.completeWait (h : Canon s) : Canon (s.completeWait t i w f) := by
  unfold State.completeWait
  split
  · split
    · rename_i e₁
      exact h.finishBlocking.some e₁
    · exact h.postAt
  · exact h.finishSaved


-- Sys2Proof/Machine/Home.lean

theorem Canon.bufTouch (h : Canon s) : Canon (s.bufTouch l) := (h.modMem rfl).foldl fun _ _ h₁ => .ite h₁ (.post (h₁.modMem rfl))

theorem Canon.fetchErr (h : Canon s) : Canon (s.fetchErr l) := .ite h (h.errorEvent.modMem rfl)

theorem Canon.homeRead (h : Canon s) : Canon (s.homeRead l).2 := .ite_snd h.bufTouch (h.fetchErr.bufTouch.modMem rfl).post

theorem Canon.bufWrite (h : Canon s) : Canon (s.bufWrite l w) := by
  unfold State.bufWrite
  extract_lets s₁
  have h₁ : Canon s₁ := .ite h.bufTouch h.homeRead
  exact .ite h₁ (h₁.modMem rfl)

theorem Canon.nextTag (h : Canon s) : Canon (s.nextTag l) := h.modMem rfl

theorem Canon.logLost (h : Canon s) : Canon (s.logLost l) := .ite h (h.congr rfl)

theorem Canon.keepTier (h : Canon s) : Canon (s.keepTier l) := .ite h (h.modMem rfl)

theorem Canon.putCells (h : Canon s) (hf : ∀ m : Memory, m.wf = true → (f m).wf = true) : Canon (s.putCells l n f) :=
  .ite h.logLost (.modMem_wf (h.foldl fun _ _ h₁ => h₁.keepTier) fun _ => hf _)

theorem Canon.putBytesAt (h : Canon s) : Canon (s.putBytesAt l n v) := h.putCells fun _ => Memory.putBytes_wf _ _

theorem Canon.setPoison (h : Canon s) : Canon (s.setPoison l b) := .ite h (h.modMem rfl)

theorem Canon.notify (h : Canon s) : Canon (s.notify l) := h.foldl fun _ _ h₁ => h₁.foldl fun _ _ h₂ => .ite h₂.postHub h₂

theorem Canon.wakeMonitors (h : Canon s) : Canon (s.wakeMonitors l a) := h.notify.foldl fun _ _ h₁ => h₁.post

theorem Canon.mergeHome (h : Canon s) : Canon (s.mergeHome l m d p) := by
  unfold State.mergeHome
  extract_lets _ s₁
  have h₁ : Canon s₁ := h.putCells fun _ => Memory.putMasked_wf _ _
  exact .ite h (.wakeMonitors (.bufWrite (.ite h₁.setPoison (.ite h₁.setPoison h₁))))


-- Sys2Proof/Machine/Chain.lean

theorem Canon.setVset (h : Canon s) : Canon (s.setVset i l a) := h.modMem rfl

theorem Canon.putVline (h : Canon s) : Canon (s.putVline i x) := h.setVset

theorem Canon.modVline (h : Canon s) : Canon (s.modVline i l f) := h.setVset

theorem Canon.staleFills (h : Canon s) : Canon (s.staleFills p) := h.modMem rfl

theorem Canon.chargeHome (h : Canon s) : Canon (s.chargeHome c l n) := by
  unfold State.chargeHome
  refine .ite h ?_
  split
  · exact h.foldl fun _ _ h₁ => h₁.charge
  · exact h

theorem Canon.untrack (h : Canon s) : Canon (s.untrack i l) := by
  unfold State.untrack
  extract_lets _ s₁
  have h₁ : Canon s₁ := .ite h (h.modMem rfl)
  exact .ite h₁ (h₁.modMem rfl)

theorem Canon.lineGone (h : Canon s) : Canon (s.lineGone i l) := h.staleFills.untrack

theorem Canon.dropVline (h : Canon s) : Canon (s.dropVline i l) := h.setVset.lineGone

theorem Canon.track (h : Canon s) : Canon (s.track i l) := by
  unfold State.track
  extract_lets _ _ _ _ _ s₁
  have h₁ : Canon s₁ := .foldl (.modMem (.ite h (h.modMem rfl)) rfl) fun _ _ h₂ => h₂.tally.post
  exact .ite h₁ ((h₁.modMem rfl).foldl fun _ _ h₃ => h₃.post)

theorem Canon.orphan (h : Canon s) : Canon (s.orphan i x) := .ite h.errorEvent h

theorem Canon.sendBack (h : Canon s) : Canon (s.sendBack i u x) := by
  unfold State.sendBack
  extract_lets
  split
  · exact h.post
  · exact h.chargeHome.post

theorem Canon.makeRoom (h : Canon s) : Canon (s.makeRoom i u l) := by
  unfold State.makeRoom
  extract_lets
  refine .ite h ?_
  split
  · exact h
  · exact .dropVline (.ite h.orphan.sendBack h)

theorem Canon.writeBack (h : Canon s) : Canon (Machine.writeBack c x s) := by
  induction c with
  | nil => exact h.mergeHome
  | cons i up ih =>
    unfold Machine.writeBack
    refine .ite ih ?_
    split
    · exact h.putVline
    · exact h.makeRoom.putVline.track

theorem Canon.backArrives (h : Canon s) : Canon (s.backArrives m) := by
  unfold State.backArrives
  split
  · exact h.writeBack
  · exact h

theorem Canon.flushBacks (h : Canon s) : Canon (s.flushBacks p) := .ite h (.foldl (h.congr rfl) fun _ _ h₁ => h₁.backArrives)

theorem Canon.flushLine (h : Canon s) : Canon (s.flushLine l) := h.flushBacks

theorem Canon.flushSpace (h : Canon s) : Canon (s.flushSpace a) := h.flushBacks

theorem Canon.allocate (h : Canon s) : Canon (s.allocate i u l t w) := by
  unfold State.allocate
  split
  · exact h
  · exact h.makeRoom.putVline.track

theorem Canon.storeLine (h : Canon s) : Canon (Machine.storeLine c l m d t w s) := by
  induction c with
  | nil => exact h.chargeHome.mergeHome
  | cons i up ih =>
    unfold Machine.storeLine
    refine .ite ih ?_
    extract_lets _
    split
    · exact h.allocate
    · exact h.allocate.putVline

theorem Canon.fillLine (h : Canon s) : Canon (s.fillLine i u l t w d p) := by
  unfold State.fillLine
  extract_lets
  split
  · exact h.allocate
  · exact h.allocate.putVline

theorem Canon.fillRegion (h : Canon s) : Canon (s.fillRegion i l t w) := .ite h (h.foldl fun _ _ h₁ => .ite h₁ h₁.fillLine.homeRead)

theorem Canon.meetErr (h : Canon s) : Canon (s.meetErr i u y c a) := .ite h.writeBack.dropVline.post h.errorEvent.dropVline

theorem Canon.readLine (h : Canon s) : Canon (Machine.readLine c l n m t w s).2 := by
  induction l generalizing s m with
  | nil => exact h.flushLine.chargeHome.homeRead
  | cons i up ih =>
    unfold Machine.readLine
    refine .ite_snd (ih h) ?_
    extract_lets s₁ s₂ hit need s₃
    have h₂ : Canon s₂ := by
      dsimp only [s₂]
      split
      · exact .ite h.flushLine.meetErr h.flushLine
      · exact h.flushLine
    split
    · split
      · exact h₂.putVline
      · exact h₂
    · have h₃ := ih (s := s₃) (m := need) h₂.allocate
      exact .ite h₃.fillLine.fillRegion h₃.fillLine

theorem Canon.lift (h : Canon w.2) : Canon (Machine.lift c n l a w).2 := by
  induction n generalizing l w with
  | zero => exact h
  | succ n ih =>
    cases l with
    | nil => exact h
    | cons i up =>
      obtain ⟨w, s⟩ := w
      refine ih ?_
      split
      · refine .ite_snd h.flushLine ?_
        split
        · exact h.flushLine.orphan.writeBack.modVline.chargeHome
        · exact h.flushLine.orphan.writeBack.modVline
      · exact h.flushLine

theorem Canon.removeCopies (h : Canon k.2) : Canon (Machine.removeCopies n c l k).2 :=
  h.foldl_snd fun _ _ h₁ => .ite_snd h₁.dropVline h₁.staleFills

theorem Canon.probe (h : Canon s) : Canon (s.probe l).2 := by
  unfold State.probe
  extract_lets
  refine .foldl_snd (.ite h.flushLine.staleFills h.flushLine.staleFills.tally) fun _ _ h₁ => ?_
  dsimp only
  split
  · exact .dropVline (.ite h₁ h₁.orphan.chargeHome.mergeHome)
  · exact h₁

theorem Canon.liftInsts (h : Canon s) : Canon (s.liftInsts c i).2 := by
  unfold State.liftInsts
  split
  rename_i s₁ e₁
  have h₁ := (h.foldl_snd fun _ _ h₂ => h₂.flushSpace.foldl_snd fun _ _ h₃ => h₃.lift).snd e₁
  split
  · exact h₁.flushSpace
  · exact h₁

theorem Canon.emptyInsts (h : Canon s) : Canon (s.emptyInsts c i).2 := by
  unfold State.emptyInsts
  exact .foldl_snd h.liftInsts fun _ _ h₁ => .foldl_snd h₁.staleFills fun _ _ h₂ => h₂.dropVline

theorem Canon.drainAll (h : Canon s) : Canon (s.drainAll a c).2 := h.liftInsts

theorem Canon.selfInvalidate (h : Canon s) : Canon (s.selfInvalidate a c).2 := h.emptyInsts


-- Sys2Proof/Machine/Translate.lean

theorem Canon.enterCoreTlb (h : Canon s) : Canon (s.enterCoreTlb c t) := h.modCore

theorem Canon.enterClusterTlb (h : Canon s) : Canon (s.enterClusterTlb c t) := h.modMem rfl

theorem Canon.tlbLook (h : Canon s) : Opt₃Canon (s.tlbLook c a p) := by
  unfold State.tlbLook
  split
  · exact h.enterCoreTlb
  · extract_lets
    split
    · exact h.enterClusterTlb.enterCoreTlb
    · exact trivial

theorem Canon.translated (h : Canon s) : Canon (s.translated c a v).2 := by
  unfold State.translated
  split
  · rename_i e₁
    exact h.tlbLook.some e₁
  · split
    · exact h.enterClusterTlb.enterCoreTlb
    · exact h

theorem Canon.beginWalk (h : Canon s) : Canon (s.beginWalk w) := h.postAt

theorem Canon.joinWalk (h : Canon s) : Canon (s.joinWalk p a v b c) := by
  unfold State.joinWalk
  extract_lets +onlyGivenNames _ _
  refine .ite (h.modMem rfl) ?_
  extract_lets +onlyGivenNames _ _ s₁
  have h₁ : Canon s₁ := h.modMem rfl
  exact .ite h₁.beginWalk h₁

theorem Canon.nextWalk (h : Canon s) : Canon (s.nextWalk d) := by
  unfold State.nextWalk
  split
  · exact h
  · exact .beginWalk (h.modMem rfl)

theorem Canon.startWalk (h : Canon s) : Canon (s.startWalk v a) := h.park.joinWalk

theorem Canon.rekeyPage (h : Canon s) : Canon (s.rekeyPage c a b) := h.modCore.modMem rfl

theorem Canon.refuseWorld (h : Canon s) : Canon (s.refuseWorld c t a b w) := h.taskError

theorem Canon.alsoRefuse (h : Canon s) : Canon (s.alsoRefuse c t a w v b d) := .ite h.refuseWorld h

theorem Canon.beginRefill (h : Canon s) : Canon (s.beginRefill c a p) := by
  unfold State.beginRefill
  split
  · refine .ite h ?_
    split
    · exact h
    · split
      · exact ((h.modMem rfl).foldl fun _ _ h₁ => .ite h₁.supFault.alsoRefuse h₁).foldl fun _ _ h₂ => h₂.behalfFault
      · exact (h.modCore.modMem rfl).post
  · exact h

theorem Canon.joinRefill (h : Canon s) (hf : ∀ s, Canon s → Canon (f s)) : Canon (s.joinRefill c a p w r f) := by
  unfold State.joinRefill
  extract_lets +onlyGivenNames s₁
  have h₁ : Canon s₁ := by
    dsimp only [s₁]
    split
    · exact h.countEv
    · exact h
  split
  · exact h₁.modMem rfl
  · exact .beginRefill (.ite (hf _ (h₁.modMem rfl)) (h₁.modMem rfl))

theorem Canon.resolve (h : Canon s) : Resolved.Canon (s.resolve v w) := by
  unfold State.resolve
  extract_lets
  split
  · exact h.supFault
  · split
    · exact h.supFault
    · split
      · exact h.supFault
      · split
        · exact h
        · split
          · exact h
          · split
            · exact h.supFault.alsoRefuse
            · exact h.park.joinRefill fun _ h₁ => h₁.sendRecord
  · split
    · exact h.startWalk
    · rename_i s₂ e₂
      have h₂ : Canon s₂ := h.tlbLook.some e₂
      extract_lets
      split
      · exact h₂.supFault
      · split
        · exact h₂.supFault.refuseWorld
        · exact h₂

theorem Canon.withPlace (h : Canon s) (hf : ∀ x s, Canon s → Canon (f x s)) : Canon (Machine.withPlace v w s f) := by
  unfold Machine.withPlace
  split
  · rename_i e₁
    exact hf _ _ (h.resolve.ok e₁)
  · rename_i e₂
    exact h.resolve.stop e₂


-- Sys2Proof/Machine/Hand.lean

theorem Canon.drain (h : Canon s) : Canon (s.drain p).2 := h.drainAll.modTask

theorem Canon.sealHand (h : Canon s) : Canon (s.sealHand p).2 := .modTask (.ite h.drain h)

theorem Canon.clearRecord (h : Canon s) : Canon (s.clearRecord l) := .ite h.modCore (h.modMem rfl)

theorem Canon.serveRegions (h : Canon s) : Canon (s.serveRegions p n a).2.2 := by
  unfold State.serveRegions
  exact .foldl₃ h fun _ _ h₁ => .foldl_snd h₁ fun _ _ h₂ => h₂.lift

theorem Canon.serveCall (h : Canon s) : Canon (s.serveCall r a).2.2.2 := by
  unfold State.serveCall
  extract_lets
  split
  · exact h
  · split
    · exact h.drain
    · exact h.serveRegions

theorem Canon.serveSaved (h : Canon s) : Canon (s.serveSaved y r).2.2 := by
  unfold State.serveSaved
  split
  · exact h
  · split
    · exact h.congr rfl
    · exact h

theorem Canon.markRetired (h : Canon s) : Canon (s.markRetired x) := .ite h.modCore (h.modMem (by dsimp only; split <;> rfl))

theorem Canon.writeRecord (h : Canon s) : Canon (s.writeRecord l r) := .ite h.clearRecord.modCore (h.clearRecord.modMem rfl)

theorem Canon.touchRecord (h : Canon s) : Canon (s.touchRecord l) := by
  unfold State.touchRecord
  refine .ite h ?_
  extract_lets
  split
  · exact h
  · exact h.modMem rfl

theorem Canon.sendCall (h : Canon s) : Canon (s.sendCall o a t i r) := .post (.ite h.countEv h)

theorem Canon.beginRetire (h : Canon s) : Canon (s.beginRetire o x q) := h.post

theorem Canon.serveAt (h : Canon s) (hf : ∀ x a b c s, Canon s → Canon (f x a b c s)) : Canon (s.serveAt r a b v m f) := by
  unfold State.serveAt
  extract_lets
  split
  · exact .ite h.post (.ite h.modSlot.post (hf _ _ _ _ _ (.ite h.serveCall.modSlot.countEv h.serveCall.modSlot)))
  · exact hf _ _ _ _ _ h.serveSaved
  · exact hf _ _ _ _ _ h
  · exact hf _ _ _ _ _ h

theorem Canon.answerCall (h : Canon s) : Canon (s.answerCall t i f r k) := h.laneTo.post

theorem Canon.execCallServe (h : Canon s) : OutCanon (Machine.execCallServe s) := by
  unfold Machine.execCallServe
  split
  · exact h.serveAt fun _ _ _ _ _ h₁ => .ite h₁.post (.ite h₁.answerCall h₁.post)
  · exact h.answerCall
  · exact h.serveAt fun _ _ _ _ _ h₂ => h₂.post
  · exact h

theorem Canon.dropRegions (h : Canon s) : Canon (s.dropRegions p r).2 :=
  h.foldl_snd fun _ _ h₁ => h₁.foldl_snd fun _ _ h₂ => h₂.lift.removeCopies

theorem Canon.callReplied (h : Canon s) : Canon (Machine.callReplied s t i r k) := by
  unfold Machine.callReplied
  split
  · exact h
  · refine .ite h.onTask.post (.ite h.post ?_)
    split
    rename_i s₁ e₁
    have h₁ := Canon.snd (.ite_snd h (.ite_snd h.selfInvalidate h.dropRegions)) e₁
    extract_lets _ s₂
    have h₂ : Canon s₂ := by
      dsimp only [s₂]
      split
      · exact h₁.modTask.modMem rfl
      · exact h₁.modTask
    exact h₂.postAt

theorem Canon.noteLost (h : Canon s) : Canon (s.noteLost t l) := .ite h.taskError h

theorem Canon.beginCalls (h : Canon s) : Canon (s.beginCalls t i a b r c) := (h.modMem rfl).foldl fun _ _ h₁ => .ite h₁.post h₁.sendCall

theorem Canon.acquire (h : Canon s) : OptCanon (s.acquire t i a b r c) := by
  unfold State.acquire
  extract_lets
  split
  · exact trivial
  · exact h.beginCalls


-- Sys2Proof/Machine/Point.lean

theorem Canon.recvReq (h : Canon s) : Canon (s.recvReq r) := .ite h.countRecv h

theorem Canon.uncountSent (h : Canon s) : Canon (s.uncountSent r) := .ite h.modCore h

theorem Canon.refundFence (h : Canon s) : Canon (s.refundFence r) := by
  unfold State.refundFence
  split
  · exact h.onTask
  · exact h.onTask
  · exact h

theorem Canon.throttled (h : Canon s) (hf : ∀ s, Canon s → Canon (f s)) : Canon (s.throttled c p t k n w e a f b) := by
  unfold State.throttled
  extract_lets
  refine .ite h.post (.ite (hf _ h) ?_)
  split
  · rename_i e₁
    exact hf _ (h.budgeted.some e₁)
  · exact h.post

theorem Canon.transmit (h : Canon s) : Canon (s.transmit r) := h.post

theorem Canon.sendReq (h : Canon s) : Canon (s.sendReq a r) := by
  unfold State.sendReq
  extract_lets s₁
  have h₁ : Canon s₁ := .ite h.countSent h
  exact .ite h₁.post h₁.transmit

theorem Canon.pendDoneAt (h : Canon s) : Canon (s.pendDoneAt t i a) := h.onTask.wakeTk

theorem Canon.pendDone (h : Canon s) : Canon (s.pendDone t i) := h.pendDoneAt

theorem Canon.answer (h : Canon s) : Canon (s.answer r a f) := h.postAt

theorem Canon.reply (h : Canon s) : Canon (s.reply r a f) := .answer (.ite_snd h.laneTo h)

theorem Canon.answerLong (h : Canon s) : Canon (s.answerLong t i a v p) := h.onTask.pendDone.postAt

theorem Canon.takeNote (h : Canon s) : Canon (s.takeNote t v l).2 := by
  unfold State.takeNote
  split
  · exact h
  · exact h.touchRecord.onTask

theorem Canon.noteLoad (h : Canon s) : Canon (s.noteLoad t i v a l) := OptCanon.getD h.takeNote.onTask.acquire h.takeNote.pendDone.postAt

theorem Canon.tracePort (h : Canon s) : Canon (s.tracePort o a k p b c v) := .ite h h.modCore

theorem Canon.traceHome (h : Canon s) : Canon (s.traceHome l a k p b v) := .ite h (h.modMem rfl)

theorem Canon.traceReq (h : Canon s) : Canon (s.traceReq r k l v) := by
  unfold State.traceReq
  extract_lets put
  have hput : ∀ s b c d e g, Canon s → Canon (put s b c d e g) := fun _ _ _ _ _ _ h₁ => .ite h₁.tracePort h₁.traceHome
  exact .ite (h.foldl fun _ _ h₂ => hput _ _ _ _ _ _ h₂) (hput _ _ _ _ _ _ h)

theorem Mem.modWpage_bytes {m : Mem} : (m.modWpage k f).bytes = m.bytes := by
  unfold Mem.modWpage
  split <;> rfl

theorem Canon.scratchWritten (h : Canon s) : Canon (s.scratchWritten c a o l n) := h.modMem Mem.modWpage_bytes

theorem Canon.cleanWhole (h : Canon s) : Canon (s.cleanWhole l n) := h.foldl fun _ _ h₁ => h₁.setPoison

theorem Canon.writePoint (h : Canon s) : Canon (s.writePoint r l n v).2 :=
  .wakeMonitors (.cleanWhole (.ite_snd h.putBytesAt.scratchWritten h.probe.putBytesAt.bufWrite))

theorem Canon.plainRecord (h : Canon s) : Canon (s.plainRecord l n r) := by
  unfold State.plainRecord
  extract_lets s₁
  have h₁ : Canon s₁ := h.foldl fun _ _ h₂ => h₂.clearRecord
  split
  · exact h₁.writeRecord
  · exact h₁

theorem Canon.withRoom (h : Canon s) (hf : ∀ s, Canon s → Canon (f s)) : Canon (s.withRoom r l f) := by
  unfold State.withRoom
  split
  · exact h.beginRetire
  · exact hf _ h

theorem Canon.serveScratchErr (h : Canon s) : Canon (s.serveScratchErr c a o l) := by
  unfold State.serveScratchErr
  extract_lets
  split
  · exact h
  · refine .ite h.post ?_
    split
    · exact h
    · exact (h.errorEvent.readLine.putBytesAt.modMem rfl).setPoison

theorem Canon.readScratch (h : Canon s) : Canon (s.readScratch c a o l n).2.2 := .ite h.serveScratchErr h

theorem Canon.setFull (h : Canon s) : Canon (s.setFull r l n f) := h.modMem Mem.modWpage_bytes

theorem Canon.feApply (h : Canon s) : Canon (s.feApply r l a) := by
  unfold State.feApply
  extract_lets _ done
  have hdone : ∀ s b c, Canon s → Canon (done s b c) := fun _ _ _ h₁ => h₁.reply
  split
  · exact .ite h.recvReq.readScratch.reply (hdone _ _ _ h.recvReq.readScratch.setFull)
  · exact .ite h.recvReq.readScratch.reply (OptCanon.getD h.recvReq.readScratch.takeNote.acquire (hdone _ _ _ h.recvReq.readScratch.takeNote))
  · exact hdone _ _ _ h.recvReq.writePoint.traceReq.plainRecord.setFull
  · exact hdone _ _ _ h.recvReq.writePoint.traceReq.plainRecord.setFull
  · exact hdone _ _ _ h.recvReq
  · exact hdone _ _ _ h.recvReq.setFull
  · exact h.recvReq

theorem Canon.serveWaiters (h : Canon s) : Canon (State.serveWaiters l n a f s) := by
  induction f generalizing s with
  | zero => exact h
  | succ f ih =>
    unfold State.serveWaiters
    extract_lets _
    split
    · exact h
    · extract_lets _
      split
      · exact ih (.withRoom (h.modMem rfl) fun _ h₁ => h₁.feApply)
      · exact h.modMem rfl

theorem Canon.afterScratch (h : Canon s) : Canon (s.afterScratch l n a) := h.serveWaiters

theorem Canon.feArrive (h : Canon s) : Canon (s.feArrive r l) := by
  unfold State.feArrive
  refine .ite ?_ (.ite (h.modMem rfl) (.ite ?_ (h.modMem rfl)))
  · exact h.withRoom fun _ h₁ => h₁.feApply.afterScratch
  · split
    rename_i s₁ e₁
    exact (h.laneTo.snd e₁).post

theorem Canon.grant (h : Canon s) : Canon (s.grant r m l q) := by
  unfold State.grant
  extract_lets s₁
  have h₁ : Canon s₁ := h.touchRecord.modMem rfl
  split
  rename_i s₂ e₂
  have h₂ : Canon s₂ := by
    refine .snd₂ ?_ e₂
    split
    · exact h₁.readScratch
    · exact h₁
  split
  rename_i s₃ e₃
  have h₃ := Canon.snd (.ite_snd h₂ h₂.homeRead) e₃
  split
  rename_i s₄ e₄
  have h₄ := Canon.snd (.ite_snd h₃ (.ite_snd h₃ h₃.laneTo)) e₄
  exact .post (.ite (.post (.ite h₄ h₄.traceHome)) h₄)

theorem Canon.nextGrant (h : Canon s) : Canon (s.nextGrant k) := by
  unfold State.nextGrant
  split
  · exact h
  · split
    · exact h.modMem rfl
    · split
      · exact h.grant
      · exact h.modMem rfl

theorem Canon.revokeAt (h : Canon s) : Canon (s.revokeAt k) := by
  unfold State.revokeAt
  split
  · exact h.onTask.nextGrant
  · exact h

theorem Canon.revoke (h : Canon s) : Canon (s.revoke t) := by
  unfold State.revoke
  split
  · exact h.revokeAt
  · exact h

theorem Canon.execReservationTimeout (h : Canon s) : OutCanon (Machine.execReservationTimeout s) := by
  unfold Machine.execReservationTimeout
  split
  · split
    · exact .ite h.revokeAt h
    · exact h
  · exact h

theorem Canon.overMark (h : Canon s) : Canon (s.overMark t r x) := .ite h.onTask h

theorem Canon.applyRelease (h : Canon s) : Canon (s.applyRelease r m v l) := by
  unfold State.applyRelease
  extract_lets +onlyGivenNames _ _
  refine .ite (.ite h.recvReq.pendDone.reply h.recvReq.pendDone) (.ite h.beginCalls (.withRoom h fun _ h₁ => ?_))
  extract_lets +onlyGivenNames _ _
  split
  rename_i s₂ e₂
  have h₂ : Canon s₂ := by
    refine .snd ?_ e₂
    split
    · exact .ite h₁.recvReq.traceHome h₁.recvReq
    · exact h₁.recvReq.writePoint.traceReq
  extract_lets +onlyGivenNames s₃ _ s₄
  have h₃ : Canon s₃ := .ite h₂.overMark.writeRecord h₂
  have h₄ : Canon s₄ := .ite h₃.nextGrant.pendDone.reply h₃.nextGrant.pendDone
  exact .ite h₄.afterScratch h₄

theorem Canon.wakeMonitor (h : Canon s) : Canon (s.wakeMonitor m) := (h.modMem rfl).postAt

theorem Canon.execMonitorWake (h : Canon s) : OutCanon (Machine.execMonitorWake s) := by
  unfold Machine.execMonitorWake
  split
  · split
    · exact h.wakeMonitor
    · exact h
  · exact h.wakeMonitors
  · exact h

theorem Canon.watch (h : Canon s) : Canon (s.watch r l e) := by
  unfold State.watch
  split
  rename_i s₁ e₁
  have h₁ : Canon s₁ := by
    refine .snd₂ ?_ e₁
    split
    · exact h.readScratch
    · exact h
  split
  rename_i s₂ e₂
  have h₂ := Canon.snd (.ite_snd h₁ h₁.homeRead) e₂
  exact .ite h₂.reply (.ite h₂.reply (.ite h₂.reply (h₂.modMem rfl)))

theorem Canon.applyReq (h : Canon s) : Canon (s.applyReq r l) := by
  unfold State.applyReq
  split
  · split
    rename_i s₁ e₁
    have h₁ : Canon s₁ := by
      refine .snd₃ ?_ e₁
      split
      · exact h.readScratch
      · exact h.homeRead
    extract_lets +onlyGivenNames s₂
    have h₂ : Canon s₂ := h₁.onTask
    split
    rename_i s₃ e₃
    exact (Canon.of_snd e₃ (.ite_snd h₂.laneTo h₂)).noteLoad
  · refine h.withRoom fun _ h₂ => ?_
    split
    rename_i s₃ e₃
    have h₃ := h₂.recvReq.writePoint.snd e₃
    extract_lets +onlyGivenNames s₄ s₅
    have h₄ : Canon s₄ := .ite h₃.traceReq h₃
    have h₅ : Canon s₅ := h₄.plainRecord
    refine .ite ?_ h₅.onTask.pendDoneAt
    split
    rename_i s₆ e₆
    exact (h₅.laneTo.snd e₆).post.afterScratch
  · exact h
  · split
    rename_i s₄ e₄
    have h₄ : Canon s₄ := by
      refine .snd₂ ?_ e₄
      split
      · exact h.readScratch
      · exact h
    split
    rename_i s₅ e₅
    have h₅ := Canon.of_snd e₅ (.ite_snd h₄ h₄.homeRead)
    exact .ite h₅.reply (OptCanon.getD h₅.touchRecord.acquire h₅.touchRecord.reply)
  · refine h.withRoom fun _ h₆ => ?_
    split
    rename_i s₇ e₇
    have h₇ := h₆.recvReq.writePoint.snd e₇
    extract_lets +onlyGivenNames s₈ _ _ s₁₀
    have h₈ : Canon s₈ := .ite h₇.traceReq h₇
    have h₁₀ : Canon s₁₀ := h₈.writeRecord.reply
    exact .ite h₁₀.afterScratch h₁₀
  iterate 6 exact h.feArrive
  · split
    · exact h.grant
    · exact h.modMem rfl
  · exact h.applyRelease
  · exact h.watch

theorem Canon.fencedPort (h : Canon s) : Canon (s.fencedPort r) := by
  unfold State.fencedPort
  extract_lets lost
  have hlost : ∀ s, Canon s → Canon (lost s) := fun _ h₁ => h₁.taskError
  split
  · exact h.answerLong
  · exact .post (hlost _ h)
  · exact .reply (hlost _ h)
  · exact h
  · exact h.refundFence.reply

theorem Canon.portArrive (h : Canon s) : Canon (s.portArrive r) := by
  unfold State.portArrive
  refine .ite h.fencedPort ?_
  split
  · exact h.applyReq
  · exact .ite (h.joinRefill fun _ h₁ => h₁.sendRecord) h.behalfFault

theorem Canon.withdrawn (h : Canon s) : Canon (s.withdrawn t i) := by
  unfold State.withdrawn
  extract_lets
  split
  · exact h
  · exact (h.uncountSent.refundFence.modMem rfl).onTask.wakeTk.wakeTk

theorem Canon.execRemoteAccessArrival (h : Canon s) : OutCanon (Machine.execRemoteAccessArrival s) := by
  unfold Machine.execRemoteAccessArrival
  split
  · exact h.throttled fun _ h₁ => h₁.portArrive
  · exact h.transmit
  · exact h.withdrawn
  · exact h

theorem Canon.execRemoteStoreAck (h : Canon s) : OutCanon (Machine.execRemoteStoreAck s) := by
  unfold Machine.execRemoteStoreAck
  split
  · exact h.pendDone
  · exact h

theorem Canon.execFeRequestRetry (h : Canon s) : OutCanon (Machine.execFeRequestRetry s) := by
  unfold Machine.execFeRequestRetry
  split
  · exact .ite h.refundFence.answer h.sendReq
  · exact h

theorem Canon.homeFill (h : Canon s) : Canon (s.homeFill a l) := .ite h.mergeHome.onTask.pendDone h.homeRead.post

theorem Canon.execHomeSliceRequestArrival (h : Canon s) : OutCanon (Machine.execHomeSliceRequestArrival s) := by
  unfold Machine.execHomeSliceRequestArrival
  split
  · exact h.throttled fun _ h₁ => h₁.applyReq
  · exact h.transmit
  · exact h.throttled fun _ h₂ => h₂.homeFill
  · exact h.backArrives
  · exact h

theorem Canon.applyPosted (h : Canon s) : Canon (s.applyPosted r v a) :=
  .ite h.post (h.withRoom fun _ h₁ => h₁.probe.putBytesAt.bufWrite.cleanWhole.nextTag.traceReq.plainRecord.wakeMonitors.postAt)

theorem Canon.endRetire (h : Canon s) : Canon (s.endRetire x q) := by
  unfold State.endRetire
  extract_lets
  refine .ite h.markRetired.portArrive ?_
  split
  · exact h.markRetired.applyPosted
  · exact h.markRetired.applyReq

theorem Canon.execPostedWriteApply (h : Canon s) : OutCanon (Machine.execPostedWriteApply s) := by
  unfold Machine.execPostedWriteApply
  split
  · split
    · exact h.throttled fun _ h₁ => h₁.applyPosted
    · exact h
  · exact h.transmit
  · exact h

theorem Canon.execPostedWriteAck (h : Canon s) : OutCanon (Machine.execPostedWriteAck s) := by
  unfold Machine.execPostedWriteAck
  split
  · exact h.pendDone
  · exact h


-- Sys2Proof/Machine/VcacheFlow.lean

theorem Canon.parkIssuer (h : Canon s) : Canon (s.parkIssuer a) := .ite h.park h

theorem Canon.parkAcc (h : Canon s) : Canon (s.parkAcc a) := (h.modMem rfl).modSpace.foldl fun _ _ h₁ => h₁.parkIssuer

theorem Canon.sendHome (h : Canon s) : Canon (s.sendHome a k) := h.post

theorem Canon.sendAcc (h : Canon s) : Canon (s.sendAcc a f k c) := by
  unfold State.sendAcc
  split
  · refine .ite ?_ h.flushBacks.post
    extract_lets +onlyGivenNames _ s₁
    have h₁ : Canon s₁ := h.flushBacks.foldl fun _ _ h₂ => h₂.tally
    exact .sendHome (.modMem (.ite h₁.countEv h₁) rfl)
  · exact h.flushBacks.sendHome

theorem Canon.startAcc (h : Canon s) : Canon (s.startAcc a) := h.sendAcc

theorem Canon.restartAcc (h : Canon s) : Canon (s.restartAcc a) := by
  unfold State.restartAcc
  extract_lets
  split
  · exact h.startAcc
  · exact .ite h.sendReq (.ite h.lift.removeCopies.sendReq h.startAcc)

theorem Canon.dropPref (h : Canon s) : Canon (s.dropPref a) := .pendDone ((h.modMem rfl).foldl fun _ _ h₁ => h₁.post)

theorem Canon.supplied (h : Canon s) : Canon (s.supplied a b d p) := h.answerLong

theorem Canon.missed (h : Canon s) : Canon (s.missed a) := .ite h.tally.countEv h.tally

theorem Canon.accArrive (h : Canon s) : Canon (s.accArrive a) := by
  unfold State.accArrive
  extract_lets +onlyGivenNames _
  split
  · exact h.sendAcc
  · extract_lets +onlyGivenNames _
    refine .ite h.parkAcc (.ite h.restartAcc (.ite h.sendAcc ?_))
    extract_lets +onlyGivenNames _
    refine .ite (h.modMem rfl) (.ite (.ite h.parkAcc h.storeLine.onTask.pendDone) ?_)
    extract_lets +onlyGivenNames _
    refine .ite h.dropPref ?_
    extract_lets +onlyGivenNames s₁ miss
    have h₁ : Canon s₁ := by
      dsimp only [s₁]
      split
      · exact .ite h.meetErr h
      · exact h
    have hmiss : ∀ s b, Canon s → Canon (miss s b) := fun _ _ h₂ => .sendAcc (h₂.missed.modMem rfl)
    split
    · exact .ite (.ite h₁.putVline.tally.supplied h₁.putVline.tally.post) (hmiss _ _ h₁)
    · exact hmiss _ _ h₁

theorem Canon.execVcacheAccessArrival (h : Canon s) : OutCanon (Machine.execVcacheAccessArrival s) := by
  unfold Machine.execVcacheAccessArrival
  split
  · exact h.accArrive
  · exact .ite h.post h.backArrives
  · exact h

theorem Canon.releaseFill (h : Canon s) : Canon (s.releaseFill f l) := .foldl (h.modMem rfl) fun _ _ h₁ => h₁.post

theorem Canon.installFill (h : Canon s) : Canon (Machine.installFill c a d p n s) := by
  induction n generalizing d p s with
  | zero => exact h
  | succ n ih =>
    unfold Machine.installFill
    split
    · exact ih h
    · split
      · exact ih h
      · extract_lets _ _ s₁ _
        have h₁ : Canon s₁ := h.releaseFill.fillLine
        exact .ite (ih h.releaseFill) (ih (.ite h₁.fillRegion h₁))

theorem Canon.lineFilled (h : Canon s) : Canon (s.lineFilled a l d p) := by
  unfold State.lineFilled
  extract_lets +onlyGivenNames _ _ _ _ s₁
  have h₁ : Canon s₁ := .ite h.dropPref (.ite (h.foldl fun _ _ h₂ => h₂.releaseFill).sendAcc h.installFill.supplied)
  exact .ite h₁ h₁.postHub

theorem Canon.execLineFill (h : Canon s) : OutCanon (Machine.execLineFill s) := by
  unfold Machine.execLineFill
  split
  · exact .ite h.post h.lineFilled
  · exact h

theorem Canon.execHomeProbe (h : Canon s) : OutCanon (Machine.execHomeProbe s) := by
  unfold Machine.execHomeProbe
  split
  · exact h.foldl fun _ _ h₁ => h₁.probe
  · refine Canon.foldl h fun _ _ h₂ => ?_
    split
    · exact .dropVline (.ite h₂.orphan.sendBack h₂)
    · exact h₂
  · refine Canon.foldl h fun _ _ h₃ => h₃.foldl fun _ _ h₄ => ?_
    split
    rename_i s₅ e₅
    exact (Canon.of_snd e₅ (.lift h₄)).dropVline
  · exact h


-- Sys2Proof/Machine/MemAccess.lean

theorem Canon.beginMigration (h : Canon s) : Canon (s.beginMigration p) := h.park.postAt

theorem Canon.withAccess (h : Canon s) (hf : ∀ x s, Canon s → Canon (f x s)) : Canon (Machine.withAccess v n w m s f) :=
  .ite h.formatFaultAt (h.withPlace fun _ _ h₁ => .ite h₁.beginMigration (.ite h₁.waitTurn (hf _ _ h₁)))

theorem Canon.ownCopies (h : Canon s) (hf : ∀ s, Canon s → Canon (f s)) : Canon (Machine.ownCopies p d s f) :=
  .ite h.waitTurn (hf _ (.ite h.lift.removeCopies h.lift))

theorem Canon.takeFence (h : Canon s) : Canon (s.takeFence p).2 := by
  unfold State.takeFence
  split
  · exact h
  · exact h.modTask

theorem Canon.doLoad (h : Canon s) : Canon (Machine.doLoad d l v n a s) :=
  h.withAccess fun _ _ h₁ => .ite h₁.fresh.readScratch.startLong.noteLoad (.ite h₁.fresh.startLong.setMy.sendReq h₁.fresh.startLong.setMy.startAcc)

theorem Canon.doStore (h : Canon s) : Canon (Machine.doStore v n a p s) := by
  unfold Machine.doStore
  extract_lets +onlyGivenNames _
  refine .ite h.formatFaultAt (.withAccess h fun _ _ h₁ => ?_)
  extract_lets +onlyGivenNames _ _ _ add
  have hadd : ∀ a b c s, Canon s → Canon (add a b c s) := fun _ _ _ _ h₂ => h₂.setMy
  split
  · dsimp only
    split
    · exact .advance (hadd _ _ _ _ h₁.fresh.takeFence.beginRetire)
    · exact h₁.fresh.takeFence.writePoint.plainRecord.afterScratch.advance
  · exact .ite (.advance (hadd _ _ _ _ h₁.fresh.takeFence.sendReq))
      (.ite (h₁.ownCopies fun _ h₃ => .advance (hadd _ _ _ _ (.sendReq (.ite_snd h₃.fresh.takeFence h₃.fresh))))
      (.ite (.advance (hadd _ _ _ _ h₁.fresh.takeFence.sendReq)) (.advance (hadd _ _ _ _ h₁.fresh.startAcc))))

theorem Canon.execLd (h : Canon s) : OutCanon (Machine.execLd d a o z n s) := h.with1 fun _ _ h₁ => h₁.doLoad

theorem Canon.execLds (h : Canon s) : OutCanon (Machine.execLds d a o z n s) := h.with1 fun _ _ h₁ => h₁.doLoad

theorem Canon.execLdx (h : Canon s) : OutCanon (Machine.execLdx d a b z n s) := h.with2 fun _ _ _ h₁ => h₁.doLoad

theorem Canon.execSt (h : Canon s) : OutCanon (Machine.execSt v a o z s) := h.with2 fun _ _ _ h₁ => h₁.doStore

theorem Canon.execStx (h : Canon s) : OutCanon (Machine.execStx v a b z s) := h.with3 fun _ _ _ _ h₁ => h₁.doStore

theorem Canon.execStp (h : Canon s) : OutCanon (Machine.execStp v a o z s) := h.with2 fun _ _ _ h₁ => h₁.doStore

theorem Canon.needSync (h : Canon s) (hf : ∀ s, Canon s → Canon (f s)) : Canon (Machine.needSync p v s f) := .ite h.formatFaultAt (hf _ h)

theorem Canon.afterAccesses (h : Canon s) (hf : ∀ s, Canon s → Canon (f s)) : Canon (Machine.afterAccesses s f) := .ite (hf _ h) h.waitTurn

theorem Canon.execLda (h : Canon s) : OutCanon (Machine.execLda d a o z b s) :=
  h.with1 fun _ _ h₁ => h₁.withAccess fun _ _ h₂ => h₂.needSync fun _ h₃ => h₃.blockOpen.sendReq

theorem Canon.execStl (h : Canon s) : OutCanon (Machine.execStl v a o z b s) :=
  h.with2 fun _ _ _ h₁ => h₁.withAccess fun _ _ h₂ => h₂.needSync fun _ h₃ => h₃.afterAccesses fun _ h₄ => h₄.sealHand.blockOpen.sendReq

theorem Canon.feMember (h : Canon s) : Canon (Machine.feMember v n w d o u s) := by
  unfold Machine.feMember
  split
  · exact h.formatFaultAt
  · refine .withAccess h fun _ _ h₁ => ?_
    split
    rename_i s₂ e₂
    have h₂ := Canon.snd (.ite_snd h₁.takeFence h₁) e₂
    exact .ite h₂.fresh.park.feArrive h₂.fresh.park.sendReq

theorem Canon.execLdfe (h : Canon s) : OutCanon (Machine.execLdfe d a o z s) := h.with1 fun _ _ h₁ => h₁.feMember

theorem Canon.execLdf (h : Canon s) : OutCanon (Machine.execLdf d a o z s) := h.with1 fun _ _ h₁ => h₁.feMember

theorem Canon.execStfe (h : Canon s) : OutCanon (Machine.execStfe v a o z s) := h.with2 fun _ _ _ h₁ => h₁.feMember

theorem Canon.execStf (h : Canon s) : OutCanon (Machine.execStf v a o z s) := h.with2 fun _ _ _ h₁ => h₁.feMember

theorem Canon.execFeq (h : Canon s) : OutCanon (Machine.execFeq d a o z s) := h.with1 fun _ _ h₁ => h₁.feMember

theorem Canon.execFeset (h : Canon s) : OutCanon (Machine.execFeset v a o z s) := h.with2 fun _ _ _ h₁ => h₁.feMember

theorem Canon.execScratchpadPageRefill (h : Canon s) : OutCanon (Machine.execScratchpadPageRefill s) := by
  unfold Machine.execScratchpadPageRefill
  split
  · split
    · extract_lets +onlyGivenNames s₁ _ _ line s₂
      have hline : ∀ s v, Canon s → Opt₃Canon (line s v) := by
        intro s v h
        dsimp only [line]
        split
        · exact trivial
        · exact h.readLine
      have h₁ : Canon s₁ := h.modMem rfl
      have h₂ : Canon s₂ := h₁.foldl fun s _ h => by
        split
        · rename_i e
          exact ((hline _ _ h).some e).putBytesAt.setPoison
        · exact h
      split
      rename_i s₃ e₃
      have h₃ : Canon s₃ := by
        refine .snd ?_ e₃
        split
        · rename_i e₄
          obtain ⟨a, -, e₄⟩ := Option.bind_eq_some_iff.mp e₄
          exact (hline _ _ h₂).some e₄
        · exact h₂
      exact .foldl (.foldl (h₃.modMem rfl).rekeyPage fun _ _ h₅ => h₅.wakeTk) fun _ _ h₆ => h₆.portArrive
    · exact h
  · exact h


-- Sys2Proof/Machine/Atomic.lean

theorem Canon.issueRmw (h : Canon s) : Canon (Machine.issueRmw v n m d s) := by
  unfold Machine.issueRmw
  refine .withAccess h fun _ _ h₁ => ?_
  refine .gate h₁ (fun hk => h₁.needSync fun _ h₂ => hk _ h₂) fun _ h₃ => ?_
  refine .gate h₃ (fun hk => h₃.afterAccesses fun _ h₄ => hk _ h₄) fun _ h₅ => ?_
  refine .ownCopies h₅ fun _ h₆ => ?_
  split
  rename_i s₇ e₇
  have h₇ := Canon.snd (.ite_snd h₆.sealHand h₆) e₇
  exact .ite (.applyReq (.ite h₇.fresh.park h₇.fresh.park.setMy)) (.sendReq (.ite h₇.fresh.park h₇.fresh.park.setMy))

theorem Canon.amo (h : Canon s) : OutCanon (Machine.amo o d a b c r z s) :=
  .ite (h.with3 fun _ _ _ _ h₁ => h₁.issueRmw) (h.with2 fun _ _ _ h₂ => h₂.issueRmw)

theorem Canon.execAmoadd (h : Canon s) : OutCanon (Machine.execAmoadd d a b c r z s) := h.amo

theorem Canon.execAmoand (h : Canon s) : OutCanon (Machine.execAmoand d a b c r z s) := h.amo

theorem Canon.execAmoor (h : Canon s) : OutCanon (Machine.execAmoor d a b c r z s) := h.amo

theorem Canon.execAmoxor (h : Canon s) : OutCanon (Machine.execAmoxor d a b c r z s) := h.amo

theorem Canon.execAmomin (h : Canon s) : OutCanon (Machine.execAmomin d a b c r z s) := h.amo

theorem Canon.execAmomax (h : Canon s) : OutCanon (Machine.execAmomax d a b c r z s) := h.amo

theorem Canon.execAmominu (h : Canon s) : OutCanon (Machine.execAmominu d a b c r z s) := h.amo

theorem Canon.execAmomaxu (h : Canon s) : OutCanon (Machine.execAmomaxu d a b c r z s) := h.amo

theorem Canon.execAmoswap (h : Canon s) : OutCanon (Machine.execAmoswap d a b c r z s) := h.amo

theorem Canon.execAmocas (h : Canon s) : OutCanon (Machine.execAmocas d a b c r z s) := h.amo

theorem Canon.execAmofadd (h : Canon s) : OutCanon (Machine.execAmofadd d a b c r z s) := h.amo

theorem Canon.sendRelease (h : Canon s) : Canon (s.sendRelease r m v a) := .ite h.post h.sendReq

theorem Canon.endRmw (h : Canon s) : Canon (s.endRmw r m o l) := .ite h.noteLost.onTask.answer h.noteLost.noteTk.sendRelease.answer

theorem Canon.execReservationGrant (h : Canon s) : OutCanon (Machine.execReservationGrant s) := by
  unfold Machine.execReservationGrant
  split
  · split
    · exact .ite h.uncountSent.sendRelease (.ite h.sendRelease.answer (.ite h.overMark.beginCalls h.overMark.endRmw))
    · exact h
  · exact h

theorem Canon.execHold (h : Canon s) : OutCanon (Machine.execHold d a b r z s) := h.with1 fun _ _ h₁ => .ite h₁.formatFaultAt h₁.issueRmw

theorem Canon.execPass (h : Canon s) : OutCanon (Machine.execPass a b c r z s) := by
  unfold Machine.execPass
  refine Canon.with2 h fun _ _ _ h₁ => ?_
  refine .ite h₁.formatFaultAt (.ite h₁.formatFaultAt (.ite h₁.setMy.formatFaultAt (.withAccess h₁ fun _ _ h₂ => ?_)))
  refine .gate h₂ (fun hk => h₂.needSync fun _ h₃ => hk _ h₃) fun _ h₄ => ?_
  refine .gate h₄ (fun hk => h₄.afterAccesses fun _ h₅ => hk _ h₅) fun _ h₆ => ?_
  split
  rename_i s₇ e₇
  have h₇ := (Canon.snd (.ite_snd h₆.sealHand h₆) e₇).blockOpen
  exact .ite (.applyReq (.ite h₇.setMy h₇.setMy.setMy)) (.sendReq (.ite h₇.setMy h₇.setMy.setMy))

theorem Canon.loseLoad (h : Canon s) : Canon (s.loseLoad c i) := .ite h.onTask h

theorem Canon.afterCalls (h : Canon s) : Canon (s.afterCalls c) := by
  unfold State.afterCalls
  split
  · exact h.noteLost.completeWait
  · exact h.endRmw
  · exact .ite h.post h.sendReq
  · exact h.noteLost.loseLoad.pendDone.postAt
  · exact .ite h.noteLost.onTask.postAt h.noteLost.onTask.completeWait

theorem Canon.execCallReply (h : Canon s) : OutCanon (Machine.execCallReply s) := by
  unfold Machine.execCallReply
  split
  · exact h.callReplied
  · exact h.endRetire
  · split
    · exact h
    · split
      · exact .afterCalls (h.modMem rfl)
      · exact h.modMem rfl
  · exact h


-- Sys2Proof/Machine/TileData.lean

theorem Canon.windowBytes (h : Canon s) : Canon (s.windowBytes c a o n).2.2 := by
  unfold State.windowBytes
  extract_lets go _
  have hgo : ∀ a b s, Canon s → Canon (go a b s).2.2 := by
    intro a b s h₁
    dsimp only [go]
    split
    · exact h₁
    · exact .ite h₁.serveScratchErr h₁
  split
  · split
    · exact h
    · exact hgo _ _ _ h
  · exact hgo _ _ _ (hgo _ _ _ h)

theorem Canon.putScratch (h : Canon s) : Canon (State.putScratch k s f c a o b) := by
  unfold State.putScratch
  extract_lets +onlyGivenNames go _ s₁
  have hgo : ∀ {a b s}, Canon s → Canon (go a b s) := by
    intro a b s h
    dsimp -zeta only [go]
    extract_lets
    split
    · exact h
    · extract_lets +onlyGivenNames s₂ _ s₃ _ s₄ s₅
      have h₂ : Canon s₂ := .scratchWritten (.modMem_wf h fun _ => Memory.putBytes_wf _ _)
      have h₃ : Canon s₃ := h₂.modMem rfl
      have h₄ : Canon s₄ := h₃.modCore
      have h₅ : Canon s₅ := h₄.foldl fun _ _ h => h.wakeMonitors
      exact .ite h₅ (h₅.foldl fun _ _ h => h.tracePort)
  have h₁ : Canon s₁ := .ite h (hgo h)
  exact .ite (hgo h₁) h₁

theorem Canon.putWindow (h : Canon s) : Canon (s.putWindow f c a o b) := h.putScratch

theorem Canon.rowBits (h : Canon s) : Canon (s.rowBits c a d i).2.2 := by
  unfold State.rowBits
  split
  · exact h.windowBytes
  · exact h.foldl₃ fun _ _ h₁ => h₁.windowBytes

theorem Canon.putRow (h : Canon s) : Canon (s.putRow p a d i v) :=
  .ite (.putWindow (.ite_snd h h.windowBytes)) (h.foldl fun _ _ h₁ => .ite h₁.windowBytes.putWindow h₁.putWindow)

theorem Canon.vf8Row (h : Canon s) : Canon (s.vf8Row c a d i b w).2.2.2 := h.windowBytes.foldl_snd fun _ _ h₁ => h₁.windowBytes


-- Sys2Proof/Machine/TileOps.lean

theorem Canon.reachAt (h : Canon s) : Reach.Canon (s.reachAt t c a w v b) := by
  unfold State.reachAt
  extract_lets
  split
  · exact h
  · split
    · exact h
    · split
      · exact h
      · split
        · exact h
        · split <;> exact h
  · split
    · exact h
    · rename_i s₁ e₁
      have h₁ : Canon s₁ := h.tlbLook.some e₁
      extract_lets
      split
      · exact h₁
      · split
        · exact h₁.refuseWorld
        · exact h₁

theorem Canon.reachAll (h : Canon s) : Reach.Canon (State.reachAll t c a w l s) := by
  induction l generalizing s with
  | nil => exact h
  | cons x r ih =>
    unfold State.reachAll
    split
    · rename_i e
      exact ih (h.reachAt.ok e)
    · exact h.reachAt

theorem Canon.imageRead (h : Canon s) : Canon (s.imageRead c a w v n).2.2 := by
  unfold State.imageRead
  refine .foldl₃ h fun _ _ h₁ => ?_
  dsimp only
  split
  · exact h₁
  · split
    · exact h₁.windowBytes
    · split
      · exact h₁.chargeHome.homeRead
      · exact h₁.readLine

theorem Canon.noteWord (h : Canon s) : Canon (s.noteWord p r v l) := by
  unfold State.noteWord
  extract_lets +onlyGivenNames t
  split
  rename_i s₁ e₁
  have h₁ := h.takeNote.snd e₁
  split
  rename_i s₂ e₂
  have h₂ := Canon.of_snd e₂ (.ite_snd h₁.fresh h₁)
  split
  · exact h₂
  · rename_i e₃
    exact (h₂.acquire.some e₃).modTask

theorem Canon.noteImage (h : Canon s) : Canon (s.noteImage p r v n) := by
  unfold State.noteImage
  refine .foldl h fun _ _ h₁ => ?_
  dsimp only
  split
  · exact h₁
  · exact .ite (h₁.foldl fun _ _ h₂ => h₂.noteWord) h₁

theorem Canon.imagePiece (h : Canon s) : Canon (s.imagePiece p a v b l) := by
  unfold State.imagePiece
  extract_lets +onlyGivenNames c space n x
  split
  rename_i s₁ e₁
  have h₁ := Canon.of_snd e₁ (.ite_snd h.takeFence h)
  extract_lets +onlyGivenNames send out
  have hsend : ∀ {o k g s}, (∀ r s, Canon s → Canon (g r s)) → Canon s → Canon (send o k g s) := fun hg h₂ => hg _ _ h₂.fresh.modTask
  have hout : ∀ r s, Canon s → Canon (out r s) := fun _ _ h₂ => h₂.sendReq
  refine .ite (.ite ?_ (hsend hout h₁)) (.ite ?_ (.ite (hsend hout h₁) h₁.storeLine.modTask))
  · split
    · exact h₁.fresh.modTask.beginRetire
    · exact h₁.putWindow.plainRecord
  · exact hsend hout (.removeCopies (.lift h₁))

theorem Canon.imageWrite (h : Canon s) : Canon (s.imageWrite p a v b) := by
  unfold State.imageWrite
  refine .foldl h fun _ _ h₁ => ?_
  dsimp only
  split
  · exact h₁
  · exact h₁.imagePiece

theorem Canon.sourceRows (h : Canon s) : Canon (s.sourceRows c a n t i).2.2 := h.foldl₃ fun _ _ h₁ => h₁.rowBits

theorem Canon.tileUnit (h : Canon s) : UnitRes.Canon (s.tileUnit p r i) := by
  unfold State.tileUnit
  extract_lets +onlyGivenNames _ _ _ _ _ _ _ put
  have hput : ∀ {s b c}, Canon s → UnitRes.Canon (put s b c) := fun h₁ => h₁.putRow
  split
  case h_1 =>
    split
    · exact .ite h.imageRead.imageRead.noteImage.noteImage h.imageRead.imageRead.noteImage.noteImage.putWindow.putWindow
    · split
      rename_i s₂ e₂
      have h₂ := Canon.of_snd₂ e₂ (.foldl₃ h fun _ _ h₃ => h₃.imageRead.noteImage)
      exact .ite h₂ (hput h₂)
  case h_2 =>
    split
    · exact .ite h.windowBytes.windowBytes h.windowBytes.windowBytes.imageWrite.imageWrite
    · split
      rename_i s₃ e₃
      have h₃ := h.rowBits.snd₂ e₃
      refine .ite (.ite h₃ h₃.imageWrite) ?_
      extract_lets +onlyGivenNames _
      split
      rename_i s₄ e₄
      have h₄ : Canon s₄ := by
        refine .snd₂ ?_ e₄
        split
        · exact h₃.rowBits
        · exact h₃
      exact .ite h₄ (h₄.foldl fun _ _ h₅ => h₅.imageWrite)
  case h_3 => exact .ite h.windowBytes.imageRead.noteImage (hput h.windowBytes.imageRead.noteImage)
  case h_4 => exact .ite h.windowBytes.rowBits h.windowBytes.rowBits.imageWrite
  case h_5 =>
    split
    · split
      rename_i s₅ e₅
      have h₅ := h.vf8Row.snd₃ e₅
      exact .ite h₅ (.ite h₅ h₅.windowBytes.putWindow.putWindow)
    · exact .ite h.rowBits (hput h.rowBits)
  case h_6 => exact hput h
  case h_7 => exact .ite h.rowBits (hput h.rowBits)
  case h_8 => exact .ite h.rowBits (hput h.rowBits)
  case h_9 =>
    extract_lets +onlyGivenNames _
    split
    rename_i s₆ e₆
    have h₆ := Canon.of_snd₂ e₆ (.foldl₃ h fun _ _ h₇ => h₇.rowBits)
    exact .ite h₆ (hput h₆)
  case h_10 =>
    extract_lets +onlyGivenNames _
    split
    rename_i s₇ e₇
    have h₇ := h.rowBits.snd₂ e₇
    split
    rename_i s₈ e₈
    have h₈ : Canon s₈ := by
      refine .snd₂ ?_ e₈
      split
      · exact h₇.windowBytes
      · exact h₇
    exact .ite h₈ (.ite h₈.putRow.putWindow (hput h₈))
  case h_11 =>
    split
    rename_i s₉ e₉
    have h₉ := h.rowBits.snd₂ e₉
    exact .ite h₉ h₉.putWindow.putWindow
  case h_12 =>
    split
    rename_i s₉ e₉
    have h₉ := h.vf8Row.snd₃ e₉
    refine .ite h₉ ?_
    split
    · exact h₉
    · exact hput h₉
  case h_13 => exact .ite h.windowBytes (hput h.windowBytes)
  case h_14 => exact .ite h.windowBytes.rowBits (hput h.windowBytes.rowBits)
  case h_15 => exact .ite h.sourceRows (hput h.sourceRows)


-- Sys2Proof/Machine/Matrix.lean

theorem Canon.operandBytes (h : Canon s) : Canon (s.operandBytes o a n).2.2.2 := by
  unfold State.operandBytes
  split
  rename_i s₁ e₁
  have h₁ : Canon s₁ := by
    refine .snd₃ ?_ e₁
    refine .foldl₄ h fun _ _ h₂ => ?_
    dsimp only
    split
    · exact h₂
    · exact h₂.windowBytes
  exact h₁

theorem Canon.operandScale (h : Canon s) : Canon (s.operandScale o K r k).2.2.2 := by
  unfold State.operandScale
  split
  · exact h
  · extract_lets
    split
    · exact h
    · exact h.windowBytes

theorem Canon.readOperandLine (h : Canon s) : Canon (s.readOperandLine o K b r).2.2 := by
  unfold State.readOperandLine
  extract_lets
  split
  · dsimp only
    split
    · exact h.operandBytes.operandBytes
    · exact h.operandBytes
  · split
    rename_i s₁ e₁
    have h₁ : Canon s₁ := by
      refine .snd₃ ?_ e₁
      split
      · exact h.operandBytes
      · exact h.foldl₄ fun _ _ h₂ => h₂.operandBytes
    dsimp only
    split
    · exact h₁.operandScale.operandScale
    · exact h₁.operandScale

theorem Canon.readOperand (h : Canon s) : Canon (s.readOperand o K b).2.2.2.2 := by
  unfold State.readOperand
  refine List.foldlRecOn (motive := fun x : List (List Val) × Events × Bool × Bool × Operand × State => Canon x.2.2.2.2.2) _ _ h ?_
  exact fun _ h₁ _ _ => h₁.readOperandLine


-- Sys2Proof/Machine/Partner.lean

theorem Canon.modPartner (h : Canon s) : Canon (s.modPartner c f) := h.modCore

theorem Canon.modPRun (h : Canon s) : Canon (s.modPRun c f) := h.modPartner

theorem Canon.modAcc (h : Canon s) : Canon (s.modAcc t k f) := h.onTask

theorem Canon.leaveJoint (h : Canon s) : Canon (s.leaveJoint p) := by
  unfold State.leaveJoint
  extract_lets +onlyGivenNames _ _ s₁
  have h₁ : Canon s₁ := h.modTask
  split
  · exact h₁
  · exact .ite h₁ (.ite (.foldl (h₁.congr rfl) fun _ _ h₂ => h₂.kickPartner) (.post (h₁.congr rfl)))

theorem Canon.wakeMatrix (h : Canon s) : Canon (s.wakeMatrix p) := by
  unfold State.wakeMatrix
  refine .ite h ?_
  split
  · exact .ite h (.ite (OptCanon.getD h.finishBlocking h) h.wakePast)
  · exact .ite h h.leaveJoint.wakePast
  · exact h

theorem Canon.completeCommand (h : Canon s) : Canon (s.completeCommand t m a) := by
  unfold State.completeCommand
  extract_lets _ s₁ _
  have h₁ : Canon s₁ := .ite h.pendDone h.pendDone.modAcc
  exact .wakeMatrix (.ite h₁.modSlot.wake h₁)

theorem Canon.freePartner (h : Canon s) : Canon (s.freePartner c) := h.modPartner.kickPartner

theorem Canon.endMultiply (h : Canon s) : Canon (s.endMultiply c r a) :=
  .ite h.freePartner.completeCommand (.completeCommand (.freePartner (.ite h.onTask.noteTk.taskError h.onTask.noteTk)))

theorem Canon.endPiece (h : Canon s) : Canon (s.endPiece c r a) := by
  unfold State.endPiece
  extract_lets
  split
  · refine .foldl h.modPartner fun _ _ h₁ => ?_
    split
    · exact h₁.endMultiply
    · exact h₁
  · exact h.modPartner

theorem Canon.endRunMultiply (h : Canon s) : Canon (s.endRunMultiply c r a) := .ite h.endPiece h.endMultiply

theorem Canon.raiseLate (h : Canon s) : Canon (s.raiseLate t p) := .ite h.fresh.onTask.takeTraps h.fresh.onTask

theorem Canon.grasp (h : Canon s) : Grasp.Canon (s.grasp c a r l) := by
  unfold State.grasp
  extract_lets
  split
  · rename_i e₁
    exact h.reachAll.ok e₁
  · rename_i e₂
    exact (h.reachAll.walk e₂).translated
  · rename_i e₃
    exact (h.reachAll.refill e₃).joinRefill fun _ h₄ => h₄.sendRecord
  · rename_i e₅
    exact (h.reachAll.fault e₅).behalfFault

theorem Grasp.Canon.andThen (h : Grasp.Canon g) (hf : ∀ s, Machine.Canon s → Grasp.Canon (f s)) : Grasp.Canon (Machine.Grasp.andThen g f) := by
  cases g with
  | ok s => exact hf s h
  | later s => exact h
  | fault s => exact h

theorem Canon.graspOperand (h : Canon s) : Grasp.Canon (s.graspOperand c r o) :=
  (h.grasp.andThen fun _ h₁ => h₁.grasp).andThen fun _ h₂ => h₂.grasp

theorem Canon.retain (h : Canon s) : Canon (s.retain c r) := .ite h (.ite h.modPRun.modPRun h.modPRun.modPRun.modAcc)

theorem Canon.startBlock (h : Canon s) : Canon (s.startBlock c b) := by
  unfold State.startBlock
  split
  · exact h
  · rename_i r _
    extract_lets +onlyGivenNames again stop
    have hagain : ∀ s, Canon s → Canon (again s) := fun _ h₁ => h₁.post
    have hstop : ∀ s, Canon s → Canon (stop s) := fun _ h₂ => h₂.modPRun
    have hg := (h.graspOperand (c := c) (r := r) (o := r.a)).andThen fun _ h₄ => h₄.graspOperand (c := c) (r := r) (o := r.b)
    split
    · rename_i e₃
      exact hagain _ (hg.later e₃)
    · rename_i e₅
      exact hstop _ (hg.fault e₅)
    · rename_i s₆ e₆
      have h₆ : Canon s₆ := hg.ok e₆
      refine .ite h₆.readOperand.readOperand.endRunMultiply (.ite h₆.readOperand.readOperand.endRunMultiply.raiseLate ?_)
      split
      · exact h₆.readOperand.readOperand.modPRun.post
      · rename_i e₇
        exact (h₆.readOperand.readOperand.budgeted.some e₇).modPRun.retain.post

theorem Canon.injectBlock (h : Canon s) : Canon (s.injectBlock c r) := .ite h (.ite h.modCore h.modAcc.modCore)

theorem Canon.stopRun (h : Canon s) : Canon (s.stopRun c r) := h.modSlot.freePartner

theorem Canon.execKBlockComplete (h : Canon s) : OutCanon (Machine.execKBlockComplete s) := by
  unfold Machine.execKBlockComplete
  split
  · split
    · exact h
    · exact .ite h.modAcc.modPRun.injectBlock.endRunMultiply (.ite h.modAcc.modPRun.injectBlock.stopRun h.modAcc.modPRun.injectBlock.startBlock)
  · exact h

theorem Canon.beginMultiply (h : Canon s) : Canon (s.beginMultiply c r) := .modPartner (.ite h.modAcc h)

theorem Canon.beginCommand (h : Canon s) : Canon (s.beginCommand c p m) := by
  unfold State.beginCommand
  extract_lets +onlyGivenNames _ _ _ _ _
  refine .ite h.completeCommand.kickPartner (.ite h.completeCommand.kickPartner ?_)
  extract_lets +onlyGivenNames later
  have hlater : ∀ a, Canon (later a) := fun _ => h.modPartner.post
  exact .ite (hlater _) (.ite (hlater _) (.ite (hlater _) h.beginMultiply.startBlock))

theorem Canon.queueFreed (h : Canon s) : Canon (s.queueFreed p) := h.wake.wake

theorem Canon.serveQueues (h : Canon s) : Canon (State.serveQueues c l s) := by
  induction l generalizing s with
  | nil => exact h
  | cons k ks ih =>
    unfold State.serveQueues
    extract_lets _ _ _
    split
    · exact ih h
    · exact ih h.post
    · exact h.modPartner.modSlot.queueFreed.beginCommand
    · exact h.modPartner.modSlot.queueFreed.completeCommand.kickPartner
    · exact .ite h.post h
    · extract_lets _
      split
      · exact h.modPartner.modSlot.modPartner.endPiece
      · exact h.modPartner.modSlot.modPartner.startBlock

theorem Canon.execMatrixOpStart (h : Canon s) : OutCanon (Machine.execMatrixOpStart s) := by
  unfold Machine.execMatrixOpStart
  split
  · exact .ite h.modPartner h.modPartner.serveQueues
  · split
    · exact .ite h.stopRun h.startBlock
    · exact h
  · exact h

theorem Canon.loadValues (h : Canon s) : Canon (s.loadValues c a d).2.2.2 := h.foldl₄ fun _ _ h₁ => h₁.rowBits

theorem Canon.drainTile (h : Canon s) : Canon (s.drainTile p a d m b).2 := h.foldl_snd fun _ _ h₁ => h₁.putRow

theorem Canon.finishCommand (h : Canon s) : Canon (s.finishCommand c r) := by
  unfold State.finishCommand
  extract_lets +onlyGivenNames _ _ _ _ again stop done _
  have hagain : ∀ s, Canon s → Canon (again s) := fun _ h₁ => h₁.post
  have hstop : ∀ s, Canon s → Canon (stop s) := fun _ h₂ => h₂.modPRun
  have hdone : ∀ s b, Canon s → Canon (done s b) := fun _ _ h₃ => h₃.freePartner.completeCommand
  refine .ite (hdone _ _ h.modAcc) (.ite ?_ ?_)
  · split
    · rename_i e₄
      exact hagain _ (h.grasp.later e₄)
    · rename_i e₅
      exact hstop _ (h.grasp.fault e₅)
    · rename_i s₆ e₆
      have h₆ : Canon s₆ := h.grasp.ok e₆
      exact .ite (hdone _ _ h₆.loadValues.modAcc.taskError) (hdone _ _ h₆.loadValues.modAcc.modAcc.noteTk)
  · extract_lets +onlyGivenNames corr
    have hcorr : ∀ s, Canon s → Canon (corr s) := fun _ h₇ => .ite h₇ (.ite h₇.noteTk.modPartner h₇.noteTk.modPartner.taskError)
    refine .ite (hdone _ _ (hcorr _ h)) ?_
    split
    · rename_i e₈
      exact hagain _ (h.grasp.later e₈)
    · rename_i e₉
      exact hstop _ (h.grasp.fault e₉)
    · rename_i e₁₀
      exact hdone _ _ (hcorr _ (h.grasp.ok e₁₀).drainTile.noteTk).modAcc

theorem Canon.checkCommand (h : Canon s) : Canon (s.checkCommand c r) := by
  unfold State.checkCommand
  extract_lets
  split
  · exact h.modPRun.post
  · exact .ite h.modAcc.modPRun.finishCommand h.modAcc.modPRun.post

theorem Canon.execMatrixCommandComplete (h : Canon s) : OutCanon (Machine.execMatrixCommandComplete s) := by
  unfold Machine.execMatrixCommandComplete
  split
  · split
    · exact h
    · exact .ite h.checkCommand h.finishCommand
  · exact h

theorem Canon.resumePartner (h : Canon s) : Canon (s.resumePartner c) := by
  unfold State.resumePartner
  split
  · exact h
  · exact .ite h h.modPRun.post

theorem Canon.abandonPartner (h : Canon s) : Canon (s.abandonPartner p) := by
  unfold State.abandonPartner
  extract_lets
  split
  · exact .ite h.modTask.modSlot.freePartner h.modTask.modSlot
  · exact h.modTask.modSlot

theorem Canon.execJointOpStart (h : Canon s) : OutCanon (Machine.execJointOpStart s) := by
  unfold Machine.execJointOpStart
  split
  · split
    · exact h
    · extract_lets +onlyGivenNames heads
      clear_value heads
      split
      · exact h
      · refine Canon.ite h ?_
        extract_lets +onlyGivenNames _ _ _ s₁
        have h₁ : Canon s₁ := h.foldl fun _ _ h₂ => h₂.modSlot.queueFreed.modPartner
        exact .ite (h₁.foldl fun _ _ h₃ => h₃.completeCommand.kickPartner) ((h₁.foldl fun _ _ h₄ => h₄.beginMultiply).foldl fun _ _ h₅ =>
          h₅.startBlock)
  · exact h

theorem Canon.execJointGroupForm (h : Canon s) : OutCanon (Machine.execJointGroupForm s) := by
  unfold Machine.execJointGroupForm
  split
  · refine Canon.ite h ?_
    extract_lets +onlyGivenNames cores tags
    split
    · exact h
    · exact Canon.foldl (h.congr rfl) fun _ _ h₁ => h₁.modTask.wakePast
  · exact h

theorem Canon.enterMatrix (h : Canon s) : Canon (Machine.enterMatrix o a t b s) :=
  .ite h.formatFault (.ite h.trapUnissued (.ite h.formatFault (.ite h.waitTurn (.ite h.park (.advance (.ite h.enterCommand.setMy h.enterCommand))))))

theorem Canon.execMma (h : Canon s) : OutCanon (Machine.execMma c a b s) := h.enterMatrix

theorem Canon.execMmat (h : Canon s) : OutCanon (Machine.execMmat c a b s) := h.enterMatrix

theorem Canon.execMmas (h : Canon s) : OutCanon (Machine.execMmas c a b s) := h.enterMatrix

theorem Canon.execMmaj (h : Canon s) : OutCanon (Machine.execMmaj c a b s) := .ite h.formatFault h.enterMatrix

theorem Canon.execMzero (h : Canon s) : OutCanon (Machine.execMzero c s) := h.enterMatrix

theorem Canon.execMload (h : Canon s) : OutCanon (Machine.execMload c a s) := h.enterMatrix

theorem Canon.execMdrain (h : Canon s) : OutCanon (Machine.execMdrain c a s) := h.enterMatrix

theorem Canon.execMchk (h : Canon s) : OutCanon (Machine.execMchk c s) := h.enterMatrix

theorem Canon.execMstat (h : Canon s) : OutCanon (Machine.execMstat c d s) := .ite h.formatFault h.blockOpen.postAt

theorem Canon.mstatDone (h : Canon s) : Canon (s.mstatDone t i a d) := by
  unfold State.mstatDone
  split
  · split
    · exact h.finishSaved
    · exact h
  · exact .ite h.completeWait h.completeWait

theorem Canon.execMwait (h : Canon s) : OutCanon (Machine.execMwait c s) := .ite h.formatFault (.ite h.park h.block)

theorem Canon.execMjoin (h : Canon s) : OutCanon (Machine.execMjoin r s) :=
  .ite h.formatFault (.ite h.formatFault (h.with1 fun _ _ h₁ => .ite h₁.formatFault h₁.park.post))

theorem Canon.execMleave (h : Canon s) : OutCanon (Machine.execMleave s) := .ite h.formatFault (.ite h.park h.leaveJoint.block)


-- Sys2Proof/Machine/MemCtl.lean

theorem Canon.blockPoll (h : Canon s) : Canon (s.blockPoll m) := h.blockOpen.postAt

theorem Canon.execFence (h : Canon s) : OutCanon (Machine.execFence a k s) := h.setMy.blockPoll

theorem Canon.execScfence (h : Canon s) : OutCanon (Machine.execScfence a s) := h.blockPoll

theorem Canon.execWack (h : Canon s) : OutCanon (Machine.execWack s) := .ite h.block h.blockPoll

theorem Canon.fenceSeal (h : Canon s) : Canon (s.fenceSeal t i a l) := h.sealHand.modTask.completeWait

theorem Canon.fenceGo (h : Canon s) : Canon (s.fenceGo t i a k) := by
  unfold State.fenceGo
  split
  · extract_lets
    split
    · rename_i e₁
      exact h.acquire.some e₁
    · exact .ite h.modTask.postAt h.modTask.completeWait
  · exact h.fenceSeal

theorem Canon.fenceCompletion (h : Canon s) : OutCanon (Machine.fenceCompletion s) := by
  unfold Machine.fenceCompletion
  split
  · exact h.completeWait
  · exact h.mstatDone
  · split
    · exact h
    · exact .ite h.postAt h.postAt
  · exact .ite h.fenceGo h
  · split
    · exact h
    · split
      · exact h.drain.postAt
      · exact h.postAt
  · split
    · exact h
    · split
      · exact h.emptyInsts.postAt
      · exact h.postAt
  · split
    · exact h
    · split
      · exact h.completeWait
      · exact h.postAt
  · exact h

theorem Canon.placesOf (h : Canon s) : PlacesCanon (Machine.placesOf l s a) := by
  induction l generalizing s a with
  | nil => exact h
  | cons v r ih =>
    unfold Machine.placesOf
    split
    · rename_i e
      exact h.resolve.stop e
    · rename_i e
      exact ih (h.resolve.ok e)

theorem Canon.maintain (h : Canon s) : Canon (Machine.maintain i a b c s) := by
  unfold Machine.maintain
  refine .with2 h fun _ _ _ h₁ => ?_
  extract_lets
  refine .ite h₁.block (.ite h₁.formatFaultAt ?_)
  split
  · rename_i e₂
    exact h₁.placesOf.error e₂
  · rename_i s₃ e₃
    have h₃ : Canon s₃ := h₁.placesOf.ok e₃
    exact .ite h₃.waitTurn (.block (.foldl₃ h₃ fun _ _ h₄ => .foldl₃ h₄ fun _ _ h₅ => .ite (.removeCopies (.lift h₅)) (.lift h₅)))

theorem Canon.execClean (h : Canon s) : OutCanon (Machine.execClean a b c s) := h.maintain

theorem Canon.execInval (h : Canon s) : OutCanon (Machine.execInval a b c s) := h.maintain

theorem Canon.execDiscard (h : Canon s) : OutCanon (Machine.execDiscard a s) :=
  h.with1 fun _ _ h₁ => .ite h₁.formatFault ((h₁.modMem rfl).foldl fun _ _ h₂ => h₂.lineGone).block

theorem Canon.execPref (h : Canon s) : OutCanon (Machine.execPref a s) := by
  unfold Machine.execPref
  refine .with1 h fun _ _ h₁ => ?_
  extract_lets
  split
  · exact h₁.advance
  · refine .ite h₁.advance ?_
    split
    · exact .ite h₁.advance (.advance (h₁.joinRefill fun _ h₂ => h₂))
    · exact h₁.advance
  · split
    · exact h₁.advance
    · rename_i s₃ e₃
      have h₃ : Canon s₃ := h₁.tlbLook.some e₃
      exact .ite h₃.advance h₃.fresh.setMy.startAcc.advance

theorem Canon.execWaita (h : Canon s) : OutCanon (Machine.execWaita d a b s) :=
  h.with2 fun _ _ _ h₁ => h₁.withAccess fun _ _ h₂ => h₂.ownCopies fun _ h₃ => .ite h₃.fresh.park.applyReq h₃.fresh.park.sendReq

theorem Canon.execWake (h : Canon s) : OutCanon (Machine.execWake a s) := h.with1 fun _ _ h₁ => h₁.withPlace fun _ _ h₂ => h₂.post.advance


-- Sys2Proof/Machine/Tiles.lean

theorem Canon.withTiles (h : Canon s) (hf : ∀ s, Canon s → Canon (f s)) : Canon (Machine.withTiles t s f) := .ite (hf _ h) h.formatFault

theorem Canon.setTile (h : Canon s) : Canon (Machine.setTile t v s) := .ite h.setMy.advance h.formatFault

theorem Canon.execTdef (h : Canon s) : OutCanon (Machine.execTdef t r s) := h.withTiles fun _ h₁ => h₁.with2 fun _ _ _ h₂ => h₂.setTile

theorem Canon.execTshape (h : Canon s) : OutCanon (Machine.execTshape t r s) :=
  h.withTiles fun _ h₁ => h₁.with1 fun _ _ h₂ => .ite h₂.formatFault h₂.setTile

theorem Canon.execTbase (h : Canon s) : OutCanon (Machine.execTbase t r s) :=
  h.withTiles fun _ h₁ => h₁.with1 fun _ _ h₂ => .ite h₂.formatFault h₂.setTile

theorem Canon.execTgetHalf0 (h : Canon s) : OutCanon (Machine.execTgetHalf0 a r s) := h.withTiles fun _ h₁ => h₁.finishShort

theorem Canon.execTgetHalf1 (h : Canon s) : OutCanon (Machine.execTgetHalf1 a r s) := h.withTiles fun _ h₁ => h₁.finishShort

theorem Canon.postUnit (h : Canon s) : Canon (s.postUnit a p r k i) := h.post

theorem Canon.countRun (h : Canon s) : Canon (s.countRun p r k) := .ite h h.modCore

theorem Canon.uncountRun (h : Canon s) : Canon (s.uncountRun p r k) := .ite h h.modCore

theorem Canon.uncountRuns (h : Canon s) : Canon (s.uncountRuns p) := .modTask (h.foldl fun _ _ h₁ => h₁.uncountRun)

theorem Canon.recvUnit (h : Canon s) : Canon (s.recvUnit p r k) := by
  unfold State.recvUnit
  split
  · exact h
  · exact h
  · exact h.foldl fun _ _ h₁ => h₁.countRecv

theorem Canon.startTile (h : Canon s) : Canon (Machine.startTile l r s) := by
  unfold Machine.startTile
  extract_lets +onlyGivenNames _ _ _ _ _ _ first go
  have hgo : ∀ s, Canon s → Canon (go s) := fun _ h₁ => .ite h₁.waitTurn h₁.fresh.startLong.setMy.countRun.postUnit
  clear_value first
  split
  · exact hgo _ h
  · exact h.withPlace fun _ _ h₂ => hgo _ h₂

theorem Canon.tileOp (h : Canon s) : Canon (Machine.tileOp o n d a b c x l e s) := h.withTiles fun _ h₁ => .ite h₁.startTile h₁.formatFault

theorem Canon.tileImage (h : Canon s) : Canon (Machine.tileImage o n d a r l s) :=
  h.withTiles fun _ h₁ => h₁.with1 fun _ _ h₂ => .ite h₂.formatFault (.ite h₂.formatFaultAt h₂.startTile)

theorem Canon.tileParam (h : Canon s) : Canon (Machine.tileParam o n d a r l s) := by
  unfold Machine.tileParam
  refine .withTiles h fun _ h₁ => ?_
  refine .with1 h₁ fun _ _ h₂ => ?_
  split
  · exact h₂.formatFaultAt
  · exact .ite h₂.formatFault (.ite h₂.formatFaultAt h₂.startTile)

theorem Canon.tileScalar (h : Canon s) : Canon (Machine.tileScalar o n d a r l b s) :=
  h.withTiles fun _ h₁ => h₁.with1 fun _ _ h₂ => h₂.tileOp

theorem Canon.endRun (h : Canon s) : Canon (s.endRun p r a) := by
  unfold State.endRun
  extract_lets _ s₁
  have h₁ : Canon s₁ := by
    dsimp only [s₁]
    split
    · exact h.modTask
    · exact h.modTask.uncountRun.modTask
  exact h₁.finishLong

theorem Canon.recordRun (h : Canon s) : Canon (s.recordRun p a c b d e t) := .ite h.modSlot h.modSlot.sendRecord

theorem Canon.faultRun (h : Canon s) : Canon (s.faultRun p r c a b d t) := .ite h.modTask.recordRun h.modTask

theorem Canon.stepRun (h : Canon s) : Canon (s.stepRun p r) := by
  unfold State.stepRun
  extract_lets +onlyGivenNames _ _ _ again hold _
  have hagain : ∀ {s b}, Canon s → Canon (again s b) := fun h₁ => h₁.postUnit
  have hhold : ∀ {s b}, Canon s → Canon (hold s b) := fun h₂ => h₂.modTask
  refine .ite (.ite (hagain h) h.endRun) ?_
  extract_lets +onlyGivenNames _
  refine .ite h.endRun ?_
  split
  · rename_i e₃
    exact .joinWalk (hhold (h.reachAll.walk e₃))
  · rename_i e₄
    exact hagain (hhold ((h.reachAll.refill e₄).joinRefill fun _ h₅ => h₅.sendRecord))
  · rename_i e₆
    exact (h.reachAll.fault e₆).faultRun
  · rename_i s₇ e₇
    have h₇ : Canon s₇ := h.reachAll.ok e₇
    refine .ite (hagain (.ite h₇.park h₇)) ?_
    extract_lets +onlyGivenNames _ s₈
    have h₈ : Canon s₈ := .ite (.wake (hhold h₇.wake)) h₇.wake
    split
    · rename_i e₉
      exact (h₈.tileUnit.poison e₉).endRun
    · rename_i e₁₀
      exact (h₈.tileUnit.malformed e₁₀).endRun
    · rename_i s₁₁ e₁₁
      have h₁₁ : Canon s₁₁ := h₈.tileUnit.ok e₁₁
      extract_lets +onlyGivenNames s₁₂ _ s₁₃
      have h₁₃ : Canon s₁₃ := h₁₁.noteAt.recvUnit.modTask
      exact .ite h₁₃.endRun (.ite (.ite (hagain h₁₃) h₁₃.endRun) (.ite h₁₃.modTask (hagain h₁₃)))

theorem Canon.runUnit (h : Canon s) : Canon (s.runUnit t i) := by
  unfold State.runUnit
  refine .ite h ?_
  split
  · exact h
  · exact .ite h h.stepRun

theorem Canon.resumeRuns (h : Canon s) : Canon (s.resumeRuns p r a) := by
  unfold State.resumeRuns
  extract_lets +onlyGivenNames _
  refine .foldl h fun _ _ h₁ => ?_
  refine .ite h₁ ?_
  extract_lets +onlyGivenNames _ _ s₂ _ _ _
  have h₂ : Canon s₂ := .ite h₁ h₁.countRun
  exact .postUnit (.ite h₂.modTask.modTask h₂.modTask)

theorem Canon.dropRuns (h : Canon s) : Canon (s.dropRuns p) := h.foldl fun _ _ h₁ => h₁.uncountRun.endRun

theorem Canon.parkForRun (h : Canon s) : OptCanon s.parkForRun := by
  unfold State.parkForRun
  split
  · exact trivial
  · split
    · exact h.park.recordRun
    · exact h.park
    · exact trivial

theorem Canon.execLongResultReady (h : Canon s) : OutCanon (Machine.execLongResultReady s) := by
  unfold Machine.execLongResultReady
  split
  · exact .ite h.finishLong h
  · exact h.runUnit
  · exact h

theorem Canon.execTld (h : Canon s) : OutCanon (Machine.execTld t r n s) := h.tileImage

theorem Canon.execTst (h : Canon s) : OutCanon (Machine.execTst t r n s) := h.tileImage

theorem Canon.execTgath (h : Canon s) : OutCanon (Machine.execTgath t a r n s) := h.tileImage

theorem Canon.execTscat (h : Canon s) : OutCanon (Machine.execTscat t a r n s) := h.tileImage

theorem Canon.execTcpy (h : Canon s) : OutCanon (Machine.execTcpy t a n s) := h.tileOp

theorem Canon.execTfill (h : Canon s) : OutCanon (Machine.execTfill t r n s) := h.tileScalar

theorem Canon.execTtrans (h : Canon s) : OutCanon (Machine.execTtrans t a n s) := h.tileOp

theorem Canon.execTrot (h : Canon s) : OutCanon (Machine.execTrot t a r n s) := h.tileScalar

theorem Canon.execTadd (h : Canon s) : OutCanon (Machine.execTadd d a b x n s) := h.tileOp

theorem Canon.execTsub (h : Canon s) : OutCanon (Machine.execTsub d a b x n s) := h.tileOp

theorem Canon.execTmul (h : Canon s) : OutCanon (Machine.execTmul d a b x n s) := h.tileOp

theorem Canon.execTfma (h : Canon s) : OutCanon (Machine.execTfma d a b c x n s) := h.tileOp

theorem Canon.execTdiv (h : Canon s) : OutCanon (Machine.execTdiv d a b x n s) := h.tileOp

theorem Canon.execTmax (h : Canon s) : OutCanon (Machine.execTmax d a b n s) := h.tileOp

theorem Canon.execTmin (h : Canon s) : OutCanon (Machine.execTmin d a b n s) := h.tileOp

theorem Canon.execTabs (h : Canon s) : OutCanon (Machine.execTabs d a n s) := h.tileOp

theorem Canon.execTneg (h : Canon s) : OutCanon (Machine.execTneg d a n s) := h.tileOp

theorem Canon.execTexp (h : Canon s) : OutCanon (Machine.execTexp d a x n s) := h.tileOp

theorem Canon.execTlog (h : Canon s) : OutCanon (Machine.execTlog d a x n s) := h.tileOp

theorem Canon.execTrsq (h : Canon s) : OutCanon (Machine.execTrsq d a x n s) := h.tileOp

theorem Canon.execTrcp (h : Canon s) : OutCanon (Machine.execTrcp d a x n s) := h.tileOp

theorem Canon.execTtanh (h : Canon s) : OutCanon (Machine.execTtanh d a x n s) := h.tileOp

theorem Canon.execTerf (h : Canon s) : OutCanon (Machine.execTerf d a x n s) := h.tileOp

theorem Canon.execTiadd (h : Canon s) : OutCanon (Machine.execTiadd d a b x n s) := h.tileOp

theorem Canon.execTisub (h : Canon s) : OutCanon (Machine.execTisub d a b x n s) := h.tileOp

theorem Canon.execTimul (h : Canon s) : OutCanon (Machine.execTimul d a b x n s) := h.tileOp

theorem Canon.execTand (h : Canon s) : OutCanon (Machine.execTand d a b n s) := h.tileOp

theorem Canon.execTor (h : Canon s) : OutCanon (Machine.execTor d a b n s) := h.tileOp

theorem Canon.execTxor (h : Canon s) : OutCanon (Machine.execTxor d a b n s) := h.tileOp

theorem Canon.execTshl (h : Canon s) : OutCanon (Machine.execTshl d a b n s) := h.tileOp

theorem Canon.execTshr (h : Canon s) : OutCanon (Machine.execTshr d a b n s) := h.tileOp

theorem Canon.execTadds (h : Canon s) : OutCanon (Machine.execTadds d a r x n s) := h.tileScalar

theorem Canon.execTmuls (h : Canon s) : OutCanon (Machine.execTmuls d a r x n s) := h.tileScalar

theorem Canon.execTfmas (h : Canon s) : OutCanon (Machine.execTfmas d a r x n s) := h.tileScalar

theorem Canon.execTmaxs (h : Canon s) : OutCanon (Machine.execTmaxs d a r n s) := h.tileScalar

theorem Canon.execTcmp (h : Canon s) : OutCanon (Machine.execTcmp d a b k n s) := h.tileOp

theorem Canon.execTsel (h : Canon s) : OutCanon (Machine.execTsel d a b c n s) := h.tileOp

theorem Canon.execTrsum (h : Canon s) : OutCanon (Machine.execTrsum d a n s) := h.tileOp

theorem Canon.execTcsum (h : Canon s) : OutCanon (Machine.execTcsum d a n s) := h.tileOp

theorem Canon.execTrmax (h : Canon s) : OutCanon (Machine.execTrmax d a n s) := h.tileOp

theorem Canon.execTcmax (h : Canon s) : OutCanon (Machine.execTcmax d a n s) := h.tileOp

theorem Canon.execTsum (h : Canon s) : OutCanon (Machine.execTsum d a n s) := h.tileOp

theorem Canon.execTcvt (h : Canon s) : OutCanon (Machine.execTcvt d a r x n s) := h.tileOp

theorem Canon.execTpack (h : Canon s) : OutCanon (Machine.execTpack d a n s) := h.tileOp

theorem Canon.execTunpack (h : Canon s) : OutCanon (Machine.execTunpack d a n s) := h.tileOp

theorem Canon.execTrand (h : Canon s) : OutCanon (Machine.execTrand d r n s) := h.tileParam

theorem Canon.execTdrop (h : Canon s) : OutCanon (Machine.execTdrop d a r n s) := h.tileParam


-- Sys2Proof/Machine/Scheduler.lean

theorem Canon.modHub (h : Canon s) : Canon (s.modHub f) := h.congr rfl

theorem Canon.modDeal (h : Canon s) : Canon (s.modDeal e f) := h.modHub

theorem Canon.modHwSlot (h : Canon s) : Canon (s.modHwSlot k f) := h.modHub

theorem Canon.hubWrite (h : Canon s) : Canon (s.hubWrite l n v) :=
  (h.foldl fun _ _ h₁ => h₁.probe).putBytesAt.foldl fun _ _ h₂ => h₂.bufWrite.wakeMonitors

theorem Canon.hubCopyWrite (h : Canon s) : Canon (s.hubCopyWrite l n v) :=
  (h.hubWrite.foldl fun _ _ h₁ => h₁.nextTag).foldl fun _ _ h₂ => h₂.clearRecord

theorem Canon.schedulerFault (h : Canon s) : Canon (s.schedulerFault e d c a b f) := .ite h.postHub.errorEvent h.postHub

theorem Canon.advanceQueue (h : Canon s) : Canon (s.advanceQueue k) :=
  .ite h.hubWrite.modHwSlot.modHub.postHub (.ite h.hubWrite.modHwSlot h.hubWrite.modHwSlot.postHub)

theorem Canon.restartAging (h : Canon s) : Canon (s.restartAging e) := by
  unfold State.restartAging
  split
  · exact h
  · exact .ite h (.ite h.fresh.modDeal.postHub h.fresh.modDeal)

theorem Canon.giveBack (h : Canon s) : Canon (s.giveBack e r) := .ite h.modDeal.restartAging h.modDeal

theorem Canon.endTask (h : Canon s) : Canon (s.endTask e a) := h.postHub

theorem Canon.place (h : Canon s) : Canon (s.place e d r c) :=
  .ite h.modDeal.postHub.endTask (.ite h.modDeal.restartAging.postHub
    (.ite h.modDeal.restartAging.postHub.advanceQueue h.modDeal.restartAging.postHub.modHwSlot))

theorem Canon.demandOn (h : Canon s) : Canon (State.demandOn c l n s) := by
  induction n generalizing s with
  | zero => exact h
  | succ n ih =>
    unfold State.demandOn
    split
    · exact h
    · exact .ite h (ih h.modSlot.postAt)

theorem Canon.placeGroup (h : Canon s) : Canon (s.placeGroup l q) := by
  unfold State.placeGroup
  refine .foldl h fun _ _ h₁ => ?_
  dsimp only
  split
  · exact h₁.place
  · exact h₁

theorem Canon.placeOn (h : Canon s) : Canon (State.placeOn c n s) := by
  induction n generalizing s with
  | zero => exact h
  | succ n ih =>
    unfold State.placeOn
    extract_lets
    split
    · exact h
    · split
      · exact ih h.placeGroup
      · split
        · exact h
        · exact ih h.place

theorem Canon.schedule (h : Canon s) : Canon (s.schedule c) :=
  .ite h (h.placeOn.foldl fun _ _ h₁ => .ite h₁.placeGroup h₁).demandOn.demandOn

theorem Canon.scheduleDeal (h : Canon s) : Canon (s.scheduleDeal e) := by
  unfold State.scheduleDeal
  split
  · exact .ite (h.foldl fun _ _ h₁ => h₁.schedule) h
  · exact h

theorem Canon.execPlacementEvent (h : Canon s) : OutCanon (Machine.execPlacementEvent s) := by
  unfold Machine.execPlacementEvent
  split
  · exact .ite h (.ite h.postHub h.putEvent)
  · exact h

theorem Canon.checkDone (h : Canon s) : Canon (s.checkDone e) := by
  unfold State.checkDone
  split
  · exact .ite h.modDeal.postHub h
  · exact h

theorem Canon.writeCompletion (h : Canon s) : Canon (s.writeCompletion e) := by
  unfold State.writeCompletion
  split
  · exact h
  · refine .ite h ?_
    extract_lets +onlyGivenNames _
    split
    · exact .postHub (.modDeal (.ite h h.schedulerFault))
    · extract_lets +onlyGivenNames _
      split
      rename_i e₁
      have h₁ := Canon.foldl_fst e₁ h fun _ _ h₂ => h₂.hubCopyWrite
      extract_lets +onlyGivenNames _ s₃
      have h₃ : Canon s₃ := h₁.mapCores.modHub
      split
      · exact h₃
      · exact h₃.postHub

theorem Canon.execCompletionRecordWrite (h : Canon s) : OutCanon (Machine.execCompletionRecordWrite s) := by
  unfold Machine.execCompletionRecordWrite
  split
  · exact h.modDeal.checkDone
  · exact h.writeCompletion
  · exact h

theorem Canon.execCompletionRecordRetry (h : Canon s) : OutCanon (Machine.execCompletionRecordRetry s) := by
  unfold Machine.execCompletionRecordRetry
  split
  · exact h.writeCompletion
  · exact h

theorem Canon.bindQueue (h : Canon s) : Canon (s.bindQueue k q) := h.modHwSlot.modHub.postHub

theorem Canon.execNotifyWord (h : Canon s) : OutCanon (Machine.execNotifyWord s) := by
  unfold Machine.execNotifyWord
  split
  · refine .ite h ?_
    split
    · exact .ite h.bindQueue h
    · exact .ite h h.modHub.postHub
  · exact h

theorem Canon.execQueueSlotBind (h : Canon s) : OutCanon (Machine.execQueueSlotBind s) := by
  unfold Machine.execQueueSlotBind
  split
  · exact .ite h.modHub.bindQueue h.modHub.bindQueue.postHub
  · exact h

theorem Canon.reject (h : Canon s) : Canon (s.reject e c) := by
  unfold State.reject
  split
  · exact h
  · exact h.modDeal.tally.advanceQueue.postHub

theorem Canon.mapDeal (h : Canon s) : Canon (s.mapDeal e a t) := h.modDeal

theorem Canon.startPlacing (h : Canon s) : Canon (s.startPlacing e) := by
  unfold State.startPlacing
  split
  · exact .ite h.restartAging.scheduleDeal h
  · exact h

theorem Canon.makeReady (h : Canon s) : Canon (s.makeReady e c) := by
  unfold State.makeReady
  split
  · exact h
  · exact h.modDeal.modHwSlot.startPlacing

theorem Canon.meetCounter (h : Canon s) : Canon (s.meetCounter e) := by
  unfold State.meetCounter
  split
  · exact h
  · exact .ite h.makeReady (.ite h.modDeal (.ite h.makeReady h.modHub.modDeal.modHwSlot))

theorem Canon.freeCounter (h : Canon s) : Canon (s.freeCounter k) := h.foldl fun _ _ h₁ => .ite h₁ h₁.meetCounter

theorem Canon.fixMapping (h : Canon s) : Canon (s.fixMapping e) := by
  unfold State.fixMapping
  split
  · exact h
  · extract_lets
    refine .ite h ?_
    split
    · exact .ite h.reject h.reject.modHub.freeCounter
    · exact .postHub (.modDeal (.ite h h.schedulerFault))
    · exact h.mapDeal.startPlacing

theorem Canon.intake (h : Canon s) : Canon (s.intake e) := by
  unfold State.intake
  split
  · exact h
  · extract_lets
    refine .ite h.reject ?_
    extract_lets
    split
    · exact h.reject
    · exact .postHub (.modDeal (.ite h h.schedulerFault))
    · exact .meetCounter (.modDeal (.ite h h.mapDeal))

theorem Canon.execDealIntake (h : Canon s) : OutCanon (Machine.execDealIntake s) := by
  unfold Machine.execDealIntake
  split
  · split
    · extract_lets +onlyGivenNames _ r
      clear_value r
      split
      · exact h.modHub.modHwSlot.homeRead.postHub
      · exact h.modHub.modHwSlot.homeRead.postHub.postHub
    · exact h
  · split
    · exact h
    · exact Canon.ite h h.modDeal.postHub
  · exact Canon.ite h h.intake
  · exact h

theorem Canon.execTableReadRetry (h : Canon s) : OutCanon (Machine.execTableReadRetry s) := by
  unfold Machine.execTableReadRetry
  split
  · split
    · exact .ite h (.ite h.intake h.fixMapping)
    · exact h
  · exact h

theorem Canon.execDealMappingFix (h : Canon s) : OutCanon (Machine.execDealMappingFix s) := by
  unfold Machine.execDealMappingFix
  split
  · exact h.fixMapping
  · exact h

theorem Canon.execAgingTick (h : Canon s) : OutCanon (Machine.execAgingTick s) := by
  unfold Machine.execAgingTick
  split
  · split
    · exact .ite h h.modDeal.postHub.scheduleDeal
    · exact h
  · exact h

theorem Canon.execSliceExpiry (h : Canon s) : OutCanon (Machine.execSliceExpiry s) := by
  unfold Machine.execSliceExpiry
  split
  · exact .ite h.schedule h
  · exact h

theorem Canon.applyCounter (h : Canon s) : Canon (s.applyCounter k d v) := by
  unfold State.applyCounter
  extract_lets _ s₁ _ _
  have h₁ : Canon s₁ := .ite h.tally h
  split
  · exact .ite h₁.modHub h₁.modHub.modHub.makeReady.freeCounter
  · exact h₁.modHub

theorem Canon.execCounterRequestArrival (h : Canon s) : OutCanon (Machine.execCounterRequestArrival s) := by
  unfold Machine.execCounterRequestArrival
  split
  · exact .ite h h.applyCounter
  · exact h

theorem Canon.depMember (h : Canon s) : Canon (Machine.depMember a d v s) :=
  .ite h.formatFault (.ite h.formatFault (.ite h.waitTurn (.block (.post (.ite_snd h.drain h)))))

theorem Canon.execDepinit (h : Canon s) : OutCanon (Machine.execDepinit a b s) := h.with2 fun _ _ _ h₁ => h₁.depMember

theorem Canon.execDepdec (h : Canon s) : OutCanon (Machine.execDepdec a s) := h.with1 fun _ _ h₁ => h₁.depMember

theorem Canon.execLaunch (h : Canon s) : OutCanon (Machine.execLaunch d a b s) :=
  h.with2 fun _ _ _ h₁ => .ite h₁.formatFaultAt (.ite h₁.formatFault
    (h₁.withAccess fun _ _ h₂ => .ite h₂.waitTurn (.postAt (.blockOpen (.ite_snd h₂.drain.readScratch h₂.drain.readLine)))))

theorem Canon.launched (h : Canon s) : Canon (s.launched t i n r p v d) :=
  .ite h (.ite h.completeWait (.ite h.completeWait (.ite h.completeWait (.ite h.postAt h.hubWrite.hubWrite.completeWait))))


-- Sys2Proof/Machine/SysRegs.lean

theorem Canon.crWrite (h : Canon s) : OptCanon (s.crWrite p c v) := by
  unfold State.crWrite
  extract_lets
  split
  · split
    · exact h
    · exact OptCanon.map_of fun _ => h.modTask
  · split
    · split
      · exact trivial
      · exact .ite h.modCore.postAt h.modCore
    · split
      · split
        · exact trivial
        · exact h.modCore
      · split
        · exact h.behalfFault
        · exact h.postAt

theorem Canon.execCrrd (h : Canon s) : OutCanon (Machine.execCrrd d r s) := .ite h.noIssue h.finishShort

theorem Canon.crUpdate (h : Canon s) : OutCanon (Machine.crUpdate f a r s) := by
  unfold Machine.crUpdate
  extract_lets
  refine .ite h.noIssue (.with1 h fun _ _ h₁ => ?_)
  split
  · rename_i e₂
    exact (h₁.crWrite.some e₂).advance
  · exact h₁.formatFault

theorem Canon.execCrwr (h : Canon s) : OutCanon (Machine.execCrwr a r s) := h.crUpdate

theorem Canon.execCrset (h : Canon s) : OutCanon (Machine.execCrset a r s) := h.crUpdate

theorem Canon.execCrclr (h : Canon s) : OutCanon (Machine.execCrclr a r s) := h.crUpdate

theorem Canon.execCoord (h : Canon s) : OutCanon (Machine.execCoord d k s) := h.finishShort

theorem Canon.execTrap (h : Canon s) : OutCanon (Machine.execTrap c s) := .ite h.trapAt (.ite h.waitTurn h.advance.trapAfter)

theorem Canon.execEret (h : Canon s) : OutCanon (Machine.execEret s) := .ite h.formatFault h.trapReturn.takeTraps

theorem Canon.execIflush (h : Canon s) : OutCanon (Machine.execIflush s) := h.setMySlot.block

theorem Canon.execIdle (h : Canon s) : OutCanon (Machine.execIdle s) := .ite h.park h.advance

theorem Canon.execBrk (h : Canon s) : OutCanon (Machine.execBrk c s) := h.supFault

theorem Canon.execErrinjDisarm (h : Canon s) : OutCanon (Machine.execErrinjDisarm s) := by
  unfold Machine.execErrinjDisarm
  split
  · exact h.modCore
  · exact h

theorem Canon.execErrinjAccumulator (h : Canon s) : OutCanon (Machine.execErrinjAccumulator s) := by
  unfold Machine.execErrinjAccumulator
  split
  · exact h.modCore
  · exact h


-- Sys2Proof/Machine/Waits.lean

theorem Canon.execChannelWordArrival (h : Canon s) : OutCanon (Machine.execChannelWordArrival s) := by
  unfold Machine.execChannelWordArrival
  split
  · split
    · exact h.setEndpoint
    · exact .wake (.ite h.setEndpoint.countRecv h.setEndpoint)
  · exact h

theorem Canon.execQtry (h : Canon s) : OutCanon (Machine.execQtry d a s) := h.finishShort

theorem Canon.breakChannel (h : Canon s) : Canon (s.breakChannel p n) := by
  unfold State.breakChannel
  extract_lets s₁
  have h₁ : Canon s₁ := by
    dsimp only [s₁]
    split
    · exact h.setEndpoint.wake
    · exact h
  exact h₁.setEndpoint.wake

theorem Canon.pairChannel (h : Canon s) : Canon (s.pairChannel p n q m) := h.breakChannel.breakChannel.setEndpoint.setEndpoint

theorem Canon.execQcfg (h : Canon s) : OutCanon (Machine.execQcfg a n s) := h.with1 fun _ _ h₁ => .ite h₁.formatFault h₁.blockOpen.post

theorem Canon.execChannelAgentRequest (h : Canon s) : OutCanon (Machine.execChannelAgentRequest s) := by
  unfold Machine.execChannelAgentRequest
  split
  · exact .postAt (.ite h (.ite h.breakChannel h.pairChannel))
  · exact h

theorem Canon.execQcfgDefault (h : Canon s) : OutCanon (Machine.execQcfgDefault s) := by
  unfold Machine.execQcfgDefault
  split
  · refine .foldl h fun _ _ h₁ => ?_
    extract_lets
    split
    · exact h₁.breakChannel
    · exact h₁.breakChannel.breakChannel.setEndpoint.setEndpoint
  · exact h

theorem Canon.modWire (h : Canon s) : Canon (s.modWire w f) := h.congr rfl

theorem Canon.modBarUnit (h : Canon s) : Canon (s.modBarUnit c k f) := h.modCore

theorem Canon.barStatus (h : Canon s) : Canon (s.barStatus b a) := h.completeWait

theorem Canon.arrive (h : Canon s) : Canon (s.arrive w d b) := by
  unfold State.arrive
  extract_lets +onlyGivenNames _ _ _ _ wait
  have hwait : ∀ s, Canon s → Canon (wait s) := by
    intro s h₁
    dsimp only [wait]
    split
    · exact h₁.modWire.post
    · exact h₁.modWire
  refine .ite (.ite (hwait _ h) h.modWire) (.ite (.ite h.completeWait h.barStatus) ?_)
  extract_lets +onlyGivenNames _ _ s₂ _
  have h₂ : Canon s₂ := .ite h.modWire.modBarUnit.modWire.postAt (hwait _ h.modWire.modBarUnit)
  exact .ite h₂.modWire.post h₂

theorem Canon.offer (h : Canon s) : Canon (s.offer w d b) := h.modWire.post

theorem Canon.takeArrivals (h : Canon s) : Canon (s.takeArrivals w) := h.modWire.foldl fun _ _ h₁ => h₁.asOf fun _ h₂ => h₂.arrive

theorem Canon.endGeneration (h : Canon s) : Canon (s.endGeneration w d a) :=
  (h.foldl fun _ _ h₁ => h₁.modBarUnit).modWire.foldl fun _ _ h₂ => h₂.offer

theorem Canon.execBarrierComplete (h : Canon s) : OutCanon (Machine.execBarrierComplete s) := by
  unfold Machine.execBarrierComplete
  split
  · extract_lets s₁ _
    have h₁ : Canon s₁ := .ite h h.takeArrivals
    split
    · exact .ite h₁ (h₁.foldl fun _ _ h₂ => .ite h₂.barStatus (.ite h₂.postAt h₂)).endGeneration
    · exact h₁
  · exact h

theorem Canon.abandon (h : Canon s) : Canon (s.abandon w d) := (h.foldl fun _ _ h₁ => .ite h₁ h₁.completeWait).endGeneration

theorem Canon.execBarrierTimeout (h : Canon s) : OutCanon (Machine.execBarrierTimeout s) := by
  unfold Machine.execBarrierTimeout
  split
  · extract_lets
    split
    · exact .ite h (h.asOf fun _ h₁ => h₁.abandon)
    · exact h
  · exact h

theorem Canon.startArrival (h : Canon s) : Canon (s.startArrival d b) := .ite h.fresh.park.offer h.fresh.park.postAt

theorem Canon.barPoll (h : Canon s) : Canon (s.barPoll w d b) := .ite h (.ite h.offer h.postAt)

theorem Canon.execBarw (h : Canon s) : OutCanon (Machine.execBarw d a b s) := h.with2 fun _ _ _ h₁ => .ite h₁.formatFault h₁.startArrival

theorem Canon.execBara (h : Canon s) : OutCanon (Machine.execBara a s) := h.with1 fun _ _ h₁ => .ite h₁.formatFault h₁.startArrival

theorem Canon.execBarq (h : Canon s) : OutCanon (Machine.execBarq d a s) := h.with1 fun _ _ h₁ => .ite h₁.formatFault h₁.block

theorem Canon.execProbe (h : Canon s) : OutCanon (Machine.execProbe d a s) := by
  unfold Machine.execProbe
  refine .with1 h fun _ _ h₁ => ?_
  extract_lets
  split
  · exact h₁.formatFault
  · exact .ite h₁.formatFault h₁.blockOpen.postAt

theorem Canon.execProbeCircuitEnd (h : Canon s) : OutCanon (Machine.execProbeCircuitEnd s) := by
  unfold Machine.execProbeCircuitEnd
  split
  · extract_lets
    split
    · exact h.modCore.postAt
    · exact .ite h.postAt (.ite h.postAt h.postAt)
  · exact h

theorem Canon.execDrain (h : Canon s) : OutCanon (Machine.execDrain a s) := by
  unfold Machine.execDrain
  refine .with1 h fun _ _ h₁ => ?_
  extract_lets
  split
  · exact h₁.formatFault
  · exact .ite h₁.formatFault h₁.blockOpen.postAt

theorem Canon.drainPoll (h : Canon s) : Canon (s.drainPoll t i r a) := .ite h.postAt h.completeWait

theorem Canon.execEvgath (h : Canon s) : OutCanon (Machine.execEvgath d a s) := by
  unfold Machine.execEvgath
  refine .with1 h fun _ _ h₁ => ?_
  extract_lets
  split
  · exact .ite h₁.formatFaultAt (h₁.withAccess fun _ _ h₂ =>
      .ite h₂.readScratch.trapAt (.ite h₂.readScratch.formatFaultAt h₂.readScratch.startArrival))
  · exact .ite h₁.formatFaultAt h₁.formatFaultAt
  · exact h₁.formatFaultAt

theorem Canon.gatherDone (h : Canon s) : Canon (s.gatherDone t i d c a o b e) := by
  unfold State.gatherDone
  split
  · exact h.putScratch.putScratch.completeWait
  · exact .ite (.postAt (h.joinRefill fun _ h₁ => h₁)) h.completeWait


-- Sys2Proof/Machine/Light.lean

theorem Canon.refillArrivals (h : Canon s) : Canon (s.refillArrivals c a) := .ite h (h.modCore.foldl fun _ _ h₁ => h₁.postAt)

theorem Canon.placeRecord (h : Canon s) : OptCanon (s.placeRecord c r a) := by
  unfold State.placeRecord
  extract_lets
  split
  · exact trivial
  · split
    · exact h.modCore.wakeCore
    · exact h.hubWrite.modCore.refillArrivals

theorem Canon.execKittyRefill (h : Canon s) : OutCanon (Machine.execKittyRefill s) := by
  unfold Machine.execKittyRefill
  split
  · exact h.refillArrivals
  · extract_lets
    split
    · exact h
    · exact h.modCore.wakeCore
  · exact h

theorem Canon.cancelArrival (h : Canon s) : Canon (s.cancelArrival p) := .ite h h.modSlot.modCore.wakeCore

theorem Canon.sendRecordTo (h : Canon s) : Canon (s.sendRecordTo t a) := by
  unfold State.sendRecordTo
  split
  · exact h
  · exact h.post

theorem Canon.dropShipped (h : Canon s) : Canon (s.dropShipped t) := h.modSlot

theorem Canon.shipRecord (h : Canon s) : Canon (s.shipRecord t a k r w) := h.cancelArrival.modSlot.wake.sendRecordTo.schedule

theorem Canon.execMigrationShip (h : Canon s) : OutCanon (Machine.execMigrationShip s) := by
  unfold Machine.execMigrationShip
  split
  · exact .ite h (.ite h.postAt h.revoke.drain.postAt)
  · exact .ite h.shipRecord h
  · exact h

theorem Canon.execLightPreemptRecord (h : Canon s) : OutCanon (Machine.execLightPreemptRecord s) := by
  unfold Machine.execLightPreemptRecord
  split
  · exact .ite h.shipRecord h
  · exact h

theorem Canon.execLightRecordArrival (h : Canon s) : OutCanon (Machine.execLightRecordArrival s) := by
  unfold Machine.execLightRecordArrival
  split
  · extract_lets
    split
    rename_i s₁ e₁
    have h₁ : Canon s₁ := by
      refine .snd ?_ e₁
      split
      · rename_i e₂
        exact h.placeRecord.some e₂
      · exact h
    exact .ite (.ite h₁.dropShipped h₁.postAt) h₁.postAt
  · extract_lets
    split
    rename_i s₃ e₃
    have h₃ : Canon s₃ := by
      refine .snd ?_ e₃
      refine .ite_snd h ?_
      split
      · exact h
      · rename_i e₄
        exact (h.placeRecord.some e₄).modCore.modDeal
    exact h₃.postAt
  · exact h

theorem Canon.execMigrationAnswer (h : Canon s) : OutCanon (Machine.execMigrationAnswer s) := by
  unfold Machine.execMigrationAnswer
  split
  · exact .ite h.dropShipped h.postAt
  · exact h

theorem Canon.execRecordResend (h : Canon s) : OutCanon (Machine.execRecordResend s) := by
  unfold Machine.execRecordResend
  split
  · exact h.sendRecordTo
  · exact h

theorem Canon.dropServing (h : Canon s) : Canon (s.dropServing a c r).2 := by
  unfold State.dropServing
  dsimp only
  exact h.foldl_snd fun _ _ h₁ => h₁.foldl_snd fun _ _ h₂ => h₂.foldl_snd fun _ _ h₃ => h₃.lift.removeCopies

theorem Canon.applyRegions (h : Canon s) : Canon (s.applyRegions p r w).2 := .ite_snd h.selfInvalidate h.dropServing

theorem Canon.execLightDispatch (h : Canon s) : OutCanon (Machine.execLightDispatch s) := by
  unfold Machine.execLightDispatch
  split
  · split
    · exact h
    · refine .ite h ?_
      extract_lets _ s₁ _ _ _ _ _
      have h₁ : Canon s₁ := h.idleTurn.modCore.postAt
      exact .ite h₁.modSlot.postHub (.modSlot (.ite_snd h₁.modSlot.postHub.selfInvalidate h₁.modSlot.postHub.applyRegions))
  · exact h

theorem Canon.execSpawn (h : Canon s) : OutCanon (Machine.execSpawn d a s) :=
  h.with1 fun _ _ h₁ => .ite h₁.formatFault (.ite h₁.formatFault (.ite h₁.waitTurn h₁.drain.blockOpen.post))

theorem Canon.refuseSlot (h : Canon s) : Canon (s.refuseSlot p) := h.errorEvent

theorem Canon.execLightUnitConfig (h : Canon s) : OutCanon (Machine.execLightUnitConfig s) := by
  unfold Machine.execLightUnitConfig
  split
  · exact .ite h.refuseSlot (h.foldl fun _ _ h₁ => .ite h₁ (.ite h₁.modCore h₁.refuseSlot)).modCore.refillArrivals.schedule
  · exact h


-- Sys2Proof/Machine/Dealer.lean

theorem Canon.modDealer (h : Canon s) : Canon (s.modDealer c f) := h.modCore

theorem Canon.modCopy (h : Canon s) : Canon (s.modCopy k f) := h.modHub

theorem Canon.engineRead (h : Canon s) : ReadCanon (s.engineRead c a w v n) := by
  unfold State.engineRead
  refine List.foldlRecOn (motive := ReadCanon) _ _ h fun r h₁ ⟨_, _⟩ _ => ?_
  split
  split
  · exact trivial
  · rename_i s₂
    have h₂ : Canon s₂ := h₁
    split
    rename_i s₃ e₃
    have h₃ : Canon s₃ := by
      refine .snd ?_ e₃
      split
      · exact h₂.translated
      · exact h₂
    split
    · exact trivial
    · split
      · exact h₃.readScratch
      · exact h₃.readLine

theorem Canon.onOwner (h : Canon s) : Canon (s.onOwner k t f) := by
  unfold State.onOwner
  split
  · exact .ite h.onTask h.modTask
  · exact h

theorem Canon.dealerFault (h : Canon s) : Canon (s.dealerFault a c b d e f w) := h.behalfFault.alsoRefuse.modDealer

theorem Canon.dealerScan (h : Canon s) : Canon (s.dealerScan c) := by
  unfold State.dealerScan
  extract_lets
  refine .ite h ?_
  split
  · exact h
  · split
    · exact h
    · exact h.fresh.modTask.modDealer.postAt

theorem Canon.releaseRanges (h : Canon s) : Canon (s.releaseRanges a c b w d e).2 := by
  unfold State.releaseRanges
  extract_lets +onlyGivenNames _
  split
  rename_i s₁ e₁
  have h₁ := Canon.of_snd e₁ (.foldl_snd h fun _ _ h₂ => .foldl_snd h₂ fun _ _ h₃ => .lift h₃)
  split
  rename_i s₄ e₄
  refine Canon.of_snd₂ e₄ (.foldl₃ h₁ fun _ _ h₅ => ?_)
  split
  split
  · split
    · extract_lets +onlyGivenNames _
      split
      rename_i s₆ e₆
      have h₆ := Canon.of_snd e₆ (.lift h₅)
      exact .removeCopies h₆
    · exact h₅
  · exact h₅

theorem Canon.descRead (h : Canon s) : DescCanon (s.descRead c a t) := by
  unfold State.descRead
  extract_lets +onlyGivenNames _
  split
  · exact trivial
  · split
    · exact trivial
    · rename_i s₁ e₁
      have h₁ : Canon s₁ := h.engineRead.ok e₁
      extract_lets +onlyGivenNames _
      split
      · exact h₁
      · split
        · exact trivial
        · split
          · exact trivial
          · rename_i s₂ e₂
            exact h₁.engineRead.ok e₂

theorem Canon.dealerRead (h : Canon s) : Canon (s.dealerRead c) := by
  unfold State.dealerRead
  split
  · exact h
  · refine .ite h ?_
    extract_lets +onlyGivenNames again
    have hagain : ∀ {s}, Canon s → Canon (again s) := fun h₁ => h₁.postAt
    split
    · split
      · split
        · exact hagain (h.joinRefill fun _ h₂ => h₂)
        · exact h
      · exact h.dealerFault
    · exact hagain h
    · rename_i s₃ e₃
      have h₃ : Canon s₃ := h.descRead.ok e₃
      exact .ite h₃.modDealer.postAt h₃.modDealer.postAt

theorem Canon.dealerTag (h : Canon s) : Opt₂Canon (s.dealerTag c a) := by
  unfold State.dealerTag
  split
  · exact h
  · extract_lets
    split
    · exact trivial
    · exact h.onOwner.modDealer

theorem Canon.dealerWait (h : Canon s) : Canon (s.dealerWait c) := by
  unfold State.dealerWait
  split
  · exact h
  · extract_lets again
    have hagain : ∀ s, Canon s → Canon (again s) := fun _ h₁ => h₁.postAt
    split
    · exact hagain _ h
    · rename_i s₂ e₂
      have h₂ : Canon s₂ := h.dealerTag.some e₂
      exact .ite (hagain _ h₂) h₂.releaseRanges.postAt

theorem Canon.dealerAnswer (h : Canon s) : Canon (s.dealerAnswer c a v) := by
  unfold State.dealerAnswer
  extract_lets _ _ _ s₁
  have h₁ : Canon s₁ := by
    dsimp only [s₁]
    split
    · exact h.onOwner.modSlot.postAt
    · exact h.onOwner.modSlot.modSlot.wake
  exact h₁.wake.modDealer.kickDealer

theorem Canon.dealerAccept (h : Canon s) : Canon (s.dealerAccept c) := by
  unfold State.dealerAccept
  split
  · exact h
  · refine .ite h.dealerAnswer ?_
    extract_lets +onlyGivenNames _ _ _ _ _ _ _ done _
    have hdone : ∀ s, Canon s → Canon (done s) := fun _ h₁ => h₁.modHub.dealerAnswer.postAt
    refine .ite (hdone _ h.modDealer) ?_
    extract_lets +onlyGivenNames _
    split
    · exact h.dealerFault
    · exact hdone _ h.freeVal.hubWrite.modDealer

theorem Canon.execDealerAccept (h : Canon s) : OutCanon (Machine.execDealerAccept s) := by
  unfold Machine.execDealerAccept
  split
  · exact h.dealerScan
  · exact h.dealerRead
  · exact h.dealerWait
  · exact h.dealerAccept
  · exact h

theorem Canon.copyRead (h : Canon s) : Canon (s.copyRead x l p).2.2 := by
  unfold State.copyRead
  split
  · split
    · exact h.readScratch
    · exact h.homeRead
  · exact h.freeVal

theorem Canon.copyWrite (h : Canon s) : Canon (s.copyWrite a p l m d b).2 :=
  h.probe.mergeHome.nextTag.foldl fun _ _ h₁ => .ite h₁ h₁.traceHome.clearRecord

theorem Canon.freeCopy (h : Canon s) : Canon (s.freeCopy k t) := by
  unfold State.freeCopy
  extract_lets who s₁
  clear_value who
  have h₁ : Canon s₁ := h.onOwner.modHub
  split
  · exact h₁.kickDealer
  · exact h₁

theorem Canon.copyEnds (h : Canon s) : Canon (s.copyEnds k) := by
  unfold State.copyEnds
  split
  · exact h
  · extract_lets _ s₁ s₂ _ _
    have h₁ : Canon s₁ := .ite h.modCopy.applyCounter h.modCopy
    have h₂ : Canon s₂ := .ite h₁.freeCopy h₁
    exact .postAt (.ite h₂.modDealer h₂.modDealer.postAt)

theorem Canon.postLine (h : Canon s) : Canon (s.postLine a k x l) := h.post

theorem Canon.startLine (h : Canon s) : Canon (s.startLine a k x l f) := .ite h.modCopy.postAt (.postLine (h.foldl fun _ _ h₁ => h₁.charge))

theorem Canon.copyWritten (h : Canon s) : Canon (s.copyWritten k x) := .ite h (.ite h.postAt h.postAt)

theorem Canon.copyResume (h : Canon s) : Canon (s.copyResume k) := by
  unfold State.copyResume
  split
  · exact h
  · split
    · exact h.copyWritten
    · exact h.modCopy.startLine

theorem Canon.copyFault (h : Canon s) : Canon (s.copyFault k x l c a b d t) := .ite h.modCopy h.modCopy.behalfFault

theorem Canon.sendOut (h : Canon s) : Canon (s.sendOut k x a b p) := h.congr rfl

theorem Canon.copyError (h : Canon s) : Canon (s.copyError k x e) := h.taskError

theorem Canon.copyLine (h : Canon s) : Canon (s.copyLine c k) := by
  unfold State.copyLine
  split
  · exact h
  · refine .ite h ?_
    split
    · exact h
    · extract_lets +onlyGivenNames _ _ again fails _ walk bad
      have hagain : ∀ {s}, Canon s → Canon (again s) := fun h₁ => h₁.postLine
      have hfails : ∀ {s b c d e}, Canon s → Canon (fails s b c d e) := fun h₂ => h₂.behalfFault.alsoRefuse.modCopy.postAt
      have hwalk : ∀ {s b c}, Canon s → Canon (walk s b c) := fun h₃ => h₃.joinWalk
      clear_value bad
      split
      · exact hwalk h
      · refine .ite (hwalk h) ?_
        split
        · exact .ite (hfails h) h.copyFault
        · exact hagain (h.joinRefill fun _ h₄ => h₄)
        · exact hfails h
        · exact .ite (hfails h) h.copyFault
        · exact hagain (h.joinRefill fun _ h₅ => h₅)
        · exact hfails h.copyError
        · split
          rename_i s₆ e₆
          have h₆ := Canon.of_snd e₆ (.foldl_snd h fun _ _ h₇ => h₇.copyRead)
          split
          extract_lets +onlyGivenNames _
          split
          rename_i s₈ e₈
          have h₈ : Canon s₈ := by
            refine .snd ?_ e₈
            split
            · split
              · extract_lets +onlyGivenNames s₉
                have h₉ : Canon s₉ := by
                  dsimp only [s₉]
                  refine .foldl h₆ fun _ _ h₁₀ => ?_
                  split
                  · exact h₁₀.windowBytes.putScratch
                  · exact h₁₀
                exact .ite h₉.setPoison (.ite h₉.setPoison h₉)
              · exact h₆.copyWrite
            · exact h₆.sendOut
          extract_lets +onlyGivenNames _ _ _
          split
          · exact h₈.modCopy.startLine
          · exact h₈.modCopy.copyWritten

theorem Canon.copyStart (h : Canon s) : Canon (s.copyStart c) := by
  unfold State.copyStart
  extract_lets
  refine .ite h ?_
  split
  · exact h
  · split
    · exact h
    · exact .ite h (.ite h h.modDealer.copyResume)

theorem Canon.execCopyRun (h : Canon s) : OutCanon (Machine.execCopyRun s) := by
  unfold Machine.execCopyRun
  split
  · exact h.copyStart
  · exact h.copyLine
  · exact h

theorem Canon.execBudgetPeriod (h : Canon s) : OutCanon (Machine.execBudgetPeriod s) := by
  unfold Machine.execBudgetPeriod
  split
  · exact h.copyStart
  · exact h

theorem Canon.execCopyComplete (h : Canon s) : OutCanon (Machine.execCopyComplete s) := by
  unfold Machine.execCopyComplete
  split
  · exact h.copyEnds
  · split
    · exact .ite h.copyEnds h
    · exact h
  · exact h

theorem Canon.execCpymFollowOn (h : Canon s) : OutCanon (Machine.execCpymFollowOn s) := by
  unfold Machine.execCpymFollowOn
  split
  · split
    · exact h
    · split
      · exact .ite h.enterCommand.postAt h.postAt
      · exact h.postAt
  · exact h

theorem Canon.execSpillRingReturn (h : Canon s) : OutCanon (Machine.execSpillRingReturn s) := by
  unfold Machine.execSpillRingReturn
  split
  · extract_lets
    split
    · exact .ite h.modDealer.postAt.kickDealer h
    · exact h
  · exact h

theorem Canon.dropLines (h : Canon s) : Canon (s.dropLines p v) := by
  unfold State.dropLines
  extract_lets
  refine .foldl h fun _ _ h₁ => ?_
  split
  · split
    · exact h₁.lift.removeCopies
    · exact h₁
  · exact h₁

theorem Canon.observe (h : Canon s) : Canon (s.observe t v) := .ite h.dropLines (h.congr rfl)

theorem Canon.slept (h : Canon s) : Canon (s.slept p v) := by
  unfold State.slept
  split
  · exact h.asPos fun _ h₁ => h₁.advance
  · exact .ite (h.dropLines.freeCopy.asPos fun _ h₂ => h₂.advance)
      (.ite (h.asPos fun _ h₃ => h₃.advance) (.trapAfter (h.asPos fun _ h₄ => h₄.advance)))

theorem Canon.execSleep (h : Canon s) : OutCanon (Machine.execSleep a s) := h.with1 fun _ _ h₁ => .ite h₁.slept h₁.park.post

theorem Canon.execSleepExpiry (h : Canon s) : OutCanon (Machine.execSleepExpiry s) := by
  unfold Machine.execSleepExpiry
  split
  · split
    · exact .ite h.unpark.modSlot.slept h
    · exact h
  · exact h

theorem Canon.execCpyq (h : Canon s) : OutCanon (Machine.execCpyq d a s) := h.with1 fun _ _ h₁ => h₁.blockOpen.postAt

theorem Canon.copyQueried (h : Canon s) : Canon (s.copyQueried t i a d) := by
  unfold State.copyQueried
  extract_lets fin
  have hfin : ∀ a s, Canon s → Canon (fin a s) := fun _ _ h₁ => h₁.completeWait
  split
  · exact hfin _ _ h
  · split
    · exact hfin _ _ h
    · split
      · exact hfin _ _ h.observe.freeCopy
      · exact hfin _ _ h.modCopy

theorem Canon.mailPush (h : Canon s) : Canon (s.mailPush t i w d) := .ite h (.ite h.postAt h.modSlot.kickDealer)

theorem Canon.copyMember (h : Canon s) : Canon (Machine.copyMember d w s) := h.fresh.park.postAt

theorem Canon.execCpy (h : Canon s) : OutCanon (Machine.execCpy d a s) := h.with1 fun _ _ h₁ => h₁.copyMember

theorem Canon.execCpym (h : Canon s) : OutCanon (Machine.execCpym d a b s) := h.with2 fun _ _ _ h₁ => h₁.copyMember

theorem Canon.execCpyd (h : Canon s) : OutCanon (Machine.execCpyd d a s) := h.with1 fun _ _ h₁ => h₁.copyMember


-- Sys2Proof/Machine/Lifecycle.lean

theorem Canon.rejoin (h : Canon s) : Canon (s.rejoin o n) := by
  unfold State.rejoin
  extract_lets
  split <;> exact h.congr rfl

theorem Canon.transferHand (h : Canon s) : Canon (s.transferHand o p).2 :=
  .ite_snd h (.ite_snd h.drainAll.selfInvalidate (h.foldl fun _ _ h₁ => h₁.foldl fun _ _ h₂ => h₂.lift).dropRegions)

theorem Canon.startSlot (h : Canon s) : Canon (s.startSlot e n c d p f) := by
  unfold State.startSlot
  extract_lets _ _ _ _ s₁
  have h₁ : Canon s₁ := .ite h.modTask.postHub.modDeal.modCore h.modTask.postHub.modDeal
  exact .kickDealer (.modSlot (.ite_snd h₁.selfInvalidate h₁))

theorem Canon.startNew (h : Canon s) : Canon (s.startNew e n d p) := .startSlot (.ite h.modSlot.modDeal h.modSlot)

theorem Canon.startSaved (h : Canon s) : Canon (s.startSaved e n d p y) := by
  unfold State.startSaved
  extract_lets +onlyGivenNames _ s₁ s₂ _ _ _ _ s₃ s₄
  have h₁ : Canon s₁ := h.congr rfl
  have h₃ : Canon s₃ := h₁.modSlot.modSlot
  have h₄ : Canon s₄ := .ite h₃.rejoin h₃
  split
  rename_i s₅ e₅
  have h₅ := h₄.transferHand.snd e₅
  extract_lets +onlyGivenNames _ _ s₇ s₈ s₉ s₁₀
  have h₇ : Canon s₇ := h₅.dropLines.startSlot
  have h₈ : Canon s₈ := .ite h₇ h₇.resumeRuns
  have h₉ : Canon s₉ := by
    dsimp only [s₉]
    split
    · exact h₈.postAt
    · exact h₈
  have h₁₀ : Canon s₁₀ := by
    dsimp only [s₁₀]
    split
    · exact h₉.postAt
    · exact h₉.postAt
    · exact h₉.postAt
    · exact h₉
  exact h₁₀.post

theorem Canon.execStart (h : Canon s) : OutCanon (Machine.execStart a s) := by
  unfold Machine.execStart
  refine .ite h.noIssue (.with1 h fun _ _ h₁ => ?_)
  extract_lets +onlyGivenNames _ _ _ _ _
  refine .ite h₁.formatFault ?_
  split
  · exact h₁.supFault
  · extract_lets +onlyGivenNames y
    clear_value y
    refine .ite h₁.supFault (.ite h₁.waitTurn ?_)
    extract_lets +onlyGivenNames s₂
    have h₂ : Canon s₂ := by
      dsimp only [s₂]
      split
      · exact h₁.startSaved
      · exact h₁.startNew
    exact h₂.block

theorem Canon.execReap (h : Canon s) : OutCanon (Machine.execReap d a s) :=
  .ite h.noIssue (h.with1 fun _ _ h₁ => .ite h₁.formatFault (.ite h₁.block h₁.modSlot.endTask.schedule.block))

theorem Canon.freeWaits (h : Canon s) : Canon (s.freeWaits t) := h.modMem rfl

theorem Canon.exitPoll (h : Canon s) : Canon (s.exitPoll t) := .ite h (.ite h.postAt h.revoke.freeWaits.drain.postAt)

theorem Canon.leaves (h : Canon s) : Canon (s.leaves p) := .ite h.cancelArrival.leaveJoint h.cancelArrival

theorem Canon.execExitEventPush (h : Canon s) : OutCanon (Machine.execExitEventPush s) := by
  unfold Machine.execExitEventPush
  split
  · exact h.exitPoll
  · exact h.asOf fun _ h₁ => .ite h₁ (.ite h₁.leaves.modSlot.wake.endTask.schedule (.ite h₁.post (.ite h₁.postAt h₁.leaves.modSlot.wake.putEvent)))
  · exact h

theorem Canon.execExit (h : Canon s) : OutCanon (Machine.execExit s) := h.park.exitPoll

theorem Canon.execOutboundEventDelivery (h : Canon s) : OutCanon (Machine.execOutboundEventDelivery s) := by
  unfold Machine.execOutboundEventDelivery
  split
  · split
    · exact h
    · exact h.modCore.wake.postHub
  · exact .ite h h.modHub
  · exact h


-- Sys2Proof/Machine/Vcaches.lean

theorem Canon.transactUp (h : Canon s) : Canon (s.transactUp i n d).2 := h.foldl_snd fun _ _ h₁ => h₁.lift

theorem Canon.transactNew (h : Canon s) : Canon (s.transactNew i n d).2 := h.foldl_snd fun _ _ h₁ => h₁.lift.removeCopies

theorem Canon.transact (h : Canon s) : Canon (s.transact a v n m d).2 := by
  unfold State.transact
  extract_lets +onlyGivenNames s₁ _
  have h₁ : Canon s₁ := h.flushSpace
  split
  rename_i s₂ e₂
  have h₂ := Canon.of_snd e₂ (.foldl_snd h₁ fun _ _ h => h.transactUp)
  extract_lets +onlyGivenNames s₃
  have h₃ : Canon s₃ := h₂.flushSpace
  split
  rename_i s₄ e₄
  have h₄ := Canon.of_snd e₄ (.foldl_snd h₃ fun _ _ h => h.transactNew)
  exact .ite (h₄.foldl fun _ _ h => h.foldl fun _ _ h => h.dropVline) h₄

theorem Canon.carryOut (h : Canon s) : Canon (s.carryOut a j).2 := by
  unfold State.carryOut
  extract_lets +onlyGivenNames _ _ _
  split
  · exact h.modSpace
  iterate 3
    extract_lets +onlyGivenNames _
    split
    rename_i s₁ e₁
    exact (h.transact.snd e₁).modSpace
  iterate 2
    extract_lets +onlyGivenNames _ _ _ _ set_ _
    have hset : ∀ {s}, Canon s → Canon (set_ s) := fun h₂ => h₂.modSpace
    refine .ite_snd (hset h) ?_
    extract_lets +onlyGivenNames _ _ _
    split
    rename_i s₃ e₃
    exact hset (h.transact.snd e₃)
  · exact h

theorem Canon.agentSteps (h : Canon s) : Canon (s.agentSteps a j) := h.carryOut.modSpace.postHub

theorem Canon.agentTake (h : Canon s) : Canon (s.agentTake a) := by
  unfold State.agentTake
  extract_lets +onlyGivenNames _
  split
  · exact h
  · extract_lets +onlyGivenNames _ _ s₁
    have h₁ : Canon s₁ := .ite h.modSpace.refuseWorld h.modSpace
    refine .ite h₁.postHub ?_
    split
    · exact h₁.agentSteps
    · exact .ite h₁.modSpace h₁.modSpace.agentSteps

theorem Canon.execConfigAgentTake (h : Canon s) : OutCanon (Machine.execConfigAgentTake s) := by
  unfold Machine.execConfigAgentTake
  split
  · exact .ite h.modSpace h.modSpace.agentTake
  · split
    · exact .ite h.agentSteps h
    · exact h
  · exact h

theorem Canon.execReconfigResume (h : Canon s) : OutCanon (Machine.execReconfigResume s) := by
  unfold Machine.execReconfigResume
  split
  · extract_lets
    split
    · exact h
    · exact (h.modSpace.foldl fun _ _ h₁ => h₁.restartAcc).postAt.agentTake
  · exact h

theorem Canon.execVcacheStatusWrite (h : Canon s) : OutCanon (Machine.execVcacheStatusWrite s) := by
  unfold Machine.execVcacheStatusWrite
  split
  · split
    · split
      · rename_i e₁
        exact h.finishBlocking.some e₁
      · exact h.postAt
    · exact h.finishSaved
  · exact h

theorem Canon.vcacheMember (h : Canon s) : Canon (Machine.vcacheMember o d a s) :=
  h.withSrcs fun _ _ h₁ => .ite h₁.formatFault h₁.fresh.park.postAt

theorem Canon.execCdef (h : Canon s) : OutCanon (Machine.execCdef d a b s) := h.vcacheMember

theorem Canon.execCparent (h : Canon s) : OutCanon (Machine.execCparent d a b s) := h.vcacheMember

theorem Canon.execCresize (h : Canon s) : OutCanon (Machine.execCresize d a b s) := h.vcacheMember

theorem Canon.execCbind (h : Canon s) : OutCanon (Machine.execCbind d a b s) := h.vcacheMember

theorem Canon.execCunbind (h : Canon s) : OutCanon (Machine.execCunbind d a s) := h.vcacheMember

theorem Canon.execCquery (h : Canon s) : OutCanon (Machine.execCquery d a s) := h.vcacheMember

theorem Canon.execCdrop (h : Canon s) : OutCanon (Machine.execCdrop d a s) := h.vcacheMember


-- Sys2Proof/Machine/Agents.lean

theorem Canon.walked (h : Canon s) : Canon (s.walked w e) := by
  unfold State.walked
  extract_lets enter _ _
  have henter : ∀ s b, Canon s → Canon (enter s b) := fun _ _ h₁ => h₁.enterClusterTlb.enterCoreTlb
  refine .foldl ((h.foldl fun _ _ h₂ => .wake (henter _ _ h₂)).foldl fun _ _ h₃ => (henter _ _ h₃).foldl fun _ _ h₄ =>
    h₄.modTask.postUnit) fun _ _ h₅ => ?_
  split
  · split
    · exact .postLine (henter _ _ h₅)
    · exact h₅
  · exact h₅

theorem Canon.walkFaults (h : Canon s) : Canon (s.walkFaults w a) := by
  unfold State.walkFaults
  extract_lets s₁
  have h₁ : Canon s₁ := by
    dsimp only [s₁]
    split
    · exact h
    · exact h.supFault.foldl fun _ _ h₂ => h₂.modSlot.park
  dsimp only
  refine .foldl_snd (h₁.foldl_snd fun _ _ h₃ => h₃.foldl_snd fun _ _ h₄ => h₄.faultRun) fun _ _ h₅ => ?_
  split
  · exact h₅.copyFault
  · exact h₅

theorem Canon.execTranslationWalk (h : Canon s) : OutCanon (Machine.execTranslationWalk s) := by
  unfold Machine.execTranslationWalk
  split
  · split
    · exact h
    · extract_lets _ s₁ _
      have h₁ : Canon s₁ := .nextWalk (h.modMem rfl)
      split
      · exact (h₁.modMem rfl).walked
      · exact h₁.walkFaults
  · exact h

theorem Canon.shootDown (h : Canon s) : Canon (s.shootDown a p c) := by
  unfold State.shootDown
  extract_lets
  refine .foldl (h.congr rfl) fun _ _ h₁ => ?_
  split
  · exact h₁.post
  · exact h₁

theorem Canon.evictSpans (h : Canon s) : Canon (s.evictSpans l).2 := h.flushBacks.foldl_snd fun _ _ h₁ => h₁.probe

theorem Canon.execTlbinv (h : Canon s) : OutCanon (Machine.execTlbinv a e s) :=
  .ite h.noIssue (h.with1 fun _ _ h₁ => .ite h₁.formatFault (.ite h₁.noIssue h₁.shootDown.blockOpen.postAt))

theorem Canon.tlbinvPoll (h : Canon s) : Canon (s.tlbinvPoll t i a p e l) := .ite h.postAt (.postAt (.ite_snd h.evictSpans h))

theorem Canon.pageEnters (h : Canon s) : Canon (s.pageEnters c p) := h.modCore.foldl fun _ _ h₁ => h₁.beginRefill

theorem Canon.execPagefree (h : Canon s) : OutCanon (Machine.execPagefree s) := by
  unfold Machine.execPagefree
  split
  · exact h.command
  · exact .ite h.refuseSteward h.pageEnters
  · exact h

theorem Canon.execPagetake (h : Canon s) : OutCanon (Machine.execPagetake s) := by
  unfold Machine.execPagetake
  split
  · exact h.command
  · exact .ite h.refuseSteward h.modCore
  · exact h

theorem Canon.writePage (h : Canon s) : Canon (s.writePage b l) := h.foldl fun _ _ h₁ => h₁.hubCopyWrite.setPoison

theorem Canon.writeImage (h : Canon s) : Canon (s.writeImage b l) := h.hubCopyWrite.setPoison

theorem Canon.writeBacking (h : Canon s) (hf : ∀ x s, Canon s → Canon (f x s)) : Canon (s.writeBacking a v f) := by
  unfold State.writeBacking
  split
  · exact .ite h (hf _ _ h)
  · exact .ite h.postHub.postHub h.postHub

theorem Canon.savePage (h : Canon s) : Canon (s.savePage a w b) := by
  unfold State.savePage
  extract_lets s₁
  have h₁ : Canon s₁ := .ite (h.writeBacking fun _ _ h₂ => h₂.writePage) h
  split
  · exact .ite (h₁.writeBacking fun _ _ h₃ => h₃.writeImage) h₁
  · exact h₁

theorem Canon.refuseWaiters (h : Canon s) : Canon (s.refuseWaiters c a p) :=
  (h.modMem rfl).foldl fun _ _ h₁ => .ite h₁.sendReq.modCore h₁.sendReq

theorem Canon.unpinPage (h : Canon s) : Canon (s.unpinPage c a p b) := by
  unfold State.unpinPage
  extract_lets
  split
  · exact h
  · split
    · exact h
    · exact .pageEnters (.refuseWaiters (.rekeyPage (.modMem (.ite h.savePage h) rfl)))

theorem Canon.execUnpin (h : Canon s) : OutCanon (Machine.execUnpin s) := by
  unfold Machine.execUnpin
  split
  · exact h.command
  · exact .ite h.refuseSteward (.ite h.postHub h.postHub)
  · exact .ite h.postHub h.unpinPage
  · exact h

theorem Canon.clearLeaves (h : Canon s) : Canon (s.clearLeaves a p c l) := by
  unfold State.clearLeaves
  refine .foldl h fun _ _ h₁ => ?_
  extract_lets
  refine .foldl h₁ fun _ _ h₂ => ?_
  split
  · exact h₂.hubWrite
  · exact h₂

theorem Canon.revokeSpans (h : Canon s) : Canon (s.revokeSpans l) := h.foldl fun _ _ h₁ => h₁.revokeAt

theorem Canon.unmapReply (h : Canon s) : Canon (s.unmapReply a c) := h.modHub

theorem Canon.forcePage (h : Canon s) : Canon (s.forcePage a c p b d) := by
  unfold State.forcePage
  split
  · exact h
  · split
    · exact h
    · extract_lets _ s₁ s₂
      have h₁ : Canon s₁ := by
        dsimp only [s₁]
        split
        · exact h.writePage
        · exact h
      have h₂ : Canon s₂ := by
        dsimp only [s₂]
        split
        · exact h₁.writeImage
        · exact h₁.writeBacking fun _ _ h₃ => h₃.writeImage
        · exact h₁
      exact h₂.unpinPage

theorem Canon.forcePages (h : Canon s) : Canon (State.forcePages a l s).2 := by
  induction l generalizing s with
  | nil => exact h
  | cons x r ih => exact .ite_snd h (ih h.forcePage)

theorem Canon.keepWords (h : Canon s) : Canon (s.keepWords g) := h.congr rfl

theorem Canon.forgetScans (h : Canon s) : Canon (s.forgetScans l) := by
  unfold State.forgetScans
  extract_lets +onlyGivenNames _ _ s₁
  have h₁ : Canon s₁ := h.keepWords
  exact .ite h (h₁.congr rfl)

theorem Canon.execUnmap (h : Canon s) : OutCanon (Machine.execUnmap s) := by
  unfold Machine.execUnmap
  split
  · exact h.command
  · exact .ite h.refuseSteward (.ite h.postHub (.ite h.unmapReply (.ite h.unmapReply h.clearLeaves.shootDown.revokeSpans.postHub)))
  · extract_lets again
    have hagain : ∀ s b, Canon s → Canon (again s b) := fun _ _ h₁ => h₁.postHub
    refine .ite (hagain _ _ h) ?_
    split
    · rename_i s₂ e₂
      have h₂ : Canon s₂ := h.forcePages.snd e₂
      exact .unmapReply (.forgetScans (.ite h₂.evictSpans h₂))
    · rename_i e₃
      exact hagain _ _ (h.forcePages.snd e₃)
  · exact h

theorem Canon.writeSpace (h : Canon s) : Canon (s.writeSpace n v) := h.modSpace

theorem Canon.rehome (h : Canon s) : Canon s.rehome := h.modHub

theorem Canon.setEligible (h : Canon s) : Canon (s.setEligible c o) :=
  (h.modCore.rehome.foldl fun _ _ h₁ => h₁.postHub).schedule.foldl fun _ _ h₂ => .ite h₂ (h₂.foldl fun _ _ h₃ => h₃.schedule)

theorem Canon.mapWindow (h : Canon s) : Canon (s.mapWindow c a p b d e) := by
  unfold State.mapWindow
  extract_lets s₁
  have h₁ : Canon s₁ := by
    dsimp only [s₁]
    split
    · exact .modCore (h.modMem rfl)
    · exact h
  exact h₁.modMem rfl

theorem Canon.emptySpace (h : Canon s) : Canon (s.emptySpace n) := by
  unfold State.emptySpace
  refine .foldl h fun _ _ h₁ => ?_
  split
  · refine .ite h₁ (h₁.foldl fun _ _ h₂ => ?_)
    split
    rename_i s₃ e₃
    exact (Canon.of_snd e₃ (.lift h₂)).dropVline
  · exact h₁

theorem Canon.setHub (h : Canon s) : OptCanon (s.setHub p w r) := by
  unfold State.setHub
  extract_lets
  split
  · exact h.modHub
  · extract_lets
    split
    · exact trivial
    · exact OptCanon.filter h.writeSpace
  · extract_lets
    dsimp only
    split
    · exact trivial
    · exact h.emptySpace.modSpace
  · split
    · exact trivial
    · exact .ite h.modHub (h.modHub.foldl fun _ _ h₁ => h₁.schedule)
  · split
    · exact trivial
    · exact h.modHub
  · split
    · exact trivial
    · exact h.modHub
  · split
    · exact h.setEligible
    · exact trivial
  · split
    · exact trivial
    · exact h.modCore
  · extract_lets
    split
    · exact trivial
    · exact h.mapWindow
  · split
    · exact trivial
    · exact h.modMem rfl
  · split
    · exact h.modDealer
    · exact trivial
  · split
    · exact trivial
    · exact h.modHub
  · split
    · exact trivial
    · exact h.modHub
  · exact h.modHub
  · split
    · exact trivial
    · exact h.congr rfl
  · split
    · exact trivial
    · exact OptCanon.filter h.hubWrite

theorem Canon.execHubRegisterWrite (h : Canon s) : OutCanon (Machine.execHubRegisterWrite s) := by
  unfold Machine.execHubRegisterWrite
  split
  · exact .ite h (OptCanon.getD h.setHub h.refuseSteward)
  · exact h

theorem Canon.execTraceRingControl (h : Canon s) : OutCanon (Machine.execTraceRingControl s) := by
  unfold Machine.execTraceRingControl
  split
  · exact .ite h.refuseSteward (.ite (h.modMem rfl) h.modCore)
  · exact h


-- Sys2Proof/Machine/Collective.lean

theorem Canon.modColl (h : Canon s) : Canon (s.modColl k f) := h.modHub

theorem Canon.endHold (h : Canon s) : Canon (s.endHold t v k) := by
  unfold State.endHold
  extract_lets
  split
  · exact h.onTask
  · exact .ite h.onTask.modHub h.onTask.modColl

theorem Canon.collObserved (h : Canon s) : Canon (s.collObserved t x) := by
  unfold State.collObserved
  split
  · exact h
  · exact h.observe

theorem Canon.cwaitEnd (h : Canon s) : Canon (s.cwaitEnd k x t i d c) := by
  unfold State.cwaitEnd
  extract_lets +onlyGivenNames _ va s₁
  have h₁ : Canon s₁ := .ite h.collObserved h
  clear_value va
  split
  · exact h₁.endHold.completeWait
  · exact h₁.completeWait

theorem Canon.execColl (h : Canon s) : OutCanon (Machine.execColl d a s) :=
  h.with1 fun _ _ h₁ => .ite h₁.block (h₁.withAccess fun _ _ h₂ => h₂.blockOpen.postAt)

theorem Canon.bufferRead (h : Canon s) : Canon (s.bufferRead c a w b n d).2.2 := by
  unfold State.bufferRead
  split
  rename_i s₁ e₁
  refine Canon.snd₃ (p := List.foldl _ _ _) (.foldl₄ h fun _ _ h₂ => ?_) e₁
  split
  split
  · exact h₂
  · split
    rename_i s₃ e₃
    refine Canon.snd₂ ?_ e₃
    split
    · exact h₂.readScratch
    · exact h₂.homeRead

theorem Canon.collFull (h : Canon s) : Canon (s.collFull k) := by
  unfold State.collFull
  split
  · exact h
  · exact .ite h.modColl.postHub h

theorem Canon.collFail (h : Canon s) : Canon (s.collFail k) := by
  unfold State.collFail
  split
  · exact h
  · exact .ite h (h.modColl.foldl fun _ _ h₁ => h₁.cwaitEnd)

theorem Canon.contribute (h : Canon s) : Canon (s.contribute t v d p a) := .ite h.modHub.onTask.collFail h.modHub.onTask.collFull

theorem Canon.collStage (h : Canon s) : Canon (s.collStage t i v p d a) := by
  unfold State.collStage
  refine .ite h ?_
  extract_lets +onlyGivenNames _ _ _ again fault
  have hagain : ∀ {a b s}, Canon s → Canon (again a b s) := fun h₁ => h₁.postAt
  have hfault : ∀ {a b}, Canon (fault a b) := by
    intro a b
    dsimp only [fault]
    split
    · split
      · exact hagain (h.joinRefill fun _ h₂ => h₂)
      · exact h
    · exact h.supFault.alsoRefuse
  split
  · exact hfault
  · rename_i s₃ e₃
    have h₃ : Canon s₃ := h.engineRead.ok e₃
    extract_lets +onlyGivenNames _ _ _ _ src _
    clear_value src
    refine .ite (.ite h₃.completeWait (.ite h₃.completeWait (.ite (hagain h₃) ?_))) (.ite ?_ ?_)
    · split
      rename_i s₅ e₅
      exact hagain (h₃.releaseRanges.snd e₅)
    · split
      · exact hfault
      · exact hfault
      · exact hagain h
    · extract_lets +onlyGivenNames _
      refine .ite h.completeWait ?_
      split
      rename_i s₄ e₄
      have h₄ : Canon s₄ := by
        refine .snd₂ ?_ e₄
        split
        · exact h
        · exact h.bufferRead
      exact h₄.contribute.completeWait

theorem Canon.execCollCommit (h : Canon s) : OutCanon (Machine.execCollCommit s) := by
  unfold Machine.execCollCommit
  split
  · split
    · exact .ite h h.modColl.postHub
    · exact h
  · extract_lets _ _ s₁
    have h₁ : Canon s₁ := .ite h h.modHub
    exact .ite h₁.collFail h₁.modColl.collFull
  · exact h

theorem Canon.bufferWrite (h : Canon s) : Canon (s.bufferWrite p w r) := by
  unfold State.bufferWrite
  extract_lets
  refine .foldl h fun _ _ h₁ => ?_
  extract_lets
  split
  · exact h₁
  · exact .ite h₁.taskError (.ite h₁.putScratch h₁.copyWrite)

theorem Canon.resultWrite (h : Canon s) : Canon (s.resultWrite k x p) := by
  unfold State.resultWrite
  extract_lets _ mark
  have hmark : ∀ a s, Canon s → Canon (mark a s) := fun _ _ h₁ => h₁.modColl
  refine .ite h ?_
  split
  · exact hmark _ _ h.bufferWrite
  · split
    · exact .ite (h.joinRefill fun _ h₂ => h₂) h
    · exact .ite h (hmark _ _ h.behalfFault.alsoRefuse)

theorem Canon.execCollResultWrite (h : Canon s) : OutCanon (Machine.execCollResultWrite s) := by
  unfold Machine.execCollResultWrite
  split
  · split
    · refine .ite h ?_
      extract_lets s₁
      have h₁ : Canon s₁ := h.foldl fun _ _ h₂ => h₂.resultWrite
      exact .ite h₁.postHub (h₁.modColl.foldl fun _ _ h₃ => h₃.cwaitEnd)
    · exact h
  · exact h

theorem Canon.collsFail (h : Canon s) : Canon (s.collsFail c) := h.foldl fun _ _ h₁ => h₁.collFail

theorem Canon.execCwait (h : Canon s) : OutCanon (Machine.execCwait d a s) := by
  unfold Machine.execCwait
  refine .with1 h fun _ _ h₁ => ?_
  extract_lets
  split
  · exact h₁.block
  · split
    · exact h₁.setMy.block
    · refine .ite h₁.collObserved.endHold.block (.ite h₁.endHold.block (.withPlace h₁ fun _ _ h₂ => ?_))
      split
      · exact h₂.supFault.alsoRefuse
      · rename_i s₃ e₃
        have h₃ : Canon s₃ := h₂.engineRead.ok e₃
        exact .ite h₃.fresh.park.modColl h₃.fresh.park.modColl.post

theorem Canon.execCwaitTimeout (h : Canon s) : OutCanon (Machine.execCwaitTimeout s) := by
  unfold Machine.execCwaitTimeout
  split
  · split
    · exact h.modColl.completeWait
    · exact h
  · exact h


-- Sys2Proof/Machine/Completion.lean

theorem Canon.execClassBCompletion (h : Canon s) : OutCanon (Machine.execClassBCompletion s) := by
  unfold Machine.execClassBCompletion
  split
  · exact h.launched
  · exact h.barPoll
  · exact h.takeArrivals
  · exact h.gatherDone
  · exact h.drainPoll
  · exact h.copyQueried
  · exact h.collStage
  · exact h.mailPush
  · exact h.tlbinvPoll
  · exact h.fenceCompletion


-- Sys2Proof/Machine/Preempt.lean

theorem Canon.dropUnsent (h : Canon s) : Canon (s.dropUnsent t i) := by
  unfold State.dropUnsent
  split
  · exact h
  · extract_lets +onlyGivenNames s₁ s₂
    have h₁ : Canon s₁ := h.congr rfl
    have h₂ : Canon s₂ := h₁.uncountSent.refundFence.onTask
    exact h₂.wakeTk.wakeTk

theorem Canon.sendWithdrawal (h : Canon s) : Canon (s.sendWithdrawal t i) := by
  unfold State.sendWithdrawal
  extract_lets
  split
  · exact h.dropUnsent
  · exact h.dropUnsent.post

theorem Canon.dropMonitor (h : Canon s) : Canon (s.dropMonitor t i) := by
  unfold State.dropMonitor
  extract_lets
  refine .ite ?_ h
  exact .wakeTk (h.congr rfl)

theorem Canon.dropBarrier (h : Canon s) : Canon (s.dropBarrier t i) := .ite h (.wakeTk (h.congr rfl))

theorem Canon.withdrawWait (h : Canon s) : Canon (s.withdrawWait p) := by
  unfold State.withdrawWait
  extract_lets
  split
  · exact h
  · split
    · exact h.unpark
    · exact h.unpark
    · exact h.unpark
    · exact h.unpark
    · exact h.unpark
    · exact h.unpark
    · exact h.unpark
    · exact h.unpark
    · exact h.unpark
    · exact h.unpark
    · exact h.unpark
    · exact h.sendWithdrawal
    · exact h.sendWithdrawal
    · exact h.dropMonitor
    · exact h.dropBarrier
    · exact .ite (.unpark (h.congr rfl)) h
    · exact h
    · exact h
    · exact h
    · exact h
    · exact h
    · exact h
    · exact h

theorem Canon.stopHeld (h : Canon s) : Canon (s.stopHeld p) := by
  unfold State.stopHeld
  extract_lets
  split
  · exact .ite h.stopRun h
  · exact h

theorem Canon.liftHand (h : Canon s) : Canon (s.liftHand p).2 :=
  .ite_snd h.drainAll (h.foldl_snd fun _ _ h₁ => h₁.foldl_snd fun _ _ h₂ => h₂.lift)

theorem Canon.beginSave (h : Canon s) : Canon (s.beginSave p a b) := by
  unfold State.beginSave
  extract_lets _ _ _ s₁
  have h₁ : Canon s₁ := .ite h.revoke h.revoke.post
  exact .ite h₁.drain.postAt h₁.liftHand.postAt

theorem Canon.endNow (h : Canon s) : Canon (s.endNow p) := h.dropRuns.modSlot.park.exitPoll

theorem Canon.settlePoll (h : Canon s) : Canon (s.settlePoll p n c a) := by
  unfold State.settlePoll
  extract_lets +onlyGivenNames _
  refine .ite h ?_
  extract_lets +onlyGivenNames s₁ core part
  have h₁ : Canon s₁ := by
    dsimp only [s₁]
    split
    · exact h.dropUnsent
    · exact h
  clear_value core part
  split
  · exact .ite h₁.endNow (.ite h₁.post h₁.beginSave)
  · exact h₁.post

theorem Canon.settle (h : Canon s) : Canon (s.settle p) :=
  .ite h.modSlot (.settlePoll (.ite h.withdrawWait.revoke h.withdrawWait.revoke.stopHeld))

theorem Canon.demand (h : Canon s) : Canon (s.demand p) := by
  unfold State.demand
  extract_lets ask s₁
  have hask : ∀ s b, Canon s → Canon (ask s b) := fun _ _ h₂ => .ite h₂ h₂.modSlot.post
  have h₁ : Canon s₁ := hask _ _ h
  refine .ite h₁ ?_
  split
  · exact h₁
  · exact .ite h₁ (h₁.foldl fun _ _ h₃ => hask _ _ h₃)

theorem Canon.execPreempt (h : Canon s) : OutCanon (Machine.execPreempt s) := by
  unfold Machine.execPreempt
  split
  · exact h.command
  · exact h.demand
  · exact h.settle
  · exact h.settlePoll
  · exact h

theorem Canon.groupAway (h : Canon s) : Canon (s.groupAway p) := by
  unfold State.groupAway
  refine .ite h ?_
  extract_lets
  split
  · exact .ite (h.congr rfl) h
  · exact h

theorem Canon.execPreemptSaveComplete (h : Canon s) : OutCanon (Machine.execPreemptSaveComplete s) := by
  unfold Machine.execPreemptSaveComplete
  split
  · refine h.asOf fun _ h₁ => ?_
    extract_lets +onlyGivenNames _ _ _
    refine .ite h₁ (.ite h₁.post (.ite h₁.postAt ?_))
    extract_lets +onlyGivenNames s₂ _ _ s₃ s₄ _ _ s₅
    have h₂ : Canon s₂ := h₁.groupAway.uncountRuns
    have h₃ : Canon s₃ := h₂.cancelArrival.modSlot.wake
    have h₄ : Canon s₄ := h₃.congr rfl
    have h₅ : Canon s₅ := h₄.giveBack
    exact h₅.putEvent.schedule.schedule
  · exact h

theorem Canon.resolveSlot (h : Canon s) : Canon (s.resolveSlot p a) :=
  .ite h.endNow (.ite (.ite h.modSlot.resumeRuns.unpark h.modSlot.resumeRuns)
    (.ite h.modSlot.dropRuns (.ite h.modSlot.dropRuns.unpark (.unpark (h.modSlot.dropRuns.asPos fun _ h₁ => h₁.advance)))))

theorem Canon.resumeEngines (h : Canon s) : Canon (s.resumeEngines p w) := by
  unfold State.resumeEngines
  extract_lets _ _ s₁ s₂
  have h₁ : Canon s₁ := by
    dsimp only [s₁]
    split
    · exact .ite h.resumePartner h
    · exact h
  have h₂ : Canon s₂ := by
    dsimp only [s₂]
    split
    · exact .ite h₁.modDealer.postAt h₁
    · exact h₁
  exact h₂.foldl fun _ _ h₃ => h₃.modCopy.copyResume

theorem Canon.abandonEngines (h : Canon s) : Canon (s.abandonEngines p) := by
  unfold State.abandonEngines
  extract_lets _ s₁ s₂
  have h₁ : Canon s₁ := by
    dsimp only [s₁]
    split
    · exact .ite h.abandonPartner h
    · exact h
  have h₂ : Canon s₂ := by
    dsimp only [s₂]
    split
    · exact .ite h₁.dealerAnswer h₁
    · exact h₁
  exact h₂.foldl fun _ _ h₃ => h₃.modCopy.postAt

theorem Canon.resume (h : Canon s) : Canon (s.resume t a) := by
  unfold State.resume
  extract_lets +onlyGivenNames _
  refine .ite ?_ (.ite h (.ite (.ite h.modSlot h.resolveSlot) (.ite h.resumeEngines (.ite ?_ h))))
  · extract_lets +onlyGivenNames s₁
    have h₁ : Canon s₁ := h.congr rfl
    exact .ite h₁.resumeEngines h₁
  · extract_lets +onlyGivenNames s₂
    have h₂ : Canon s₂ := h.abandonEngines
    exact .ite h₂ (.ite h₂.modTask h₂.modSlot.kickPartner.post)

theorem Canon.execResumeRetry (h : Canon s) : OutCanon (Machine.execResumeRetry s) := by
  unfold Machine.execResumeRetry
  split
  · exact h.command
  · exact h.resume
  · exact h

theorem Canon.execResumeSkip (h : Canon s) : OutCanon (Machine.execResumeSkip s) := by
  unfold Machine.execResumeSkip
  split
  · exact h.command
  · exact h.resume
  · exact h

theorem Canon.execResumeEnd (h : Canon s) : OutCanon (Machine.execResumeEnd s) := by
  unfold Machine.execResumeEnd
  split
  · exact h.command
  · exact h.resume
  · exact h


-- Sys2Proof/Machine/Containment.lean

theorem Canon.beginReset (h : Canon s) : Canon (s.beginReset c a) := .ite h (.post (h.foldl fun _ _ h₁ => h₁.modCore))

theorem Canon.uncontained (h : Canon s) : Canon (s.uncontained c a b d) := h.errorEvent.beginReset

theorem Canon.salvageLines (h : Canon s) : Canon (s.salvageLines c w).2 := by
  unfold State.salvageLines
  refine .foldl_snd h fun _ _ h₁ => ?_
  split
  · exact .ite_snd (h₁.foldl_snd fun _ _ h₂ => h₂.lift) h₁
  · exact h₁

theorem Canon.salvagePages (h : Canon s) : Canon (s.salvagePages c w).2 := by
  unfold State.salvagePages
  refine .foldl_snd h fun _ _ h₁ => ?_
  dsimp only
  split
  · exact .ite_snd (h₁.foldl fun _ _ h₂ => h₂.setPoison).savePage h₁
  · exact h₁

theorem Canon.redoOrEnd (h : Canon s) : Canon (s.redoOrEnd t c) := by
  unfold State.redoOrEnd
  split
  · exact h
  · exact .ite h.modDeal.giveBack h.endTask

theorem Canon.withdrawTasks (h : Canon s) : Canon (s.withdrawTasks c) :=
  (h.foldl fun _ _ h₁ => .ite h₁.redoOrEnd (.ite h₁.endTask h₁)).foldl fun _ _ h₂ => h₂.endTask

theorem Canon.regrant (h : Canon s) : Canon (s.regrant c) := h.modHub

theorem Canon.breakJointOp (h : Canon s) : Canon (s.breakJointOp t) := by
  unfold State.breakJointOp
  extract_lets +onlyGivenNames _
  split
  · split
    · refine .ite h ?_
      extract_lets +onlyGivenNames s₁
      have h₁ : Canon s₁ := h.pendDone.modAcc
      exact h₁.congr rfl
    · exact h
  · extract_lets +onlyGivenNames s₁ s₂
    have h₁ : Canon s₁ := by
      dsimp only [s₁]
      split
      · exact .ite h.modSlot.completeCommand h
      · exact h
    have h₂ : Canon s₂ := by
      dsimp only [s₂]
      split
      · refine .ite (.endMultiply ?_) h₁
        exact h₁.congr rfl
      · exact h₁
    exact h₂.kickPartner

theorem Canon.dissolveJoints (h : Canon s) : Canon (s.dissolveJoints c) := by
  unfold State.dissolveJoints
  extract_lets +onlyGivenNames s₁ _
  have h₁ : Canon s₁ := h.foldl fun s x h => by
    refine .post (.foldl ?_ fun _ _ h₂ => h₂.breakJointOp)
    exact h.congr rfl
  refine h₁.foldl fun _ _ h₃ => .foldl ?_ fun _ _ h₄ => h₄.breakJointOp
  exact h₃.congr rfl

theorem Canon.clearPoints (h : Canon s) : Canon (s.clearPoints c) :=
  (((h.modMem rfl).foldl fun _ _ h₁ => h₁.nextGrant).foldl fun _ _ h₂ => h₂.fencedPort).foldl fun _ _ h₃ => h₃.completeWait

theorem Canon.clearSets (h : Canon s) : Canon (s.clearSets c) := by
  unfold State.clearSets
  extract_lets _ _ s₁
  have h₁ : Canon s₁ := by
    dsimp only [s₁]
    refine .foldl (h.modMem rfl) fun _ _ h₂ => ?_
    split
    · exact h₂.foldl fun _ _ h₃ => h₃.dropVline
    · exact h₂
  exact h₁.foldl fun _ _ h₄ => h₄.foldl fun _ _ h₅ => h₅.post

theorem Canon.clearWires (h : Canon s) : Canon (s.clearWires c) := by
  unfold State.clearWires
  extract_lets
  refine .foldl (h.congr rfl) fun _ _ h₁ => ?_
  dsimp only
  refine .ite h₁ (.foldl h₁ fun _ _ h₂ => ?_)
  split
  · exact .ite h₂.post h₂
  · exact h₂

theorem Canon.clearCopies (h : Canon s) : Canon (s.clearCopies c) := by
  unfold State.clearCopies
  refine .foldl h fun _ _ h₁ => ?_
  split
  extract_lets +onlyGivenNames s₂
  have h₂ : Canon s₂ := .ite h₁.applyCounter h₁
  exact .ite h₂.modCopy h₂.modHub

theorem Canon.clearChannels (h : Canon s) : Canon (s.clearChannels c) := by
  unfold State.clearChannels
  extract_lets _ s₁ _
  have h₁ : Canon s₁ := by
    dsimp only [s₁]
    refine .foldl h fun _ _ h₂ => ?_
    refine .foldl h₂ fun _ _ h₃ => ?_
    refine .foldl h₃ fun _ _ h₄ => ?_
    split
    · exact .ite h₄.setEndpoint h₄
    · exact h₄
  exact h₁.congr rfl

theorem Canon.resetCores (h : Canon s) : Canon (s.resetCores c a) := by
  unfold State.resetCores
  split
  rename_i s₁ e₁
  have h₁ : Canon s₁ := by
    refine .snd ?_ e₁
    split
    · split
      rename_i s₀ e₀
      exact (h.salvageLines.snd e₀).salvagePages
    · exact h
  extract_lets +onlyGivenNames s₂ s₃ s₄ s₅ s₆ s₇ s₈ s₉ s₁₀ s₁₁
  have h₂ : Canon s₂ := h₁.foldl fun _ _ h => h.modCore
  have h₃ : Canon s₃ := h₂.foldl fun _ _ h => h.withdrawTasks
  have h₅ : Canon s₅ := h₃.regrant.dissolveJoints.collsFail
  have h₇ : Canon s₇ := h₅.clearCopies.clearPoints.clearSets
  have h₈ : Canon s₈ := .clearWires (h₇.modMem_wf fun _ => Memory.filter_wf _)
  clear_value s₈
  have h₉ : Canon s₉ := h₈.congr rfl
  have h₁₀ : Canon s₁₀ := h₉.foldl fun _ _ h => (h.foldl fun _ _ h => h.modSlot).modCore
  have h₁₁ : Canon s₁₁ := h₁₀.clearChannels.rehome
  exact h₁₁.foldl fun _ _ h => h.foldl fun _ _ h => h.schedule

theorem Canon.execReset (h : Canon s) : OutCanon (Machine.execReset s) := by
  unfold Machine.execReset
  split
  · exact h.command
  · exact .ite h.refuseSteward h.beginReset
  · exact h.uncontained
  · exact h.resetCores
  · exact h

theorem Canon.loadBanker (h : Canon s) : Canon (s.loadBanker c) := h.modSlot

theorem Canon.comeBack (h : Canon s) : Canon (s.comeBack c) := h.foldl fun _ _ h₁ => h₁.modCore.loadBanker.setEligible

theorem Canon.execCordonReturn (h : Canon s) : OutCanon (Machine.execCordonReturn s) := by
  unfold Machine.execCordonReturn
  split
  · exact h.command
  · exact .ite h.refuseSteward (.ite h (.ite h.postHub h.comeBack))
  · exact h

theorem Canon.poisonDirty (h : Canon s) : Canon (s.poisonDirty d) := h.foldl fun _ _ h₁ => h₁.foldl fun _ _ h₂ => h₂.setPoison

theorem Canon.endHeld (h : Canon s) : Canon (s.endHeld d) := h.foldl fun _ _ h₁ => h₁.modDeal.advanceQueue.postHub

theorem Canon.loseUnits (h : Canon s) : Canon (s.loseUnits d) := h.endHeld.congr rfl

theorem Canon.loseDie (h : Canon s) : Canon (s.loseDie d) := by
  unfold State.loseDie
  refine .ite h ?_
  extract_lets +onlyGivenNames s₁ s₂ _ s₃
  have h₂ : Canon s₂ := h.poisonDirty.beginReset.loseUnits.collsFail
  have h₃ : Canon s₃ := h₂.congr rfl
  exact h₃.errorEvent

theorem Canon.execDieReset (h : Canon s) : OutCanon (Machine.execDieReset s) := by
  unfold Machine.execDieReset
  split
  · exact h.command
  · exact .ite h.refuseSteward h.loseDie
  · exact h

theorem Canon.execDieLost (h : Canon s) : OutCanon (Machine.execDieLost s) := by
  unfold Machine.execDieLost
  split
  · exact h.loseDie
  · exact h

theorem Canon.poisonLog (h : Canon s) : Canon (s.poisonLog d) := by
  unfold State.poisonLog
  extract_lets +onlyGivenNames _ _ s₁
  have h₁ : Canon s₁ := h.congr rfl
  exact .ite (h₁.modMem rfl) (h₁.foldl fun _ _ h₂ => h₂.foldl fun _ _ h₃ => h₃.setPoison)

theorem Canon.execReturnDie (h : Canon s) : OutCanon (Machine.execReturnDie s) := by
  unfold Machine.execReturnDie
  split
  · exact h.command
  · refine Canon.ite h.refuseSteward (.ite h (.ite h.postHub ?_))
    extract_lets +onlyGivenNames _ s₁
    have h₁ : Canon s₁ := h.congr rfl
    exact h₁.poisonLog.comeBack
  · exact h

theorem Canon.execPartitionReset (h : Canon s) : OutCanon (Machine.execPartitionReset s) := by
  unfold Machine.execPartitionReset
  split
  · exact h.command
  · exact Canon.ite h.refuseSteward (.postHub (h.foldl fun _ _ h₁ => h₁.modCore))
  · extract_lets +onlyGivenNames _ _ s₁ s₂ s₃
    have h₁ : Canon s₁ := h.resetCores.modHub
    have h₂ : Canon s₂ := .ite h₁ h₁.postHub
    have h₃ : Canon s₃ := by
      dsimp only [s₃]
      split
      · exact h₂
      · exact h₂.postHub
    exact .postHub (h₃.congr rfl)
  · exact Canon.ite h h.comeBack
  · exact h

theorem Canon.execFaultRecordDelivery (h : Canon s) : OutCanon (Machine.execFaultRecordDelivery s) := by
  unfold Machine.execFaultRecordDelivery
  split
  · exact .ite h h.modHub
  · exact h

theorem Canon.writeError (h : Canon s) : Canon (s.writeError e) := by
  unfold State.writeError
  extract_lets +onlyGivenNames _
  split
  rename_i s₁ e₁
  have h₁ : Canon s₁ := by
    refine .snd ?_ e₁
    split
    · exact h
    · exact h.freeVal
  extract_lets +onlyGivenNames _ s₂
  have h₂ : Canon s₂ := h₁.modHub
  exact h₂.congr rfl

theorem Canon.execErrorRecordDelivery (h : Canon s) : OutCanon (Machine.execErrorRecordDelivery s) := by
  unfold Machine.execErrorRecordDelivery
  split
  · exact .ite h (.ite h.writeError (.ite h.modHub h.modHub.writeError))
  · exact h.tally.errorEvent
  · exact h.modMem rfl
  · exact h

theorem Canon.execPtpSample (h : Canon s) : OutCanon (Machine.execPtpSample s) := by
  unfold Machine.execPtpSample
  split
  · exact h.congr rfl
  · exact h

theorem Canon.fired (h : Canon s) : Canon (s.fired c) := h.modCore

theorem Canon.execErrinjScratchpadWord (h : Canon s) : OutCanon (Machine.execErrinjScratchpadWord s) := by
  unfold Machine.execErrinjScratchpadWord
  split
  · split
    · exact h.fired.modMem rfl
    · exact h.fired
  · exact h

theorem Canon.execErrinjRegister (h : Canon s) : OutCanon (Machine.execErrinjRegister s) := by
  unfold Machine.execErrinjRegister
  split
  · exact .ite h.fired h.fired.modTask
  · exact h

theorem Canon.execErrinjVcacheLine (h : Canon s) : OutCanon (Machine.execErrinjVcacheLine s) := by
  unfold Machine.execErrinjVcacheLine
  split
  · split
    · exact h.fired.modMem rfl
    · exact h.fired
  · exact h

theorem Canon.execErrinjCordonReset (h : Canon s) : OutCanon (Machine.execErrinjCordonReset s) := by
  unfold Machine.execErrinjCordonReset
  split
  · exact h.fired.beginReset
  · exact h


-- Sys2Proof/Machine/Control.lean

theorem Canon.branch (h : Canon s) : OutCanon (Machine.branch c a b o s) := h.with2 fun _ _ _ h₁ => .ite h₁.goTo h₁.advance

theorem Canon.execBeq (h : Canon s) : OutCanon (Machine.execBeq a b o s) := h.branch

theorem Canon.execBne (h : Canon s) : OutCanon (Machine.execBne a b o s) := h.branch

theorem Canon.execBlt (h : Canon s) : OutCanon (Machine.execBlt a b o s) := h.branch

theorem Canon.execBge (h : Canon s) : OutCanon (Machine.execBge a b o s) := h.branch

theorem Canon.execBltu (h : Canon s) : OutCanon (Machine.execBltu a b o s) := h.branch

theorem Canon.execBgeu (h : Canon s) : OutCanon (Machine.execBgeu a b o s) := h.branch

theorem Canon.execJmp (h : Canon s) : OutCanon (Machine.execJmp o s) := h.goTo

theorem Canon.execJr (h : Canon s) : OutCanon (Machine.execJr a s) := h.with1 fun _ _ h₁ => h₁.goTo

theorem Canon.execLoop (h : Canon s) : OutCanon (Machine.execLoop a o s) := by
  unfold Machine.execLoop
  refine .with1 h fun _ _ h₁ => ?_
  extract_lets
  split
  · exact h₁.park
  · rename_i s₂ e₂
    have h₂ : Canon s₂ := h₁.writeDest.some e₂
    exact .ite h₂.goTo h₂.advance

theorem Canon.windowMoved (h : Canon s) : Canon (s.windowMoved p n) := .ite h.post h

theorem Canon.doCall (h : Canon s) : Canon (Machine.doCall t s) := by
  unfold Machine.doCall
  extract_lets +onlyGivenNames _
  refine .ite h.noIssue ?_
  extract_lets +onlyGivenNames _ _ s₁ _ _
  have h₁ : Canon s₁ := .ite h.windowMoved h
  exact .ite h₁.setMy.goTo.park h₁.setMy.goTo

theorem Canon.execCall (h : Canon s) : OutCanon (Machine.execCall o s) := .ite h.noIssue h.doCall

theorem Canon.execCallr (h : Canon s) : OutCanon (Machine.execCallr a s) :=
  .ite h.noIssue (.ite h.noIssue (h.with1 fun _ _ h₁ => h₁.doCall))

theorem Canon.execRet (h : Canon s) : OutCanon (Machine.execRet s) := by
  unfold Machine.execRet
  extract_lets +onlyGivenNames _
  refine .ite h.noIssue (.ite h.noIssue ?_)
  extract_lets +onlyGivenNames _ _ s₁ _ _
  have h₁ : Canon s₁ := .ite h.windowMoved h
  exact .ite h₁.setMy.goTo.park h₁.setMy.goTo

theorem Canon.execWindowSpill (h : Canon s) : OutCanon (Machine.execWindowSpill s) := by
  unfold Machine.execWindowSpill
  split
  · exact h.windowMoved.modTask
  · exact h

theorem Canon.execWindowFill (h : Canon s) : OutCanon (Machine.execWindowFill s) := by
  unfold Machine.execWindowFill
  split
  · exact h.windowMoved.modTask
  · exact h


-- Sys2Proof/Machine/Float.lean

theorem Canon.fp2 (h : Canon s) : OutCanon (Machine.fp2 o d a b m p s) := h.with2 fun _ _ _ h₁ => h₁.finishFloat

theorem Canon.execFadd (h : Canon s) : OutCanon (Machine.execFadd d a b m p s) := h.fp2

theorem Canon.execFsub (h : Canon s) : OutCanon (Machine.execFsub d a b m p s) := h.fp2

theorem Canon.execFmul (h : Canon s) : OutCanon (Machine.execFmul d a b m p s) := h.fp2

theorem Canon.execFfma (h : Canon s) : OutCanon (Machine.execFfma d a b m p s) := h.with3 fun _ _ _ _ h₁ => h₁.finishFloat

theorem Canon.execFdiv (h : Canon s) : OutCanon (Machine.execFdiv d a b m p n s) := h.with2 fun _ _ _ h₁ => h₁.issueLong

theorem Canon.execFsqrt (h : Canon s) : OutCanon (Machine.execFsqrt d a m p n s) := h.with1 fun _ _ h₁ => h₁.issueLong

theorem Canon.execFcvt (h : Canon s) : OutCanon (Machine.execFcvt d a k m p s) := h.with1 fun _ _ h₁ => h₁.finishFloat

theorem Canon.execFmin (h : Canon s) : OutCanon (Machine.execFmin d a b p s) := h.with2 fun _ _ _ h₁ => h₁.finishFloat

theorem Canon.execFmax (h : Canon s) : OutCanon (Machine.execFmax d a b p s) := h.with2 fun _ _ _ h₁ => h₁.finishFloat

theorem Canon.execFcmp (h : Canon s) : OutCanon (Machine.execFcmp d a b c p s) := h.with2 fun _ _ _ h₁ => h₁.finishFloat


-- Sys2Proof/Machine/Scanner.lean

theorem Canon.rejectWord (h : Canon s) : Canon (s.rejectWord r) := h.modHub

theorem Canon.serveScan (h : Canon s) : Canon (State.serveScan n s) := by
  induction n generalizing s with
  | zero => exact h
  | succ n ih =>
    unfold State.serveScan
    split
    · exact h
    · split
      · exact ih (.rejectWord (h.congr rfl))
      · exact .ite (ih (h.congr rfl)) (.postHub (h.evictSpans.congr rfl))

theorem Canon.execMapExecutable (h : Canon s) : OutCanon (Machine.execMapExecutable s) := by
  unfold Machine.execMapExecutable
  split
  · refine Canon.ite h.refuseSteward ?_
    extract_lets +onlyGivenNames _ _ s₁
    have h₁ : Canon s₁ := h.congr rfl
    exact .ite h₁.serveScan h₁
  · exact h

theorem Canon.execPageScan (h : Canon s) : OutCanon (Machine.execPageScan s) := by
  unfold Machine.execPageScan
  split
  · split
    · exact h
    · extract_lets +onlyGivenNames _ _ after
      clear_value after
      split
      rename_i s₁ _ e₁
      have h₁ : Canon s₁ := by
        refine .fst ?_ e₁
        split
        · exact h.rejectWord
        · exact h
      refine Canon.ite (.postHub ?_) (.serveScan ?_)
      · exact h₁.congr rfl
      · exact h₁.congr rfl
  · exact h


-- Sys2Proof/Machine/ModuleBoot.lean

theorem Canon.modModule (h : Canon s) : Canon (s.modModule f) := h.congr rfl

theorem Canon.haltPart (h : Canon s) : Canon (s.haltPart p) := (h.foldl fun _ _ h₁ => h₁.modCore).collsFail.modModule

theorem Canon.execLinkFrame (h : Canon s) : OutCanon (Machine.execLinkFrame s) := by
  unfold Machine.execLinkFrame
  split
  · split
    · exact h
    · exact .ite h.modModule.tally h.modModule.tally.haltPart.tally.postHub
  · exact h

theorem Canon.execThermalTrip (h : Canon s) : OutCanon (Machine.execThermalTrip s) := by
  unfold Machine.execThermalTrip
  split
  · exact (h.foldl fun _ _ h₁ => h₁.haltPart).modModule.postHub
  · exact h

theorem Canon.execJunctionLimitCrossing (h : Canon s) : OutCanon (Machine.execJunctionLimitCrossing s) := by
  unfold Machine.execJunctionLimitCrossing
  split
  · exact h.modModule
  · exact h

theorem Canon.execPowerCap (h : Canon s) : OutCanon (Machine.execPowerCap s) := by
  unfold Machine.execPowerCap
  split
  · exact .ite h h.modModule
  · exact h

theorem Canon.execModuleReset (h : Canon s) : OutCanon (Machine.execModuleReset s) := by
  unfold Machine.execModuleReset
  split
  · exact Canon.reset.congr rfl
  · exact h

theorem Canon.execStartReport (h : Canon s) : OutCanon (Machine.execStartReport s) := by
  unfold Machine.execStartReport
  split
  · split
    · exact h
    · exact h.modModule.foldl fun _ _ h₁ => h₁.loadBanker
  · exact h

theorem Canon.execImageUpdate (h : Canon s) : OutCanon (Machine.execImageUpdate s) := by
  unfold Machine.execImageUpdate
  split
  · exact h.modModule
  · exact h

theorem Canon.refuse (h : Canon s) : Canon (s.refuse p a w) := h.postHub

theorem Canon.acceptFeatures (h : Canon s) : Canon (s.acceptFeatures v) := .ite h.modModule.refuse h.modModule.postHub

theorem Canon.execFacceptWrite (h : Canon s) : OutCanon (Machine.execFacceptWrite s) := by
  unfold Machine.execFacceptWrite
  split
  · exact h.acceptFeatures
  · exact h

theorem Canon.execFeatureEnable (h : Canon s) : OutCanon (Machine.execFeatureEnable s) := by
  unfold Machine.execFeatureEnable
  split
  · exact h.modModule
  · exact h

theorem Canon.execHostWrite (h : Canon s) : OutCanon (Machine.execHostWrite s) := by
  unfold Machine.execHostWrite
  split
  · exact .ite h (.ite (.ite h.acceptFeatures h) (.ite h (.ite h.refuse (h.foldl fun _ _ h₁ => h₁.hubWrite))))
  · exact h

theorem Canon.execHostRead (h : Canon s) : OutCanon (Machine.execHostRead s) := by
  unfold Machine.execHostRead
  split
  · extract_lets answer
    have hanswer : ∀ s b c, Canon s → Canon (answer s b c) := fun _ _ _ h₁ => h₁.modModule
    exact .ite h (.ite (hanswer _ _ _ h) (.ite h (.ite (hanswer _ _ _ h.refuse) (hanswer _ _ _ (h.foldl fun _ _ h₂ => h₂.homeRead)))))
  · exact h

theorem Canon.execFabricBringUp (h : Canon s) : OutCanon (Machine.execFabricBringUp s) := by
  unfold Machine.execFabricBringUp
  split
  · exact .ite h (.ite h.refuse h.modModule)
  · exact h


-- Sys2Proof/Machine/Tiers.lean

theorem Canon.countSectors (h : Canon s) : Canon (s.countSectors l) := h.tally

theorem Canon.execHomeBufferFill (h : Canon s) : OutCanon (Machine.execHomeBufferFill s) := by
  unfold Machine.execHomeBufferFill
  split
  · exact .countSectors (h.modMem rfl)
  · exact .countSectors (h.modMem rfl)
  · exact h


-- Sys2Proof/Machine/Dispatch.lean

theorem Canon.exec (h : Canon s) : OutCanon (Machine.exec i s) := by
  unfold Machine.exec
  split
  · exact h.execAdd
  · exact h.execSub
  · exact h.execAnd
  · exact h.execOr
  · exact h.execXor
  · exact h.execAndn
  · exact h.execSll
  · exact h.execSrl
  · exact h.execSra
  · exact h.execMin
  · exact h.execMax
  · exact h.execMinu
  · exact h.execMaxu
  · exact h.execSlt
  · exact h.execSltu
  · exact h.execCmov
  · exact h.execClz
  · exact h.execCtz
  · exact h.execPopc
  · exact h.execBswap
  · exact h.execSextB
  · exact h.execSextH
  · exact h.execSextW
  · exact h.execZextB
  · exact h.execZextH
  · exact h.execZextW
  · exact h.execAddi
  · exact h.execAndi
  · exact h.execOri
  · exact h.execXori
  · exact h.execSlti
  · exact h.execSltiu
  · exact h.execSlli
  · exact h.execSrli
  · exact h.execSrai
  · exact h.execLui
  · exact h.execAddpc
  · exact h.execBfx
  · exact h.execBfi
  · exact h.execAddx
  · exact h.execMul
  · exact h.execMulh
  · exact h.execMulhu
  · exact h.execMadd
  · exact h.execDiv
  · exact h.execDivu
  · exact h.execRem
  · exact h.execRemu
  · exact h.execFadd
  · exact h.execFsub
  · exact h.execFmul
  · exact h.execFfma
  · exact h.execFdiv
  · exact h.execFsqrt
  · exact h.execFcvt
  · exact h.execFmin
  · exact h.execFmax
  · exact h.execFcmp
  · exact h.execBeq
  · exact h.execBne
  · exact h.execBlt
  · exact h.execBge
  · exact h.execBltu
  · exact h.execBgeu
  · exact h.execJmp
  · exact h.execCall
  · exact h.execJr
  · exact h.execCallr
  · exact h.execRet
  · exact h.execLoop
  · exact h.execLd
  · exact h.execLds
  · exact h.execSt
  · exact h.execLda
  · exact h.execStl
  · exact h.execLdx
  · exact h.execStx
  · exact h.execStp
  · exact h.execLdfe
  · exact h.execLdf
  · exact h.execStfe
  · exact h.execStf
  · exact h.execFeq
  · exact h.execFeset
  · exact h.execAmoadd
  · exact h.execAmoand
  · exact h.execAmoor
  · exact h.execAmoxor
  · exact h.execAmomin
  · exact h.execAmomax
  · exact h.execAmominu
  · exact h.execAmomaxu
  · exact h.execAmoswap
  · exact h.execAmocas
  · exact h.execAmofadd
  · exact h.execHold
  · exact h.execPass
  · exact h.execFence
  · exact h.execScfence
  · exact h.execWack
  · exact h.execClean
  · exact h.execInval
  · exact h.execDiscard
  · exact h.execPref
  · exact h.execWaita
  · exact h.execWake
  · exact h.execCdef
  · exact h.execCparent
  · exact h.execCresize
  · exact h.execCbind
  · exact h.execCunbind
  · exact h.execCquery
  · exact h.execCdrop
  · exact h.execTdef
  · exact h.execTshape
  · exact h.execTbase
  · exact h.execTgetHalf0
  · exact h.execTgetHalf1
  · exact h.execTld
  · exact h.execTst
  · exact h.execTgath
  · exact h.execTscat
  · exact h.execTcpy
  · exact h.execTfill
  · exact h.execTtrans
  · exact h.execTrot
  · exact h.execTadd
  · exact h.execTsub
  · exact h.execTmul
  · exact h.execTfma
  · exact h.execTdiv
  · exact h.execTmax
  · exact h.execTmin
  · exact h.execTabs
  · exact h.execTneg
  · exact h.execTexp
  · exact h.execTlog
  · exact h.execTrsq
  · exact h.execTrcp
  · exact h.execTtanh
  · exact h.execTerf
  · exact h.execTiadd
  · exact h.execTisub
  · exact h.execTimul
  · exact h.execTand
  · exact h.execTor
  · exact h.execTxor
  · exact h.execTshl
  · exact h.execTshr
  · exact h.execTadds
  · exact h.execTmuls
  · exact h.execTfmas
  · exact h.execTmaxs
  · exact h.execTcmp
  · exact h.execTsel
  · exact h.execTrsum
  · exact h.execTcsum
  · exact h.execTrmax
  · exact h.execTcmax
  · exact h.execTsum
  · exact h.execTcvt
  · exact h.execTpack
  · exact h.execTunpack
  · exact h.execTrand
  · exact h.execTdrop
  · exact h.execMma
  · exact h.execMmat
  · exact h.execMmas
  · exact h.execMmaj
  · exact h.execMzero
  · exact h.execMload
  · exact h.execMdrain
  · exact h.execMchk
  · exact h.execMstat
  · exact h.execMwait
  · exact h.execMjoin
  · exact h.execMleave
  · exact h.execQtry
  · exact h.execQcfg
  · exact h.execStart
  · exact h.execReap
  · exact h.execSpawn
  · exact h.execExit
  · exact h.execSleep
  · exact h.execLaunch
  · exact h.execCoord
  · exact h.execDepinit
  · exact h.execDepdec
  · exact h.execBarw
  · exact h.execBara
  · exact h.execBarq
  · exact h.execProbe
  · exact h.execDrain
  · exact h.execColl
  · exact h.execCwait
  · exact h.execEvgath
  · exact h.execCpy
  · exact h.execCpym
  · exact h.execCpyd
  · exact h.execCpyq
  · exact h.execTrap
  · exact h.execEret
  · exact h.execCrrd
  · exact h.execCrwr
  · exact h.execCrset
  · exact h.execCrclr
  · exact h.execTlbinv
  · exact h.execIflush
  · exact h.execIdle
  · exact h.execBrk
  · exact h.execDeferredFaultTaken
  · exact h.execLongResultReady
  · exact h.execWindowSpill
  · exact h.execWindowFill
  · exact h.execChannelWordArrival
  · exact h.execScratchpadPageRefill
  · exact h.execRemoteAccessArrival
  · exact h.execRemoteStoreAck
  · exact h.execFeRequestRetry
  · exact h.execReservationGrant
  · exact h.execReservationTimeout
  · exact h.execPostedWriteApply
  · exact h.execPostedWriteAck
  · exact h.execMonitorWake
  · exact h.execVcacheAccessArrival
  · exact h.execLineFill
  · exact h.execHomeProbe
  · exact h.execConfigAgentTake
  · exact h.execReconfigResume
  · exact h.execVcacheStatusWrite
  · exact h.execCallServe
  · exact h.execCallReply
  · exact h.execNotifyWord
  · exact h.execQueueSlotBind
  · exact h.execDealIntake
  · exact h.execTableReadRetry
  · exact h.execCompletionRecordWrite
  · exact h.execCompletionRecordRetry
  · exact h.execPlacementEvent
  · exact h.execDealMappingFix
  · exact h.execAgingTick
  · exact h.execSliceExpiry
  · exact h.execBudgetPeriod
  · exact h.execCounterRequestArrival
  · exact h.execOutboundEventDelivery
  · exact h.execExitEventPush
  · exact h.execChannelAgentRequest
  · exact h.execBarrierComplete
  · exact h.execBarrierTimeout
  · exact h.execMatrixOpStart
  · exact h.execKBlockComplete
  · exact h.execMatrixCommandComplete
  · exact h.execJointOpStart
  · exact h.execJointGroupForm
  · exact h.execMapExecutable
  · exact h.execPageScan
  · exact h.execLightRecordArrival
  · exact h.execKittyRefill
  · exact h.execLightDispatch
  · exact h.execMigrationShip
  · exact h.execMigrationAnswer
  · exact h.execRecordResend
  · exact h.execLightPreemptRecord
  · exact h.execDealerAccept
  · exact h.execCopyRun
  · exact h.execCopyComplete
  · exact h.execCpymFollowOn
  · exact h.execSpillRingReturn
  · exact h.execSleepExpiry
  · exact h.execCollCommit
  · exact h.execCollResultWrite
  · exact h.execCwaitTimeout
  · exact h.execTranslationWalk
  · exact h.execResumeRetry
  · exact h.execResumeSkip
  · exact h.execResumeEnd
  · exact h.execPreempt
  · exact h.execPreemptSaveComplete
  · exact h.execUnpin
  · exact h.execPagefree
  · exact h.execPagetake
  · exact h.execUnmap
  · exact h.execReset
  · exact h.execCordonReturn
  · exact h.execDieReset
  · exact h.execDieLost
  · exact h.execReturnDie
  · exact h.execPartitionReset
  · exact h.execLinkFrame
  · exact h.execThermalTrip
  · exact h.execPowerCap
  · exact h.execModuleReset
  · exact h.execStartReport
  · exact h.execImageUpdate
  · exact h.execErrorRecordDelivery
  · exact h.execPtpSample
  · exact h.execHostWrite
  · exact h.execHostRead
  · exact h.execFacceptWrite
  · exact h.execFeatureEnable
  · exact h.execFabricBringUp
  · exact h.execErrinjDisarm
  · exact h.execErrinjAccumulator
  · exact h.execErrinjScratchpadWord
  · exact h.execErrinjRegister
  · exact h.execErrinjVcacheLine
  · exact h.execErrinjCordonReset
  · exact h.execQcfgDefault
  · exact h.execLightUnitConfig
  · exact h.execTraceRingControl
  · exact h.execHubRegisterWrite
  · exact h.execHomeSliceRequestArrival
  · exact h.execHomeBufferFill
  · exact h.execClassBCompletion
  · exact h.execProbeCircuitEnd
  · exact h.execJunctionLimitCrossing
  · exact h.execFaultRecordDelivery


-- Sys2Proof/Machine/Issue.lean

theorem Canon.fetchAt (h : Canon s) : FetchRes.Canon (s.fetchAt p) := by
  unfold State.fetchAt
  split
  · exact h.trapUnissued
  · exact h

theorem Canon.fetch (h : Canon s) : FetchRes.Canon s.fetch := by
  unfold State.fetch
  extract_lets +onlyGivenNames _ _ held
  clear_value held
  split
  · split
    · exact h
    · exact h.fetchAt
  · split
    · exact h.noIssue
    · split
      · exact h.noIssue
      · split
        · exact h.startWalk.waitTurn
        · rename_i s₁ e₁
          have h₁ : Canon s₁ := h.tlbLook.some e₁
          extract_lets
          split
          · exact h₁.setMySlot.waitTurn
          · split
            · exact h₁.noIssue
            · split
              · exact h₁.noIssue
              · split
                · exact h₁.noIssue.refuseWorld
                · exact h₁.setMySlot.fetchAt

theorem Canon.tick (h : Canon s) : Canon s.tick := h.congr rfl

theorem Canon.windowTurn (h : Canon s) : Canon (s.windowTurn n) := .ite h.unpark h.setMy


-- Sys2Proof/Machine/Turn.lean

theorem Canon.idleStep (h : Canon s) : OutCanon (Machine.idleStep s) := h.waitTurn

theorem Canon.issueStep (h : Canon s) : OutCanon (Machine.issueStep s) := by
  unfold Machine.issueStep
  extract_lets
  split
  · rename_i e₁
    exact (h.setMy.parkForRun.some e₁).idleStep
  · split
    · exact .idleStep (.ite h.setMy h.setMy.setMy.countEv)
    · split
      · exact h.setMy.exec
      · split
        · rename_i e₂
          exact h.setMy.fetch.stop e₂
        · rename_i s₃ e₃
          have h₃ : Canon s₃ := h.setMy.fetch.word e₃
          split
          · exact trivial
          · split
            · exact h₃.idleStep
            · exact h₃.exec

theorem Canon.turnStep (h : Canon s) : OutCanon (Machine.turnStep s) := by
  unfold Machine.turnStep
  split
  · exact h.issueStep
  · exact h.windowTurn
  · refine Canon.exec ?_
    exact h.congr rfl
  · exact h.idleStep

theorem Canon.turnsStep (h : Canon s) : OutCanon (Machine.turnsStep s) := by
  unfold Machine.turnsStep
  split
  · refine Canon.turnStep ?_
    exact h.congr rfl
  · exact h.tick

theorem Canon.serveNext (h : Canon s) : OutCanon (Machine.serveNext s) := by
  unfold Machine.serveNext
  split
  · split
    · refine Canon.exec ?_
      exact h.congr rfl
    · exact h.turnsStep
  · exact h.turnsStep


-- Sys2Proof/Machine/Step.lean

theorem Canon.step (h : Canon s) : OutCanon (Machine.step s) := h.serveNext

/-- Settles O60: the case of `Canon.step` in which the step has a next state. -/
theorem memoryCanonicalKeptByEveryStep : Obligations.MemoryCanonicalKeptByEveryStep := by
  unfold Obligations.MemoryCanonicalKeptByEveryStep
  intro s t h e
  have hs : Canon s := h
  exact hs.step.next e

end Sys2Proof.Machine
end

section
/-! PROOF. Reading sources, finishing a class S instruction and going on (O1, O3, O10). First what the statements' own predicates `OnlyMySlot`,
`SameButIssue` and `GoesOn` need in every proof: how they compose, and that going on meets them. Then the sources, and the end of a class S
instruction by the kind of its destination. -/
namespace Sys2Proof.Machine

-- the statements' predicates

/-- What the slots do not enter is as before. -/
theorem OnlyMySlot.keeps {s t : State} (h : OnlyMySlot s t) {γ : Type} (g : State → γ) (hg : ∀ s x, g { s with slots := x } = g s) : g t = g s := by
  rw [h.1, hg]

theorem OnlyMySlot.cur_eq {s t : State} (h : OnlyMySlot s t) : t.cur = s.cur := h.keeps (·.cur) fun _ _ => rfl

theorem OnlyMySlot.trans {s t u : State} (h : OnlyMySlot s t) (k : OnlyMySlot t u) : OnlyMySlot s u := by
  have hc := h.cur_eq
  obtain ⟨h₁, h₂⟩ := h
  obtain ⟨k₁, k₂⟩ := k
  refine ⟨by rw [k₁, h₁], fun p hp => ?_⟩
  rw [k₂ p (by rwa [hc]), h₂ p hp]

theorem onlyMySlot_setMySlot (s : State) (f : Slot → Slot) : OnlyMySlot s (s.setMySlot f) :=
  ⟨rfl, fun p hp => by rw [State.setMySlot, State.slot_modSlot, if_neg hp]⟩

theorem onlyMySlot_setMy (s : State) (f : Task → Task) : OnlyMySlot s (s.setMy f) := onlyMySlot_setMySlot s _

theorem onlyMySlot_park (s : State) (w : Wait) : OnlyMySlot s (s.park s.cur w) := onlyMySlot_setMySlot s _

theorem onlyMySlot_goTo (s : State) (pc : Word) : OnlyMySlot s (s.goTo pc) :=
  ⟨State.goTo_rest s pc, fun _ hp => State.goTo_slot_of_ne s pc hp⟩

theorem onlyMySlot_advance (s : State) : OnlyMySlot s s.advance := onlyMySlot_goTo s _

theorem SameButIssue.trans {x y z : Task} (h : SameButIssue x y) (k : SameButIssue y z) : SameButIssue x z := by
  obtain ⟨h₁, h₂, h₃, h₄, h₅, h₆, h₇, h₈, h₉, h₁₀, h₁₁, h₁₂, h₁₃, h₁₄⟩ := h
  obtain ⟨k₁, k₂, k₃, k₄, k₅, k₆, k₇, k₈, k₉, k₁₀, k₁₁, k₁₂, k₁₃, k₁₄⟩ := k
  exact ⟨h₁.trans k₁, h₂.trans k₂, h₃.trans k₃, h₄.trans k₄, h₅.trans k₅, h₆.trans k₆, h₇.trans k₇, h₈.trans k₈, h₉.trans k₉,
    h₁₀.trans k₁₀, h₁₁.trans k₁₁, h₁₂.trans k₁₂, h₁₃.trans k₁₃, fun c hc => (h₁₄ c hc).trans (k₁₄ c hc)⟩

theorem sameButIssue_goTo (s : State) (pc : Word) : SameButIssue (s.goTo pc).my s.my := by
  have k {γ : Type} (g : Task → γ) (h : ∀ t c v, g (Task.setCr t c v) = g t) := State.goTo_my s pc g h
  exact ⟨k (·.callers) fun _ _ _ => rfl, k (·.tiles) fun _ _ _ => rfl, k (·.space) fun _ _ _ => rfl, k (·.world) fun _ _ _ => rfl,
    k (·.accs) fun _ _ _ => rfl, k (·.hand) fun _ _ _ => rfl, k (·.traps) fun _ _ _ => rfl, k (·.pend) fun _ _ _ => rfl,
    k (·.held) fun _ _ _ => rfl, k (·.runs) fun _ _ _ => rfl, k (·.notes) fun _ _ _ => rfl, k (·.tags) fun _ _ _ => rfl,
    by rw [k (fun t => t.outst.map (·.id)) fun _ _ _ => rfl]; simp [Function.comp_def], fun c hc => State.goTo_cr s pc c hc⟩

theorem sameButIssue_setSreg (t : Task) (r : Nat) (v : Word) : SameButIssue (t.setSreg r v) t := by
  have k {γ : Type} (g : Task → γ) (h : ∀ (t : Task) (r : Tbl Word) (k : List Nat), g { t with regs := r, struck := k } = g t) :=
    Task.setSreg_keeps g h t r v
  exact ⟨k (·.callers) fun _ _ _ => rfl, k (·.tiles) fun _ _ _ => rfl, k (·.space) fun _ _ _ => rfl, k (·.world) fun _ _ _ => rfl,
    k (·.accs) fun _ _ _ => rfl, k (·.hand) fun _ _ _ => rfl, k (·.traps) fun _ _ _ => rfl, k (·.pend) fun _ _ _ => rfl,
    k (·.held) fun _ _ _ => rfl, k (·.runs) fun _ _ _ => rfl, k (·.notes) fun _ _ _ => rfl, k (·.tags) fun _ _ _ => rfl,
    k (fun t => t.outst.map (·.id)) fun _ _ _ => rfl, fun c _ => k (·.cr c) fun _ _ _ => rfl⟩

-- going on

theorem goesOn_goTo (s : State) (pc : Word) : GoesOn s (s.goTo pc) pc :=
  ⟨State.goTo_my s pc (·.pc) fun _ _ _ => rfl, State.goTo_my s pc (·.resume) fun _ _ _ => rfl⟩

theorem goesOn_advance (s : State) : GoesOn s s.advance (s.my.pc + 4) := goesOn_goTo s _

/-- Where an issue goes on depends on the state before it by its resumption alone. -/
theorem GoesOn.congr {s u t : State} {pc : Word} (h : GoesOn u t pc) (e : u.my.resume = s.my.resume) : GoesOn s t pc := by
  rwa [GoesOn, ← e]

@[simp] theorem sreg_goTo (s : State) (pc : Word) (r : Nat) : (s.goTo pc).my.sreg r = s.my.sreg r :=
  State.goTo_my s pc (·.sreg r) fun _ _ _ => rfl

@[simp] theorem sreg_advance (s : State) (r : Nat) : s.advance.my.sreg r = s.my.sreg r := sreg_goTo s _ r

@[simp] theorem st_goTo (s : State) (pc : Word) (p : Pos) : ((s.goTo pc).slot p).st = (s.slot p).st :=
  State.goTo_slot_keeps (·.st) (fun _ _ => rfl) s pc p

@[simp] theorem st_advance (s : State) (p : Pos) : (s.advance.slot p).st = (s.slot p).st := st_goTo s _ p

/-- Settles O10: the facts about `State.goTo`, field by field. -/
theorem goingOnChangesOnlyTheTask : Obligations.GoingOnChangesOnlyTheTask := fun s pc =>
  ⟨goesOn_goTo s pc, onlyMySlot_goTo s pc, sameButIssue_goTo s pc, sreg_goTo s pc, st_goTo s pc s.cur,
    State.goTo_slot_keeps (·.evq) (fun _ _ => rfl) s pc s.cur⟩

-- sources

/-- Reading one plain register gives its value and uses no kept word (R22, R24, R27). -/
theorem fetchOne_plain {s : State} {r : Reg} (h : PlainReg s r) (old got : List Word) :
    fetchOne r old got s = .ok (regValue s r) old got s := by
  obtain ⟨hr, hs⟩ := h
  unfold fetchOne regValue
  by_cases h16 : r.toNat < 16
  · simp [h16, hs h16, Task.sreg]
  · have h0 : r.toNat ≠ 0 := by omega
    rw [if_neg h16, if_pos hr, if_neg h0, if_neg h16]
    rfl

theorem fetchFrom_plain (s : State) (old got : List Word) (rs : List Reg) (h : ∀ r ∈ rs, PlainReg s r) :
    fetchFrom rs old got s = .ok (rs.map (regValue s)) s := by
  induction rs with
  | nil => rfl
  | cons r rs ih =>
    rw [fetchFrom, fetchOne_plain (h r List.mem_cons_self)]
    simp only [ih fun q hq => h q (List.mem_cons_of_mem _ hq), Fetched.cons, List.map_cons]

/-- Settles O1: `fetchFrom_plain` at the words kept for the instruction. -/
theorem plainSourcesReadTheirValues : Obligations.PlainSourcesReadTheirValues :=
  fun s rs h => fetchFrom_plain s _ _ rs h

-- the end of a class S instruction, by the kind of its destination

theorem finishShort_sreg (s : State) {d : Reg} (v : Word) (h : d.toNat < 16) :
    finishShort d v s = (s.setMy (·.setSreg d.toNat v)).advance := by
  simp only [finishShort, State.writeDest, if_pos h]
  rfl

theorem finishShort_greg (s : State) {d : Reg} (v : Word) (h : 16 ≤ d.toNat) (h' : d.toNat < 24) :
    finishShort d v s = (s.modCore (posCore s.cur) (·.writeG (s.cycle + 4) (posSlot s.cur) (d.toNat - 16) v)).advance := by
  simp only [finishShort, State.writeDest, if_neg (Nat.not_lt.2 h), if_pos h']

theorem writeDest_port (s : State) (p : Pos) (delay : Nat) {d : Reg} (v : Word) (h : 24 ≤ d.toNat) :
    s.writeDest p delay d v = s.pushPort p (d.toNat - 24) v := by
  rw [State.writeDest, if_neg (by omega), if_neg (by omega)]

theorem finishShort_push (s : State) {d : Reg} {v : Word} {u : State} (h : 24 ≤ d.toNat) (hu : s.pushPort s.cur (d.toNat - 24) v = some u) :
    finishShort d v s = u.advance := by
  simp only [finishShort, writeDest_port s _ _ v h, hu]

theorem finishShort_full (s : State) {d : Reg} {v : Word} (h : 24 ≤ d.toNat) (hu : s.pushPort s.cur (d.toNat - 24) v = none) :
    finishShort d v s = s.park s.cur (.push (d.toNat - 24)) := by
  simp only [finishShort, writeDest_port s _ _ v h, hu]

theorem my_park (s : State) (w : Wait) : (s.park s.cur w).my = { s.my with wait := some w } := by
  simp [State.my, State.task, State.slot_park]

/-- Settles O3: one part for each kind of destination. -/
theorem shortResultGoesToItsDestination : Obligations.ShortResultGoesToItsDestination := by
  intro s d v
  refine ⟨fun h => ?_, fun h h' => ?_, fun h u hu => ?_, fun h hu => ?_⟩
  · refine ⟨_, finishShort_sreg s v h, ?_, (onlyMySlot_setMy s _).trans (onlyMySlot_advance _), ?_, fun r => ?_⟩
    · have g := goesOn_advance (s.setMy (·.setSreg d.toNat v))
      simp only [State.my_setMy, Task.setSreg_keeps (·.pc) fun _ _ _ => rfl] at g
      exact g.congr (by rw [State.my_setMy, Task.setSreg_keeps (·.resume) fun _ _ _ => rfl])
    · refine (sameButIssue_goTo _ _).trans ?_
      rw [State.my_setMy]
      exact sameButIssue_setSreg _ _ _
    · rw [sreg_advance, State.my_setMy, Task.sreg_setSreg]
      by_cases hr : r = d.toNat <;> simp [hr]
  · refine ⟨_, finishShort_greg s v h h', (goesOn_advance _).congr rfl, sameButIssue_goTo _ _, sreg_advance _, by simp, by simp, by simp, ?_⟩
    simp only [State.core_advance, State.core_modCore_self, Core.writeG, true_and]
    exact ⟨fun c hc => by rw [State.core_modCore, if_neg hc], fun p hp => State.goTo_slot_of_ne _ _ hp⟩
  · exact finishShort_push s h hu
  · refine ⟨_, finishShort_full s h hu, by simp [State.slot_park], ?_⟩
    rw [my_park]
    exact ⟨rfl, rfl, onlyMySlot_park s _, fun _ => rfl⟩

end Sys2Proof.Machine
end

section
/-! PROOF. Class L issue, window limits and trap entry (O7, O12, O17), with the facts about idle turns, bit fields and STATUS that they need. -/
namespace Sys2Proof.Machine

-- class L

theorem onlyMySlot_startLong (s : State) (o : Outst) : OnlyMySlot s (s.startLong o) :=
  (onlyMySlot_advance s).trans (onlyMySlot_setMy _ _)

theorem goesOn_startLong (s : State) (o : Outst) : GoesOn s (s.startLong o) (s.my.pc + 4) := by
  simpa only [State.startLong, GoesOn, State.my_setMy] using goesOn_advance s

theorem sreg_startLong (s : State) (o : Outst) (r : Nat) : (s.startLong o).my.sreg r = s.my.sreg r := by
  rw [State.startLong, State.my_setMy]
  exact sreg_advance s r

/-- The result entered last: its window is the one named, or none for what an ERET runs (R83, R468). -/
theorem outst_getLast?_startLong (s : State) (o : Outst) : (s.startLong o).my.outst.getLast? =
    some { o with pc := s.my.pc, xen := s.my.xen, left := if s.my.resume.isSome then 0 else o.left, resumed := s.my.resume.isSome } := by
  simp only [State.startLong, State.my_setMy, List.getLast?_concat]

/-- Settles O7: the result is the last one outstanding, and its event the one posted. -/
theorem longIssueLeavesResultOutstanding : Obligations.LongIssueLeavesResultOutstanding := by
  intro s d la latency v e
  let o : Outst := { id := s.nextId, pc := 0, dest := some d, left := la, value := v, events := e }
  have h := onlyMySlot_startLong s.fresh.2 o
  refine ⟨_, rfl, (goesOn_startLong s.fresh.2 o).congr rfl, h.keeps (·.mem) fun _ _ => rfl, h.keeps (·.cores) fun _ _ => rfl,
    h.keeps (·.hub) fun _ _ => rfl, sreg_startLong s.fresh.2 o, h.2, ⟨_, outst_getLast?_startLong s.fresh.2 o, rfl, rfl, rfl, rfl, rfl, rfl, rfl⟩, ?_⟩
  exact ⟨_, (State.mem_postAt ..).2 (.inl rfl), rfl, rfl, rfl⟩

-- idle turns and supervisor-level faults

/-- An idle turn changes its own core alone, and the agenda only by one event more (R17, R21). -/
theorem idleTurn_spec (s : State) (c : Nat) : (∀ k, k ≠ c → (s.idleTurn c).core k = s.core k) ∧ ∀ x ∈ s.agenda, x ∈ (s.idleTurn c).agenda := by
  have hcore (f : Core → Core) (k : Nat) (hk : k ≠ c) : (s.modCore c f).core k = s.core k := by rw [State.core_modCore, if_neg hk]
  unfold State.idleTurn
  split
  · split
    · exact ⟨fun _ _ => rfl, fun _ h => h⟩
    · exact ⟨hcore _, fun _ h => h⟩
  · split
    · exact ⟨hcore _, fun _ h => h⟩
    · exact ⟨fun k hk => (State.core_post ..).trans (hcore _ k hk), fun x h => (State.mem_post ..).2 (.inr h)⟩

theorem State.my_supFault (s : State) (cause sub addr acc arg : Nat) (pc : Option Word) :
    (s.supFault s.cur cause sub addr acc arg pc).my = { s.my with wait := some .fault } := by
  unfold State.supFault
  simp [State.my, State.task, State.slot_park]

theorem core_noIssue_of_ne (s : State) (cause sub addr acc : Nat) {c : Nat} (h : c ≠ posCore s.cur) :
    (s.noIssue cause sub addr acc).core c = s.core c := by
  rw [State.noIssue, State.waitTurn, (idleTurn_spec _ _).1 c (by simpa using h), State.core, State.supFault_cores]; rfl

theorem doCall_over_depth (s : State) (target : Word) (h : s.my.depth < 1 + s.my.callers.length + 1) :
    doCall target s = s.noIssue 0x44 0 0 3 := if_pos h

/-- Settles O12: each member meets its limit before anything else of it, and what `noIssue` does is said by `supFault_spec` and
`idleTurn_spec`. -/
theorem windowLimitsPark : Obligations.WindowLimitsPark := by
  refine ⟨fun s o hl h => ?_, fun s a hl h => ?_, fun s hl h => ?_, fun s cause sub addr acc => ?_, fun s cause sub addr acc arg => ?_⟩
  · have hw : s.noWindows = false := hl
    simp [execCall, hw, doCall_over_depth s _ h]
  · have hw : s.noWindows = false := hl
    simp [execCallr, hw, Task.windows, h]
  · have hw : s.noWindows = false := hl
    simp [execRet, hw, Task.windows, h]
  · exact ⟨_, rfl, rfl, by simp [State.noIssue], by simp, by simp, fun c hc => core_noIssue_of_ne s _ _ _ _ hc, (idleTurn_spec _ _).2⟩
  · obtain ⟨t, ht, hst, -, hmem, hcores, hslots, hpend, hrec⟩ := s.supFault_spec s.cur cause sub addr acc arg
    subst ht
    exact ⟨_, rfl, hst, s.my_supFault .., hmem, hcores, hslots, hpend, hrec⟩

-- bit fields

theorem bit_eq_testBit (w k : Nat) : bit w k = w.testBit k := by
  simp [bit, Nat.testBit_eq_decide_div_mod_eq, beq_eq_decide]

/-- A field replaced: its bits are those of the value, all others as before. -/
theorem testBit_setBits (w lo n v k : Nat) :
    (setBits w lo n v).testBit k = if lo ≤ k ∧ k < lo + n then v.testBit (k - lo) else w.testBit k := by
  have e : setBits w lo n v = 2 ^ (lo + n) * (w / 2 ^ (lo + n)) + (2 ^ lo * (v % 2 ^ n) + w % 2 ^ lo) := by
    rw [setBits]; ring
  have hlow : w % 2 ^ lo < 2 ^ lo := Nat.mod_lt _ (by positivity)
  have hmid : 2 ^ lo * (v % 2 ^ n) + w % 2 ^ lo < 2 ^ (lo + n) := by
    have : v % 2 ^ n + 1 ≤ 2 ^ n := Nat.mod_lt _ (by positivity)
    calc 2 ^ lo * (v % 2 ^ n) + w % 2 ^ lo < 2 ^ lo * (v % 2 ^ n) + 2 ^ lo := by omega
      _ = 2 ^ lo * (v % 2 ^ n + 1) := by ring
      _ ≤ 2 ^ lo * 2 ^ n := Nat.mul_le_mul_left _ this
      _ = 2 ^ (lo + n) := (pow_add ..).symm
  rw [e, Nat.testBit_two_pow_mul_add _ hmid, Nat.testBit_two_pow_mul_add _ hlow, Nat.testBit_div_two_pow, Nat.testBit_mod_two_pow, Nat.testBit_mod_two_pow]
  rcases lt_or_ge k lo with h | h
  · simp [h, show k < lo + n by omega, show ¬lo ≤ k by omega]
  · rcases lt_or_ge k (lo + n) with h' | h'
    · simp [h, h', show ¬k < lo by omega, show k - lo < n by omega]
    · simp [show ¬k < lo + n by omega, Nat.sub_add_cancel h']

theorem Task.testBit_cr_ge (t : Task) (c : Nat) {k : Nat} (h : 64 ≤ k) : (t.cr c).testBit k = false :=
  Nat.testBit_lt_two_pow ((t.cr_lt c).trans_le (Nat.pow_le_pow_right (by decide) h))

-- STATUS.INTRAP

theorem Task.cr_setInTrap_of_ne (t : Task) (b : Bool) {c : Nat} (h : c ≠ 0) : (t.setInTrap b).cr c = t.cr c := by
  rw [Task.setInTrap, Task.cr_setCr, if_neg h]

theorem Task.testBit_status_setInTrap (t : Task) (b : Bool) (k : Nat) :
    ((t.setInTrap b).cr 0).testBit k = if k = 2 then b else (t.cr 0).testBit k := by
  rw [Task.setInTrap, Task.cr_setCr, if_pos rfl, Nat.testBit_mod_two_pow, testBit_setBits]
  rcases lt_or_ge k 64 with h | h
  · rcases eq_or_ne k 2 with rfl | hk
    · cases b <;> rfl
    · simp [h, hk, show ¬(2 ≤ k ∧ k < 2 + 1) by omega]
  · simp [t.testBit_cr_ge 0 h, show ¬k < 64 by omega, show k ≠ 2 by omega]

theorem Task.inTrap_eq (t : Task) : t.inTrap = (t.cr 0).testBit 2 := bit_eq_testBit _ _

@[simp] theorem Task.inTrap_setInTrap (t : Task) (b : Bool) : (t.setInTrap b).inTrap = b := by
  rw [Task.inTrap_eq, Task.testBit_status_setInTrap, if_pos rfl]

/-- The control registers after a trap's entry (R42, R458). -/
theorem cr_trapEntry_task (t : Task) (tr : Trap) (c : Nat) (h : c ≠ 0) :
    ((((t.setCr 2 t.pc.toNat).setCr 4 tr.val).setCr 3 (tr.cause + 256 * tr.sub + 65536 * tr.deferred.toNat)).setInTrap true).cr c =
      if c = 3 then (tr.cause + 256 * tr.sub + 65536 * tr.deferred.toNat) % 2 ^ 64 else if c = 4 then tr.val % 2 ^ 64
      else if c = 2 then t.pc.toNat else t.cr c := by
  rw [Task.cr_setInTrap_of_ne _ _ h, Task.cr_setCr, Task.cr_setCr, Task.cr_setCr, Nat.mod_eq_of_lt t.pc.isLt]

/-- Settles O17: `trapEntry_of_enabled` says which task is left, `cr_trapEntry_task` its registers; the other two cases escalate. -/
theorem trapEntrySavesAndGoesOnOrEscalates : Obligations.TrapEntrySavesAndGoesOnOrEscalates := by
  intro s p tr pc
  refine ⟨fun h h₁ hl => ?_, s.trapEntry_in_trap p tr pc, s.trapEntry_no_handler p tr pc⟩
  refine ⟨_, s.trapEntry_of_enabled p tr pc h h₁ hl, rfl, fun q hq => by rw [State.slot_modSlot, if_neg hq], ?_⟩
  simp only [State.task, State.slot_modSlot_self]
  have hcr (c : Nat) (hc : c ≠ 0) := cr_trapEntry_task (s.task p) tr c hc
  refine ⟨trivial, hcr 2 (by decide), hcr 3 (by decide), hcr 4 (by decide), Task.inTrap_setInTrap _ _, fun k hk => ?_, fun c h₀ h₂ h₃ h₄ => ?_,
    rfl, rfl, trivial, by omega⟩
  · rw [bit_eq_testBit, bit_eq_testBit]
    exact (Task.testBit_status_setInTrap _ _ k).trans (by simp [hk, Task.cr_setCr])
  · exact (hcr c h₀).trans (by rw [if_neg h₃, if_neg h₄, if_neg h₂]; rfl)

end Sys2Proof.Machine
end

section
/-! PROOF. What reset leaves, and what a step serves (O56, O57). -/
namespace Sys2Proof.Machine

-- reset

theorem slot_reset (p : Pos) : State.reset.slot p = {} := rfl
theorem core_reset (c : Nat) : State.reset.core c = {} := rfl

/-- A control register of a task that starts: STATUS.FERETRY 1024, and every other bit of every register 0 (Tables 1-9, 1-10). -/
theorem cr_start (c : Nat) : ({} : Task).cr c = if c = 0 then 1024 * 2 ^ 32 else 0 := by
  show (crReset c).toNat = _
  unfold crReset
  split <;> rfl

theorem sreg_start (r : Nat) : ({} : Task).sreg r = 0 := ite_self _

/-- Settles O56: every table of the reset state is empty, so each reads as its default. -/
theorem resetState : Obligations.ResetState :=
  ⟨rfl, rfl, fun p => ⟨slot_reset p, rfl⟩, fun c k => by rw [core_reset]; exact ⟨rfl, rfl, rfl, rfl, rfl, rfl, rfl⟩,
    fun r => ⟨sreg_start r, rfl⟩, cr_start, by rw [Task.inTrap, cr_start]; rfl, rfl, rfl, fun _ => rfl, rfl, rfl, rfl, fun _ => rfl⟩

-- what a step serves

/-- An event that is due is served first. -/
theorem step_of_due {s : State} {x : Pending} {l : List Pending} (h : s.agenda = x :: l) (hx : x.due ≤ s.cycle) :
    step s = exec x.ev { s with agenda := l, msg := x.msg } := by
  simp only [step, serveNext, h, if_pos hx]

theorem step_of_not_due {s : State} (h : ∀ x ∈ s.agenda.head?, s.cycle < x.due) : step s = turnsStep s := by
  unfold step serveNext
  split
  · next x l e => exact if_neg (Nat.not_le.2 (h x (by rw [e]; rfl)))
  · rfl

/-- The position that `nextTurn` gives has something to do with its turn. -/
theorem kindAt_nextTurn {s : State} {p : Pos} (h : s.nextTurn = some p) : (s.kindAt p).isSome = true := by
  unfold State.nextTurn at h
  simp only at h
  split at h
  · cases h
  · next c r e =>
    have hall : ∀ x ∈ c :: r, (s.kindAt (mkPos x (s.cycle % 16))).isSome = true := fun x hx => by
      rw [← e] at hx
      obtain ⟨-, hk⟩ := List.mem_filter.1 hx
      exact (Bool.and_eq_true_iff.1 hk).2
    rw [← Option.some.inj h]
    exact hall _ (List.foldlRecOn (motive := fun m => m ∈ c :: r) r min List.mem_cons_self fun b hb a ha => by
      rcases min_choice b a with e | e <;> rw [e]
      · exact hb
      · exact List.mem_cons_of_mem _ ha)

/-- A ready slot that may act takes its turn to issue, if its core runs at all. -/
theorem kindAt_of_ready {s : State} {p : Pos} (h : (s.kindAt p).isSome = true) (hst : (s.slot p).st = .ready) (hb : (s.slot p).notBefore ≤ s.cycle)
    (hp : (s.slot p).preempt = none) (he : (s.slot p).endRes = false) : s.kindAt p = some .issue := by
  have ha : s.slotActs (s.slot p) = true := by simp [State.slotActs, hst, hb, hp, he]
  have hr : (s.core (posCore p)).runs = true := by
    by_contra hn
    rw [Bool.not_eq_true] at hn
    simp [State.kindAt, hn] at h
  simp [State.kindAt, hr, ha, hst]

theorem turnsStep_of_ready {s : State} {p : Pos} (h : s.nextTurn = some p) (hst : (s.slot p).st = .ready) (hb : (s.slot p).notBefore ≤ s.cycle)
    (hp : (s.slot p).preempt = none) (he : (s.slot p).endRes = false) :
    turnsStep s = issueStep { s with cur := p, turn := posCore p + 1, msg := .none } := by
  have hk : ({ s with cur := p, turn := posCore p + 1, msg := .none } : State).turnKind = .issue := by
    show (s.kindAt p).getD .idle = .issue
    rw [kindAt_of_ready (kindAt_nextTurn h) hst hb hp he]
    rfl
  simp only [turnsStep, h, turnStep, hk]

/-- A fetch from a held page whose word stands in the slot's own copy, or in memory. -/
theorem fetch_of_held {v : State} {f : FetchTr} {w : Nat}
    (hf : (v.mySlot.fetchTr.find? fun f => f.space == v.my.space && f.page == v.my.pc.toNat / 4096) = some f)
    (hw : f.words[v.my.pc.toNat % 4096 / 4]? = some w ∨
      f.words = [] ∧ v.poisoned (f.frame * 4096 + v.my.pc.toNat % 4096) = false ∧ w = v.bytesAt (f.frame * 4096 + v.my.pc.toNat % 4096) 4) :
    v.fetch = .word w v := by
  unfold State.fetch
  simp only [hf]
  rcases hw with hw | ⟨hn, hp, rfl⟩
  · simp only [hw]
  · simp [hn, State.fetchAt, hp]

/-- A ready task's turn with nothing to wait for and no trap to take: the fetched word's instruction issues (R18, R83, R85). -/
theorem issueStep_of_word {s v : State} {w : Nat} {i : Instr} (hv : s.setMy (fun t => (t.tidy s.cycle).dropKept) = v) (hruns : v.my.runs = [])
    (hres : v.my.waitsResult v.cycle = false) (htrap : v.my.trapWaits = false) (hf : v.fetch = .word w v) (hdec : decodeWord w = .ok i)
    (hwait : v.issueWaits i = false) : issueStep s = exec i v := by
  have hpark : v.parkForRun = none := by simp [State.parkForRun, hruns]
  simp [issueStep, hv, hpark, hres, htrap, hf, hdec, hwait]

/-- Settles O57: the turn, the fetch and the checks before the issue, each by its own lemma. -/
theorem stepRunsDecodedInstruction : Obligations.StepRunsDecodedInstruction := by
  refine ⟨?_, fun s x l h hx => step_of_due h hx, fun s h hn => ⟨?_, rfl⟩⟩
  · intro s p i f h hn v hst hb hp he hruns hres htrap hf w hw hdec hwait
    rw [step_of_not_due h, turnsStep_of_ready hn hst hb hp he]
    exact issueStep_of_word rfl hruns hres htrap (fetch_of_held hf hw) hdec hwait
  · rw [step_of_not_due h, turnsStep, hn]

end Sys2Proof.Machine
end

section
/-! PROOF. Control registers: what a read gives, and what a write leaves (O48, O49). The register file of Table 1-9 is read by `State.crRead` and
written by `State.crWrite`: one fact for each range of numbers, and the members cite them. -/
namespace Sys2Proof.Machine

@[simp] theorem word_toNat (x : Word) : word x.toNat = x := BitVec.eq_of_toNat_eq (Nat.mod_eq_of_lt x.isLt)

theorem getLsbD_word (n : Nat) {k : Nat} (h : k < 64) : (word n).getLsbD k = n.testBit k := by
  rw [word, BitVec.getLsbD_ofNat, decide_eq_true h, Bool.true_and]

-- reads

theorem exec_crrd_denied {s : State} {d : Reg} {c : BitVec 12} (h : posSlot s.cur ≠ 0) (hc : 0x800 ≤ c.toNat) :
    exec (.crrd d c) s = .next (s.noIssue 0x41 3 0 3) := by
  simp [execCrrd, crAllowed, h, show ¬c.toNat < 0x800 by omega]

theorem exec_crrd_allowed {s : State} {d : Reg} {c : BitVec 12} (h : c.toNat < 0x800 ∨ posSlot s.cur = 0) {n : Nat} (hc : c.toNat = n) :
    exec (.crrd d c) s = .next (finishShort d (word (s.crRead s.cur n)) s) := by
  have ha : crAllowed s.cur c.toNat = true := by simpa [crAllowed] using h
  simp [execCrrd, ha, ← hc]

theorem crRead_task {s : State} {c : Nat} (h : 1 ≤ c) (h' : c < 0x80) (hl : s.isLight s.cur = false) : s.crRead s.cur c = s.my.cr c := by
  simp only [State.crRead, if_neg (show c ≠ 0 by omega), if_pos h', hl]
  rfl

theorem crRead_light {s : State} {c : Nat} (h : 1 ≤ c) (h' : c < 0x80) (hl : s.isLight s.cur = true) : s.crRead s.cur c = 0 := by
  simp [State.crRead, crReset, h', hl, show c ≠ 0 by omega]

theorem crRead_cycle (s : State) : s.crRead s.cur 0x80 = s.cycle := by simp [State.crRead]
theorem crRead_pos (s : State) : s.crRead s.cur 0x81 = s.cur := by simp [State.crRead]
theorem crRead_space (s : State) : s.crRead s.cur 0xC0 = s.my.space := by simp [State.crRead, State.my]
theorem crRead_world (s : State) : s.crRead s.cur 0xC1 = s.my.world.toNat := by simp [State.crRead, State.my]
theorem crRead_cordon (s : State) : s.crRead s.cur 0x810 = s.myCore.cordon.toNat := by simp [State.crRead, State.myCore]
theorem crRead_errinj (s : State) : s.crRead s.cur 0x820 = s.myCore.errinj.toNat := by simp [State.crRead, State.myCore]
theorem crRead_faccept (s : State) : s.crRead s.cur 0x844 = s.module_.faccept.toNat := by simp [State.crRead]

theorem crRead_coord {s : State} {k : Nat} (h : k < 3) (hl : s.isLight s.cur = false) :
    word (s.crRead s.cur (0x82 + k)) = word (s.my.coord.getD k 0) := by
  have h₁ : 0x82 + k ≤ 0x84 := by omega
  simp [State.crRead, hl, h₁, State.my, show 0x82 + k ≠ 0x81 by omega, show ¬0x82 + k < 0x80 by omega, show 0x82 + k ≠ 0x80 by omega]

theorem crRead_qcfg {s : State} {k : Nat} (h : k < 4) : word (s.crRead s.cur (0x800 + k)) = s.myCore.qcfg.get 0xFF00 k := by
  have h₁ : 0x800 + k ≤ 0x803 := by omega
  simp [State.crRead, h₁, Core.qcfgReg, show ¬0x800 + k < 0x80 by omega, show 0x800 + k ≠ 0x80 by omega, show 0x800 + k ≠ 0x81 by omega,
    show ¬0x800 + k ≤ 0x84 by omega, show 0x800 + k ≠ 0xC0 by omega, show 0x800 + k ≠ 0xC1 by omega, State.myCore, qcfgReset, word]

/-- STATUS as it is read: BANKER by the slot, LIGHT 0 on a slot that is not light, every other bit as held (R42). -/
theorem testBit_crRead_status {s : State} (hl : s.isLight s.cur = false) (k : Nat) :
    (s.crRead s.cur 0).testBit k = if k = 0 then decide (posSlot s.cur = 0) else if k = 3 then false else (s.my.cr 0).testBit k := by
  simp only [State.crRead, hl, if_pos, Bool.false_eq_true, if_false, testBit_setBits]
  rcases eq_or_ne k 0 with rfl | h₀
  · by_cases h : posSlot s.cur = 0 <;> simp [h]
  · rcases eq_or_ne k 3 with rfl | h₃
    · simp
    · simp [h₀, h₃, show ¬(3 ≤ k ∧ k < 3 + 1) by omega, State.my]

/-- Settles O48: `exec_crrd_allowed` reads what `crRead` says of each range of numbers. -/
theorem controlRegisterReads : Obligations.ControlRegisterReads := by
  refine fun s d c => ⟨exec_crrd_denied, fun h => ⟨fun hc => ?_, fun hc => ?_, fun k hk hc hl => ?_, fun hc => ?_, fun hc => ?_, fun h₁ h' hl => ?_,
    fun h₁ h' hl => ?_, fun hc hl => ?_, fun k hk hc => ?_, fun hc => ?_, fun hc => ?_, fun hc => ?_⟩⟩
  · rw [exec_crrd_allowed h hc, crRead_cycle]
  · rw [exec_crrd_allowed h hc, crRead_pos]
  · rw [exec_crrd_allowed h hc, crRead_coord hk hl]
  · rw [exec_crrd_allowed h hc, crRead_space]
  · rw [exec_crrd_allowed h hc, crRead_world]
    cases s.my.world <;> rfl
  · rw [exec_crrd_allowed h rfl, crRead_task h₁ h' hl]
  · rw [exec_crrd_allowed h rfl, crRead_light h₁ h' hl]
    rfl
  · refine ⟨_, exec_crrd_allowed h hc, ?_, ?_, fun k hk h₀ h₃ => ?_⟩ <;> rw [getLsbD_word _ (by omega), testBit_crRead_status hl]
    · rfl
    · rfl
    · rw [if_neg h₀, if_neg h₃]
  · rw [exec_crrd_allowed h hc, crRead_qcfg hk]
  · rw [exec_crrd_allowed h hc, crRead_cordon, word_toNat]
  · rw [exec_crrd_allowed h hc, crRead_errinj, word_toNat]
  · rw [exec_crrd_allowed h hc, crRead_faccept, word_toNat]

-- writes

theorem crUpdate_denied {s : State} {a : Reg} {c : BitVec 12} (h : (posSlot s.cur ≠ 0 ∧ 0x800 ≤ c.toNat) ∨ (0x840 ≤ c.toNat ∧ c.toNat ≤ 0x844))
    (f : Nat → Nat → Nat) : crUpdate f a c s = .next (s.noIssue 0x41 3 0 3) := by
  have hd : (!crAllowed s.cur c.toNat || (0x840 ≤ c.toNat && c.toNat ≤ 0x844)) = true := by
    rcases h with ⟨h, h'⟩ | ⟨h, h'⟩
    · simp [crAllowed, h, show ¬c.toNat < 0x800 by omega]
    · simp [h, h']
  simp only [crUpdate, if_pos hd]

/-- An instruction that, issued at `s` with its sources read in `s₁`, writes `v` to control register `c` or finds `v` reserved. -/
def WritesValue (i : Instr) (s s₁ : State) (c v : Nat) : Prop :=
  (∀ t, s₁.crWrite s₁.cur c v = some t → exec i s = .next t.advance) ∧ (s₁.crWrite s₁.cur c v = none → exec i s = .next (s₁.formatFault 0))

/-- An update by `f` writes what it makes of the register's value and A. -/
theorem writesValue_of_fetch {i : Instr} {s s₁ : State} {a : Reg} {c : BitVec 12} {x : Word} {f : Nat → Nat → Nat} (hi : exec i s = crUpdate f a c s)
    (hf : fetchSrcs [a] s = .ok [x] s₁) (h : c.toNat < 0x800 ∨ posSlot s.cur = 0) (hfe : ¬(0x840 ≤ c.toNat ∧ c.toNat ≤ 0x844)) :
    WritesValue i s s₁ c.toNat (f (s₁.crRead s₁.cur c.toNat) x.toNat) := by
  have hd : ¬(!crAllowed s.cur c.toNat || (0x840 ≤ c.toNat && c.toNat ≤ 0x844)) = true := by
    have ha : crAllowed s.cur c.toNat = true := by simpa [crAllowed] using h
    simpa [ha] using hfe
  simp only [WritesValue, hi, crUpdate, if_neg hd, with1_of_fetch hf]
  exact ⟨fun t ht => by rw [ht], fun ht => by rw [ht]⟩

-- what a write leaves in a per-task register

theorem bits_zero (v n : Nat) : bits v 0 n = v % 2 ^ n := by simp [bits]

/-- The registers of Table 1-9 that a slot may write. -/
def Writable (c : Nat) : Prop :=
  c ∈ [0, 1, 2, 3, 4, 5, 0x10, 0x11, 0x12, 0x13, 0x14, 0x15, 0x16, 0x20] ∨ (0x28 ≤ c ∧ c ≤ 0x2F) ∨ 0x40 ≤ c

/-- STATUS takes FERETRY, BTOTRAP and XEN of the written value (R42). -/
theorem testBit_status_fields (old v k : Nat) :
    (setBits (setBits (setBits old 32 16 (bits v 32 16)) 23 1 (bits v 23 1)) 8 5 (bits v 8 5)).testBit k =
      if (32 ≤ k ∧ k < 48) ∨ k = 23 ∨ (8 ≤ k ∧ k < 13) then v.testBit k else old.testBit k := by
  have hb (lo n : Nat) (h : lo ≤ k ∧ k < lo + n) : (bits v lo n).testBit (k - lo) = v.testBit k := by
    rw [bits, Nat.testBit_mod_two_pow, Nat.testBit_div_two_pow, Nat.sub_add_cancel h.1, decide_eq_true (show k - lo < n by omega), Bool.true_and]
  simp only [testBit_setBits]
  by_cases h₁ : 8 ≤ k ∧ k < 8 + 5
  · rw [if_pos h₁, hb 8 5 h₁, if_pos (by omega)]
  · rw [if_neg h₁]
    by_cases h₂ : 23 ≤ k ∧ k < 23 + 1
    · rw [if_pos h₂, hb 23 1 h₂, if_pos (by omega)]
    · rw [if_neg h₂]
      by_cases h₃ : 32 ≤ k ∧ k < 32 + 16
      · rw [if_pos h₃, hb 32 16 h₃, if_pos (by omega)]
      · rw [if_neg h₃, if_neg (by omega)]

/-- Every writable register but STATUS holds exactly what `CrStores` says. -/
theorem crStores_eq_crFilter {old c v : Nat} {r : Option Nat} (h0 : c ≠ 0) (hc : c < 0x48) (hw : Writable c) (h : CrStores c old v r) :
    r = crFilter old c v := by
  obtain ⟨-, -, h₁, h₂, h₃, h₅, h₁₀, h₁₂, h₁₃, h₁₅, h₁₆, h₂₀, h₂₈, h₂D, h₄₀⟩ := h
  rcases hw with hw | ⟨hlo, hhi⟩ | hlo
  · simp only [List.mem_cons, List.not_mem_nil, or_false, h0, false_or] at hw
    rcases hw with rfl | rfl | rfl | rfl | rfl | rfl | rfl | rfl | rfl | rfl | rfl | rfl | rfl
    · rw [h₁ rfl]; rfl
    · rw [h₂ (.inl rfl)]; rfl
    · rw [h₃ rfl]; simp [crFilter, bits_zero]
    · rw [h₂ (.inr rfl)]; rfl
    · rw [h₅ rfl]; simp [crFilter, bits]
    · rw [h₁₀ (.inl rfl)]; simp [crFilter, bits_zero]
    · rw [h₁₀ (.inr rfl)]; simp [crFilter, bits_zero]
    · rw [h₁₂ rfl]; simp [crFilter, bits_zero]
    · rw [h₁₃ (.inl rfl)]; simp [crFilter, bits_zero]
    · rw [h₁₃ (.inr rfl)]; simp [crFilter, bits_zero]
    · rw [h₁₅ rfl]; simp [crFilter, bits_zero]
    · rw [h₁₆ rfl]; simp [crFilter, bits_zero]
    · rw [h₂₀ rfl]; simp [crFilter, bits_zero]
  · by_cases hx : c ≤ 0x2C
    · rw [h₂₈ hlo hx]
      interval_cases c <;> simp [crFilter, bits_zero]
    · rw [h₂D (by omega) hhi]
      interval_cases c <;> simp [crFilter, bits]
  · rw [h₄₀ hlo (by omega)]
    interval_cases c <;> simp [crFilter, bits_zero]

/-- `crFilter` keeps of a written value what `CrStores` says, modulo the register's 64 bits. -/
theorem crFilter_of_crStores {old c v : Nat} {r : Option Nat} (hc : c < 0x48) (hw : Writable c) (h : CrStores c old v r) :
    (r = none → crFilter old c v = none) ∧ ∀ w, r = some w → w < 2 ^ 64 → ∃ u, crFilter old c v = some u ∧ u % 2 ^ 64 = w := by
  rcases eq_or_ne c 0 with rfl | h0
  · obtain ⟨hnone, hsome, -⟩ := h
    by_cases hz : bits v 32 16 = 0
    · rw [hnone rfl hz]
      exact ⟨fun _ => by rw [crFilter, if_pos rfl, if_pos hz], nofun⟩
    · obtain ⟨w, rfl, hbits⟩ := hsome rfl hz
      refine ⟨nofun, fun w' e hlt => ?_⟩
      rw [← Option.some.inj e] at hlt ⊢
      refine ⟨_, by rw [crFilter, if_pos rfl, if_neg hz], Nat.eq_of_testBit_eq fun k => ?_⟩
      rw [Nat.testBit_mod_two_pow, testBit_status_fields]
      by_cases hk : k < 64
      · rw [hbits k hk, decide_eq_true hk, Bool.true_and]
      · rw [Nat.testBit_lt_two_pow (hlt.trans_le (Nat.pow_le_pow_right (by decide) (by omega))), decide_eq_false hk, Bool.false_and]
  · rw [← crStores_eq_crFilter h0 hc hw h]
    exact ⟨id, fun w hr hlt => ⟨w, hr, Nat.mod_eq_of_lt hlt⟩⟩

/-- Setting a control register that is no event counter, and going on. -/
theorem writesCr_setCr_advance (s : State) {c : Nat} (u : Nat) (hc : ¬(0x48 ≤ c ∧ c ≤ 0x4F)) :
    WritesCr s (s.setMy (·.setCr c u)).advance c (u % 2 ^ 64) := by
  have hcr (k : Nat) (hk : ¬(0x48 ≤ k ∧ k ≤ 0x4F)) : (s.setMy (·.setCr c u)).advance.my.cr k = if k = c then u % 2 ^ 64 else s.my.cr k := by
    rw [State.advance, State.goTo_cr _ _ _ hk, State.my_setMy, Task.cr_setCr]
  obtain ⟨h₁, h₂, -, -, h₅, -⟩ := sameButIssue_goTo (s.setMy (·.setCr c u)) ((s.setMy (·.setCr c u)).my.pc + 4)
  refine ⟨?_, (onlyMySlot_setMy s _).trans (onlyMySlot_advance _), ?_, fun k hne hk => ?_, fun r => ?_, ?_, ?_, ?_⟩
  · have g := goesOn_advance (s.setMy (·.setCr c u))
    rw [State.my_setMy] at g
    exact g.congr (by rw [State.my_setMy]; rfl)
  · rw [hcr c hc, if_pos rfl]
  · rw [hcr k hk, if_neg hne]
  · rw [sreg_advance, State.my_setMy]; rfl
  · exact h₁.trans (by rw [State.my_setMy]; rfl)
  · exact h₂.trans (by rw [State.my_setMy]; rfl)
  · exact h₅.trans (by rw [State.my_setMy]; rfl)

theorem crWrite_task {s : State} {c : Nat} (v : Nat) (h : c < 0x800) (hl : s.isLight s.cur = false) :
    s.crWrite s.cur c v = (crFilter (s.my.cr c) c v).map fun u => s.setMy (·.setCr c u) := by
  simp only [State.crWrite, if_pos h, hl]
  rfl

theorem crWrite_light {s : State} {c : Nat} (v : Nat) (h : c < 0x800) (hl : s.isLight s.cur = true) : s.crWrite s.cur c v = some s := by
  simp only [State.crWrite, if_pos h, hl, if_true]

/-- A per-task register that is written off a light slot. -/
theorem WritesValue.task {i : Instr} {s s₁ : State} {c v : Nat} (hi : WritesValue i s s₁ c v) (hc : c < 0x48) (hw : Writable c)
    (hl : s₁.isLight s₁.cur = false) {r : Option Nat} (h : CrStores c (s₁.my.cr c) v r) :
    (r = none → exec i s = .next (s₁.formatFault 0)) ∧ ∀ w, r = some w → w < 2 ^ 64 → ∃ t, exec i s = .next t ∧ WritesCr s₁ t c w := by
  have hcw := crWrite_task (s := s₁) v (show c < 0x800 by omega) hl
  obtain ⟨hn, hs⟩ := crFilter_of_crStores hc hw h
  refine ⟨fun hr => hi.2 (by rw [hcw, hn hr]; rfl), fun w hr hlt => ?_⟩
  obtain ⟨u, hu, rfl⟩ := hs w hr hlt
  exact ⟨_, hi.1 _ (by rw [hcw, hu]; rfl), writesCr_setCr_advance s₁ u (by omega)⟩

-- the banker's registers

theorem due_advance {s : State} {due : Nat} {ev : Instr} {m : Msg} (h : Due s due ev m) : Due s.advance due ev m := by
  rwa [Due, State.advance_agenda]

theorem due_postAt (s : State) (due : Nat) (p : Pos) (ev : Instr) (m : Msg) : Due (s.postAt due p ev m) due ev m :=
  ⟨_, (State.mem_postAt ..).2 (.inl rfl), rfl, rfl, rfl⟩

/-- Going on after a change that leaves the task alone. -/
theorem goesOn_advance_of_my {s t : State} (h : t.my = s.my) : GoesOn s t.advance (s.my.pc + 4) := by
  rw [← h]
  exact (goesOn_advance t).congr (by rw [h])

theorem crWrite_qcfg_reserved {s : State} {k v : Nat} (h : k < 4) (hv : qcfgValid v = false) : s.crWrite s.cur (0x800 + k) v = none := by
  simp [State.crWrite, show 0x800 + k ≤ 0x803 by omega, hv]

/-- A QCFG takes LOCK and the rectangle; with LOADDEF the load of the default is due at once (Table 15-2). -/
theorem crWrite_qcfg {s : State} {k v : Nat} (h : k < 4) (hv : qcfgValid v = true) :
    ∃ t, s.crWrite s.cur (0x800 + k) v = some t ∧ t.my = s.my ∧
      (t.core (posCore s.cur)).qcfg.get 0xFF00 k = word (bits v 63 1 * 2 ^ 63 + bits v 0 16) ∧
      (v.testBit 62 = true → Due t s.cycle .qcfgDefault (.qcfgDefault (posCore s.cur) k)) := by
  refine ⟨_, by rw [State.crWrite, if_neg (by omega), if_pos (by omega), hv, Nat.add_sub_cancel_left]; rfl, ?_⟩
  rw [← bit_eq_testBit]
  split
  · exact ⟨rfl, by rw [State.postAt, State.core_post, State.core_modCore_self, Tbl.get_put_self],
      fun _ => due_postAt ..⟩
  · next hb => exact ⟨rfl, by rw [State.core_modCore_self, Tbl.get_put_self], fun h => absurd h hb⟩

theorem qcfgValid_iff (v : Nat) : qcfgValid v = true ↔ v % 16 ≤ v / 2 ^ 8 % 16 ∧ v / 16 % 16 ≤ v / 2 ^ 12 % 16 := by
  simp only [qcfgValid, bits, Bool.and_eq_true]
  norm_num

theorem WritesValue.qcfg {i : Instr} {s s₁ : State} {k v : Nat} (hk : k < 4) (hi : WritesValue i s s₁ (0x800 + k) v) :
    (v % 16 > v / 2 ^ 8 % 16 ∨ v / 16 % 16 > v / 2 ^ 12 % 16 → exec i s = .next (s₁.formatFault 0)) ∧
    (v % 16 ≤ v / 2 ^ 8 % 16 → v / 16 % 16 ≤ v / 2 ^ 12 % 16 → ∃ t, exec i s = .next t ∧ GoesOn s₁ t (s₁.my.pc + 4) ∧
      (t.core (posCore s₁.cur)).qcfg.get 0xFF00 k = word (v / 2 ^ 63 % 2 * 2 ^ 63 + v % 2 ^ 16) ∧
      (v.testBit 62 = true → Due t s₁.cycle .qcfgDefault (.qcfgDefault (posCore s₁.cur) k))) := by
  refine ⟨fun h => hi.2 (crWrite_qcfg_reserved hk ?_), fun h h' => ?_⟩
  · rw [← Bool.not_eq_true, qcfgValid_iff]
    omega
  · obtain ⟨t, ht, hmy, hq, hd⟩ := crWrite_qcfg (s := s₁) hk ((qcfgValid_iff v).2 ⟨h, h'⟩)
    refine ⟨_, hi.1 t ht, goesOn_advance_of_my hmy, ?_, fun hb => due_advance (hd hb)⟩
    rw [State.core_advance, hq, bits, bits_zero, pow_one]

theorem crWrite_cordon {s : State} {v : Nat} (hv : cordonValid (posCore s.cur) v = true) : s.crWrite s.cur 0x810 v =
    some (s.modCore (posCore s.cur) fun k => { k with cordon := word (bits v 63 1 * 2 ^ 63 + bits v 0 16) }) := by
  simp [State.crWrite, hv]

theorem crWrite_errinj {s : State} {v : Nat} (hv : errinjRefused v = false) : s.crWrite s.cur 0x820 v =
    some (s.postAt s.cycle (mkPos (posCore s.cur) 0) (errinjEvent v) (.errinj (posCore s.cur) (word v))) := by
  simp [State.crWrite, hv]

theorem WritesValue.cordon {i : Instr} {s s₁ : State} {v : Nat} (hi : WritesValue i s s₁ 0x810 v) :
    (cordonValid (posCore s₁.cur) v = false → exec i s = .next (s₁.formatFault 0)) ∧
    (cordonValid (posCore s₁.cur) v = true → ∃ t, exec i s = .next t ∧ GoesOn s₁ t (s₁.my.pc + 4) ∧
      (t.core (posCore s₁.cur)).cordon = word (v / 2 ^ 63 % 2 * 2 ^ 63 + v % 2 ^ 16)) := by
  refine ⟨fun h => hi.2 (by simp [State.crWrite, h]), fun h => ⟨_, hi.1 _ (crWrite_cordon h), goesOn_advance_of_my rfl, ?_⟩⟩
  rw [State.core_advance, State.core_modCore_self, bits, bits_zero, pow_one]

theorem WritesValue.errinj {i : Instr} {s s₁ : State} {v : Nat} (hi : WritesValue i s s₁ 0x820 v) (h : errinjRefused v = false) :
    ∃ t, exec i s = .next t ∧ GoesOn s₁ t (s₁.my.pc + 4) ∧ Due t s₁.cycle (errinjEvent v) (.errinj (posCore s₁.cur) (word v)) :=
  ⟨_, hi.1 _ (crWrite_errinj h), goesOn_advance_of_my rfl, due_advance (due_postAt ..)⟩

/-- Settles O49: `writesValue_of_fetch` says what each member writes, and the facts about `WritesValue` what that leaves of each register. -/
theorem controlRegisterWrites : Obligations.ControlRegisterWrites := by
  refine ⟨fun s a c h => ⟨(exec_crwr a c s).trans (crUpdate_denied h _), (exec_crset a c s).trans (crUpdate_denied h _),
    (exec_crclr a c s).trans (crUpdate_denied h _)⟩, fun s s₁ a c x hf => ?_⟩
  intro writes
  have key (i : Instr) (f : Nat → Nat → Nat) (hi : exec i s = crUpdate f a c s) : writes i (f (s₁.crRead s₁.cur c.toNat) x.toNat) := by
    have hv := writesValue_of_fetch hi hf
    refine ⟨fun hc _ hl r hr hw => (hv (.inl (by omega)) (by omega)).task hc hw hl hr, fun hc hl => ?_, fun k hk hc hp => ?_, fun hc hp => ?_,
      fun hc hp he => ?_⟩
    · exact (hv (.inl (by omega)) (by omega)).1 _ (crWrite_light _ (by omega) hl)
    all_goals
      have h := hv (.inr hp) (by omega)
      rw [hc] at h ⊢
    · exact h.qcfg hk
    · exact h.cordon
    · rw [hc] at he
      exact h.errinj he
  exact ⟨key _ (fun _ y => y) (exec_crwr a c s), key _ (fun o y => o ||| y) (exec_crset a c s),
    key _ (fun o y => o &&& (2 ^ 64 - 1 - y)) (exec_crclr a c s)⟩

end Sys2Proof.Machine
end

section
/-! PROOF. Traps, returns from them and the system members (O50). -/
namespace Sys2Proof.Machine

-- software traps

theorem sreg_congr {t u : Task} (h : t.regs = u.regs) (r : Nat) : t.sreg r = u.sreg r := by rw [Task.sreg, Task.sreg, h]

theorem OnlyMySlot.with_nextId {s t : State} (h : OnlyMySlot s t) (n : Nat) : OnlyMySlot { s with nextId := n } { t with nextId := n } := by
  obtain ⟨h₁, h₂⟩ := h
  refine ⟨?_, h₂⟩
  rw [h₁]

/-- With one trap held, due and not deferred, and no handler running, that trap is entered (R86, R460). -/
theorem takeTraps_of_due {s : State} {p : Pos} {x : PTrap} (hst : (s.slot p).st = .ready) (hs : (s.task p).settled = true)
    (hr : (s.task p).resume = none) (hi : (s.task p).inTrap = false) (ht : (s.task p).traps = [x]) (hd : x.due = true) (hn : x.trap.deferred = false) :
    s.takeTraps p = (s.modTask p fun t => { t with traps := [], precise := none }).trapEntry p x.trap (some x.pc) := by
  have hx : (s.task p).nextTrap = some x := by simp [Task.nextTrap, hr, hi, ht, hd]
  have he : (s.modTask p fun t => { t with traps := (t.traps.erase x).map fun y => { y with due := true }, precise := none }) =
      s.modTask p fun t => { t with traps := [], precise := none } := by
    rw [State.modTask, State.modTask, State.modSlot, State.modSlot, show (s.slot p).task.traps = [x] from ht, List.erase_cons_head]
    rfl
  simp only [State.takeTraps, hst, hs, hx, hn, he, beq_self_eq_true, Bool.and_self, Bool.and_false, Bool.false_eq_true, if_true, if_false]

/-- With no trap to enter, nothing happens. -/
theorem takeTraps_of_none {s : State} {p : Pos} (h : (s.task p).nextTrap = none) (hp : (s.task p).precise = none ∨ (s.task p).resume.isSome = true) :
    s.takeTraps p = s := by
  unfold State.takeTraps
  simp only [h]
  split
  · rcases hp with hp | hp
    · simp only [hp]
    · split
      · rw [if_pos hp]
      · rfl
  · rfl

theorem exec_trap_of_enabled {s : State} (c : BitVec 12) (hi : s.my.inTrap = false) (h₁ : s.my.cr 1 ≠ 0) (hl : s.isLight s.cur = false)
    (hs : s.my.settled = true) :
    exec (.trap c) s = .next (s.advance.trapAfter s.advance.cur s.my.pc { cause := 1, sub := 0, val := c.toNat, deferred := false }) := by
  simp [execTrap, hi, h₁, hl, hs]

/-- A trap after an instruction, where nothing earlier is outstanding or held: the trap is entered at the boundary at which the task stands. -/
theorem trapAfter_of_quiet {s : State} (pc : Word) (tr : Trap) (hst : (s.slot s.cur).st = .ready) (ho : s.my.outst = []) (ht : s.my.traps = [])
    (hr : s.my.resume = none) (hi : s.my.inTrap = false) (hd : tr.deferred = false) : ∃ u, s.trapAfter s.cur pc tr = u.trapEntry s.cur tr (some pc) ∧
      OnlyMySlot { s with nextId := s.nextId + 1 } u ∧ u.my = { s.my with traps := [], precise := none } := by
  let x : PTrap := { trap := tr, due := true, id := s.nextId, inHandler := s.my.inTrap, pc := pc }
  let v : State := State.setMy { s with nextId := s.nextId + 1 } fun t => { t with traps := insertTrap { x with inHandler := t.inTrap } t.traps }
  have hv : v.task s.cur = { s.my with traps := [x] } := by
    refine (State.my_setMy _ _).trans ?_
    show ({ s.my with traps := insertTrap { x with inHandler := s.my.inTrap } s.my.traps } : Task) = _
    rw [ht]
    rfl
  refine ⟨v.setMy fun t => { t with traps := [], precise := none }, ?_, (onlyMySlot_setMy _ _).trans (onlyMySlot_setMy _ _), ?_⟩
  · refine takeTraps_of_due (s := v) (x := x) ?_ ?_ ?_ ?_ ?_ rfl hd
    · exact (congrArg Slot.st (State.slot_modSlot_self _ _ _)).trans hst
    · rw [hv, Task.settled]; simp [ho]
    · rw [hv]; exact hr
    · rw [hv]; exact hi
    · rw [hv]
  · rw [State.my_setMy, show v.my = v.task s.cur from rfl, hv]

/-- A trap entered with a handler there and none running, from a state that is as `s` but for its task: the parts that the statements name. -/
theorem trapEntry_my {s : State} (tr : Trap) (pc : Option Word) (hi : s.my.inTrap = false) (h₁ : s.my.cr 1 ≠ 0) (hl : s.isLight s.cur = false) :
    OnlyMySlot s (s.trapEntry s.cur tr pc) ∧ (s.trapEntry s.cur tr pc).my.pc = word (s.my.cr 1) ∧ (s.trapEntry s.cur tr pc).my.cr 2 = s.my.pc.toNat ∧
      (s.trapEntry s.cur tr pc).my.cr 3 = (tr.cause + 256 * tr.sub + 65536 * tr.deferred.toNat) % 2 ^ 64 ∧
      (s.trapEntry s.cur tr pc).my.cr 4 = tr.val % 2 ^ 64 ∧ (s.trapEntry s.cur tr pc).my.inTrap = true ∧
      ∀ r, (s.trapEntry s.cur tr pc).my.sreg r = s.my.sreg r := by
  obtain ⟨h, -⟩ := trapEntrySavesAndGoesOnOrEscalates s s.cur tr pc
  obtain ⟨t, ht, hslots, hne, hpc, h₂, h₃, h₄, hin, -, -, hregs, -⟩ := h hi h₁ hl
  subst ht
  have hmy : (s.trapEntry s.cur tr pc).my = (s.trapEntry s.cur tr pc).task s.cur := by rw [State.my, State.trapEntry_cur]
  rw [hmy]
  exact ⟨⟨hslots, hne⟩, hpc, h₂, h₃, h₄, hin, sreg_congr hregs⟩

/-- What a trap after an instruction leaves, where nothing earlier is outstanding or held and a handler can run (R42, R458, R459). -/
theorem trapAfter_my {s : State} (pc : Word) (tr : Trap) (hst : (s.slot s.cur).st = .ready) (ho : s.my.outst = []) (ht : s.my.traps = [])
    (hr : s.my.resume = none) (hi : s.my.inTrap = false) (hd : tr.deferred = false) (h₁ : s.my.cr 1 ≠ 0) (hl : s.isLight s.cur = false) :
    ∃ t, s.trapAfter s.cur pc tr = t ∧ t.nextId = s.nextId + 1 ∧ OnlyMySlot { s with nextId := s.nextId + 1 } t ∧ t.my.pc = word (s.my.cr 1) ∧
      t.my.cr 2 = s.my.pc.toNat ∧ t.my.cr 3 = (tr.cause + 256 * tr.sub + 65536 * tr.deferred.toNat) % 2 ^ 64 ∧ t.my.cr 4 = tr.val % 2 ^ 64 ∧
      t.my.inTrap = true ∧ ∀ r, t.my.sreg r = s.my.sreg r := by
  obtain ⟨u, hu, hon, hmy⟩ := trapAfter_of_quiet pc tr hst ho ht hr hi hd
  have hcur : u.cur = s.cur := hon.cur_eq
  have hlu : u.isLight u.cur = false := by
    rw [State.isLight, State.core, hcur, hon.keeps (·.cores) fun _ _ => rfl]
    exact hl
  have h := trapEntry_my (s := u) tr (some pc) (by rw [hmy]; exact hi) (by rw [hmy]; exact h₁) hlu
  rw [hcur, hmy] at h
  obtain ⟨hone, hpc, h₂, h₃, h₄, hin, hreg⟩ := h
  exact ⟨_, hu, by rw [State.trapEntry_nextId]; exact hon.keeps (·.nextId) fun _ _ => rfl, hon.trans hone, hpc, h₂, h₃, h₄, hin, hreg⟩

/-- TRAP, taken at PC + 4 (R467). -/
theorem trap_taken {s : State} (c : BitVec 12) (hi : s.my.inTrap = false) (h₁ : s.my.cr 1 ≠ 0) (hl : s.isLight s.cur = false) (ho : s.my.outst = [])
    (ht : s.my.traps = []) (hr : s.my.resume = none) (hst : (s.slot s.cur).st = .ready) :
    ∃ t, exec (.trap c) s = .next t ∧ OnlyMySlot { s with nextId := t.nextId } t ∧ t.my.pc = word (s.my.cr 1) ∧ t.my.cr 2 = (s.my.pc + 4).toNat ∧
      t.my.cr 3 = 1 ∧ t.my.cr 4 = c.toNat ∧ t.my.inTrap = true ∧ ∀ r, t.my.sreg r = s.my.sreg r := by
  have hon := onlyMySlot_advance s
  have hcr (k : Nat) (hk : ¬(0x48 ≤ k ∧ k ≤ 0x4F)) : s.advance.my.cr k = s.my.cr k := State.goTo_cr s _ k hk
  obtain ⟨hpc, hres⟩ := goesOn_advance s
  rw [hr] at hpc
  have h := trapAfter_my (s := s.advance) s.my.pc { cause := 1, sub := 0, val := c.toNat, deferred := false } (by rw [hon.cur_eq, st_advance, hst])
    ((State.goTo_my s _ (·.outst) fun _ _ _ => rfl).trans (by simp [ho])) ((State.goTo_my s _ (·.traps) fun _ _ _ => rfl).trans ht) hres
    (by rw [Task.inTrap, hcr 0 (by decide)]; exact hi) rfl (by rw [hcr 1 (by decide)]; exact h₁)
    (by rw [hon.cur_eq, State.isLight, State.core_advance]; exact hl)
  rw [State.advance_nextId, hcr 1 (by decide), hpc] at h
  obtain ⟨t, rfl, hid, hone, htpc, h₂, h₃, h₄, hin, hreg⟩ := h
  have hs : s.my.settled = true := by simp [Task.settled, ho]
  have hc : c.toNat % 2 ^ 64 = c.toNat := Nat.mod_eq_of_lt (c.isLt.trans (by decide))
  refine ⟨_, exec_trap_of_enabled c hi h₁ hl hs, ?_, htpc, h₂, h₃, h₄.trans hc, hin, fun r => (hreg r).trans (sreg_advance s r)⟩
  rw [hid]
  exact (hon.with_nextId _).trans hone

theorem trap_in_handler {s : State} (c : BitVec 12) (hi : s.my.inTrap = true) (hs : s.my.settled = true) :
    exec (.trap c) s = .next (s.supFault s.cur 0x47 0 0 3 1) := by
  have h := s.trapEntry_in_trap s.cur { cause := 1, sub := 0, val := c.toNat, deferred := false } none hi
  simp [execTrap, hi, State.trapAt, hs, h]

-- ERET

theorem eret_outside (s : State) (h : s.my.inTrap = false) : exec .eret s = .next (s.formatFault 12) := by simp [execEret, h]

theorem eret_inside (s : State) (h : s.my.inTrap = true) : exec .eret s = .next (s.trapReturn.takeTraps s.cur) := by simp [execEret, h]

/-- The task that ERET leaves before it is known where it goes: INTRAP clear, TRES used up, the handler's kept words gone. -/
def Task.returned (t : Task) : Task :=
  let t := (t.setInTrap false).setCr 5 0
  { t with kept := t.kept.del (2 * t.pc.toNat + 1) }

theorem Task.cr_returned (t : Task) (c : Nat) : t.returned.cr c = if c = 5 then 0 else (t.setInTrap false).cr c := Task.cr_setCr _ 5 0 c

theorem Task.inTrap_returned (t : Task) : t.returned.inTrap = false := by
  rw [Task.inTrap, Task.cr_returned, if_neg (by decide)]
  exact Task.inTrap_setInTrap t false

theorem bit_eq_false_iff (w k : Nat) : bit w k = false ↔ w / 2 ^ k % 2 = 0 := by simp [bit]

/-- A return to TRAPPC (R468). -/
theorem trapReturn_plain {s : State} (h : s.my.cr 5 / 2 ^ 31 % 2 = 0) :
    OnlyMySlot s s.trapReturn ∧ s.trapReturn.my = { s.my.returned with pc := word (s.my.cr 2 / 4 * 4 % 2 ^ 57), resume := none } := by
  have hb := (bit_eq_false_iff (s.my.cr 5) 31).2 h
  simp only [State.trapReturn, hb, Bool.false_eq_true, if_false, State.my_setMy]
  exact ⟨((onlyMySlot_setMy _ _).trans (onlyMySlot_setMy _ _)).trans (onlyMySlot_setMy _ _), rfl⟩

/-- A return that first runs the instruction at TRAPVAL (R167, R468). -/
theorem trapReturn_running {s : State} (h : s.my.cr 5 / 2 ^ 31 % 2 = 1) :
    s.trapReturn.cur = s.cur ∧ s.trapReturn.turn = posCore s.cur ∧ s.trapReturn.cycle = s.cycle ∧ s.trapReturn.my = { s.my.returned with
      pc := word (s.my.cr 4 / 4 * 4 % 2 ^ 57), resume := some (word (s.my.cr 2 / 4 * 4 % 2 ^ 57)), tileFrom := s.my.cr 5 % 512 } := by
  have hb : bit (s.my.cr 5) 31 = true := by
    rw [← Bool.not_eq_false, bit_eq_false_iff]
    omega
  simp only [State.trapReturn, hb, if_true, bits_zero]
  refine ⟨rfl, rfl, rfl, ?_⟩
  have h₄ : s.my.returned.cr 4 = s.my.cr 4 := (s.my.cr_returned 4).trans (Task.cr_setInTrap_of_ne _ _ (by decide))
  rw [← h₄, show ∀ (u : State) n, ({ u with turn := n } : State).my = u.my from fun _ _ => rfl, State.my_setMy, State.my_setMy, State.my_setMy]
  rfl

theorem eret_to_trappc {s : State} (hi : s.my.inTrap = true) (ht : s.my.traps = []) (hp : s.my.precise = none) (h : s.my.cr 5 / 2 ^ 31 % 2 = 0) :
    ∃ t, exec .eret s = .next t ∧ OnlyMySlot s t ∧ t.my.pc = word (s.my.cr 2 / 4 * 4 % 2 ^ 57) ∧ t.my.inTrap = false ∧ t.my.cr 5 = 0 ∧
      t.my.resume = none ∧ (∀ c, c ≠ 0 → c ≠ 5 → t.my.cr c = s.my.cr c) ∧ ∀ r, t.my.sreg r = s.my.sreg r := by
  obtain ⟨hon, hmy⟩ := trapReturn_plain h
  have hcur : s.trapReturn.task s.cur = s.trapReturn.my := by rw [State.my, hon.cur_eq]
  have hprec : s.trapReturn.my.precise = none := by rw [hmy]; exact hp
  have htr : s.trapReturn.my.traps = [] := by rw [hmy]; exact ht
  have hnone : (s.trapReturn.task s.cur).nextTrap = none := by
    rw [hcur]
    simp [Task.nextTrap, htr]
  refine ⟨_, by rw [eret_inside s hi, takeTraps_of_none hnone (.inl (by rw [hcur, hprec]))], hon, ?_⟩
  rw [hmy]
  exact ⟨rfl, s.my.inTrap_returned, s.my.cr_returned 5, rfl,
    fun c h₀ h₅ => (s.my.cr_returned c).trans (by rw [if_neg h₅, Task.cr_setInTrap_of_ne _ _ h₀]), fun _ => rfl⟩

theorem eret_to_trapval {s : State} (hi : s.my.inTrap = true) (h : s.my.cr 5 / 2 ^ 31 % 2 = 1) :
    ∃ t, exec .eret s = .next t ∧ t.my.pc = word (s.my.cr 4 / 4 * 4 % 2 ^ 57) ∧ t.my.resume = some (word (s.my.cr 2 / 4 * 4 % 2 ^ 57)) ∧
      t.my.tileFrom = s.my.cr 5 % 512 ∧ t.my.inTrap = false ∧ t.my.cr 5 = 0 ∧ t.turn = posCore s.cur ∧ t.cycle = s.cycle ∧
      ∀ r, t.my.sreg r = s.my.sreg r := by
  obtain ⟨hcur, hturn, hcycle, hmy⟩ := trapReturn_running h
  have hcur : s.trapReturn.task s.cur = s.trapReturn.my := by rw [State.my, hcur]
  have hres : s.trapReturn.my.resume.isSome = true := by rw [hmy]; rfl
  have hnone : (s.trapReturn.task s.cur).nextTrap = none := by
    rw [hcur]
    simp [Task.nextTrap, hres]
  refine ⟨_, by rw [eret_inside s hi, takeTraps_of_none hnone (.inr (by rw [hcur, hres]))], ?_⟩
  rw [hmy]
  exact ⟨rfl, rfl, rfl, s.my.inTrap_returned, s.my.cr_returned 5, hturn, hcycle, fun _ => rfl⟩

-- waiting members

theorem parksFor_park (s : State) (w : Wait) : ParksFor s (s.park s.cur w) w :=
  ⟨rfl, by simp [State.slot_park], my_park s w, rfl, rfl, (onlyMySlot_park s w).2⟩

/-- A change of the slot that is none of its task comes before the wait unseen. -/
theorem ParksFor.of_setMySlot {s t : State} {w : Wait} {f : Slot → Slot} (h : ParksFor (s.setMySlot f) t w) (hf : ∀ x, (f x).task = x.task) :
    ParksFor s t w := by
  have hmy : (s.setMySlot f).my = s.my := by
    show ((s.modSlot s.cur f).slot s.cur).task = _
    rw [State.slot_modSlot_self, hf]
    rfl
  obtain ⟨hcur, hst, ht, hmem, hcores, hslots⟩ := h
  rw [hmy] at ht
  exact ⟨hcur, hst, ht, hmem, hcores, fun p hp => (hslots p hp).trans ((onlyMySlot_setMySlot s f).2 p hp)⟩

/-- A class B instruction parks, and its completion is due. -/
theorem block_spec (s : State) (due : Nat) (f : Finish) : ParksFor s (s.block due f) (.blocking s.nextId) ∧
    Due (s.block due f) due .classBCompletion (.classBCompletion (s.tk s.cur) s.nextId f) ∧
    ((s.block due f).slot s.cur).fetchTr = (s.slot s.cur).fetchTr := by
  have hslot : (s.fresh.2.park s.cur (.blocking s.nextId)).slot s.cur = _ := State.slot_park s.fresh.2 s.cur s.cur _
  rw [if_pos rfl] at hslot
  refine ⟨parksFor_park s.fresh.2 _, due_postAt .., ?_⟩
  show ((s.fresh.2.park s.cur (.blocking s.nextId)).slot s.cur).fetchTr = _
  rw [hslot]
  rfl

theorem iflush_spec (s : State) : ∃ t, exec .iflush s = .next t ∧ ParksFor s t (.blocking s.nextId) ∧ (t.slot s.cur).fetchTr = [] ∧
    Due t (s.cycle + 40) .classBCompletion (.classBCompletion (s.tk s.cur) s.nextId endsPlain) := by
  obtain ⟨hp, hd, hf⟩ := block_spec (s.setMySlot fun x => { x with fetchTr := [] }) (s.cycle + 40) Finish.plain
  have hslot : (s.setMySlot fun x => { x with fetchTr := [] }).slot s.cur = _ := State.slot_modSlot_self _ _ _
  refine ⟨_, rfl, hp.of_setMySlot fun _ => rfl, hf.trans (congrArg Slot.fetchTr hslot), ?_⟩
  rwa [State.setMySlot_cur, State.tk, hslot] at hd

-- translation caches

theorem look_map {α β : Type} (t : Tbl α) (f : α → β) (k : Nat) : Tbl.look (t.map fun x => (x.1, f x.2)) k = (Tbl.look t k).map f := by
  induction t with
  | nil => rfl
  | cons x r ih =>
    simp only [List.map_cons, Tbl.look, ih]
    split <;> rfl

theorem core_mapCores (s : State) (f : Core → Core) (hf : f {} = {}) (c : Nat) : (s.mapCores f).core c = f (s.core c) := by
  unfold State.core State.mapCores Tbl.get
  rw [look_map]
  cases Tbl.look s.cores c
  · exact hf.symm
  · rfl

/-- What a shootdown leaves of a core's translations: those that name no page of the range (R448). -/
theorem tlb_shootDown (s : State) (space page count c : Nat) : ((s.shootDown space page count).core c).tlb =
    (s.core c).tlb.filter fun t => !(t.space == space && pagesMeet t.page t.count page count) := by
  have hcores : (s.shootDown space page count).cores =
      (s.mapCores fun k => { k with tlb := k.tlb.filter fun t => !(t.space == space && pagesMeet t.page t.count page count) }).cores := by
    refine (foldl_keeps State.cores _ (fun u x => ?_) _ _).trans rfl
    split <;> rfl
  rw [State.core, hcores]
  exact congrArg Core.tlb (core_mapCores s _ rfl c)

/-- An open wait of the current slot with a completion for it on the agenda. -/
theorem waitsWith_blockOpen (s : State) (due : Nat) (m : Tk → Nat → Msg) :
    WaitsWith (s.blockOpen.2.postAt due s.cur .classBCompletion (m (s.blockOpen.2.tk s.cur) s.blockOpen.1)) .classBCompletion m := by
  obtain ⟨-, hst, hmy, -⟩ := parksFor_park s.fresh.2 (.blocking s.nextId)
  refine ⟨hst, s.nextId, due, ?_, due_postAt ..⟩
  show (s.fresh.2.park s.fresh.2.cur (.blocking s.nextId)).my.wait = _
  rw [hmy]

theorem tlbinv_denied (s : State) (a : Reg) (e : BitVec 1) (h : posSlot s.cur ≠ 0) : exec (.tlbinv a e) s = .next (s.noIssue 0x41 3 0 3) := by
  simp [execTlbinv, h]

/-- TLBINV by the banker, once its word is read (R448). -/
theorem tlbinv_of_fetch {s s₁ : State} {a : Reg} {e : BitVec 1} {x : Word} (hp : posSlot s.cur = 0) (hf : fetchSrcs [a] s = .ok [x] s₁) :
    (2 ^ 57 ≤ x.toNat → exec (.tlbinv a e) s = .next (s₁.formatFault 0)) ∧
    (x.toNat < 2 ^ 57 → (s₁.space (x.toNat % 4096)).part ≠ s₁.diePart (coreDie (posCore s₁.cur)) →
      exec (.tlbinv a e) s = .next (s₁.noIssue 0x41 3 0 3)) ∧
    (x.toNat < 2 ^ 57 → (s₁.space (x.toNat % 4096)).part = s₁.diePart (coreDie (posCore s₁.cur)) →
      let u := (s₁.shootDown (x.toNat % 4096) (x.toNat / 4096) 1).blockOpen
      exec (.tlbinv a e) s = .next (u.2.postAt u.2.cycle u.2.cur .classBCompletion (.tlbinvWait (u.2.tk u.2.cur) u.1 (x.toNat % 4096)
        (x.toNat / 4096) (e == 1) (tlbSpans (s₁.cachedTlbs (x.toNat % 4096) (x.toNat / 4096) 1))))) := by
  have hsp : bits x.toNat 0 12 = x.toNat % 4096 := bits_zero _ _
  have hpg (h : x.toNat < 2 ^ 57) : bits x.toNat 12 45 = x.toNat / 4096 := Nat.mod_eq_of_lt (by omega)
  refine ⟨fun h => ?_, fun h hn => ?_, fun h hy => ?_⟩
  · have hq : x.toNat / 2 ^ 57 ≠ 0 := by omega
    simp only [exec_tlbinv, execTlbinv, hp, ne_eq, not_true_eq_false, if_false, with1_of_fetch hf, if_pos hq]
  all_goals have hq : x.toNat / 2 ^ 57 = 0 := by omega
  · simp only [exec_tlbinv, execTlbinv, hp, ne_eq, not_true_eq_false, if_false, with1_of_fetch hf, hq, hsp, if_pos hn]
  · simp only [exec_tlbinv, execTlbinv, hp, ne_eq, not_true_eq_false, if_false, with1_of_fetch hf, hq, hsp, hpg h, hy]

/-- Settles O50: one lemma for each member above. -/
theorem trapsAndSystemMembers : Obligations.TrapsAndSystemMembers := by
  refine ⟨fun s c => trap_taken c, fun s c => trap_in_handler c, eret_outside, fun s => eret_to_trappc, fun s hi _ => eret_to_trapval hi, iflush_spec,
    fun s => ⟨fun h => ⟨_, ?_, parksFor_park s .idle⟩, fun h => ?_⟩, fun s c => rfl, tlbinv_denied, fun s s₁ a e x hp hf => ?_⟩
  · simp [execIdle, h]
  · simp [execIdle, h]
  · obtain ⟨hbig, hpart, hdone⟩ := tlbinv_of_fetch (e := e) hp hf
    let spans := tlbSpans (s₁.cachedTlbs (x.toNat % 4096) (x.toNat / 4096) 1)
    let m (k : Tk) (id : Nat) : Msg := .tlbinvWait k id (x.toNat % 4096) (x.toNat / 4096) (e == 1) spans
    refine ⟨hbig, hpart, fun h hy => ⟨_, spans, hdone h hy, waitsWith_blockOpen _ _ m, fun c y hm => ?_, fun c y hm hs => ?_⟩⟩
    · have hm : y ∈ ((s₁.shootDown (x.toNat % 4096) (x.toNat / 4096) 1).core c).tlb := hm
      rw [tlb_shootDown, List.mem_filter] at hm
      obtain ⟨-, hm⟩ := hm
      rintro ⟨hs, hlo, hhi⟩
      simp [hs, pagesMeet, hhi, Nat.lt_succ_of_le hlo] at hm
    · show y ∈ ((s₁.shootDown (x.toNat % 4096) (x.toNat / 4096) 1).core c).tlb
      rw [tlb_shootDown, List.mem_filter]
      exact ⟨hm, by simp [hs]⟩

end Sys2Proof.Machine
end

section
/-! PROOF. Loads from the requester's own scratchpad (O19): the address and the value as the model forms them, the common start of an access that
reaches its place, and a load that notes no record. -/
namespace Sys2Proof.Machine

-- addresses and values

theorem offAddr_eq (x : Word) (o : BitVec 10) (n : Nat) : offAddr x o n = offsetAddress x o n := by
  have h : immExt o * BitVec.ofNat 64 n = wordI (o.toInt * n) := by
    rw [wordI, BitVec.ofInt_mul, BitVec.ofInt_natCast]
    rfl
  rw [offAddr, offsetAddress, h]

/-- The low bits of a number read as two's complement, as `signed` does (R9). -/
theorem toInt_ofNat_eq_signed {k : Nat} (hk : 0 < k) (v : Nat) : (BitVec.ofNat k v).toInt = signed k v := by
  obtain ⟨j, rfl⟩ : ∃ j, k = j + 1 := ⟨k - 1, by omega⟩
  have hpow : 2 ^ (j + 1) = 2 * 2 ^ j := by ring
  rw [BitVec.toInt_eq_toNat_cond, BitVec.toNat_ofNat, signed]
  simp only [Nat.add_sub_cancel]
  by_cases h : v % 2 ^ (j + 1) < 2 ^ j
  · rw [if_pos (by omega), if_pos h]
  · rw [if_neg (by omega), if_neg h]
    push_cast
    rfl

theorem extend_eq (sg : Bool) {n : Nat} (hn : 0 < n) (v : Nat) :
    extend sg n v = if sg then (wordI (signed (8 * n) v)).toNat else v % 2 ^ (8 * n) := by
  rw [extend, ← toInt_ofNat_eq_signed (by omega) v]
  rfl

-- an access that reaches its place

theorem withAccess_of_reaches {s t : State} {va n : Nat} {write migr : Bool} {p : Place} (h : Reaches s va n write p t)
    (hm : t.migrates p = false) (k : Place → State → State) : withAccess va n write migr s k = k p t := by
  obtain ⟨hal, hres, hport, hwait⟩ := h
  simp [withAccess, hal, withPlace, hres, hm, hport, hwait]

theorem migrates_scratch (s : State) {p : Place} (h : p.scratch = true) : s.migrates p = false := by simp [State.migrates, h]

theorem readScratch_of_no_err {s : State} {loc n : Nat} (core space off : Nat) (h : s.scratchErr loc n = false) :
    s.readScratch core space off loc n = (s.bytesAt loc n, s.poisoned loc || (s.core core).fenced, s) := by
  simp [State.readScratch, h]

-- an access that has completed, and the note of a load

theorem isAt_of_ready {s : State} {t : Tk} (hser : (s.slot t.pos).serial = t.serial) (hst : (s.slot t.pos).st = .ready) : s.isAt t = true := by
  simp [State.isAt, hser, Slot.resident, hst]

/-- The access `id` completed in cycle `now`, as a task records it (R311). -/
def Task.pendEnded (id now : Nat) (x : Task) : Task := { x with pend := x.pend.map fun a => if a.id = id then { a with doneAt := some now } else a }

/-- The access of a task that stands ready in its slot: its own record of it ends, and nothing waits for that. -/
theorem pendDone_of_ready {s : State} {t : Tk} (id : Nat) (hser : (s.slot t.pos).serial = t.serial) (hst : (s.slot t.pos).st = .ready) :
    s.pendDone t id = s.modTask t.pos (Task.pendEnded id s.cycle) := by
  have hown : s.ownerOf t id = t := by simp [State.ownerOf, State.findTask, isAt_of_ready hser hst]
  have hslot : (s.modTask t.pos (Task.pendEnded id s.cycle)).slot t.pos = _ := State.slot_modSlot_self _ _ _
  have hst' : ((s.modTask t.pos (Task.pendEnded id s.cycle)).slot t.pos).st = .ready := by rw [hslot]; exact hst
  have hat : (s.modTask t.pos (Task.pendEnded id s.cycle)).isAt t = true := isAt_of_ready (by rw [hslot]; exact hser) hst'
  have hon : (s.onTask t (Task.pendEnded id s.cycle)) = s.modTask t.pos (Task.pendEnded id s.cycle) := by
    rw [State.onTask, if_pos (isAt_of_ready hser hst)]
  show (s.onTask (s.ownerOf t id) (Task.pendEnded id s.cycle)).wakeTk (s.ownerOf t id) (.frozen id) = _
  rw [hown, hon]
  simp [State.wakeTk, hat, State.wake, hst']

/-- A load of a location without a record notes nothing: its result is ready at `at_`. -/
theorem noteLoad_of_no_record {s : State} {t : Tk} (id va at_ loc : Nat) (h : s.recordAt loc = none) :
    s.noteLoad t id va at_ loc = (s.pendDone t id).postAt at_ t.pos .longResultReady (.longResultReady t id) := by
  have hn : s.takeNote t va loc = (none, s) := by simp [State.takeNote, h]
  simp [State.noteLoad, hn, State.acquire]

/-- The result of a load from the requester's own scratchpad, as it is entered. -/
def loadEntry (d : Reg) (la n : Nat) (sg : Bool) (s : State) (p : Place) : Outst :=
  { id := s.nextId, pc := 0, dest := some d, left := la, value := extend sg n (s.bytesAt p.loc n),
    fault := if s.poisoned p.loc || (s.core (posCore s.cur)).fenced then some { cause := 4, sub := 0, val := s.my.pc.toNat, deferred := true } else none }

theorem doLoad_local {s₁ s : State} (d : Reg) (la va n : Nat) (sg : Bool) {p : Place} (h : Reaches s₁ va n false p s) (hp : Local s p)
    (he : s.scratchErr p.loc n = false) (hr : s.recordAt p.loc = none) (hst : (s.slot s.cur).st = .ready) :
    doLoad d la va n sg s₁ = ((s.fresh.2.startLong (loadEntry d la n sg s p)).setMy (Task.pendEnded s.nextId s.cycle)).postAt (s.cycle + 10) s.cur
      .longResultReady (.longResultReady (s.tk s.cur) s.nextId) := by
  obtain ⟨hsc, hown⟩ := hp
  have hon := onlyMySlot_startLong s.fresh.2 (loadEntry d la n sg s p)
  have hrec : (s.fresh.2.startLong (loadEntry d la n sg s p)).recordAt p.loc = none := (hon.keeps (·.recordAt p.loc) fun _ _ => rfl).trans hr
  have hcur : (s.fresh.2.startLong (loadEntry d la n sg s p)).cur = s.cur := hon.cur_eq
  have hcyc : (s.fresh.2.startLong (loadEntry d la n sg s p)).cycle = s.cycle := hon.keeps (·.cycle) fun _ _ => rfl
  have hslot {γ : Type} (g : Slot → γ) (hg : ∀ (x : Slot) t, g { x with task := t } = g x) :
      g ((s.fresh.2.startLong (loadEntry d la n sg s p)).slot s.cur) = g (s.slot s.cur) := by
    rw [State.startLong, State.setMy, State.advance_cur, State.modTask, show s.fresh.2.cur = s.cur from rfl, State.slot_modSlot_self, hg]
    exact State.goTo_slot_keeps g hg _ _ _
  have hdone := pendDone_of_ready (s := s.fresh.2.startLong (loadEntry d la n sg s p)) (t := s.tk s.cur) s.nextId
    (hslot (·.serial) fun _ _ => rfl) ((hslot (·.st) fun _ _ => rfl).trans hst)
  rw [doLoad, withAccess_of_reaches h (migrates_scratch s hsc)]
  rw [hcyc] at hdone
  have hn := noteLoad_of_no_record (t := s.tk s.cur) s.nextId va (s.cycle + 10) p.loc hrec
  rw [hdone] at hn
  rw [State.setMy, hcur]
  refine Eq.trans ?_ hn
  have hrd : State.readScratch { s with nextId := s.nextId + 1 } (posCore s.cur) s.my.space p.off p.loc n = _ := readScratch_of_no_err _ _ _ he
  simp only [State.fresh, hsc, hown, beq_self_eq_true, Bool.and_self, if_true]
  refine Eq.trans ?_ (congrArg (fun c => (s.fresh.2.startLong (loadEntry d la n sg s p)).noteLoad (s.tk s.cur) s.nextId va (c + 10) p.loc) hcyc)
  simp only [show State.my { s with nextId := s.nextId + 1 } = s.my from rfl, hrd]
  rfl

/-- What a load from the requester's own scratchpad leaves (R45, R257, R315). -/
theorem doLoad_local_spec {s₁ s : State} (d : Reg) (la va : Nat) {n : Nat} (sg : Bool) {p : Place} (hn : 0 < n) (h : Reaches s₁ va n false p s)
    (hp : Local s p) (he : s.scratchErr p.loc n = false) (hr : s.recordAt p.loc = none) (hst : (s.slot s.cur).st = .ready) :
    GoesOn s (doLoad d la va n sg s₁) (s.my.pc + 4) ∧ (doLoad d la va n sg s₁).mem = s.mem ∧ (doLoad d la va n sg s₁).cores = s.cores ∧
    (∀ r, (doLoad d la va n sg s₁).my.sreg r = s.my.sreg r) ∧ (∀ q, q ≠ s.cur → (doLoad d la va n sg s₁).slot q = s.slot q) ∧
    (∃ r, (doLoad d la va n sg s₁).my.outst.getLast? = some r ∧ r.dest = some d ∧ r.id = s.nextId ∧
      (r.fault.isSome = (s.poisoned p.loc || (s.core (posCore s.cur)).fenced)) ∧
      r.value = if sg then (wordI (signed (8 * n) (s.bytesAt p.loc n))).toNat else s.bytesAt p.loc n % 2 ^ (8 * n)) ∧
    Due (doLoad d la va n sg s₁) (s.cycle + 10) .longResultReady (.longResultReady (s.tk s.cur) s.nextId) := by
  let o := loadEntry d la n sg s p
  let u := s.fresh.2.startLong o
  have hon : OnlyMySlot s.fresh.2 (u.setMy (Task.pendEnded s.nextId s.cycle)) := (onlyMySlot_startLong s.fresh.2 o).trans (onlyMySlot_setMy _ _)
  have hmy : (doLoad d la va n sg s₁).my = Task.pendEnded s.nextId s.cycle u.my := by
    rw [doLoad_local d la va n sg h hp he hr hst]
    exact State.my_setMy _ _
  obtain ⟨hpc, hres⟩ := goesOn_startLong s.fresh.2 o
  refine ⟨⟨by rw [hmy]; exact hpc, by rw [hmy]; exact hres⟩, ?_, ?_, fun r => by rw [hmy]; exact sreg_startLong s.fresh.2 o r, ?_, ?_, ?_⟩
  · rw [doLoad_local d la va n sg h hp he hr hst]
    exact hon.keeps (·.mem) fun _ _ => rfl
  · rw [doLoad_local d la va n sg h hp he hr hst]
    exact hon.keeps (·.cores) fun _ _ => rfl
  · rw [doLoad_local d la va n sg h hp he hr hst]
    exact hon.2
  · rw [hmy]
    refine ⟨_, outst_getLast?_startLong s.fresh.2 o, rfl, rfl, ?_, extend_eq sg hn _⟩
    show (loadEntry d la n sg s p).fault.isSome = _
    rw [loadEntry]
    split <;> simp_all
  · rw [doLoad_local d la va n sg h hp he hr hst]
    exact due_postAt ..

/-- Settles O19: each member is `doLoad` at its address, and `doLoad_local_spec` says what that leaves. -/
theorem localLoadsReadTheirBytes : Obligations.LocalLoadsReadTheirBytes := by
  intro s s₁ s₂ d a b o z la x y p n holds
  have key (i : Instr) (va : Nat) (sg : Bool) (hi : exec i s = .next (doLoad d la.toNat va n sg s₁)) : holds i va sg := by
    intro h hp he hr hst
    obtain ⟨hgo, hmem, hcores, hreg, hslots, hout, hdue⟩ := doLoad_local_spec d la.toNat va sg (Nat.two_pow_pos _) h hp he hr hst
    exact ⟨_, _, hi, hgo, hmem, hcores, hreg, hslots, rfl, hout, hdue⟩
  refine ⟨fun hf => ⟨key _ _ _ ?_, key _ _ _ ?_⟩, fun hf => key _ _ _ ?_⟩
  · rw [exec_ld, execLd, with1_of_fetch hf, offAddr_eq]
  · rw [exec_lds, execLds, with1_of_fetch hf, offAddr_eq]
  · rw [exec_ldx, execLdx, with2_of_fetch hf, ixAddr]

end Sys2Proof.Machine
end

section
/-! PROOF. Words and instructions (O58, O59). A word's fields are disjoint, so its sum of fields is their bitwise or, from which each field is
read by itself: the major and the function bits, which choose the member, and every operand. With that the decoder gives back each encoded
instruction; the other way, it accepts a word only when the instruction read from it encodes to that very word. -/
namespace Sys2Proof.Machine

-- reading the fields of a word

section
variable {n lo p k x : Nat} (f : BitVec n)

theorem bits_or (x y p k : Nat) : bits (x ||| y) p k = bits x p k ||| bits y p k := by
  simp only [bits, Nat.or_div_two_pow, Nat.or_mod_two_pow]

theorem bits_place (h : n ≤ k) : bits (place f lo) lo k = f.toNat := by
  rw [bits, place, Nat.mul_div_cancel _ (Nat.two_pow_pos lo),
    Nat.mod_eq_of_lt (f.isLt.trans_le (Nat.pow_le_pow_right Nat.two_pos h))]

/-- Nothing of a field is read above it. -/
theorem bits_place_of_ge (h : lo + n ≤ p) : bits (place f lo) p k = 0 := by
  have hf : place f lo < 2 ^ p :=
    calc place f lo < 2 ^ n * 2 ^ lo := Nat.mul_lt_mul_of_pos_right f.isLt (Nat.two_pow_pos lo)
      _ = 2 ^ (lo + n) := by rw [Nat.pow_add, Nat.mul_comm]
      _ ≤ 2 ^ p := Nat.pow_le_pow_right Nat.two_pos h
  rw [bits, Nat.div_eq_of_lt hf, Nat.zero_mod]

/-- Nothing of a field is read below it. -/
theorem bits_place_of_le (h : p + k ≤ lo) : bits (place f lo) p k = 0 := by
  obtain ⟨j, rfl⟩ := Nat.exists_eq_add_of_le h
  rw [bits, place, Nat.add_assoc, Nat.pow_add, Nat.mul_left_comm, Nat.mul_div_cancel_left _ (Nat.two_pow_pos p), Nat.pow_add,
    Nat.mul_left_comm, Nat.mul_mod_right]

/-- A field added where a word is clear carries nothing into the rest of it. -/
theorem add_place (hx : bits x lo n = 0) : x + place f lo = x ||| place f lo := by
  -- `q` stands above the field, `r` below it
  obtain ⟨q, hq⟩ : 2 ^ n ∣ x / 2 ^ lo := Nat.dvd_of_mod_eq_zero hx
  have hr : x % 2 ^ lo < 2 ^ lo := Nat.mod_lt _ (Nat.two_pow_pos lo)
  have hsplit : x = 2 ^ lo * (2 ^ n * q) + x % 2 ^ lo := by rw [← hq, Nat.div_add_mod]
  generalize x % 2 ^ lo = r at hr hsplit
  calc x + place f lo
      = 2 ^ lo * (2 ^ n * q + f.toNat) + r := by rw [hsplit, place]; ring
    _ = 2 ^ lo * (2 ^ n * q ||| f.toNat) ||| r := by
      rw [Nat.two_pow_add_eq_or_of_lt hr, Nat.two_pow_add_eq_or_of_lt f.isLt]
    _ = (2 ^ lo * (2 ^ n * q) ||| r) ||| place f lo := by
      simp only [place, Nat.mul_comm (2 ^ lo), ← Nat.shiftLeft_eq, Nat.shiftLeft_or_distrib]
      ac_rfl
    _ = x ||| place f lo := by rw [← Nat.two_pow_add_eq_or_of_lt hr, ← hsplit]

theorem bits_or_place (h : n ≤ k) : bits (x ||| place f lo) lo k = bits x lo k ||| f.toNat := by
  rw [bits_or, bits_place f h]

theorem bits_or_place_of_ge (h : lo + n ≤ p) : bits (x ||| place f lo) p k = bits x p k := by
  rw [bits_or, bits_place_of_ge f h, Nat.or_zero]

theorem bits_or_place_of_le (h : p + k ≤ lo) : bits (x ||| place f lo) p k = bits x p k := by
  rw [bits_or, bits_place_of_le f h, Nat.or_zero]

theorem fld_eq_bits (w p k : Nat) : fld w p k = BitVec.ofNat k (bits w p k) := by
  simp [fld, bits, ← BitVec.toNat_inj]

theorem fld_or_place (hx : bits x lo n = 0) : fld (x ||| place f lo) lo n = f := by
  rw [fld_eq_bits, bits_or_place f n.le_refl, hx, Nat.zero_or, BitVec.ofNat_toNat, BitVec.setWidth_eq]

theorem fld_or_place_of_ge (h : lo + n ≤ p) : fld (x ||| place f lo) p k = fld x p k := by
  rw [fld_eq_bits, bits_or_place_of_ge f h, fld_eq_bits]

theorem bit_eq_bits (w k : Nat) : bit w k = (bits w k 1 == 1) := by rw [bit, bits, Nat.pow_one]

/-- What the fixed bits of a word read as. -/
theorem bits_literal (x p k : Nat) : bits (no_index (OfNat.ofNat x)) p k = OfNat.ofNat x / 2 ^ p % 2 ^ k := by rw [bits]

end

-- what an encoded word reads as; an event has no word, and COORD's fourth kind none either

section
variable {i : Instr} {w : Nat}

theorem encode_coord {k : BitVec 2} (d : Reg) (hk : k ≠ 3) : encode (.coord d k) = some (0xC0000080 + place d 21 + place k 4) := if_neg hk

theorem coord_ne_of_modifiersOk {d : Reg} {k : BitVec 2} (hk : (Instr.coord d k).modifiersOk = true) : k ≠ 3 := by
  have h : k.toNat ≤ 2 := of_decide_eq_true hk
  rintro rfl
  exact absurd h (by decide)

theorem kind_ne_of_modifiersOk {d a : Reg} {k : BitVec 5} {m : BitVec 3} {p : BitVec 1} (hk : (Instr.fcvt d a k m p).modifiersOk = true) :
    k.toNat ≠ 0 := by
  have h : (decide (m.toNat ≤ 5) && (decide (1 ≤ k.toNat) && decide (k.toNat ≤ 5))) = true := hk
  simp only [Bool.and_eq_true, decide_eq_true_eq] at h
  omega

theorem bitVec_two_cases : ∀ n : BitVec 2, n = 0 ∨ n = 1 ∨ n = 2 ∨ n = 3 := by decide

/-- An encoded instruction is one word of 32 bits (R79). -/
theorem encode_lt (hk : i.modifiersOk = true) (he : encode i = some w) : w < 2 ^ 32 := by
  cases i
  case' coord d k => rw [encode_coord d (coord_ne_of_modifiersOk hk)] at he
  all_goals cases he
  all_goals
    simp only [place, Nat.reducePow]
    omega

/-- An encoded instruction sets no SAT bit that its member does not allow, and has no size code that its member does not (R92, R200). -/
theorem misused_encode (hk : i.modifiersOk = true) (he : encode i = some w) : (satMisused w i || sizeMisused w) = false := by
  cases i
  case' coord d k => rw [encode_coord d (coord_ne_of_modifiersOk hk)] at he
  all_goals cases he
  all_goals
    unfold satMisused sizeMisused
    simp only [add_place, bit_eq_bits, bits_or_place, bits_or_place_of_ge, bits_or_place_of_le, bits_literal, Nat.reduceAdd,
      Nat.reduceLeDiff, Nat.reducePow, Nat.reduceDiv, Nat.reduceMod]
    rfl

/-- The decoder reads an encoded instruction back: the major and the function bits choose its member, the fields give its operands. -/
theorem rawDecode_encode (hk : i.modifiersOk = true) (he : encode i = some w) : rawDecode w = .ok i := by
  -- `w` stays a variable while the decoder's matches are evaluated
  obtain ⟨v, hv, hw⟩ : ∃ v, encode i = some v ∧ w = v := ⟨w, he, rfl⟩
  clear he
  cases i
  case' coord d k => rw [encode_coord d (coord_ne_of_modifiersOk hk)] at hv
  all_goals cases hv
  all_goals
    have hmajor := congrArg (bits · 26 6) hw
    simp only [add_place, bits_or_place_of_ge, bits_or_place_of_le, bits_literal, Nat.reduceAdd, Nat.reduceLeDiff, Nat.reducePow,
      Nat.reduceDiv, Nat.reduceMod] at hmajor
    rw [rawDecode, hmajor]
    -- the match on the major, now a literal, leaves the match on its function bits
    conv_lhs => whnf
    subst hw
    simp only [add_place, bits_or_place, bits_or_place_of_ge, bits_or_place_of_le, fld_or_place, fld_or_place_of_ge, bits_literal,
      Nat.reduceAdd, Nat.reduceLeDiff, Nat.reducePow, Nat.reduceDiv, Nat.reduceMod, ↓reduceIte]
  case fcvt d a k m p => exact if_neg (by rw [Nat.zero_or]; exact kind_ne_of_modifiersOk hk)
  case qcfg a n => obtain rfl | rfl | rfl | rfl := bitVec_two_cases n <;> rfl
  case coord =>
    obtain rfl | rfl | rfl | rfl := bitVec_two_cases k
    · rfl
    · rfl
    · rfl
    · exact absurd rfl (coord_ne_of_modifiersOk hk)

-- the decoder's checks

theorem ite_error_eq_ok {ε α : Type} {c : Prop} [Decidable c] {r : ε} {x : Except ε α} {a : α} :
    (if c then .error r else x) = .ok a ↔ ¬c ∧ x = .ok a := by
  split <;> simp [*]

theorem wellFormed_iff :
    i.wellFormed = true ↔ i.modifiersOk = true ∧ i.writesNoQ6 = true ∧ i.crOk = true ∧ i.portsOk = true := by
  simp only [Instr.wellFormed, Bool.and_eq_true, and_assoc]

/-- A word is accepted when the instruction read from it passes the checks of R99 and R100 and encodes to that very word. -/
theorem decodeWord_eq_ok_iff : decodeWord w = .ok i ↔
    rawDecode w = .ok i ∧ (satMisused w i || sizeMisused w) = false ∧ encode i = some w ∧ i.wellFormed = true := by
  rw [wellFormed_iff]
  constructor
  · intro h
    unfold decodeWord at h
    split at h
    · cases h
    rename_i j hj
    obtain ⟨hm, h⟩ := ite_error_eq_ok.1 h
    split at h
    · cases h
    rename_i e he
    split at h
    · subst e
      simp only [ite_error_eq_ok, Except.ok.injEq] at h
      obtain ⟨hq, hc, hp, rfl⟩ := h
      obtain ⟨⟨hk, hs⟩, hz⟩ : (j.modifiersOk = true ∧ satMisused w j = false) ∧ sizeMisused w = false := by simpa using hm
      exact ⟨hj, by rw [hs, hz]; rfl, he, hk, by simpa using hq, by simpa using hc, by simpa using hp⟩
    · exact nomatch (ite_error_eq_ok.1 h).2
  · rintro ⟨hr, hm, he, hk, hq, hc, hp⟩
    simp [decodeWord, hr, he, hm, hk, hq, hc, hp]

-- words as bytes in memory

theorem length_toBytes : ∀ n w : Nat, (toBytes n w).length = n
  | 0, _ => rfl
  | n + 1, w => congrArg Nat.succ (length_toBytes n (w / 256))

theorem ofBytes_toBytes : ∀ n w : Nat, ofBytes (toBytes n w) = w % 256 ^ n
  | 0, w => (Nat.mod_one w).symm
  | n + 1, w => by
    rw [toBytes, ofBytes, ofBytes_toBytes, BitVec.toNat_ofNat, pow_succ' 256]
    exact Nat.mod_mul.symm

/-- A table word is decoded as its four bytes are. -/
theorem decodeTableWord_of_lt (hw : w < 256 ^ 4) (h : decodeWord w = .ok i) (nbits : Nat) : decodeTableWord nbits w = some i := by
  have hb : ofBytes ((toBytes 4 w).take 4) = w := by
    rw [List.take_of_length_le (length_toBytes 4 w).le, ofBytes_toBytes, Nat.mod_eq_of_lt hw]
  rw [decodeTableWord, decodeBytes, hb, h]

/-- A well-formed instruction is recovered from its word, as a number and as four bytes (R79 to R81). -/
theorem decode_encode (hwf : i.wellFormed = true) (he : encode i = some w) :
    w < 2 ^ 32 ∧ decodeWord w = .ok i ∧ decodeTableWord 32 w = some i := by
  have hk := (wellFormed_iff.1 hwf).1
  have hd := decodeWord_eq_ok_iff.2 ⟨rawDecode_encode hk he, misused_encode hk he, he, hwf⟩
  exact ⟨encode_lt hk he, hd, decodeTableWord_of_lt (encode_lt hk he) hd 32⟩

end

/-- Settles O59: `decode_encode` from the instruction to its word and back, the checks of `decodeWord` from the word. -/
theorem encodeDecodeRoundTrip : Obligations.EncodeDecodeRoundTrip :=
  ⟨fun _ _ => decode_encode, fun _ _ h => (decodeWord_eq_ok_iff.1 h).2.2⟩

/-- Settles O58: a word that stands for an instruction is that instruction's encoding; the decoder refuses the other three. -/
theorem wordsDecode : Obligations.WordsDecode := by
  have word {i : Instr} {w : Nat} (hwf : i.wellFormed = true) (he : encode i = some w) : decodeTableWord 32 w = some i :=
    (decode_encode hwf he).2.2
  exact ⟨word rfl rfl, word rfl rfl, word rfl rfl, word rfl rfl, word rfl rfl, word rfl rfl, word rfl rfl, word rfl rfl, word rfl rfl,
    word rfl rfl, by decide, by decide, by decide⟩

end Sys2Proof.Machine
end

section
/-! PROOF. The end of a class S floating member (O16). What taking traps leaves of a task's registers, and what noting events does to its
counters, stand first; then the end itself, with its trap and without. -/
namespace Sys2Proof.Machine

-- what traps leave

/-- From `s` to `t` no other slot changes, and of the task at `p` neither the registers nor any control register but STATUS and those that
a trap's entry writes (Table 1-9). -/
structure KeptByTraps (p : Pos) (s t : State) : Prop where
  slots : ∀ q, q ≠ p → t.slot q = s.slot q
  regs : (t.task p).regs = (s.task p).regs
  crs : ∀ c, c ≠ 0 → c ≠ 2 → c ≠ 3 → c ≠ 4 → (t.task p).cr c = (s.task p).cr c

theorem KeptByTraps.refl (p : Pos) (s : State) : KeptByTraps p s s := ⟨fun _ _ => rfl, rfl, fun _ _ _ _ _ => rfl⟩

theorem KeptByTraps.trans {p : Pos} {s t u : State} (h : KeptByTraps p s t) (k : KeptByTraps p t u) : KeptByTraps p s u :=
  ⟨fun q hq => (k.slots q hq).trans (h.slots q hq), k.regs.trans h.regs,
    fun c h₀ h₂ h₃ h₄ => (k.crs c h₀ h₂ h₃ h₄).trans (h.crs c h₀ h₂ h₃ h₄)⟩

/-- A change of the task alone that keeps its registers and its control registers. -/
theorem keptByTraps_modTask (s : State) (p : Pos) (f : Task → Task) (hr : (f (s.task p)).regs = (s.task p).regs)
    (hc : (f (s.task p)).crs = (s.task p).crs) : KeptByTraps p s (s.modTask p f) := by
  refine ⟨fun q hq => s.task_modTask_of_ne f hq, ?_, fun c _ _ _ _ => ?_⟩
  · rw [State.task_modTask_self, hr]
  · rw [State.task_modTask_self, Task.cr, hc, Task.cr]

theorem keptByTraps_supFault (s : State) (p : Pos) (cause sub addr acc arg : Nat) (pc : Option Word) :
    KeptByTraps p s (s.supFault p cause sub addr acc arg pc) := by
  have ht : (s.supFault p cause sub addr acc arg pc).task p = { s.task p with wait := some .fault } := by
    simp [State.supFault, State.task, State.slot_park]
  refine ⟨fun q hq => ?_, by rw [ht], fun c _ _ _ _ => by rw [ht]; rfl⟩
  simp [State.supFault, State.slot_park, State.slot_modSlot, hq]

theorem keptByTraps_trapEntry (s : State) (p : Pos) (tr : Trap) (pc : Option Word) : KeptByTraps p s (s.trapEntry p tr pc) := by
  obtain ⟨hgo, hdouble, hnone⟩ := trapEntrySavesAndGoesOnOrEscalates s p tr pc
  by_cases hi : (s.task p).inTrap = true
  · rw [hdouble hi]
    exact keptByTraps_supFault ..
  rw [Bool.not_eq_true] at hi
  by_cases hv : (s.task p).cr 1 = 0 ∨ s.isLight p = true
  · rw [hnone hi hv]
    exact keptByTraps_supFault ..
  rw [not_or, Bool.not_eq_true] at hv
  obtain ⟨t, rfl, -, hslots, -, -, -, -, -, -, hcrs, hregs, -⟩ := hgo hi hv.1 hv.2
  exact ⟨hslots, hregs, hcrs⟩

/-- A trap entered after a change of what the task holds of traps alone. -/
theorem keptByTraps_modTask_trapEntry (s : State) (p : Pos) (f : Task → Task) (tr : Trap) (pc : Option Word)
    (hr : (f (s.task p)).regs = (s.task p).regs) (hc : (f (s.task p)).crs = (s.task p).crs) :
    KeptByTraps p s ((s.modTask p f).trapEntry p tr pc) :=
  (keptByTraps_modTask s p f hr hc).trans (keptByTraps_trapEntry _ p tr pc)

theorem keptByTraps_takeTraps (s : State) (p : Pos) : KeptByTraps p s (s.takeTraps p) := by
  simp only [State.takeTraps]
  split
  case isFalse => exact .refl p s
  case isTrue =>
    split
    case h_1 =>
      split
      case h_1 tr _ =>
        split
        · exact .refl p s
        · exact keptByTraps_modTask_trapEntry s p _ tr none rfl rfl
      case h_2 => exact .refl p s
    case h_2 x _ =>
      split
      · exact .refl p s
      · exact keptByTraps_modTask_trapEntry s p _ x.trap (some x.pc) rfl rfl

theorem keptByTraps_fresh (s : State) (p : Pos) : KeptByTraps p s s.fresh.2 := ⟨fun _ _ => rfl, rfl, fun _ _ _ _ _ => rfl⟩

theorem keptByTraps_trapAfter (s : State) (p : Pos) (pc : Word) (tr : Trap) : KeptByTraps p s (s.trapAfter p pc tr) :=
  ((keptByTraps_fresh s p).trans (keptByTraps_modTask _ p _ rfl rfl)).trans (keptByTraps_takeTraps _ p)

-- noting events

theorem Task.note_keeps {γ : Type} (g : Task → γ) (h : ∀ t c v, g (Task.setCr t c v) = g t) (t : Task) (e : Events) : g (t.note e) = g t := by
  simp only [Task.note, h]

/-- The registers that a note changes, EXC and XCNT0 to XCNT7, stand at 0x20 and above (R121, R122, R124). -/
theorem Task.cr_note_of_lt (t : Task) (e : Events) {c : Nat} (h : c < 0x20) : (t.note e).cr c = t.cr c := by
  simp only [Task.note, Task.cr_setCr]
  repeat rw [if_neg (by omega)]

theorem Task.exc_note (t : Task) (e : Events) : (t.note e).cr 0x20 = t.cr 0x20 ||| e.flags.toNat := by
  have h : t.cr 0x20 ||| e.flags.toNat < 2 ^ 64 := Nat.or_lt_two_pow (t.cr_lt 0x20) (e.flags.isLt.trans (by decide))
  simpa [Task.note, Task.cr_setCr] using h

theorem Task.xcnt0_note (t : Task) (e : Events) : (t.note e).cr 0x28 = min (2 ^ 32 - 1) (t.cr 0x28 + e.nan) := by
  simp [Task.note, Task.cr_setCr, satAdd32]

-- the end of the instruction

theorem Task.cr_setSreg (t : Task) (r : Nat) (v : Word) (c : Nat) : (t.setSreg r v).cr c = t.cr c :=
  Task.setSreg_keeps (·.cr c) (fun _ _ _ => rfl) t r v

/-- A floating member that writes `v` to s register `r` and raises `e`, up to its trap: the write, the note, and PC + 4. -/
def State.floatDone (s : State) (r : Nat) (v : Word) (e : Events) : State := ((s.setMy (·.setSreg r v)).setMy (·.note e)).advance

/-- The end of a floating member off the light slots (R143). -/
theorem finishFloat_sreg {s : State} {d : Reg} (v : Nat) (e : Events) (h : d.toNat < 16) (hl : s.isLight s.cur = false) :
    finishFloat d v e s = if e.flags &&& s.my.xen = 0 then s.floatDone d.toNat (word v) e
      else (s.floatDone d.toNat (word v) e).trapAfter s.cur s.my.pc (arithTrap s.my.pc false) := by
  have hw : s.writeDest s.cur 4 d (word v) = some (s.setMy (·.setSreg d.toNat (word v))) := if_pos h
  have hn : (s.setMy (·.setSreg d.toNat (word v))).noteAt s.cur e = (s.setMy (·.setSreg d.toNat (word v))).setMy (·.note e) :=
    if_neg (by rw [State.isLight, State.core_setMy]; exact Bool.not_eq_true _ ▸ hl)
  simp only [finishFloat, hw, State.setMy_cur, hn, State.advance_cur]
  rfl

section
variable (s : State) (r : Nat) (v : Word) (e : Events)

theorem onlyMySlot_floatDone : OnlyMySlot s (s.floatDone r v e) :=
  ((onlyMySlot_setMy s _).trans (onlyMySlot_setMy _ _)).trans (onlyMySlot_advance _)

theorem sreg_floatDone (q : Nat) : (s.floatDone r v e).my.sreg q = if q = r ∧ r ≠ 0 then v else s.my.sreg q := by
  rw [State.floatDone, sreg_advance, State.my_setMy, State.my_setMy, ← Task.sreg_setSreg]
  exact Task.note_keeps (·.sreg q) (fun _ _ _ => rfl) _ e

/-- Of the control registers, going on changes the event counters alone. -/
theorem cr_floatDone {c : Nat} (h : ¬(0x48 ≤ c ∧ c ≤ 0x4F)) : (s.floatDone r v e).my.cr c = ((s.my.setSreg r v).note e).cr c := by
  rw [State.floatDone, State.advance, State.goTo_cr _ _ c h, State.my_setMy, State.my_setMy]

theorem cr_floatDone_of_lt {c : Nat} (h : c < 0x20) : (s.floatDone r v e).my.cr c = s.my.cr c := by
  rw [cr_floatDone _ _ _ _ (by omega), Task.cr_note_of_lt _ _ h, Task.cr_setSreg]

theorem exc_floatDone : (s.floatDone r v e).my.cr 0x20 = s.my.cr 0x20 ||| e.flags.toNat := by
  rw [cr_floatDone _ _ _ _ (by decide), Task.exc_note, Task.cr_setSreg]

theorem xcnt0_floatDone : (s.floatDone r v e).my.cr 0x28 = min (2 ^ 32 - 1) (s.my.cr 0x28 + e.nan) := by
  rw [cr_floatDone _ _ _ _ (by decide), Task.xcnt0_note, Task.cr_setSreg]

/-- The write and the note keep what neither the registers nor the control registers enter. -/
theorem setSreg_note_keeps {γ : Type} (g : Task → γ) (hr : ∀ (t : Task) (r : Tbl Word) (k : List Nat), g { t with regs := r, struck := k } = g t)
    (hc : ∀ t c v, g (Task.setCr t c v) = g t) : g ((s.setMy (·.setSreg r v)).setMy (·.note e)).my = g s.my := by
  rw [State.my_setMy, State.my_setMy, Task.note_keeps g hc, Task.setSreg_keeps g hr]

theorem goesOn_floatDone : GoesOn s (s.floatDone r v e) (s.my.pc + 4) := by
  have h := goesOn_advance ((s.setMy (·.setSreg r v)).setMy (·.note e))
  rw [setSreg_note_keeps s r v e (·.pc) (fun _ _ _ => rfl) fun _ _ _ => rfl] at h
  exact h.congr (setSreg_note_keeps s r v e (·.resume) (fun _ _ _ => rfl) fun _ _ _ => rfl)

theorem inTrap_floatDone : (s.floatDone r v e).my.inTrap = s.my.inTrap := by
  rw [Task.inTrap, cr_floatDone_of_lt _ _ _ _ (by decide), Task.inTrap]

theorem traps_floatDone : (s.floatDone r v e).my.traps = s.my.traps :=
  (State.goTo_my _ _ (·.traps) fun _ _ _ => rfl).trans (setSreg_note_keeps s r v e (·.traps) (fun _ _ _ => rfl) fun _ _ _ => rfl)

theorem outst_floatDone (h : s.my.outst = []) : (s.floatDone r v e).my.outst = [] := by
  have ho := (setSreg_note_keeps s r v e (·.outst) (fun _ _ _ => rfl) fun _ _ _ => rfl).trans h
  exact (State.goTo_my _ _ (·.outst) fun _ _ _ => rfl).trans (congrArg (List.map _) ho)

theorem st_floatDone : ((s.floatDone r v e).slot s.cur).st = (s.slot s.cur).st := by
  rw [State.floatDone, st_advance]
  simp [State.setMy, State.slot_modTask]

/-- What the end of a floating member keeps, with its trap or without. -/
theorem finishFloat_keeps {d : Reg} {n : Nat} (h : d.toNat < 16) (hl : s.isLight s.cur = false) :
    (finishFloat d n e s).cur = s.cur ∧ (finishFloat d n e s).mem = s.mem ∧ (finishFloat d n e s).cores = s.cores ∧
      KeptByTraps s.cur (s.floatDone d.toNat (word n) e) (finishFloat d n e s) := by
  have hone := onlyMySlot_floatDone s d.toNat (word n) e
  have hmem := hone.keeps (·.mem) fun _ _ => rfl
  have hcores := hone.keeps (·.cores) fun _ _ => rfl
  rw [finishFloat_sreg n e h hl]
  split
  · exact ⟨hone.cur_eq, hmem, hcores, .refl ..⟩
  · simp only [State.trapAfter_cur, State.trapAfter_mem, State.trapAfter_cores]
    exact ⟨hone.cur_eq, hmem, hcores, keptByTraps_trapAfter ..⟩

/-- The trap after a floating member, at the boundary, with nothing outstanding and a handler that can run (R143, R459). -/
theorem finishFloat_trap {d : Reg} {n : Nat} (h : d.toNat < 16) (hl : s.isLight s.cur = false) (hr : s.my.resume = none)
    (hf : e.flags &&& s.my.xen ≠ 0) (hi : s.my.inTrap = false) (h₁ : s.my.cr 1 ≠ 0) (ht : s.my.traps = []) (ho : s.my.outst = [])
    (hst : (s.slot s.cur).st = .ready) : let t := finishFloat d n e s
      t.my.pc = word (s.my.cr 1) ∧ t.my.cr 2 = (s.my.pc + 4).toNat ∧ t.my.cr 3 = 3 ∧ t.my.cr 4 = s.my.pc.toNat ∧ t.my.inTrap = true := by
  have hone := onlyMySlot_floatDone s d.toNat (word n) e
  have hcur := hone.cur_eq
  obtain ⟨hpc, hres⟩ := goesOn_floatDone s d.toNat (word n) e
  have hv : (s.floatDone d.toNat (word n) e).my.cr 1 = s.my.cr 1 := cr_floatDone_of_lt _ _ _ _ (by decide)
  have hlu : (s.floatDone d.toNat (word n) e).isLight s.cur = false := by
    rw [State.isLight, State.core, hone.keeps (·.cores) fun _ _ => rfl]
    exact hl
  have htrap := trapAfter_my (s := s.floatDone d.toNat (word n) e) s.my.pc (arithTrap s.my.pc false) (by rw [hcur, st_floatDone, hst])
    (outst_floatDone s _ _ e ho) ((traps_floatDone s _ _ e).trans ht) hres ((inTrap_floatDone s _ _ e).trans hi) rfl (by rw [hv]; exact h₁)
    (by rw [hcur]; exact hlu)
  rw [hv, hpc, hr, hcur] at htrap
  obtain ⟨t, hend, -, -, hgo, h₂, h₃, h₄, hin, -⟩ := htrap
  rw [finishFloat_sreg n e h hl, if_neg hf, hend]
  exact ⟨hgo, h₂, h₃, h₄.trans (Nat.mod_eq_of_lt s.my.pc.isLt), hin⟩

end

/-- Settles O16: `finishFloat_keeps` carries what the write and the note leave past the trap, `finishFloat_trap` says where the trap goes. -/
theorem floatingEndGathersFlagsAndTraps : Obligations.FloatingEndGathersFlagsAndTraps := by
  intro s d v e hd hl hr
  obtain ⟨hcur, hmem, hcores, hkept⟩ := finishFloat_keeps s e (n := v) hd hl
  have hslots := (onlyMySlot_floatDone s d.toNat (word v) e).2
  have hmy : (finishFloat d v e s).my = (finishFloat d v e s).task s.cur := by rw [State.my, hcur]
  have hdone : (s.floatDone d.toNat (word v) e).my = (s.floatDone d.toNat (word v) e).task s.cur := by
    rw [State.my, (onlyMySlot_floatDone s d.toNat (word v) e).cur_eq]
  refine ⟨_, rfl, hmem, hcores, fun p hp => (hkept.slots p hp).trans (hslots p hp), fun r => ?_, ?_, ?_, fun hf => ?_, finishFloat_trap s e hd hl hr⟩
  · rw [hmy, sreg_congr hkept.regs, ← hdone, sreg_floatDone]
    by_cases hrd : r = d.toNat <;> simp [hrd]
  · rw [hmy, hkept.crs 0x20 (by decide) (by decide) (by decide) (by decide), ← hdone, exc_floatDone]
  · rw [hmy, hkept.crs 0x28 (by decide) (by decide) (by decide) (by decide), ← hdone, xcnt0_floatDone]
  · rw [finishFloat_sreg v e hd hl, if_pos hf]
    exact ⟨(goesOn_floatDone s _ _ e).1.trans (by rw [hr]; rfl), inTrap_floatDone s _ _ e⟩

end Sys2Proof.Machine
end

section
/-! PROOF. The units of elementwise tile members (O38). A unit of any of them reads its source rows, stops at poison and else writes
`TileRun.element` of every column; what that element is stands below by member. -/
namespace Sys2Proof.Machine

/-- The element of source `k` in column `j`, as a value. -/
def elemVal (src : List (Desc × List Nat)) (k j : Nat) : Val := decodeVal (elemAt src k j).1 (elemAt src k j).2

/-- The tiles whose rows a unit of an elementwise member reads: TFMAS reads td as well (R188). -/
def TileRun.sources (r : TileRun) : List Desc :=
  match r.op with
  | .scalar 2 => [r.ta, r.td]
  | .scalar _ => [r.ta]
  | op => [r.ta, r.tb, r.tc].take op.arity

/-- The members that compute each element of td from the elements of the same row and column (R183 to R188). -/
inductive TileOp.Elementwise : TileOp → Prop
  | float (k : Nat) : Elementwise (.float k)
  | special (k : Nat) : Elementwise (.special k)
  | int (k : Nat) : Elementwise (.int k)
  | scalar (k : Nat) : Elementwise (.scalar k)
  | cmp (k : Nat) : Elementwise (.cmp k)
  | sel : Elementwise .sel

/-- A unit of an elementwise member, once its source rows are read (R162, R187). -/
def TileRun.rowUnit (r : TileRun) (p : Pos) (space i : Nat) (x : List (Desc × List Nat) × Bool × State) : UnitRes :=
  if x.2.1 then .poison x.2.2
  else
    let out := (List.range r.td.cols).map (r.element x.1)
    .ok (sumEvents (out.map (·.2))) (x.2.2.putRow p space r.td i (out.map (·.1)))

theorem tileUnit_elementwise (s : State) (p : Pos) {r : TileRun} (i : Nat) (h : r.op.Elementwise) :
    s.tileUnit p r i = r.rowUnit p (s.task p).space i (s.sourceRows (posCore p) (s.task p).space r.td.cols r.sources i) := by
  obtain ⟨id, pc, op⟩ := r
  cases h
  case scalar k =>
    -- TFMAS, the scalar member 2, has sources of its own
    rcases k with _ | _ | _ | k <;> rfl
  all_goals rfl

section
variable {s s₁ : State} {p : Pos} {r : TileRun} {i : Nat} {src : List (Desc × List Nat)}

theorem tileUnit_poisoned (h : r.op.Elementwise)
    (hsrc : s.sourceRows (posCore p) (s.task p).space r.td.cols r.sources i = (src, true, s₁)) : s.tileUnit p r i = .poison s₁ := by
  rw [tileUnit_elementwise s p i h, hsrc]
  rfl

/-- With no source poisoned, the row that a unit writes holds `e` of every column where `e` is what its member computes. -/
theorem tileUnit_row {e : Nat → Nat} (h : r.op.Elementwise)
    (hsrc : s.sourceRows (posCore p) (s.task p).space r.td.cols r.sources i = (src, false, s₁)) (he : ∀ j, (r.element src j).1 = e j) :
    ∃ ev, s.tileUnit p r i = .ok ev (s₁.putRow p (s.task p).space r.td i ((List.range r.td.cols).map e)) := by
  have hrow : ((List.range r.td.cols).map (r.element src)).map (·.1) = (List.range r.td.cols).map e := by
    rw [List.map_map]
    exact List.map_congr_left fun j _ => he j
  rw [tileUnit_elementwise s p i h, hsrc, ← hrow]
  exact ⟨_, rfl⟩

end

theorem tileUnit_fill (s : State) (p : Pos) {r : TileRun} (i : Nat) (h : r.op = .fill) :
    s.tileUnit p r i = .ok {} (s.putRow p (s.task p).space r.td i (List.replicate r.td.cols (r.x % 2 ^ r.td.size))) := by
  simp only [State.tileUnit, h]

-- the element of a column, by member

section
variable {r : TileRun} (src : List (Desc × List Nat)) (j : Nat)

/-- One rounding of an exact result, saturated where the member asks for it (R120). -/
def TileRun.rounded (r : TileRun) (v : Val × Flags) : Nat := (finish r.td.format (Mode.ofRmode r.rmode) r.sat v.1 v.2).1

theorem element_float {k : Nat} (h : r.op = .float k) :
    (r.element src j).1 = r.rounded (floatOp k (Mode.ofRmode r.rmode) (elemVal src 0 j) (elemVal src 1 j) (elemVal src 2 j)) := by
  simp only [TileRun.element, h]
  rfl

theorem element_scalar {k : Nat} (h : r.op = .scalar k) :
    (r.element src j).1 = r.rounded (scalarOp k (Mode.ofRmode r.rmode) (elemVal src 0 j) (decodeVal .fp64 r.x) (elemVal src 1 j)) := by
  simp only [TileRun.element, h]
  rfl

/-- Without `.sat`, an integer member writes the low bits of its exact result (R185). -/
theorem element_int {k : Nat} (h : r.op = .int k) (hsat : r.sat = false) {f : Int → Int → Int}
    (hf : ∀ x y, (intOp k r.td.size false x y).1 = intBits r.td.size (f x y)) :
    (r.element src j).1 = intBits r.td.size (f (valInt (elemVal src 0 j)) (valInt (elemVal src 1 j))) := by
  simp only [TileRun.element, h, hsat]
  exact hf _ _

/-- TCMP with condition 2: less, and no NaN (R186). -/
theorem element_cmp_lt (h : r.op = .cmp 2) : (r.element src j).1 =
    if (elemVal src 0 j).isNan = false ∧ (elemVal src 1 j).isNan = false ∧ Val.cmp (elemVal src 0 j) (elemVal src 1 j) = .lt then 1 else 0 := by
  have he : (r.element src j).1 = (tileCond 2 (elemVal src 0 j) (elemVal src 1 j)).toNat := by
    simp only [TileRun.element, h]
    rfl
  rw [he, Bool.toNat, Bool.cond_eq_ite]
  simp [tileCond, and_assoc]

theorem element_sel (h : r.op = .sel) :
    (r.element src j).1 = if valInt (elemVal src 2 j) ≠ 0 then (elemAt src 0 j).2 else (elemAt src 1 j).2 := by
  simp only [TileRun.element, h]
  rfl

end

/-- Settles O38: `tileUnit_poisoned`, `tileUnit_row` with what each member's element is, and `tileUnit_fill`. -/
theorem tileUnitsComputeRows : Obligations.TileUnitsComputeRows := by
  intro s s₁ p r i src q hsrc
  change s.sourceRows (posCore p) (s.task p).space r.td.cols r.sources i = (src, q, s₁) at hsrc
  refine ⟨?_, ?_, tileUnit_fill s p i⟩
  · rintro rfl ⟨k, h⟩
    refine tileUnit_poisoned ?_ hsrc
    rcases h with h | h | h | h | h | h <;> (rw [h]; constructor)
  · rintro rfl
    have float (k : Nat) (h : r.op = .float k) := tileUnit_row (h ▸ .float k) hsrc fun j => element_float src j h
    have scalar (k : Nat) (h : r.op = .scalar k) := tileUnit_row (h ▸ .scalar k) hsrc fun j => element_scalar src j h
    exact ⟨float 0, float 1, float 2, float 3, float 4, float 8, scalar 0, scalar 1, scalar 2,
      fun h hsat => tileUnit_row (h ▸ .int 0) hsrc fun j => element_int src j h hsat (f := (· + ·)) fun _ _ => rfl,
      fun h hsat => tileUnit_row (h ▸ .int 1) hsrc fun j => element_int src j h hsat (f := (· - ·)) fun _ _ => rfl,
      fun h hsat => tileUnit_row (h ▸ .int 2) hsrc fun j => element_int src j h hsat (f := (· * ·)) fun _ _ => rfl,
      fun h => tileUnit_row (h ▸ .cmp 2) hsrc fun j => element_cmp_lt src j h,
      fun h => tileUnit_row (h ▸ .sel) hsrc fun j => element_sel src j h⟩

end Sys2Proof.Machine
end

section
/-! PROOF. Integer register instructions (O4, O5, O6, O8). What the class S and class L forms leave once their sources are read stands first; then, by
member, the words that the model computes as the numbers of the statements. -/
namespace Sys2Proof.Machine

-- the forms

section
variable {s s₁ : State} {a b d : Reg} {x y v : Word}

theorem alu1_of_fetch (h : fetchSrcs [a] s = .ok [x] s₁) {f : Word → Word} (hv : f x = v) :
    alu1 f d a s = .next (finishShort d v s₁) := by
  rw [alu1, with1_of_fetch h, hv]

theorem alu2_of_fetch (h : fetchSrcs [a, b] s = .ok [x, y] s₁) {f : Word → Word → Word} (hv : f x y = v) :
    alu2 f d a b s = .next (finishShort d v s₁) := by
  rw [alu2, with2_of_fetch h, hv]

theorem longDiv_of_fetch (h : fetchSrcs [a, b] s = .ok [x, y] s₁) {f : Word → Word → Word} {la n : Nat} (hv : (f x y).toNat = n) :
    longDiv f d a b la s = .next (issueLong d la 40 n {} s₁) := by
  rw [longDiv, with2_of_fetch h, hv]

end

-- words as numbers

theorem eq_word_of_toNat {v : Word} {n : Nat} (h : v.toNat = n % 2 ^ 64) : v = word n :=
  BitVec.eq_of_toNat_eq (h.trans (BitVec.toNat_ofNat ..).symm)

@[simp] theorem wordI_toInt (x : Word) : wordI x.toInt = x := BitVec.ofInt_toInt

theorem toNat_eq_zero_iff {n : Nat} (x : BitVec n) : x.toNat = 0 ↔ x = 0 := by simp [← BitVec.toNat_inj]

theorem shiftLeft_eq_word (x : Word) (n : Nat) : x <<< n = word (x.toNat * 2 ^ n) :=
  eq_word_of_toNat (by rw [BitVec.toNat_shiftLeft, Nat.shiftLeft_eq])

theorem shiftRight_eq_word (x : Word) (n : Nat) : x >>> n = word (x.toNat / 2 ^ n) := by
  rw [← word_toNat (x >>> n), BitVec.toNat_ushiftRight, Nat.shiftRight_eq_div_pow]

theorem sshiftRight_eq_wordI (x : Word) (n : Nat) : x.sshiftRight n = wordI (x.toInt / 2 ^ n) := by
  rw [BitVec.sshiftRight, Int.shiftRight_eq_div_pow, wordI]
  norm_cast

theorem mul_eq_word (x y : Word) : x * y = word (x.toNat * y.toNat) := eq_word_of_toNat (BitVec.toNat_mul x y)

theorem add_mul_eq_word (x y z : Word) : z + x * y = word (z.toNat + x.toNat * y.toNat) :=
  eq_word_of_toNat (by rw [BitVec.toNat_add, BitVec.toNat_mul, Nat.add_mod_mod])

theorem add_shiftLeft_eq_word (x y : Word) (n : Nat) : x + y <<< n = word (x.toNat + y.toNat * 2 ^ n) :=
  eq_word_of_toNat (by rw [BitVec.toNat_add, BitVec.toNat_shiftLeft, Nat.shiftLeft_eq, Nat.add_mod_mod])

theorem flagWord_slt (x y : Word) : flagWord (x.slt y) = if x.toInt < y.toInt then 1 else 0 := by
  simp only [flagWord, BitVec.slt, decide_eq_true_eq]

theorem flagWord_ult (x y : Word) : flagWord (x.ult y) = if x.toNat < y.toNat then 1 else 0 := by
  simp only [flagWord, BitVec.ult, decide_eq_true_eq]

section
variable (x y : Word)

theorem slt_min : (if x.slt y then x else y) = wordI (min x.toInt y.toInt) := by
  rw [min_def_lt, apply_ite wordI, wordI_toInt, wordI_toInt]
  simp only [BitVec.slt, decide_eq_true_eq]

theorem slt_max : (if x.slt y then y else x) = wordI (max x.toInt y.toInt) := by
  rw [max_def_lt, apply_ite wordI, wordI_toInt, wordI_toInt]
  simp only [BitVec.slt, decide_eq_true_eq]

theorem ult_min : (if x.ult y then x else y) = word (min x.toNat y.toNat) := by
  rw [min_def_lt, apply_ite word, word_toNat, word_toNat]
  simp only [BitVec.ult, decide_eq_true_eq]

theorem ult_max : (if x.ult y then y else x) = word (max x.toNat y.toNat) := by
  rw [max_def_lt, apply_ite word, word_toNat, word_toNat]
  simp only [BitVec.ult, decide_eq_true_eq]

end

/-- Settles O4: each member is its form at the word that the lemmas above give; CMOV moves only on a non-zero B. -/
theorem integerRegisterResults : Obligations.IntegerRegisterResults := by
  intro s s₁ d a b x y h
  have cmov : exec (.cmov d a b) s = .next (if y = 0 then s₁.advance else finishShort d x s₁) := by
    rw [exec_cmov, execCmov, with2_of_fetch h]
  exact ⟨alu2_of_fetch h rfl, alu2_of_fetch h rfl, alu2_of_fetch h rfl, alu2_of_fetch h rfl, alu2_of_fetch h rfl, alu2_of_fetch h rfl,
    alu2_of_fetch h (shiftLeft_eq_word x _), alu2_of_fetch h (shiftRight_eq_word x _), alu2_of_fetch h (sshiftRight_eq_wordI x _),
    alu2_of_fetch h (slt_min x y), alu2_of_fetch h (slt_max x y), alu2_of_fetch h (ult_min x y), alu2_of_fetch h (ult_max x y),
    alu2_of_fetch h (flagWord_slt x y), alu2_of_fetch h (flagWord_ult x y), cmov,
    fun k => alu2_of_fetch h (add_shiftLeft_eq_word x y _), alu2_of_fetch h (mul_eq_word x y), alu2_of_fetch h rfl, alu2_of_fetch h rfl⟩

-- counts

theorem clz64_spec {n : Nat} (h : n < 2 ^ 64) :
    if n = 0 then clz64 n = 64 else clz64 n < 64 ∧ 2 ^ (63 - clz64 n) ≤ n ∧ n < 2 ^ (64 - clz64 n) := by
  unfold clz64
  split
  · rfl
  · next h0 =>
    have hl : n.log2 < 64 := (Nat.log2_lt h0).2 h
    rw [show 63 - (63 - n.log2) = n.log2 by omega, show 64 - (63 - n.log2) = n.log2 + 1 by omega]
    exact ⟨by omega, Nat.log2_self_le h0, Nat.lt_log2_self⟩

theorem ctzFrom_spec (n : Nat) : ∀ x, if x % 2 ^ n = 0 then ctzFrom n x = n else 2 ^ ctzFrom n x ∣ x ∧ ¬ 2 ^ (ctzFrom n x + 1) ∣ x := by
  induction n with
  | zero => intro x; simp [Nat.mod_one, ctzFrom]
  | succ n ih =>
    intro x
    by_cases hx : x % 2 = 1
    · have hd : ¬ 2 ∣ x := by omega
      have h0 : x % 2 ^ (n + 1) ≠ 0 := fun h => hd ((Dvd.intro_left (2 ^ n) rfl).trans (Nat.dvd_of_mod_eq_zero h))
      simp [ctzFrom, hx, h0]
    · obtain ⟨y, rfl⟩ : 2 ∣ x := by omega
      have hy := ih y
      have hm : 2 * y % 2 ^ (n + 1) = 2 * (y % 2 ^ n) := by rw [pow_succ', Nat.mul_mod_mul_left]
      have hc : ctzFrom (n + 1) (2 * y) = ctzFrom n y + 1 := by simp [ctzFrom, add_comm]
      rw [hm, hc]
      simpa [pow_succ' 2, Nat.mul_dvd_mul_iff_left] using hy

theorem popCount_eq_countP (n : Nat) : ∀ w, popCount n w = (List.range n).countP (w.testBit ·) := by
  induction n with
  | zero => intro w; rfl
  | succ n ih =>
    intro w
    have h0 : w % 2 = if w.testBit 0 then 1 else 0 := by
      rw [Nat.testBit_zero]; rcases Nat.mod_two_eq_zero_or_one w with h | h <;> simp [h]
    rw [popCount, ih, List.range_succ_eq_map, List.countP_cons, List.countP_map, h0, add_comm]
    congr 1
    exact List.countP_congr fun k _ => by simp [Nat.testBit_succ]

-- bytes

theorem getElem?_toBytes (n : Nat) : ∀ (w k : Nat), k < n → (toBytes n w)[k]? = some (BitVec.ofNat 8 (w / 256 ^ k)) := by
  induction n with
  | zero => intro w k hk; omega
  | succ n ih =>
    intro w k hk
    cases k with
    | zero => simp [toBytes]
    | succ k => rw [toBytes, List.getElem?_cons_succ, ih _ _ (by omega), Nat.div_div_eq_div_mul, pow_succ']

theorem ofNat_ofBytes_div : ∀ (l : List Byte) (k : Nat), BitVec.ofNat 8 (ofBytes l / 256 ^ k) = l.getD k 0
  | [], k => by simp [ofBytes]
  | b :: l, 0 => by
    apply BitVec.eq_of_toNat_eq
    have := b.isLt
    simp [ofBytes]
    omega
  | b :: l, k + 1 => by
    have := b.isLt
    rw [ofBytes, pow_succ', ← Nat.div_div_eq_div_mul, Nat.add_mul_div_left _ _ (by decide), Nat.div_eq_of_lt this, Nat.zero_add,
      ofNat_ofBytes_div l k, List.getD_cons_succ]

theorem ofBytes_lt : ∀ l : List Byte, ofBytes l < 256 ^ l.length
  | [] => by simp [ofBytes]
  | b :: l => by
    have := b.isLt
    have := ofBytes_lt l
    rw [ofBytes, List.length_cons, pow_succ']
    omega

/-- Byte k of a swapped word is byte 7 - k of the word (R129). -/
theorem byte_byteSwap (x : Word) {k : Nat} (hk : k < 8) : (byteSwap x).extractLsb' (8 * k) 8 = x.extractLsb' (8 * (7 - k)) 8 := by
  have hlen : (toBytes 8 x.toNat).reverse.length = 8 := by rw [List.length_reverse, length_toBytes]
  have hlt := ofBytes_lt (toBytes 8 x.toNat).reverse
  rw [hlen] at hlt
  have hpow (j : Nat) : (2 : Nat) ^ (8 * j) = 256 ^ j := by rw [pow_mul]; norm_num
  have hw : (byteSwap x).toNat = ofBytes (toBytes 8 x.toNat).reverse := by
    rw [byteSwap, word, BitVec.toNat_ofNat, Nat.mod_eq_of_lt (hlt.trans_eq (by norm_num))]
  rw [BitVec.extractLsb', BitVec.extractLsb', hw, Nat.shiftRight_eq_div_pow, Nat.shiftRight_eq_div_pow, hpow, hpow, ofNat_ofBytes_div,
    List.getD_eq_getElem?_getD, List.getElem?_reverse (by rw [length_toBytes]; exact hk), length_toBytes,
    getElem?_toBytes 8 _ _ (by omega)]
  simp

-- extensions and immediates

theorem toInt_signExt {n : Nat} (h : n ≤ 64) (x : Word) : (signExt n x).toInt = (x.extractLsb' 0 n).toInt := by
  rw [signExt, BitVec.toInt_signExtend_of_le h, BitVec.setWidth_eq_extractLsb' h]

theorem zeroExt_eq_word (n : Nat) (x : Word) : zeroExt n x = word (x.toNat % 2 ^ n) :=
  eq_word_of_toNat (by rw [zeroExt, BitVec.toNat_setWidth, BitVec.toNat_setWidth])

theorem immExt_eq_wordI {n : Nat} (i : BitVec n) : immExt i = wordI i.toInt := rfl

theorem add_immExt {n : Nat} (x : Word) (i : BitVec n) : x + immExt i = wordI (x.toInt + i.toInt) := by
  rw [immExt_eq_wordI, wordI, wordI, BitVec.ofInt_add, BitVec.ofInt_toInt]

theorem immExt_mul {n : Nat} (i : BitVec n) (k : Nat) : immExt i * BitVec.ofNat 64 k = wordI (i.toInt * k) := by
  rw [immExt_eq_wordI, wordI, wordI, BitVec.ofInt_mul, BitVec.ofInt_natCast]

theorem toInt_immExt {n : Nat} (h : n ≤ 64) (i : BitVec n) : (immExt i).toInt = i.toInt := BitVec.toInt_signExtend_of_le h

/-- Settles O5: each member is its form at what the lemmas above say of its word. -/
theorem integerUnaryAndImmediateResults : Obligations.IntegerUnaryAndImmediateResults := by
  refine ⟨fun s s₁ d a x h => ⟨⟨_, alu1_of_fetch h rfl, ?_⟩, ⟨_, alu1_of_fetch h rfl, ?_⟩, alu1_of_fetch h ?_,
    ⟨_, alu1_of_fetch h rfl, fun k hk => byte_byteSwap x hk⟩, ⟨_, alu1_of_fetch h rfl, toInt_signExt (by decide) x⟩,
    ⟨_, alu1_of_fetch h rfl, toInt_signExt (by decide) x⟩, ⟨_, alu1_of_fetch h rfl, toInt_signExt (by decide) x⟩,
    alu1_of_fetch h (zeroExt_eq_word _ x), alu1_of_fetch h (zeroExt_eq_word _ x),
    alu1_of_fetch h (zeroExt_eq_word _ x)⟩, fun s s₁ d a x h => ⟨fun i => ?_, fun n => ?_, fun p l => alu1_of_fetch h rfl⟩,
    fun s d i => ?_⟩
  · simpa only [toNat_eq_zero_iff] using clz64_spec x.isLt
  · simpa only [Nat.mod_eq_of_lt x.isLt, toNat_eq_zero_iff] using ctzFrom_spec 64 x.toNat
  · rw [popCount_eq_countP]; rfl
  · refine ⟨alu1_of_fetch h (add_immExt x i), alu1_of_fetch h rfl, alu1_of_fetch h rfl, alu1_of_fetch h rfl, alu1_of_fetch h ?_,
      alu1_of_fetch h (flagWord_ult x _)⟩
    rw [flagWord_slt, toInt_immExt (by decide)]
  · exact ⟨alu1_of_fetch h (shiftLeft_eq_word x _), alu1_of_fetch h (shiftRight_eq_word x _), alu1_of_fetch h (sshiftRight_eq_wordI x _)⟩
  · have hi : immExt i * 65536 = wordI (i.toInt * 65536) := immExt_mul i 65536
    rw [exec_lui, exec_addpc, execLui, execAddpc, hi]
    exact ⟨rfl, rfl⟩

/-- Settles O6: BFI by the bits of `setBits`, MADD by its product and sum modulo 2^64. -/
theorem destinationReadAsSource : Obligations.DestinationReadAsSource := by
  refine ⟨fun s s₁ d a p l x y h hpl => ?_, fun s s₁ d a b x y z h => ?_⟩
  · refine ⟨word (setBits y.toNat p.toNat (l.toNat + 1) x.toNat), ?_, fun k hk => ?_⟩
    · rw [exec_bfi, execBfi, with2_of_fetch h]
    · rw [getLsbD_word _ hk, testBit_setBits]
      rfl
  · rw [exec_madd, execMadd, alu3, with3_of_fetch h, add_mul_eq_word]

-- division

theorem toNat_word_of_le {n : Nat} {x : Word} (h : n ≤ x.toNat) : (word n).toNat = n :=
  (BitVec.toNat_ofNat ..).trans (Nat.mod_eq_of_lt (h.trans_lt x.isLt))

/-- The overflowing quotient is what its truncation to 64 bits gives (R137). -/
theorem toNat_divVal (x y : Word) : (divVal x y).toNat =
    if y = 0 then 2 ^ 64 - 1 else if x = wordI (-2 ^ 63) ∧ y = wordI (-1) then 2 ^ 63 else (wordI (x.toInt.tdiv y.toInt)).toNat := by
  unfold divVal
  split
  · rfl
  · split
    · next h => obtain ⟨rfl, rfl⟩ := h; decide
    · rfl

theorem toNat_remVal (x y : Word) : (remVal x y).toNat =
    if y = 0 then x.toNat else if x = wordI (-2 ^ 63) ∧ y = wordI (-1) then 0 else (wordI (x.toInt.tmod y.toInt)).toNat := by
  unfold remVal
  split
  · rfl
  · split
    · next h => obtain ⟨rfl, rfl⟩ := h; decide
    · rfl

theorem toNat_divuVal (x y : Word) : (divuVal x y).toNat = if y = 0 then 2 ^ 64 - 1 else x.toNat / y.toNat := by
  unfold divuVal
  split
  · rfl
  · exact toNat_word_of_le (Nat.div_le_self ..)

theorem toNat_remuVal (x y : Word) : (remuVal x y).toNat = if y = 0 then x.toNat else x.toNat % y.toNat := by
  unfold remuVal
  split
  · rfl
  · exact toNat_word_of_le (Nat.mod_le ..)

/-- Settles O8: the class L form at each member's value. -/
theorem divisionResults : Obligations.DivisionResults := fun _ _ _ _ _ _ x y h =>
  ⟨longDiv_of_fetch h (toNat_divVal x y), longDiv_of_fetch h (toNat_divuVal x y), longDiv_of_fetch h (toNat_remVal x y),
    longDiv_of_fetch h (toNat_remuVal x y)⟩

end Sys2Proof.Machine
end

section
/-! PROOF. Branches, jumps and register windows (O9, O11). A CALL and a RET are one form, `State.crossWindow`, at two changes of the task's windows. -/
namespace Sys2Proof.Machine

-- targets

theorem branchTarget_eq {n : Nat} (pc : Word) (o : BitVec n) : branchTarget pc o = pc + wordI (4 * o.toInt) := by
  rw [branchTarget, mul_comm 4 o.toInt]
  exact congrArg (pc + ·) (immExt_mul o 4)

theorem jumpTarget_eq (x : Word) : jumpTarget x = word (x.toNat % 2 ^ 57 / 4 * 4) := congrArg word (by omega)

theorem branch_of_fetch {s s₁ : State} {a b : Reg} {x y : Word} {o : BitVec 16} {c : Word → Word → Bool} {P : Prop} [Decidable P]
    (h : fetchSrcs [a, b] s = .ok [x, y] s₁) (hc : c x y = true ↔ P) :
    branch c a b o s = .next (s₁.goTo (if P then s₁.my.pc + wordI (4 * o.toInt) else s₁.my.pc + 4)) := by
  rw [branch, with2_of_fetch h, branchTarget_eq, State.advance, ← apply_ite s₁.goTo]
  simp only [hc]

/-- Settles O9: `branch_of_fetch` at each condition; LOOP's counter is zero after the step just when it was 1. -/
theorem branchTargets : Obligations.BranchTargets := by
  refine ⟨fun s s₁ a b o x y h => ⟨branch_of_fetch h beq_iff_eq, branch_of_fetch h bne_iff_ne, branch_of_fetch h decide_eq_true_iff,
    branch_of_fetch h ?_, branch_of_fetch h decide_eq_true_iff, branch_of_fetch h ?_⟩, fun s o => ?_, fun s s₁ a x h => ?_, fun s s₁ u a o x h hu => ?_⟩
  · simp [BitVec.slt]
  · simp [BitVec.ult]
  · rw [exec_jmp, execJmp, branchTarget_eq]
  · rw [exec_jr, execJr, with1_of_fetch h, jumpTarget_eq]
  · have hx : x - 1 ≠ 0 ↔ x ≠ 1 := sub_ne_zero
    rw [exec_loop, execLoop, with1_of_fetch h]
    simp only [hu, hx, ite_not, branchTarget_eq, State.advance]
    rw [apply_ite u.goTo]

-- the form of CALL and RET

/-- The windows change by `f`, and the task goes on at `pc`; where window `n` moves for it, in the task's next two turns (R150, R151, R153). -/
def State.crossWindow (s : State) (moves : Prop) [Decidable moves] (n : Nat) (f : Task → Task) (pc : Word) : State :=
  let t := ((if moves then s.windowMoved s.cur n else s).setMy f).goTo pc
  if moves then t.park t.cur (.window 2) else t

/-- The change of a CALL: a push, with a place on chip free. -/
def Task.pushed (t : Task) (spill : Prop) [Decidable spill] (ret : Word) : Task := (if spill then { t with onChip := 3 } else t).pushWindow ret

/-- The change of a RET: a pop, with the caller's window on chip. -/
def Task.popped (t : Task) (fill : Prop) [Decidable fill] : Task := (if fill then { t with onChip := 2 } else t).popWindow

theorem doCall_within_depth (s : State) (target : Word) (h : 1 + s.my.callers.length + 1 ≤ s.my.depth) :
    doCall target s = s.crossWindow (s.my.onChip = 4) (1 + s.my.callers.length + 1 - s.my.onChip) (·.pushed (s.my.onChip = 4) (s.my.pc + 4)) target :=
  if_neg (Nat.not_lt.2 h)

theorem length_insertPending (x : Pending) (l : List Pending) : (insertPending x l).length = l.length + 1 := by
  induction l with
  | nil => rfl
  | cons z r ih => rw [insertPending]; split <;> simp [ih]

theorem post_ne (s : State) (due tie : Nat) (ev : Instr) (m : Msg) : s.post due tie ev m ≠ s := by
  intro h
  have hlen : (insertPending _ s.agenda).length = s.agenda.length := congrArg (·.agenda.length) h
  rw [length_insertPending] at hlen
  omega

theorem windowMoved_eq (s : State) (n : Nat) : s.windowMoved s.cur n =
    if ∃ k ∈ s.my.struck, k / 16 = n then s.post s.cycle 0 .reset (.uncontained (posCore s.cur) 0 0x23 s.cur) else s := by
  simp only [State.windowMoved, List.any_eq_true, beq_iff_eq]
  rfl

theorem windowMoved_my (s : State) (n : Nat) : (s.windowMoved s.cur n).my = s.my := by
  rw [windowMoved_eq]
  split <;> rfl

theorem windowMoved_cur (s : State) (n : Nat) : (s.windowMoved s.cur n).cur = s.cur := by
  rw [windowMoved_eq]
  split <;> rfl

section
variable {s : State} {moves : Prop} [Decidable moves] {n : Nat} {f : Task → Task} {pc : Word}

/-- The task's reading `g`, which neither going on nor parking enters, is that of the changed windows. -/
theorem crossWindow_my {γ : Type} (g : Task → γ) (hcr : ∀ t c v, g (Task.setCr t c v) = g t)
    (hgo : ∀ (t : Task) pc r n k b o w, g { t with pc := pc, resume := r, tileFrom := n, kept := k, waited := b, outst := o, wait := w } = g t) :
    g (s.crossWindow moves n f pc).my = g (f s.my) := by
  have go (u : State) (hu : u.my = s.my) : g ((u.setMy f).goTo pc).my = g (f s.my) := by
    rw [State.goTo_my _ pc g hcr, State.my_setMy, hu]
    exact hgo _ _ _ _ _ _ _ _
  unfold State.crossWindow
  split
  · rw [my_park, ← go _ (windowMoved_my s n)]
    exact hgo _ _ _ _ _ _ _ _
  · exact go s rfl

theorem crossWindow_sreg (k : Nat) : (s.crossWindow moves n f pc).my.sreg k = (f s.my).sreg k :=
  crossWindow_my (·.sreg k) (fun _ _ _ => rfl) fun _ _ _ _ _ _ _ _ => rfl

theorem crossWindow_callers : (s.crossWindow moves n f pc).my.callers = (f s.my).callers :=
  crossWindow_my (·.callers) (fun _ _ _ => rfl) fun _ _ _ _ _ _ _ _ => rfl

theorem crossWindow_onChip : (s.crossWindow moves n f pc).my.onChip = (f s.my).onChip :=
  crossWindow_my (·.onChip) (fun _ _ _ => rfl) fun _ _ _ _ _ _ _ _ => rfl

theorem crossWindow_goesOn (hf : (f s.my).resume = s.my.resume) : GoesOn s (s.crossWindow moves n f pc) pc := by
  have go (u : State) (hu : u.my = s.my) : GoesOn s ((u.setMy f).goTo pc) pc :=
    (goesOn_goTo _ pc).congr (by rw [State.my_setMy, hu, hf])
  unfold State.crossWindow
  split
  · rw [GoesOn, my_park]
    exact go _ (windowMoved_my s n)
  · exact go s rfl

theorem crossWindow_moves : MovesWindow s (s.crossWindow moves n f pc) moves n := by
  have only (u : State) : OnlyMySlot u ((u.setMy f).goTo pc) := (onlyMySlot_setMy u f).trans (onlyMySlot_goTo _ pc)
  unfold State.crossWindow
  by_cases hm : moves
  · rw [if_pos hm, if_pos hm]
    refine ⟨s.windowMoved s.cur n, ?_, fun _ hk => ?_, (only _).trans (onlyMySlot_park _ _)⟩
    · by_cases hk : ∃ k ∈ s.my.struck, k / 16 = n
      · exact .inr ⟨hm, hk, by rw [windowMoved_eq, if_pos hk]⟩
      · exact .inl (by rw [windowMoved_eq, if_neg hk])
    · rw [windowMoved_eq, if_pos hk]
      exact post_ne _ _ _ _ _
  · rw [if_neg hm, if_neg hm]
    exact ⟨s, .inl rfl, fun h => absurd h hm, only s⟩

theorem crossWindow_parks (hm : moves) :
    ((s.crossWindow moves n f pc).slot s.cur).st = .parked ∧ (s.crossWindow moves n f pc).my.wait = some (.window 2) := by
  have hc : (((s.windowMoved s.cur n).setMy f).goTo pc).cur = s.cur := by
    rw [State.goTo_cur, State.setMy_cur, windowMoved_cur]
  rw [State.crossWindow, if_pos hm, if_pos hm, my_park, hc, State.slot_park, if_pos rfl]
  exact ⟨rfl, rfl⟩

theorem crossWindow_stays (hm : ¬ moves) : ((s.crossWindow moves n f pc).slot s.cur).st = (s.slot s.cur).st := by
  rw [State.crossWindow, if_neg hm, if_neg hm]
  simp only [st_goTo, State.setMy, State.modTask, State.slot_modSlot, if_true]

end

-- what a push and a pop leave

section
variable (t : Task) (moves : Prop) [Decidable moves] (ret : Word)

theorem pushed_eq : t.pushed moves ret = ({ t with onChip := if moves then 3 else t.onChip } : Task).pushWindow ret := by
  rw [Task.pushed]
  split <;> rfl

theorem popped_eq : t.popped moves = ({ t with onChip := if moves then 2 else t.onChip } : Task).popWindow := by
  rw [Task.popped]
  split <;> rfl

theorem sreg_pushed (r : Nat) : (t.pushed moves ret).sreg r =
    if 8 ≤ r ∧ r < 16 then [t.sreg 12, t.sreg 13, t.sreg 14, t.sreg 15, 0, 0, 0, 0].getD (r - 8) 0 else t.sreg r := by
  rw [pushed_eq]
  exact Task.sreg_pushWindow _ ret r

theorem callers_pushed : (t.pushed moves ret).callers = t.window.set 7 ret :: t.callers := by
  rw [pushed_eq]
  exact Task.callers_pushWindow _ ret

theorem onChip_pushed : (t.pushed moves ret).onChip = (if moves then 3 else t.onChip) + 1 := by
  rw [pushed_eq]
  exact Task.onChip_pushWindow _ ret

theorem resume_pushed : (t.pushed moves ret).resume = t.resume := by
  rw [pushed_eq]
  exact Task.pushWindow_keeps (·.resume) (fun _ _ _ _ _ => rfl) _ ret

variable {t} {w : Window} {r : List Window} (h : t.callers = w :: r)
include h

theorem callers_popped : (t.popped moves).callers = r := by
  rw [popped_eq]
  exact Task.callers_popWindow _ w r h

theorem resume_popped : (t.popped moves).resume = t.resume := by
  rw [popped_eq]
  exact Task.popWindow_keeps (·.resume) (fun _ _ _ _ _ => rfl) _ w r h

theorem sreg_popped (q : Nat) : (t.popped moves).sreg q =
    if 8 ≤ q ∧ q < 16 then ((w.set 4 (t.sreg 8)).set 5 (t.sreg 9)).getD (q - 8) 0 else t.sreg q := by
  rw [popped_eq]
  exact Task.sreg_popWindow { t with onChip := if moves then 2 else t.onChip } w r h q

theorem sreg_popped_low {k : Nat} (hk : k < 8) : (t.popped moves).sreg k = t.sreg k :=
  (sreg_popped moves h k).trans (if_neg (by omega))

/-- The caller's window is back but for its s12 and s13, which are the callee's s8 and s9 (R151). -/
theorem sreg_popped_window (hlen : w.length = 8) {k : Nat} (hk : k < 8) : (t.popped moves).sreg (8 + k) =
    if k = 4 then t.sreg 8 else if k = 5 then t.sreg 9 else w.getD k 0 := by
  rw [sreg_popped moves h, if_pos (by omega), Nat.add_sub_cancel_left, List.getD_eq_getElem?_getD, List.getD_eq_getElem?_getD]
  by_cases h5 : k = 5
  · rw [h5, List.getElem?_set_self (by simp [hlen])]
    rfl
  by_cases h4 : k = 4
  · rw [h4, List.getElem?_set_ne (by decide), List.getElem?_set_self (by simp [hlen])]
    rfl
  · rw [List.getElem?_set_ne (Ne.symm h5), List.getElem?_set_ne (Ne.symm h4), if_neg h4, if_neg h5]

end

theorem getElem?_window (t : Task) {k : Nat} (h : k < 8) : t.window[k]? = some (t.sreg (8 + k)) := by
  simp [Task.window, h]

-- the members

theorem exec_call_of_depth {s : State} (o : BitVec 26) (hl : s.isLight s.cur = false) (hd : 1 + s.my.callers.length + 1 ≤ s.my.depth) :
    exec (.call o) s = .next (s.crossWindow (s.my.onChip = 4) (1 + s.my.callers.length + 1 - s.my.onChip)
      (·.pushed (s.my.onChip = 4) (s.my.pc + 4)) (s.my.pc + wordI (4 * o.toInt))) := by
  simp only [exec_call, execCall, State.noWindows, hl, Bool.false_eq_true, if_false, branchTarget_eq, doCall_within_depth s _ hd]

theorem exec_callr_of_fetch {s s₁ : State} {a : Reg} {x : Word} (h : fetchSrcs [a] s = .ok [x] s₁) (hl : s.isLight s.cur = false)
    (hd : 1 + s.my.callers.length + 1 ≤ s.my.depth) : exec (.callr a) s = .next (doCall (word (x.toNat % 2 ^ 57 / 4 * 4)) s₁) := by
  have hw : ¬ s.my.depth < s.my.windows + 1 := Nat.not_lt.2 hd
  simp only [exec_callr, execCallr, State.noWindows, hl, hw, Bool.false_eq_true, if_false, with1_of_fetch h, jumpTarget_eq]

theorem exec_ret_of_callers {s : State} {w : Window} {r : List Window} (hl : s.isLight s.cur = false) (h : s.my.callers = w :: r) :
    exec .ret s = .next (s.crossWindow (s.my.onChip = 1) s.my.callers.length (·.popped (s.my.onChip = 1))
      (word ((w.getD 7 0).toNat % 2 ^ 57 / 4 * 4))) := by
  have h₁ : s.my.windows ≠ 1 := by simp [Task.windows, h]
  have hn : s.my.windows - 1 = s.my.callers.length := Nat.add_sub_cancel_left ..
  have hw : (s.my.callers.headD []).getD 7 0 = w.getD 7 0 := by rw [h]; rfl
  simp only [exec_ret, execRet, State.noWindows, hl, h₁, hn, hw, Bool.false_eq_true, if_false, jumpTarget_eq]
  rfl

/-- Settles O11: a CALL and a RET cross into another window, whose registers are those of the pushed and of the popped task. -/
theorem callAndRetMoveWindows : Obligations.CallAndRetMoveWindows := by
  refine ⟨fun s o hl hd => ?_, fun s s₁ a x h hl hd => exec_callr_of_fetch h hl hd, fun s w r hl hw hlen => ?_⟩
  · refine ⟨_, exec_call_of_depth o hl hd, crossWindow_goesOn (resume_pushed ..), crossWindow_moves, ?_⟩
    simp only [crossWindow_sreg, crossWindow_callers, crossWindow_onChip, sreg_pushed, callers_pushed, onChip_pushed]
    refine ⟨fun k hk => if_neg (by omega), fun k hk => ?_, fun k hk hk' => ?_, ⟨_, rfl, ?_, fun k hk => ?_, ?_⟩, ?_⟩
    · rw [if_pos (by omega)]
      interval_cases k <;> rfl
    · rw [if_pos (by omega)]
      interval_cases k <;> rfl
    · rw [List.length_set, Task.window_length]
    · rw [List.getElem?_set_ne (by omega), getElem?_window _ (by omega)]
    · rw [List.getElem?_set_self (by rw [Task.window_length]; decide)]
    · by_cases hm : s.my.onChip = 4
      · obtain ⟨hst, hwait⟩ := crossWindow_parks hm
        exact .inl ⟨hst, hwait, by rw [if_pos hm]⟩
      · exact .inr ⟨hm, crossWindow_stays hm, by rw [if_neg hm]⟩
  · refine ⟨_, exec_ret_of_callers hl hw, crossWindow_goesOn (resume_popped _ hw), crossWindow_moves, crossWindow_callers.trans (callers_popped _ hw),
      fun k hk => (crossWindow_sreg k).trans (sreg_popped_low _ hw hk), fun k hk => (crossWindow_sreg _).trans (sreg_popped_window _ hw hlen hk), ?_⟩
    by_cases hm : s.my.onChip = 1
    · obtain ⟨hst, hwait⟩ := crossWindow_parks hm
      exact .inl ⟨hst, hwait, hm⟩
    · exact .inr ⟨hm, crossWindow_stays hm⟩

end Sys2Proof.Machine
end

section
/-! PROOF. Scalar floating point (O13, O14, O15). Operands, rounding modes and events as the statements name them stand first, with the one rounding
that gives value and flags; then the members by form, and the selections by the order of their operands. -/
namespace Sys2Proof.Machine

-- operands, modes and events

theorem fpBits_precFmt (p : BitVec 1) (x : Word) : fpBits (precFmt p) x = if p = 0 then x.toNat else x.toNat % 2 ^ 32 := by
  rw [fpBits, precFmt]
  split
  · exact Nat.mod_eq_of_lt x.isLt
  · rfl

theorem modeOf_eq (s : State) (m : BitVec 3) :
    s.modeOf m = if m = 0 then Mode.ofRmode (s.my.cr 0x16) else Mode.ofRmode (m.toNat - 1) := by
  simp only [State.modeOf, effMode, toNat_eq_zero_iff]

@[simp] theorem flags_add_inputEvents (e : Events) (f : Format) (b : Nat) : (e.add (inputEvents f b)).flags = e.flags := BitVec.or_zero

theorem flags_foldl_inputEvents (f : Format) (ins : List Nat) (e : Events) :
    (ins.foldl (fun e x => e.add (inputEvents f x)) e).flags = e.flags :=
  List.foldlRecOn (motive := fun x => x.flags = e.flags) ins _ rfl fun x hx b _ => (flags_add_inputEvents x f b).trans hx

theorem roundsTo_finish (f : Format) (mode : Mode) (r : Val × Flags) :
    RoundsTo f mode r (finish f mode false r.1 r.2).1 (finish f mode false r.1 r.2).2 := ⟨rfl, rfl⟩

theorem RoundsTo.congr_flags {f : Format} {mode : Mode} {r : Val × Flags} {v : Nat} {e e' : Events} (h : RoundsTo f mode r v e)
    (he : e'.flags = e.flags) : RoundsTo f mode r v e' := ⟨h.1, he.trans h.2⟩

theorem roundsTo_rounded (f : Format) (mode : Mode) (ins : List Nat) (r : Val × Flags) :
    RoundsTo f mode r (rounded f mode ins r).1 (rounded f mode ins r).2 :=
  (roundsTo_finish f mode r).congr_flags (flags_foldl_inputEvents f ins _)

-- the rounded members

/-- The value of an operand in the format that PREC names (R138). -/
def operand (p : BitVec 1) (x : Word) : Val := decodeVal (precFmt p) (fpBits (precFmt p) x)

section
variable {s s₁ : State} {a b d : Reg} {m : BitVec 3} {p : BitVec 1} {n : BitVec 4} {x y z : Word}

theorem fp2_rounds (h : fetchSrcs [a, b] s = .ok [x, y] s₁) (op : Mode → Val → Val → Val × Flags) :
    ∃ r e, RoundsTo (precFmt p) (s₁.modeOf m) (op (s₁.modeOf m) (operand p x) (operand p y)) r e ∧
      fp2 op d a b m p s = .next (finishFloat d r e s₁) :=
  ⟨_, _, roundsTo_rounded .., by rw [fp2, with2_of_fetch h]; rfl⟩

theorem fdiv_rounds (h : fetchSrcs [a, b] s = .ok [x, y] s₁) :
    ∃ r e, RoundsTo (precFmt p) (s₁.modeOf m) (Val.div (operand p x) (operand p y)) r e ∧
      exec (.fdiv d a b m p n) s = .next (issueLong d n.toNat (if p = 0 then 36 else 24) r e s₁) :=
  ⟨_, _, roundsTo_rounded .., by rw [exec_fdiv, execFdiv, with2_of_fetch h]; rfl⟩

theorem ffma_rounds (h : fetchSrcs [a, b, d] s = .ok [x, y, z] s₁) :
    ∃ r e, RoundsTo (precFmt p) (s₁.modeOf m) (Val.fma (s₁.modeOf m) (operand p x) (operand p y) (operand p z)) r e ∧
      exec (.ffma d a b m p) s = .next (finishFloat d r e s₁) :=
  ⟨_, _, roundsTo_rounded .., by rw [exec_ffma, execFfma, with3_of_fetch h]; rfl⟩

theorem fsqrt_rounds (h : fetchSrcs [a] s = .ok [x] s₁) :
    ∃ r e, RoundsTo (precFmt p) (s₁.modeOf m) (Val.sqrt (operand p x)) r e ∧
      exec (.fsqrt d a m p n) s = .next (issueLong d n.toNat (if p = 0 then 40 else 28) r e s₁) :=
  ⟨_, _, roundsTo_rounded .., by rw [exec_fsqrt, execFsqrt, with1_of_fetch h]; rfl⟩

end

theorem operand_eq (p : BitVec 1) (x : Word) :
    operand p x = decodeVal (precFmt p) (if p = 0 then x.toNat else x.toNat % 2 ^ 32) := by
  rw [operand, fpBits_precFmt]

/-- Settles O13: one rounding of the sum, the difference, the product and the quotient of the operands. -/
theorem floatingResults : Obligations.FloatingResults := by
  intro s s₁ d a b m x y h p f v mode
  have hv (w : Word) : v w = operand p w := (operand_eq p w).symm
  have hm : mode = s₁.modeOf m := (modeOf_eq s₁ m).symm
  rw [hm, hv, hv]
  exact ⟨fp2_rounds h _, fp2_rounds h fun mode u w => Val.add mode u w.negate, fp2_rounds h fun _ => Val.mul, fun _ => fdiv_rounds h⟩

-- conversions

theorem signed_toNat {n : Nat} (hn : 0 < n) (x : BitVec n) : signed n x.toNat = x.toInt := by
  rw [← toInt_ofNat_eq_signed hn, BitVec.ofNat_toNat, BitVec.setWidth_eq]

theorem signed_low (x : Word) : signed 32 x.toNat = (x.extractLsb' 0 32).toInt := (toInt_ofNat_eq_signed (by decide) _).symm

theorem flags_cvtToInt (w : Nat) (f : Format) (mode : Mode) (b : Nat) : (cvtToInt w f mode b).2.flags = (toInt w mode (decodeVal f b)).2 :=
  flags_add_inputEvents _ f b

/-- Settles O14: the rounded members FFMA and FSQRT, and FCVT by its kinds (Table 3-18). -/
theorem fusedRootAndConversions : Obligations.FusedRootAndConversions := by
  refine ⟨?_, ?_, ?_⟩
  · intro s s₁ d a b m p x y z h f v mode
    have hv (w : Word) : v w = operand p w := (operand_eq p w).symm
    have hm : mode = s₁.modeOf m := (modeOf_eq s₁ m).symm
    rw [hm, hv, hv, hv]
    exact ffma_rounds h
  · intro s s₁ d a m p n x h f v mode
    have hv : v = operand p x := (operand_eq p x).symm
    have hm : mode = s₁.modeOf m := (modeOf_eq s₁ m).symm
    rw [hm, hv]
    exact fsqrt_rounds h
  · intro s s₁ d a k m p x h f g v mode
    have hv : v = operand p x := (operand_eq p x).symm
    have hm : mode = s₁.modeOf m := (modeOf_eq s₁ m).symm
    rw [hm, hv]
    refine ⟨_, _, by rw [exec_fcvt, execFcvt, with1_of_fetch h], ?_, ?_, ?_, ?_, ?_⟩
    · rintro rfl
      exact (roundsTo_finish g (s₁.modeOf m) (operand p x, 0)).congr_flags (flags_add_inputEvents ..)
    · rintro rfl
      exact ⟨rfl, flags_cvtToInt ..⟩
    · rintro rfl
      exact ⟨rfl, flags_cvtToInt ..⟩
    · rintro rfl
      rw [← signed_toNat (by decide) x]
      exact roundsTo_finish f (s₁.modeOf m) (_, 0)
    · rintro rfl
      rw [← signed_low]
      exact roundsTo_finish f (s₁.modeOf m) (_, 0)

-- selections

theorem eq_fin_of_isZero {x : Val} (h : x.isZero = true) : ∃ s e, x = .fin s 0 e := by
  cases x with
  | nan => cases h
  | inf _ => cases h
  | fin s m e => exact ⟨s, e, by rw [show m = 0 from beq_iff_eq.1 h]⟩

theorem cmp_zeros {x y : Val} (hx : x.isZero = true) (hy : y.isZero = true) : Val.cmp x y = .eq := by
  obtain ⟨s, e, rfl⟩ := eq_fin_of_isZero hx
  obtain ⟨t, f, rfl⟩ := eq_fin_of_isZero hy
  simp [Val.cmp, alignPair]

theorem minLess_of_lt {x y : Val} (h : Val.cmp x y = .lt) : minLess x y = true := by rw [minLess, h]

theorem minLess_of_gt {x y : Val} (h : Val.cmp x y = .gt) : minLess x y = false := by rw [minLess, h]

/-- Of two zeros of unlike sign the negative one is below (R140). -/
theorem minLess_of_zeros {x y : Val} (hx : x.isZero = true) (hy : y.isZero = true) (hs : x.neg? ≠ y.neg?) : minLess x y = x.neg? := by
  rw [minLess, cmp_zeros hx hy]
  cases h : x.neg? <;> simp_all

/-- What FMIN, or with `mx` FMAX, gives of two operands that are not NaN. -/
theorem fpSelect_of_numbers (mx : Bool) {f : Format} {x y : Nat} (hx : (decodeVal f x).isNan = false) (hy : (decodeVal f y).isNan = false) :
    (fpSelect mx f x y).1 = if minLess (decodeVal f x) (decodeVal f y) then cond mx y x else cond mx x y := by
  simp only [fpSelect, hx, hy, Bool.and_self, Bool.false_eq_true, if_false]
  cases mx <;> cases minLess (decodeVal f x) (decodeVal f y) <;> rfl

/-- R140, of FMIN, or with `mx` of FMAX. -/
theorem fpSelect_spec (mx : Bool) (f : Format) (x y : Nat) :
    let nan (b : Nat) := (decodeVal f b).isNan
    let r := (fpSelect mx f x y).1
    (fpSelect mx f x y).2.flags = 0 ∧ (nan x = true → nan y = true → r = f.nanBits) ∧ (nan x = true → nan y = false → r = y) ∧
      (nan x = false → nan y = true → r = x) ∧
      (nan x = false → nan y = false → (r = x ∨ r = y) ∧
        (Val.cmp (decodeVal f x) (decodeVal f y) = .lt → r = cond mx y x) ∧ (Val.cmp (decodeVal f x) (decodeVal f y) = .gt → r = cond mx x y) ∧
        ((decodeVal f x).isZero = true → (decodeVal f y).isZero = true → (decodeVal f x).neg? ≠ (decodeVal f y).neg? →
          r = if (decodeVal f x).neg? then cond mx y x else cond mx x y)) := by
  dsimp only
  refine ⟨by simp [fpSelect, Events.add, inputEvents], fun hx hy => ?_, fun hx hy => ?_, fun hx hy => ?_, fun hx hy => ?_⟩
  · simp [fpSelect, hx, hy]
  · simp [fpSelect, hx, hy]
  · simp [fpSelect, hx, hy]
  · rw [fpSelect_of_numbers mx hx hy]
    refine ⟨?_, fun h => ?_, fun h => ?_, fun hx hy hs => ?_⟩
    · cases mx <;> split <;> simp
    · rw [if_pos (minLess_of_lt h)]
    · rw [minLess_of_gt h]
      rfl
    · rw [minLess_of_zeros hx hy hs]

-- comparisons

theorem fpCompare_of_nan (c : BitVec 2) {x y : Val} (h : x.isNan = true ∨ y.isNan = true) :
    (fpCompare c.toNat x y).toNat = if c = 3 then 1 else 0 := by
  have hn : (x.isNan || y.isNan) = true := (Bool.or_eq_true ..).mpr h
  unfold fpCompare
  rw [if_pos hn]
  rcases bitVec_two_cases c with rfl | rfl | rfl | rfl <;> rfl

theorem fpCompare_of_numbers (c : BitVec 2) {x y : Val} (hx : x.isNan = false) (hy : y.isNan = false) :
    (fpCompare c.toNat x y).toNat =
      if (c = 0 ∧ Val.cmp x y = .eq) ∨ (c = 1 ∧ Val.cmp x y = .lt) ∨ (c = 2 ∧ Val.cmp x y ≠ .gt) then 1 else 0 := by
  unfold fpCompare
  rw [hx, hy]
  rcases bitVec_two_cases c with rfl | rfl | rfl | rfl <;> cases Val.cmp x y <;> rfl

/-- Settles O15: the selections by `fpSelect_spec`, the comparison by its condition. -/
theorem floatingSelections : Obligations.FloatingSelections := by
  intro s s₁ d a b p x y h f w nan zero neg
  have hw (x : Word) : w x = fpBits f x := (fpBits_precFmt p x).symm
  simp only [nan, zero, neg, hw]
  refine ⟨⟨_, _, ?_, fpSelect_spec false f _ _⟩, ⟨_, _, ?_, fpSelect_spec true f _ _⟩,
    fun c => ⟨_, ((inputEvents f (fpBits f x)).add (inputEvents f (fpBits f y))), ?_, flags_add_inputEvents .., fpCompare_of_nan c, fpCompare_of_numbers c⟩⟩
  · rw [exec_fmin, execFmin, with2_of_fetch h]
    rfl
  · rw [exec_fmax, execFmax, with2_of_fetch h]
    rfl
  · rw [exec_fcmp, execFcmp, with2_of_fetch h]
    rfl

end Sys2Proof.Machine
end

section
/-! PROOF. Tile descriptors (O34): what a task may name, then TDEF and the members that replace one field of a descriptor. -/
namespace Sys2Proof.Machine

-- going on and allotment

/-- Going on keeps every reading of the task that nothing of an issue enters. -/
theorem advance_my_keeps {γ : Type} (g : Task → γ) (hcr : ∀ t c v, g (Task.setCr t c v) = g t)
    (hg : ∀ (t : Task) pc resume tileFrom kept waited outst,
      g { t with pc := pc, resume := resume, tileFrom := tileFrom, kept := kept, waited := waited, outst := outst } = g t) (s : State) :
    g s.advance.my = g s.my := (State.goTo_my s _ g hcr).trans (hg ..)

/-- A tile beyond the number of the deal is the format fault, before anything is read (R156). -/
theorem withTiles_beyond {ts : List TReg} {s : State} (h : ∃ t ∈ ts, s.tileCount ≤ t.toNat) (k : State → State) :
    withTiles ts s k = s.formatFault 0 := by
  obtain ⟨t, ht, hle⟩ := h
  refine if_neg fun hall => ?_
  have := List.all_eq_true.1 hall t ht
  exact absurd (of_decide_eq_true this) (Nat.not_lt.2 hle)

theorem withTiles_allotted {ts : List TReg} {s : State} (h : ∀ t ∈ ts, t.toNat < s.tileCount) (k : State → State) :
    withTiles ts s k = k s :=
  if_pos (List.all_eq_true.2 fun t ht => decide_eq_true (h t ht))

theorem withTiles_one {t : TReg} {s : State} (h : t.toNat < s.tileCount) (k : State → State) : withTiles [t] s k = k s :=
  withTiles_allotted (by simpa using h) k

-- descriptors

/-- A well-formed descriptor is taken (R33, R170). -/
theorem takesTile_setTile (s : State) (t : TReg) {v : BitVec 128} (h : (Desc.ofBits v).wf = true) : TakesTile s (setTile t v s) t v := by
  let u := s.setMy fun x => { x with tiles := x.tiles.put t.toNat v }
  have hmy : u.my = { s.my with tiles := s.my.tiles.put t.toNat v } := State.my_setMy ..
  have hgo : GoesOn s u.advance (s.my.pc + 4) := by
    have hg := goesOn_advance u
    simp only [hmy] at hg
    exact hg.congr (by rw [hmy])
  rw [setTile, if_pos h]
  refine ⟨hgo, (onlyMySlot_setMy s _).trans (onlyMySlot_advance u), fun r => ?_, fun k => ?_⟩
  · exact (sreg_advance u r).trans (by rw [hmy]; rfl)
  · rw [advance_my_keeps (·.tile k) (fun _ _ _ => rfl) (fun _ _ _ _ _ _ _ => rfl), hmy]
    exact Tbl.get_put ..

theorem setTile_malformed (s : State) (t : TReg) {v : BitVec 128} (h : (Desc.ofBits v).wf = false) : setTile t v s = s.formatFault 0 := by
  rw [setTile, h]
  rfl

/-- A descriptor whose bits are those of an old one but for a field. -/
theorem ofNat_setBits_eq {w v : BitVec 128} {x : Word} {lo n : Nat}
    (h : ∀ k, k < 128 → v.getLsbD k = if lo ≤ k ∧ k < lo + n then x.getLsbD (k - lo) else w.getLsbD k) :
    BitVec.ofNat 128 (setBits w.toNat lo n x.toNat) = v := by
  refine BitVec.eq_of_getLsbD_eq fun k hk => ?_
  rw [h k hk, BitVec.getLsbD_ofNat, testBit_setBits, decide_eq_true hk, Bool.true_and]
  rfl

section
variable {s s₁ : State} {t : TReg} {r : Reg} {x : Word}

theorem exec_tdef_of_fetch {lo hi : Word} (ht : t.toNat < s.tileCount) (hf : fetchSrcs [r, if r.toNat < 24 then r + 1 else r] s = .ok [lo, hi] s₁) :
    exec (.tdef t r) s = .next (setTile t (hi ++ lo) s₁) := by
  rw [exec_tdef, execTdef, withTiles_one ht, with2_of_fetch hf]

/-- A member that replaces a field of the descriptor by a value of its width, and no wider (R171, R172). -/
theorem fieldMember_spec {i : Instr} {v : BitVec 128} {lo n : Nat}
    (hi : exec i s = .next (if x.toNat / 2 ^ n ≠ 0 then s₁.formatFault 0
      else setTile t (BitVec.ofNat 128 (setBits (s₁.my.tile t.toNat).toNat lo n x.toNat)) s₁))
    (hv : ∀ k, k < 128 → v.getLsbD k = if lo ≤ k ∧ k < lo + n then x.getLsbD (k - lo) else (s₁.my.tile t.toNat).getLsbD k) :
    (x.toNat < 2 ^ n → (Desc.ofBits v).wf = true → ∃ u, exec i s = .next u ∧ TakesTile s₁ u t v) ∧
      (2 ^ n ≤ x.toNat ∨ (Desc.ofBits v).wf = false → exec i s = .next (s₁.formatFault 0)) := by
  rw [hi, ofNat_setBits_eq hv]
  have hwide : x.toNat / 2 ^ n ≠ 0 ↔ 2 ^ n ≤ x.toNat := by simp [Nat.div_eq_zero_iff]
  refine ⟨fun hx hwf => ⟨_, congrArg _ (if_neg ?_), takesTile_setTile s₁ t hwf⟩, fun hx => ?_⟩
  · rwa [hwide, Nat.not_le]
  · split
    · rfl
    · next hn => rw [setTile_malformed s₁ t (hx.resolve_left (by rwa [← hwide]))]

end

/-- Settles O34: TDEF by `setTile`, the two field members by `fieldMember_spec`. -/
theorem tileDescriptors : Obligations.TileDescriptors := by
  refine ⟨fun s t r h => ?_, fun s s₁ t r lo hi ht hf => ?_, fun s s₁ t r x v ht hf => ⟨fun hv => ?_, fun hv => ?_⟩, fun s t r ht => ?_⟩
  · have hb (k : State → State) : withTiles [t] s k = s.formatFault 0 := withTiles_beyond ⟨t, List.mem_cons_self, h⟩ k
    simp only [exec_tdef, execTdef, exec_tshape, execTshape, exec_tbase, execTbase, exec_tgetHalf0, execTgetHalf0, exec_tgetHalf1, execTgetHalf1, hb,
      and_self]
  · rw [exec_tdef_of_fetch ht hf]
    exact ⟨fun h => ⟨_, rfl, takesTile_setTile s₁ t h⟩, fun h => by rw [setTile_malformed s₁ t h]⟩
  · refine fieldMember_spec (lo := 48) (n := 16) ?_ hv
    rw [exec_tshape, execTshape, withTiles_one ht, with1_of_fetch hf]
  · refine fieldMember_spec (lo := 0) (n := 25) ?_ (by simpa using hv)
    rw [exec_tbase, execTbase, withTiles_one ht, with1_of_fetch hf]
  · have ha (k : State → State) : withTiles [t] s k = k s := withTiles_one ht k
    rw [exec_tgetHalf0, execTgetHalf0, ha, exec_tgetHalf1, execTgetHalf1, ha]
    simp only [BitVec.extractLsb', Nat.shiftRight_eq_div_pow, pow_zero, Nat.div_one, and_self]

end Sys2Proof.Machine
end

section
/-! PROOF. Tile instructions start (O35, O36). A first access that resolves changes no slot; the issue enters a result, the accesses and the run; and each
member is a check and that start, once what it reads is read. -/
namespace Sys2Proof.Machine

-- the first access

/-- A translation that is found changes translation caches alone. -/
theorem tlbLook_rest {s t : State} {core space page late : Nat} {e : Tlb} (h : s.tlbLook core space page = some (e, late, t)) :
    t = { s with cores := t.cores, mem := t.mem } := by
  unfold State.tlbLook at h
  split at h
  · cases h; rfl
  · dsimp only at h
    split at h
    · cases h; rfl
    · cases h

/-- An address that resolves changes no slot. -/
theorem resolve_rest {s t : State} {va : Nat} {write : Bool} {p : Place} (h : s.resolve va write = .ok p t) :
    t = { s with cores := t.cores, mem := t.mem } := by
  unfold State.resolve at h
  dsimp only at h
  split at h
  case h_1 => cases h
  case h_2 =>
    split at h
    · cases h
    split at h
    · cases h
    split at h
    · cases h; rfl
    split at h
    · cases h; rfl
    split at h <;> cases h
  case h_3 =>
    split at h
    case h_1 => cases h
    case h_2 e =>
      split at h
      · cases h
      split at h
      · cases h
      cases h
      exact tlbLook_rest e

theorem withPlace_of_resolve {s t : State} {va : Nat} {write : Bool} {p : Place} (h : s.resolve va write = .ok p t) (k : Place → State → State) :
    withPlace va write s k = k p t := by rw [withPlace, h]

-- the issue

theorem base_le_unitTime (r : TileRun) (k : Nat) : r.base ≤ r.unitTime k := by
  simp only [TileRun.unitTime]
  omega

/-- A run, with its reads and its writes among the accesses not completed, is in progress (R162, R311). -/
def Task.entersRun (x : Task) (id : Nat) (r : TileRun) (rd wr : List (Nat × Nat)) : Task :=
  { (x.addPend { id := id, write := false, ranges := rd, ackOnly := false }).addPend { id := id, write := true, ranges := wr, ackOnly := false } with
    runs := x.runs ++ [r] }

/-- Entering a run changes the runs and the accesses not completed alone. -/
theorem Task.entersRun_keeps {γ : Type} (g : Task → γ) (hg : ∀ (t : Task) p k, g { t with pend := p, runs := k } = g t) (x : Task) (id : Nat)
    (r : TileRun) (rd wr : List (Nat × Nat)) : g (x.entersRun id r rd wr) = g x := hg x _ _

theorem Task.runs_entersRun (x : Task) (id : Nat) (r : TileRun) (rd wr : List (Nat × Nat)) : (x.entersRun id r rd wr).runs = x.runs ++ [r] := rfl

/-- The result of a tile instruction, which writes no register. -/
def State.tileResult (s : State) (la : Nat) : Outst := { id := s.nextId, pc := 0, dest := none, left := la }

/-- A class L tile instruction enters its result, its accesses and its run, and the task goes on. -/
def State.enterTile (s : State) (la : Nat) (r : TileRun) (rd wr : List (Nat × Nat)) : State :=
  (s.fresh.2.startLong (s.tileResult la)).setMy (·.entersRun s.nextId r rd wr)

/-- A run as it is entered at its issue: named, and with what its unit times count from (R162). -/
def TileRun.issued (r : TileRun) (s : State) (delay : Nat) (moved : List Nat) : TileRun :=
  { r with id := s.nextId, pc := s.my.pc, base := s.cycle + delay, moved := moved }

/-- With no resumption, a first access that resolves and nothing to wait for, the instruction issues: it enters, its messages are counted and
its first unit is posted (R161, R311). -/
theorem startTile_of_mayStart (la : Nat) {s s₁ : State} {r : TileRun} (h : RunMayStart s s₁ r) (hu : 0 < r.units)
    (hf : r.from_ = 0) (hn : r.next = 0) : ∃ delay moved rd wr, let r' := r.issued s₁ delay moved
      startTile la r s = ((s₁.enterTile la r' rd wr).countRun s.cur r' 0).postUnit (r'.unitTime 0) s.cur r' 0 s₁.nextId := by
  obtain ⟨hres, ⟨x, p, hx, hr⟩, hw⟩ := h
  have hr0 : ({ r with from_ := 0, next := 0 } : TileRun) = r := by cases r; cases hf; cases hn; rfl
  have hx1 : (s.unitSpans (posCore s.cur) s.my.space r 0).take 1 = [x] := by
    obtain ⟨l, hl⟩ := List.head?_eq_some_iff.1 hx
    rw [hl]; rfl
  have hi (delay : Nat) (moved : List Nat) :
      r.issued s₁ delay moved = { r with id := s₁.nextId, pc := s₁.my.pc, base := s₁.cycle + delay, moved := moved, from_ := 0, next := 0 } := by
    simp only [TileRun.issued, hf, hn]
  have hrd := hw false
  have hwr := hw true
  let units (w : Bool) := s₁.spanUnits (posCore s.cur) s.my.space s.my.world
    ((List.range r.units).flatMap fun k => s₁.unitSpans (posCore s.cur) s.my.space r k) w
  refine ⟨s₁.fresh.2.runDelay s.cur r, s₁.fresh.2.runMoved (posCore s.cur) s.my.space r, units false, units true, ?_⟩
  simp only [startTile, hres, Option.isSome_none, Bool.false_eq_true, if_false, hr0, hu, if_true, hx1, withPlace_of_resolve hr, Nat.sub_zero,
      Nat.zero_add, hrd, hwr, Bool.or_self, hi]
  rfl

/-- Entering a result keeps every reading of the task that nothing of an issue enters. -/
theorem startLong_my_keeps {γ : Type} (g : Task → γ) (hcr : ∀ t c v, g (Task.setCr t c v) = g t)
    (hg : ∀ (t : Task) pc resume tileFrom kept waited outst,
      g { t with pc := pc, resume := resume, tileFrom := tileFrom, kept := kept, waited := waited, outst := outst } = g t) (s : State) (o : Outst) :
    g (s.startLong o).my = g s.my := by
  rw [State.startLong, State.my_setMy]
  exact (hg ..).trans (advance_my_keeps g hcr hg s)

section
variable (s : State) (la : Nat) (r : TileRun) (rd wr : List (Nat × Nat))

theorem my_enterTile : (s.enterTile la r rd wr).my = (s.fresh.2.startLong (s.tileResult la)).my.entersRun s.nextId r rd wr := State.my_setMy _ _

theorem onlyMySlot_enterTile : OnlyMySlot s.fresh.2 (s.enterTile la r rd wr) := (onlyMySlot_startLong _ _).trans (onlyMySlot_setMy _ _)

/-- What neither the end of an issue nor a run's entry enters. -/
theorem enterTile_my {γ : Type} (g : Task → γ) (hg : ∀ (t : Task) p k, g { t with pend := p, runs := k } = g t) :
    g (s.enterTile la r rd wr).my = g (s.fresh.2.startLong (s.tileResult la)).my := by
  rw [my_enterTile, Task.entersRun_keeps g hg]

theorem goesOn_enterTile : GoesOn s (s.enterTile la r rd wr) (s.my.pc + 4) := by
  rw [GoesOn, enterTile_my s la r rd wr (·.pc) fun _ _ _ => rfl, enterTile_my s la r rd wr (·.resume) fun _ _ _ => rfl]
  exact goesOn_startLong s.fresh.2 (s.tileResult la)

theorem sreg_enterTile (k : Nat) : (s.enterTile la r rd wr).my.sreg k = s.my.sreg k :=
  (enterTile_my s la r rd wr (·.sreg k) fun _ _ _ => rfl).trans (sreg_startLong s.fresh.2 (s.tileResult la) k)

theorem tiles_enterTile : (s.enterTile la r rd wr).my.tiles = s.my.tiles :=
  (enterTile_my s la r rd wr (·.tiles) fun _ _ _ => rfl).trans
    (startLong_my_keeps (·.tiles) (fun _ _ _ => rfl) (fun _ _ _ _ _ _ _ => rfl) s.fresh.2 (s.tileResult la))

theorem runs_enterTile : (s.enterTile la r rd wr).my.runs = s.my.runs ++ [r] := by
  rw [my_enterTile, Task.runs_entersRun,
    startLong_my_keeps (·.runs) (fun _ _ _ => rfl) (fun _ _ _ _ _ _ _ => rfl) s.fresh.2 (s.tileResult la)]
  rfl

theorem outst_getLast?_enterTile (h : s.my.resume = none) : (s.enterTile la r rd wr).my.outst.getLast? =
    some { s.tileResult la with pc := s.my.pc, xen := s.my.xen } := by
  rw [enterTile_my s la r rd wr (·.outst) fun _ _ _ => rfl, outst_getLast?_startLong, show s.fresh.2.my = s.my from rfl, h]
  rfl

theorem tk_enterTile (p : Pos) : (s.enterTile la r rd wr).tk p = s.tk p := by
  have hm (u : State) (f : Task → Task) : ((u.setMy f).slot p).serial = (u.slot p).serial := by
    rw [State.setMy, State.slot_modTask]
    split
    · next h => rw [h]
    · rfl
  rw [State.tk, State.enterTile, hm, State.startLong, hm, State.advance, State.goTo_slot_keeps (·.serial) fun _ _ => rfl]
  rfl

end

/-- The count of the messages that a run is to send is in its core alone (R397). -/
theorem countRun_rest (s : State) (p : Pos) (r : TileRun) (k : Nat) : ∃ x, s.countRun p r k = { s with cores := x } := by
  simp only [State.countRun]
  split
  · exact ⟨s.cores, rfl⟩
  · exact ⟨_, rfl⟩

theorem core_countRun (s : State) (p : Pos) (r : TileRun) (k : Nat) : (∀ c, c ≠ posCore p → (s.countRun p r k).core c = s.core c) ∧
    ∃ n, (s.countRun p r k).core (posCore p) = { s.core (posCore p) with sent := n } := by
  simp only [State.countRun]
  split
  · exact ⟨fun _ _ => rfl, _, rfl⟩
  · exact ⟨fun c hc => by rw [State.core_modCore, if_neg hc], _, State.core_modCore_self ..⟩

/-- What the issue of a tile instruction leaves (R161). -/
theorem runStarts_of_mayStart (la : Nat) {s s₁ : State} {r : TileRun} (h : RunMayStart s s₁ r) (hu : 0 < r.units)
    (hf : r.from_ = 0) (hn : r.next = 0) : RunStarts s₁ (startTile la r s) r la := by
  obtain ⟨d, moved, rd, wr, e⟩ := startTile_of_mayStart la h hu hf hn
  obtain ⟨hres, ⟨x, p, -, hr⟩, -⟩ := h
  have hrest := resolve_rest hr
  have hcur : s.cur = s₁.cur := by rw [hrest]
  have hres₁ : s₁.my.resume = none := by rw [hrest]; exact hres
  rw [hcur] at e
  let r' := r.issued s₁ d moved
  let v := s₁.enterTile la r' rd wr
  have hon := onlyMySlot_enterTile s₁ la r' rd wr
  obtain ⟨y, hy⟩ := countRun_rest v s₁.cur r' 0
  obtain ⟨hcne, n, hc⟩ := core_countRun v s₁.cur r' 0
  have hmy : (startTile la r s).my = v.my := by rw [e, hy]; rfl
  have hvc (c : Nat) : v.core c = s₁.core c := hon.keeps (·.core c) fun _ _ => rfl
  refine ⟨?_, ?_, ?_, ?_, ?_, ?_, ?_, ?_, ?_, ?_⟩
  · rw [GoesOn, hmy]; exact goesOn_enterTile ..
  · rw [e, hy]; exact hon.keeps (·.mem) fun _ _ => rfl
  · intro c hne; rw [e]; exact (hcne c hne).trans (hvc c)
  · rw [e, ← hvc]; exact ⟨n, hc⟩
  · intro k; rw [hmy]; exact sreg_enterTile ..
  · rw [hmy]; exact tiles_enterTile ..
  · intro q hq; rw [e, hy]; exact hon.2 q hq
  · rw [hmy]; exact ⟨_, outst_getLast?_enterTile _ _ _ _ _ hres₁, rfl, rfl, rfl, rfl, rfl, rfl⟩
  · rw [hmy]; exact ⟨_, _, Nat.le_add_right _ _, runs_enterTile ..⟩
  · refine ⟨r'.unitTime 0, (Nat.le_add_right _ _).trans (base_le_unitTime r' 0), ?_⟩
    rw [e, ← tk_enterTile s₁ la r' rd wr s₁.cur, show v.tk s₁.cur = (v.countRun s₁.cur r' 0).tk s₁.cur by rw [hy]; rfl]
    exact ⟨_, (State.mem_post ..).2 (.inl rfl), rfl, rfl, rfl⟩

-- the members

/-- What follows once the tiles are allotted, for a member whose meaning then is a check and a start. -/
theorem tileMember_of_exec {s s₁ : State} {i : Instr} {named : List TReg} {op : TileOp} {d a b c : TReg} {x la : Nat} {sat : Bool}
    (hout : (∃ t ∈ named, s.tileCount ≤ t.toNat) → exec i s = .next (s.formatFault 0))
    (hin : (∀ t ∈ named, t.toNat < s.tileCount) → let r := s₁.newRun op d a b c x sat
      exec i s = .next (if op.checks r.td r.ta r.tb r.tc r.scla then startTile la r s₁ else s₁.formatFault 0)) :
    TileMember s s₁ i named (s₁.newRun op d a b c x sat) la := by
  refine ⟨hout, fun h => ⟨fun hc => ?_, fun hc s₂ hr => ⟨_, ?_, runStarts_of_mayStart la hr (Nat.succ_pos _) rfl rfl⟩⟩⟩
  · rw [hin h]
    exact congrArg _ (if_neg (by rw [Bool.not_eq_true]; exact hc))
  · rw [hin h]
    exact congrArg _ (if_pos hc)

theorem tileMember_of_tileOp {s : State} {i : Instr} {named : List TReg} {op : TileOp} {d a b c : TReg} {x la : Nat} {sat : Bool}
    (h : exec i s = .next (tileOp op named d a b c x la sat s)) : TileMember s s i named (s.newRun op d a b c x sat) la :=
  tileMember_of_exec (fun hb => by rw [h, tileOp, withTiles_beyond hb]) fun ha => by rw [h, tileOp, withTiles_allotted ha]

/-- Settles O35: each member's meaning is `tileOp`, by the number of tiles it names. -/
theorem tileMembersStart : Obligations.TileMembersStart := by
  intro s d a b c x n one two three
  have h₁ {i op sat} (h : exec i s = .next (tileOp op [d, a] d a 0 0 0 n.toNat sat s)) : one i op sat := tileMember_of_tileOp h
  have h₂ {i op sat} (h : exec i s = .next (tileOp op [d, a, b] d a b 0 0 n.toNat sat s)) : two i op sat := tileMember_of_tileOp h
  have h₃ {i op sat} (h : exec i s = .next (tileOp op [d, a, b, c] d a b c 0 n.toNat sat s)) : three i op sat := tileMember_of_tileOp h
  exact ⟨h₁ rfl, h₁ rfl, h₂ rfl, h₂ rfl, h₂ rfl, h₃ rfl, h₂ rfl, h₂ rfl, h₂ rfl, h₁ rfl, h₁ rfl,
    h₁ rfl, h₁ rfl, h₁ rfl, h₁ rfl, h₁ rfl, h₁ rfl,
    h₂ rfl, h₂ rfl, h₂ rfl, h₂ rfl, h₂ rfl, h₂ rfl, h₂ rfl, h₂ rfl,
    fun _ => h₂ rfl, h₃ rfl, h₁ rfl, h₁ rfl, h₁ rfl, h₁ rfl, h₁ rfl, fun _ => h₁ rfl, h₁ rfl, h₁ rfl⟩

section
variable {s s₁ : State} {i : Instr} {named : List TReg} {op : TileOp} {d a : TReg} {r : Reg} {x : Word} {la : Nat}

/-- A member with one more check, which comes after those of formats and shapes: where `bad` its trap gives `u`, and else the member starts. -/
theorem tileMember_of_guarded {y : Nat} {bad : Prop} [Decidable bad] {u : State}
    (hout : (∃ t ∈ named, s.tileCount ≤ t.toNat) → exec i s = .next (s.formatFault 0))
    (hin : (∀ t ∈ named, t.toNat < s.tileCount) → let run := s₁.newRun op d a 0 0 y false
      exec i s = .next (if !op.checks run.td run.ta run.tb run.tc run.scla then s₁.formatFault 0 else if bad then u else startTile la run s₁)) :
    let run := s₁.newRun op d a 0 0 y false
    (¬ bad → TileMember s s₁ i named run la) ∧
      (bad → (∀ t ∈ named, t.toNat < s.tileCount) → op.checks run.td run.ta run.tb run.tc run.scla = true → exec i s = .next u) := by
  intro run
  refine ⟨fun hb => tileMember_of_exec hout fun ha => ?_, fun hb ha hc => ?_⟩
  · rw [hin ha, if_neg hb]
    exact congrArg _ (by cases op.checks run.td run.ta run.tb run.tc run.scla <;> rfl)
  · rw [hin ha, hc, if_pos hb]
    rfl

/-- A member that reads an image address (R174). -/
theorem tileMember_of_tileImage (hf : fetchSrcs [r] s = .ok [x] s₁) (h : exec i s = .next (tileImage op named d a r la s)) :
    let run := s₁.newRun op d a 0 0 x.toNat false
    (x.toNat % run.td.imageAlign = 0 → TileMember s s₁ i named run la) ∧
      (x.toNat % run.td.imageAlign ≠ 0 → (∀ t ∈ named, t.toNat < s.tileCount) → op.checks run.td run.ta run.tb run.tc run.scla = true →
        exec i s = .next (s₁.formatFaultAt 1 x.toNat)) := by
  obtain ⟨hgo, hbad⟩ := tileMember_of_guarded (fun hb => by rw [h, tileImage, withTiles_beyond hb]) fun ha => by
    rw [h, tileImage, withTiles_allotted ha, with1_of_fetch hf]
  exact ⟨fun hal => hgo (not_not_intro hal), hbad⟩

/-- A member that reads the address of a parameter block in the task's own window (R196). -/
theorem tileMember_of_tileParam (hf : fetchSrcs [r] s = .ok [x] s₁) (h : exec i s = .next (tileParam op named d a r la s)) {off : Nat}
    (hoff : paramOff (posCore s₁.cur) x.toNat = some off) : let run := s₁.newRun op d a 0 0 off false
    (off % 8 = 0 → TileMember s s₁ i named run la) ∧
      (off % 8 ≠ 0 → (∀ t ∈ named, t.toNat < s.tileCount) → op.checks run.td run.ta run.tb run.tc run.scla = true →
        exec i s = .next (s₁.formatFaultAt 1 x.toNat)) := by
  obtain ⟨hgo, hbad⟩ := tileMember_of_guarded (fun hb => by rw [h, tileParam, withTiles_beyond hb]) fun ha => by
    rw [h, tileParam, withTiles_allotted ha, with1_of_fetch hf, hoff]
  exact ⟨fun hal => hgo (not_not_intro hal), hbad⟩

theorem paramOff_of_classify {c S off : Nat} (h : classify c S = .scratch c off) (hle : off + 32 ≤ 0x300000) : paramOff c S = some off := by
  rw [paramOff, h]
  exact if_pos (by simp [hle])

theorem tileParam_outside (hf : fetchSrcs [r] s = .ok [x] s₁) (h : exec i s = .next (tileParam op named d a r la s))
    (hoff : paramOff (posCore s₁.cur) x.toNat = none) (ha : ∀ t ∈ named, t.toNat < s.tileCount) : exec i s = .next (s₁.formatFaultAt 0 x.toNat) := by
  rw [h, tileParam, withTiles_allotted ha, with1_of_fetch hf, hoff]

/-- A member that reads a scalar. -/
theorem tileMember_of_tileScalar {sat : Bool} (hf : fetchSrcs [r] s = .ok [x] s₁) (h : exec i s = .next (tileScalar op named d a r la sat s))
    (hn : s₁.tileCount = s.tileCount) : TileMember s s₁ i named (s₁.newRun op d a 0 0 x.toNat sat) la := by
  refine tileMember_of_exec (fun hb => by rw [h, tileScalar, withTiles_beyond hb]) fun ha => ?_
  rw [h, tileScalar, withTiles_allotted ha, with1_of_fetch hf, tileOp, withTiles_allotted (by rwa [hn])]

end

/-- Settles O36: each member's meaning is one of the three forms, by what its s field is. -/
theorem tileMembersWithOperandStart : Obligations.TileMembersWithOperandStart := by
  intro s s₁ d a r x n z hf image param scalar
  have hi {i named op a} (h : exec i s = .next (tileImage op named d a r n.toNat s)) : image i named op a := tileMember_of_tileImage hf h
  have hp {i named op a} (h : exec i s = .next (tileParam op named d a r n.toNat s)) : param i named op a :=
    ⟨fun _ hc hle => tileMember_of_tileParam hf h (paramOff_of_classify hc hle), tileParam_outside hf h⟩
  have hs {i named op a sat} (h : exec i s = .next (tileScalar op named d a r n.toNat sat s)) : scalar i named op a sat :=
    tileMember_of_tileScalar hf h
  exact ⟨hi rfl, hi rfl, hi rfl, hi rfl, hs rfl, hs rfl, hs rfl, hs rfl, hs rfl, hs rfl, hp rfl, hp rfl⟩

end Sys2Proof.Machine
end

section
/-! PROOF. What tile members accept (O37): the format classes of Table 6-1 and the shape rules as the statement names them, then the members. -/
namespace Sys2Proof.Machine

-- classes of formats, and shapes

theorem f4_iff (d : Desc) : d.f4 = true ↔ d.fmt ∈ [0, 1, 2, 3] := by simp [Desc.f4]; omega

theorem int3_iff (d : Desc) : d.int3 = true ↔ d.fmt ∈ [8, 9, 10] := by simp [Desc.int3]; omega

theorem f6_iff (d : Desc) : d.f6 = true ↔ d.fmt ∈ [0, 1, 2, 3, 4, 5] := by simp [Desc.f6]; omega

/-- The formats of a special function's result (Table 6-1). -/
theorem specialFormat_iff (f : Nat) : 1 ≤ f ∧ f ≤ 3 ↔ f ∈ [1, 2, 3] := by simp; omega

theorem conforms_iff (a d : Desc) : a.conforms d = true ↔ (a.rows = d.rows ∨ a.rows = 1) ∧ (a.cols = d.cols ∨ a.cols = 1) := by
  simp [Desc.conforms]

theorem sameShape_iff (a d : Desc) : a.sameShape d = true ↔ a.rows = d.rows ∧ a.cols = d.cols := by
  simp [Desc.sameShape, Desc.rows, Desc.cols]

-- the floating members, by their number of sources (Table 6-7)

theorem arity_float_two {k : Nat} (h : k ∈ [0, 1, 2, 4, 5, 6]) : (TileOp.float k).arity = 2 := by
  simp only [List.mem_cons, List.not_mem_nil, or_false] at h
  rcases h with rfl | rfl | rfl | rfl | rfl | rfl <;> rfl

theorem arity_float_one {k : Nat} (h : k ∈ [7, 8]) : (TileOp.float k).arity = 1 := by
  simp only [List.mem_cons, List.not_mem_nil, or_false] at h
  rcases h with rfl | rfl <;> rfl

theorem checks_float_iff (k : Nat) (d a b c : Desc) (scla : Nat) : (TileOp.float k).checks d a b c scla = true ↔
    d.f4 = true ∧ a.f4 = true ∧ a.conforms d = true ∧ (2 ≤ (TileOp.float k).arity → b.f4 = true ∧ b.conforms d = true) ∧
      (3 ≤ (TileOp.float k).arity → c.f4 = true ∧ c.conforms d = true) := by
  simp only [TileOp.checks, Bool.and_eq_true, Bool.or_eq_true, decide_eq_true_eq, ← Nat.not_le, ← imp_iff_not_or, and_assoc]

/-- Settles O37: the checks of each member, its classes and shapes read as the statement's. -/
theorem tileFormatsAndShapes : Obligations.TileFormatsAndShapes := by
  intro d a b c scla float int conforms same
  have hf (t : Desc) : t.f4 = true ↔ float t := f4_iff t
  have hi (t : Desc) : t.int3 = true ↔ int t := int3_iff t
  have hc (t : Desc) : t.conforms d = true ↔ conforms t := conforms_iff t d
  have hs (t : Desc) : t.sameShape d = true ↔ same t := sameShape_iff t d
  refine ⟨rfl, rfl, ?gath, ?scat, ?cpy, ?fill, ?trans, ?rot, ?two, ?three, ?one, ?special, ?int, ?scalar, ?cmp, ?sel, ?reduce, ?pack, ?unpack, ?rand,
    ?drop⟩
  case two =>
    intro k hk
    simp only [checks_float_iff, arity_float_two hk, hf, hc]
    exact ⟨fun ⟨hd, ha, hca, hb, _⟩ => ⟨hd, ha, (hb le_rfl).1, hca, (hb le_rfl).2⟩,
      fun ⟨hd, ha, hb, hca, hcb⟩ => ⟨hd, ha, hca, fun _ => ⟨hb, hcb⟩, fun h => absurd h (by decide)⟩⟩
  case three =>
    simp only [checks_float_iff, show (TileOp.float 3).arity = 3 from rfl, hf, hc]
    exact ⟨fun ⟨hd, ha, hca, hb, hcc⟩ => ⟨hd, ha, (hb (by decide)).1, (hcc le_rfl).1, hca, (hb (by decide)).2, (hcc le_rfl).2⟩,
      fun ⟨hd, ha, hb, hcf, hca, hcb, hcc⟩ => ⟨hd, ha, hca, fun _ => ⟨hb, hcb⟩, fun _ => ⟨hcf, hcc⟩⟩⟩
  case one =>
    intro k hk
    simp only [checks_float_iff, arity_float_one hk, hf, hc]
    exact ⟨fun ⟨hd, ha, hca, _⟩ => ⟨hd, ha, hca⟩,
      fun ⟨hd, ha, hca⟩ => ⟨hd, ha, hca, fun h => absurd h (by decide), fun h => absurd h (by decide)⟩⟩
  case special =>
    intro k
    simp only [TileOp.checks, Bool.and_eq_true, decide_eq_true_eq, specialFormat_iff, hf, hc, and_assoc]
  case cpy => simp only [TileOp.checks, Bool.and_eq_true, Bool.or_eq_true, bne_iff_ne, beq_iff_eq, hs, and_assoc, ne_eq, ← imp_iff_not_or]
  case rand => simp [TileOp.checks, or_comm]
  all_goals
    simp only [TileOp.checks, Bool.and_eq_true, Bool.or_eq_true, bne_iff_ne, beq_iff_eq, decide_eq_true_eq, hf, hi, hc, hs, f6_iff, List.mem_cons,
      List.not_mem_nil, or_false, and_assoc, implies_true]

end Sys2Proof.Machine
end

section
/-! PROOF. Tile instructions that stop (O39). A stop records the trap and TRES with the outstanding result, and the end of that result brings both to
the task; with no trap due, no boundary follows. -/
namespace Sys2Proof.Machine

-- the recorded traps

/-- A trap enters behind those of earlier results and before those of later ones (R86). -/
theorem insertTrap_split (x : PTrap) (ts : List PTrap) : ∃ l m, ts = l ++ m ∧ insertTrap x ts = l ++ [x] ++ m ∧ (∀ y ∈ l, y.id ≤ x.id) ∧
    ∀ y ∈ m.head?, x.id < y.id := by
  induction ts with
  | nil => exact ⟨[], [], rfl, rfl, by simp, by simp⟩
  | cons y r ih =>
    by_cases h : x.id < y.id
    · exact ⟨[], y :: r, rfl, if_pos h, by simp, by simpa using h⟩
    · obtain ⟨l, m, hr, hi, hl, hm⟩ := ih
      refine ⟨y :: l, m, by rw [hr]; rfl, (if_neg h).trans (by rw [hi]; rfl), ?_, hm⟩
      intro z hz
      rcases List.mem_cons.1 hz with rfl | hz
      · exact Nat.not_lt.1 h
      · exact hl z hz

theorem addDeferred_split (t : Task) (o : Outst) (tr : Trap) :
    ∃ l m, t.traps = l ++ m ∧ (o.resumed = true → l = []) ∧ (o.resumed = false → (∀ y ∈ l, y.id ≤ o.id) ∧ ∀ y ∈ m.head?, o.id < y.id) ∧
      (t.addDeferred o tr).traps = l ++ [{ trap := tr, due := false, id := o.id, inHandler := t.inTrap, pc := o.pc }] ++ m := by
  cases h : o.resumed with
  | true => exact ⟨[], t.traps, rfl, fun _ => rfl, fun h' => by simp at h', by rw [Task.addDeferred, h]; rfl⟩
  | false =>
    obtain ⟨l, m, ht, hi, hl, hm⟩ := insertTrap_split { trap := tr, due := false, id := o.id, inHandler := t.inTrap, pc := o.pc } t.traps
    refine ⟨l, m, ht, fun h' => by simp at h', fun _ => ⟨hl, hm⟩, ?_⟩
    rw [Task.addDeferred, h]
    exact hi

/-- No trap that is due, and none at PC: no boundary follows (R86). -/
theorem boundary_of_none_due {s : State} {p : Pos} (hd : ∀ x ∈ (s.task p).traps, x.due = false) (hp : (s.task p).precise = none) :
    s.boundary p = s := by
  have hn : (s.task p).nextTrap = none := by
    have ha : (s.task p).traps.any (·.due) = false := by simpa using hd
    unfold Task.nextTrap
    rw [ha, hp]
    split
    · rfl
    · split
      · exact List.find?_eq_none.2 fun x hx => by simp [hd x hx]
      · rfl
  simp [State.boundary, hn, hp]

-- the end of an outstanding result

/-- What noting events leaves of the task (R124). -/
theorem noteAt_keeps {γ : Type} (g : Task → γ) (h : ∀ t e, g (Task.note t e) = g t) (s : State) (p : Pos) (e : Events) :
    g ((s.noteAt p e).task p) = g (s.task p) := by
  unfold State.noteAt
  split
  · rfl
  · rw [State.task_modTask_self, h]

theorem slot_noteAt_of_ne (s : State) {p q : Pos} (e : Events) (h : q ≠ p) : (s.noteAt p e).slot q = s.slot q := by
  unfold State.noteAt
  split
  · rfl
  · exact s.task_modTask_of_ne _ h

theorem find?_modOutst (t : Task) (id : Nat) (f : Outst → Outst) (hf : ∀ o, (f o).id = o.id) :
    (t.modOutst id f).outst.find? (·.id == id) = (t.outst.find? (·.id == id)).map f := by
  simp only [Task.modOutst]
  induction t.outst with
  | nil => rfl
  | cons o r ih =>
    by_cases h : o.id = id
    · simp [h, hf]
    · simpa [h] using ih

/-- The task once its result `id` and that result's accesses have ended. -/
def Task.resultEnded (t : Task) (id now : Nat) : Task :=
  { t.modOutst id fun o => { o with doneAt := some now } with
    pend := t.pend.map fun (a : PendAcc) => if a.id = id && a.doneAt.isNone then { a with doneAt := some now } else a }

theorem resultEnded_keeps {γ : Type} (g : Task → γ) (hg : ∀ (t : Task) o p, g { t with outst := o, pend := p } = g t) (t : Task) (id now : Nat) :
    g (t.resultEnded id now) = g t := hg t _ _

/-- A result with a fault and a TRES writes no register; both reach the task (R85, R127, R165). -/
theorem finishLong_of_fault {s : State} {p : Pos} {id : Nat} {o : Outst} {tr : Trap} {v : Nat}
    (hf : (s.task p).outst.find? (·.id == id) = some o) (ht : o.fault = some tr) (hv : o.tres = some v) :
    s.finishLong p id = ((s.noteAt p o.events).modTask p fun t => ((t.resultEnded id s.cycle).setCr 5 v).addDeferred o tr).boundary p := by
  simp only [State.finishLong, hf, ht, hv, State.noteAt_cycle]
  rfl

theorem addDeferred_keeps {γ : Type} (g : Task → γ) (hg : ∀ (t : Task) ts, g { t with traps := ts } = g t) (t : Task) (o : Outst) (tr : Trap) :
    g (t.addDeferred o tr) = g t := hg t _

/-- What the end of a result with a fault and a TRES leaves, where no recorded trap is due. -/
theorem finishLong_of_fault_spec {s : State} {p : Pos} {id : Nat} {o : Outst} {tr : Trap} {v : Nat}
    (hf : (s.task p).outst.find? (·.id == id) = some o) (ht : o.fault = some tr) (hv : o.tres = some v)
    (hd : ∀ x ∈ (s.task p).traps, x.due = false) (hp : (s.task p).precise = none) : let t := s.finishLong p id
      t.mem = s.mem ∧ t.agenda = s.agenda ∧ (∀ q, q ≠ p → t.slot q = s.slot q) ∧ (t.task p).cr 5 = v % 2 ^ 64 ∧
      (t.task p).runs = (s.task p).runs ∧ (t.task p).pc = (s.task p).pc ∧
      ∃ l m, (s.task p).traps = l ++ m ∧ (o.resumed = true → l = []) ∧ (o.resumed = false → (∀ y ∈ l, y.id ≤ o.id) ∧ ∀ y ∈ m.head?, o.id < y.id) ∧
        (t.task p).traps = l ++ [{ trap := tr, due := false, id := o.id, inHandler := (s.task p).inTrap, pc := o.pc }] ++ m := by
  let x := (s.noteAt p o.events).task p
  let w := (x.resultEnded id s.cycle).setCr 5 v
  let u := (s.noteAt p o.events).modTask p fun t => ((t.resultEnded id s.cycle).setCr 5 v).addDeferred o tr
  have hu : u.task p = w.addDeferred o tr := State.task_modTask_self ..
  have hkeep {γ : Type} (g : Task → γ) (hcr : ∀ t c v, g (Task.setCr t c v) = g t)
      (he : ∀ (t : Task) o p, g { t with outst := o, pend := p } = g t) : g w = g (s.task p) :=
    (hcr _ 5 v).trans ((resultEnded_keeps g he x id s.cycle).trans (noteAt_keeps g (Task.note_keeps g hcr) s p o.events))
  have hcr0 : w.cr 0 = (s.task p).cr 0 := by
    rw [Task.cr_setCr, if_neg (by decide), resultEnded_keeps (·.cr 0) (fun _ _ _ => rfl)]
    exact noteAt_keeps (·.cr 0) (fun t e => t.cr_note_of_lt e (by decide)) s p o.events
  have htraps : w.traps = (s.task p).traps := hkeep (·.traps) (fun _ _ _ => rfl) fun _ _ _ => rfl
  obtain ⟨l, m, hlm, hl, ho, hall⟩ := addDeferred_split w o tr
  rw [htraps] at hlm
  rw [show w.inTrap = (s.task p).inTrap by rw [Task.inTrap, hcr0, Task.inTrap]] at hall
  have hb : u.boundary p = u := by
    refine boundary_of_none_due (fun y hy => ?_) ?_
    · rw [hu, hall] at hy
      simp only [List.mem_append, List.mem_singleton] at hy
      rcases hy with (hy | rfl) | hy
      · exact hd y (by rw [hlm]; exact List.mem_append_left _ hy)
      · rfl
      · exact hd y (by rw [hlm]; exact List.mem_append_right _ hy)
    · rw [hu, addDeferred_keeps (·.precise) fun _ _ => rfl]
      exact (hkeep (·.precise) (fun _ _ _ => rfl) fun _ _ _ => rfl).trans hp
  intro t
  have ht' : t = u := (finishLong_of_fault hf ht hv).trans hb
  rw [ht', hu]
  refine ⟨by simp [u], by simp [u], fun q hq => (State.task_modTask_of_ne _ _ hq).trans (slot_noteAt_of_ne s _ hq), ?_, ?_, ?_, l, m, hlm, hl, ho, hall⟩
  · rw [addDeferred_keeps (·.cr 5) fun _ _ => rfl, Task.cr_setCr, if_pos rfl]
  · exact (addDeferred_keeps (·.runs) (fun _ _ => rfl) w o tr).trans (hkeep (·.runs) (fun _ _ _ => rfl) fun _ _ _ => rfl)
  · exact (addDeferred_keeps (·.pc) (fun _ _ => rfl) w o tr).trans (hkeep (·.pc) (fun _ _ _ => rfl) fun _ _ _ => rfl)

-- the stop

theorem uncountRun_rest (s : State) (p : Pos) (r : TileRun) (k : Nat) : ∃ x, s.uncountRun p r k = { s with cores := x } := by
  simp only [State.uncountRun]
  split
  · split
    · exact ⟨s.cores, rfl⟩
    · exact ⟨_, rfl⟩
  · exact ⟨s.cores, rfl⟩

/-- The task without a run. -/
def Task.dropsRun (t : Task) (id : Nat) : Task := { t with runs := t.runs.filter fun x => x.id != id }

/-- A result with the trap of a stop, and with what TRES is to hold (R165). -/
def Outst.stopped (o : Outst) (tr : Trap) (tres : Nat) : Outst := { o with fault := some tr, tres := some tres }

/-- TRES after a stop at `done` (Table 6-3). -/
def TileRun.tres (r : TileRun) (done : Nat) : Nat := (decide (done < r.units)).toNat * 2 ^ 31 + done % 512

theorem tres_mod (r : TileRun) (done : Nat) : r.tres done % 2 ^ 64 = (if done < r.units then 2 ^ 31 else 0) + done % 512 := by
  rw [TileRun.tres]
  by_cases h : done < r.units
  · rw [decide_eq_true h, if_pos h, Bool.toNat_true]
    omega
  · rw [decide_eq_false h, if_neg h, Bool.toNat_false]
    omega

/-- A stop, up to the end of the result. -/
theorem endRun_stop (s : State) (p : Pos) (r : TileRun) (tr : Trap) (done : Nat) : ∃ u : State,
    s.endRun p r (some (tr, done)) = u.finishLong p r.id ∧ u.mem = s.mem ∧ u.agenda = s.agenda ∧ (∀ q, q ≠ p → u.slot q = s.slot q) ∧
      u.task p = ((s.task p).dropsRun r.id).modOutst r.id (·.stopped tr (r.tres done)) := by
  obtain ⟨x, hx⟩ := uncountRun_rest (s.modTask p (·.dropsRun r.id)) p r done
  refine ⟨((s.modTask p (·.dropsRun r.id)).uncountRun p r done).modTask p (·.modOutst r.id (·.stopped tr (r.tres done))), rfl, ?_, ?_, fun q hq => ?_, ?_⟩
  · rw [hx]; rfl
  · rw [hx]; rfl
  · rw [State.task_modTask_of_ne _ _ hq, hx]
    exact State.task_modTask_of_ne s (·.dropsRun r.id) hq
  · rw [State.task_modTask_self, hx]
    exact congrArg (Task.modOutst · r.id _) (s.task_modTask_self p (·.dropsRun r.id))

/-- Settles O39: `endRun_stop` up to the end of the result, and `finishLong_of_fault_spec` from there. -/
theorem stoppedTileRecordsProgress : Obligations.StoppedTileRecordsProgress := by
  intro s p r cause done o _ ho _ hd hp
  obtain ⟨u, he, hmem, hag, hslots, ht⟩ := endRun_stop s p r (r.trap cause) done
  have hid : o.id = r.id := by simpa using List.find?_some ho
  have hf : (u.task p).outst.find? (·.id == r.id) = some (o.stopped (r.trap cause) (r.tres done)) := by
    rw [ht, find?_modOutst _ _ (·.stopped _ _) fun _ => rfl]
    exact congrArg (Option.map _) ho
  obtain ⟨hmem', hag', hslots', hcr, hruns, hpc, l, m, hlm, hl, hord, hall⟩ :=
    finishLong_of_fault_spec hf rfl rfl (by rw [ht]; exact hd) (by rw [ht]; exact hp)
  rw [show (o.stopped (r.trap cause) (r.tres done)).id = r.id from hid] at hord hall
  rw [ht] at hlm hruns hpc hall
  exact ⟨_, he, hmem'.trans hmem, hag'.trans hag, hcr.trans (tres_mod r done), ⟨l, m, hlm, hl, hord, hall⟩, hruns, hpc,
    fun q hq => (hslots' q hq).trans (hslots q hq)⟩

end Sys2Proof.Machine
end

section
/-! PROOF. Class P members (O40): a command's entry into its slot's queue, then the checks that come before it. -/
namespace Sys2Proof.Machine

-- entry

theorem kickPartner_rest (s : State) (c : Nat) : ∃ x a, s.kickPartner c = { s with cores := x, agenda := a } := by
  unfold State.kickPartner
  split
  · exact ⟨s.cores, s.agenda, rfl⟩
  · exact ⟨_, _, rfl⟩

/-- The slot with one more command in its queue, with the completion reserved for it if it gives one, and its task's accesses (R202, R206, R240). -/
def Slot.withCommand (x : Slot) (m : MCmd) (completes : Bool) (pend : List PendAcc) : Slot :=
  { x with
    cmds := x.cmds ++ [m]
    compsRes := x.compsRes + completes.toNat
    task := { x.task with pend := pend } }

/-- The accesses of a task that a command stands for (R240). -/
def commandAccesses (m : MCmd) (c space : Nat) : List PendAcc :=
  [{ id := m.id, write := false, ranges := (m.ranges c space).1, ackOnly := false, partner := true },
   { id := m.id, write := true, ranges := (m.ranges c space).2, ackOnly := false, partner := true }]

theorem enterCommand_eq (s : State) (w : Nat) (completes : Bool) : s.enterCommand s.cur w false completes =
    (s.fresh.2.modSlot s.cur fun x => x.withCommand (captureCommand s.my w false s.nextId) completes
      (x.task.pend ++ commandAccesses (captureCommand s.my w false s.nextId) (posCore s.cur) s.my.space)).kickPartner (posCore s.cur) := rfl

theorem enterCommand_spec (s : State) (w : Nat) (completes : Bool) : let u := s.enterCommand s.cur w false completes
    u.cur = s.cur ∧ u.mem = s.mem ∧ (∀ q, q ≠ s.cur → u.slot q = s.slot q) ∧
      ∃ pend, u.slot s.cur = s.mySlot.withCommand (captureCommand s.my w false s.nextId) completes pend := by
  intro u
  let f (x : Slot) : Slot := x.withCommand (captureCommand s.my w false s.nextId) completes
    (x.task.pend ++ commandAccesses (captureCommand s.my w false s.nextId) (posCore s.cur) s.my.space)
  obtain ⟨x, a, hk⟩ := kickPartner_rest (s.fresh.2.modSlot s.cur f) (posCore s.cur)
  have hu : u = { s.fresh.2.modSlot s.cur f with cores := x, agenda := a } := (enterCommand_eq s w completes).trans hk
  have hslots (q : Pos) : u.slot q = if q = s.cur then f s.mySlot else s.slot q := by
    rw [hu]
    exact State.slot_modSlot s.fresh.2 s.cur q f
  exact ⟨by rw [hu]; rfl, by rw [hu]; rfl, fun q hq => (hslots q).trans (if_neg hq), _, (hslots s.cur).trans (if_pos rfl)⟩

/-- A command of a class P instruction enters; MMAJ (`op` 3) counts in its joint group (R228, R236). -/
def State.takeCommand (s : State) (op w : Nat) : State :=
  let u := s.enterCommand s.cur w false (op == 3)
  if op = 3 then u.setMy fun t => { t with joint := t.joint + 1 } else u

theorem takeCommand_spec (s : State) (op w : Nat) : let u := s.takeCommand op w
    u.cur = s.cur ∧ u.mem = s.mem ∧ (∀ q, q ≠ s.cur → u.slot q = s.slot q) ∧
      (u.slot s.cur).cmds = s.mySlot.cmds ++ [captureCommand s.my w false s.nextId] ∧
      (u.slot s.cur).compsRes = s.mySlot.compsRes + (if op = 3 then 1 else 0) ∧
      ∃ pend, u.my = { s.my with pend := pend, joint := s.my.joint + (if op = 3 then 1 else 0) } := by
  obtain ⟨hcur, hmem, hslots, pend, hslot⟩ := enterCommand_spec s w (op == 3)
  have hmy : (s.enterCommand s.cur w false (op == 3)).my = { s.my with pend := pend } := by
    rw [State.my, State.task, hcur, hslot]
    rfl
  rw [State.takeCommand]
  by_cases h : op = 3
  · simp only [if_pos h]
    have hone := onlyMySlot_setMy (s.enterCommand s.cur w false (op == 3)) fun t => { t with joint := t.joint + 1 }
    have hfield {γ : Type} (g : Slot → γ) (hg : ∀ (x : Slot) t, g { x with task := t } = g x) :
        g (((s.enterCommand s.cur w false (op == 3)).setMy fun t => { t with joint := t.joint + 1 }).slot s.cur) =
          g (s.mySlot.withCommand (captureCommand s.my w false s.nextId) (op == 3) pend) := by
      rw [State.setMy, hcur, State.modTask, State.slot_modSlot_self, hg, hslot]
    refine ⟨hcur, hmem, fun q hq => (hone.2 q (by rwa [hcur])).trans (hslots q hq), hfield (·.cmds) fun _ _ => rfl,
      (hfield (·.compsRes) fun _ _ => rfl).trans ?_, pend, by rw [State.my_setMy, hmy]⟩
    rw [h]
    rfl
  · simp only [if_neg h]
    refine ⟨hcur, hmem, hslots, by rw [hslot]; rfl, ?_, pend, hmy⟩
    rw [hslot, beq_false_of_ne h]
    rfl

/-- A class P instruction whose command enters goes on (R234). -/
theorem takeCommand_advance_spec (s : State) (op w : Nat) : let t := (s.takeCommand op w).advance
    GoesOn s t (s.my.pc + 4) ∧ t.mem = s.mem ∧ (∀ r, t.my.sreg r = s.my.sreg r) ∧ t.my.tiles = s.my.tiles ∧ t.my.accs = s.my.accs ∧
      (∀ q, q ≠ s.cur → t.slot q = s.slot q) ∧ (t.slot s.cur).cmds = s.mySlot.cmds ++ [captureCommand s.my w false s.nextId] ∧
      t.my.joint = s.my.joint + (if op = 3 then 1 else 0) ∧ (t.slot s.cur).compsRes = s.mySlot.compsRes + (if op = 3 then 1 else 0) := by
  obtain ⟨hcur, hmem, hslots, hcmds, hres, pend, hmy⟩ := takeCommand_spec s op w
  generalize s.takeCommand op w = v at hcur hmem hslots hcmds hres hmy
  have hkeep {γ : Type} (g : Task → γ) (hcr : ∀ t c v, g (Task.setCr t c v) = g t)
      (hg : ∀ (t : Task) pc resume tileFrom kept waited outst,
        g { t with pc := pc, resume := resume, tileFrom := tileFrom, kept := kept, waited := waited, outst := outst } = g t) :
      g v.advance.my = g { s.my with pend := pend, joint := s.my.joint + (if op = 3 then 1 else 0) } :=
    (advance_my_keeps g hcr hg v).trans (congrArg g hmy)
  have hgo := goesOn_advance v
  simp only [hmy] at hgo
  refine ⟨hgo.congr (by rw [hmy]), (State.advance_mem v).trans hmem, fun r => (sreg_advance v r).trans (by rw [hmy]; rfl), ?_, ?_, fun q hq => ?_,
    ?_, ?_, ?_⟩
  · exact hkeep (·.tiles) (fun _ _ _ => rfl) fun _ _ _ _ _ _ _ => rfl
  · exact hkeep (·.accs) (fun _ _ _ => rfl) fun _ _ _ _ _ _ _ => rfl
  · exact (State.goTo_slot_of_ne v _ (by rwa [hcur])).trans (hslots q hq)
  · exact (State.goTo_slot_keeps (·.cmds) (fun _ _ => rfl) v _ _).trans hcmds
  · exact hkeep (·.joint) (fun _ _ _ => rfl) fun _ _ _ _ _ _ _ => rfl
  · exact (State.goTo_slot_keeps (·.compsRes) (fun _ _ => rfl) v _ _).trans hres

-- the checks

section
variable {s : State} {op acc ta tb : Nat}

theorem enterMatrix_beyond (h : s.my.nAccs ≤ acc) : enterMatrix op acc ta tb s = s.formatFault 0 := if_pos h

/-- The poison trap of an accumulator (R217, R234). -/
theorem enterMatrix_struck (h : acc < s.my.nAccs) (hs : (s.my.acc acc).pois = true ∧ op ∉ [2, 4, 5]) :
    enterMatrix op acc ta tb s = s.trapUnissued (accTrap acc) := by
  simp only [List.mem_cons, List.not_mem_nil, or_false, not_or] at hs
  obtain ⟨hp, h₂, h₄, h₅⟩ := hs
  simp [enterMatrix, Nat.not_le.2 h, hp, h₂, h₄, h₅]

/-- What follows once the accumulator is allotted and not struck, for the command as it would be captured (R202, R234, R244). -/
theorem enterMatrix_unstruck (h : acc < s.my.nAccs) (hs : ¬((s.my.acc acc).pois = true ∧ op ∉ [2, 4, 5])) :
    let m := captureCommand s.my (op + 16 * acc + 256 * ta + 4096 * tb) false s.nextId
    let rd := (m.ranges (posCore s.cur) s.my.space).1
    let wr := (m.ranges (posCore s.cur) s.my.space).2
    let earlier := { s.my with pend := s.my.pend.filter fun a => !a.partner }
    enterMatrix op acc ta tb s = if !m.passes (posCore s.cur) s.matrixTiles s.my.nAccs then s.formatFault 0
      else if earlier.mustWait s.cycle false rd || earlier.mustWait s.cycle true wr then s.waitTurn
      else if !s.mySlot.commandRoom (op == 3) then s.park s.cur .matrixFull
      else (s.takeCommand op m.word).advance := by
  have hp : ((s.my.acc acc).pois && decide (op ≠ 2) && decide (op ≠ 4) && decide (op ≠ 5)) ≠ true := by
    simpa [and_assoc] using hs
  rw [enterMatrix]
  simp only [if_neg (Nat.not_le.2 h), if_neg hp]
  rfl

end

theorem commandRoom_iff (x : Slot) (op : Nat) : x.commandRoom (op == 3) = true ↔
    x.cmds.length < 8 ∧ (op = 3 → x.comps.length + x.compsRes < 8) := by
  simp [Slot.commandRoom, ← imp_iff_not_or]

theorem not_commandRoom_iff (x : Slot) (op : Nat) : x.commandRoom (op == 3) = false ↔
    8 ≤ x.cmds.length ∨ op = 3 ∧ 8 ≤ x.comps.length + x.compsRes := by
  rw [← Bool.not_eq_true, commandRoom_iff, not_and_or, Classical.not_imp, Nat.not_lt, Nat.not_lt]

/-- Settles O40: the checks in their order, then the queue: full, or with room for the command. -/
theorem matrixInstructionsEnterCommands : Obligations.MatrixInstructionsEnterCommands := by
  intro s c a b holds
  have key {i op ta tb} (hi : exec i s = .next (enterMatrix op c.toNat ta tb s)) : holds i op ta tb := by
    let m := captureCommand s.my (op + 16 * c.toNat + 256 * ta + 4096 * tb) false s.nextId
    refine ⟨fun h => by rw [hi, enterMatrix_beyond h], fun h hs => by rw [hi, enterMatrix_struck h hs]; rfl, fun h hs hp => ?_, fun h hs hp hw => ?_⟩
    · rw [hi, enterMatrix_unstruck h hs, if_pos (by rw [Bool.not_eq_true']; exact hp)]
    · have hgo : exec i s = .next (if !s.mySlot.commandRoom (op == 3) then s.park s.cur .matrixFull else (s.takeCommand op m.word).advance) := by
        rw [hi, enterMatrix_unstruck h hs, if_neg (by rw [Bool.not_eq_true']; exact ne_false_of_eq_true hp), if_neg]
        rw [Bool.or_eq_true, not_or, Bool.not_eq_true, Bool.not_eq_true]
        exact ⟨hw false, hw true⟩
      refine ⟨fun hfull => ⟨_, ?_, parksFor_park s _⟩, fun hlen hcomp => ⟨_, ?_, takeCommand_advance_spec s op m.word⟩⟩
      · rw [hgo, (not_commandRoom_iff ..).2 hfull]
        rfl
      · rw [hgo, (commandRoom_iff ..).2 ⟨hlen, hcomp⟩]
        rfl
  refine ⟨key rfl, key rfl, key rfl, fun hj => ?_, fun hj => key ?_, key rfl, key rfl, key rfl, key rfl⟩
  · rw [exec_mmaj, execMmaj, hj]
    rfl
  · rw [exec_mmaj, execMmaj, hj]
    rfl

end Sys2Proof.Machine
end

section
/-! PROOF. Accumulators (O42): a group's step on one row of the area, then the rows one after the other. -/
namespace Sys2Proof.Machine

theorem elem_basePoint (ac : Accum) (i j : Nat) : ac.basePoint.elem i j = 0 := by
  show (List.replicate 128 0).getD j 0 = 0
  rw [List.getD_eq_getElem?_getD, List.getElem?_replicate]
  split <;> rfl

/-- What a group leaves of one row: the row's columns of the area each take one step, the others stay (R212). -/
def groupRow (old : List Nat) (sums : List Val) : List Nat :=
  ((List.range sums.length).map fun j => accumulate (old.getD j 0) (sums.getD j (.zero false))).map (·.1) ++ old.drop sums.length

theorem getD_groupRow (old : List Nat) (sums : List Val) (j : Nat) : (groupRow old sums).getD j 0 =
    if j < sums.length then (accumulate (old.getD j 0) (sums.getD j (.zero false))).1 else old.getD j 0 := by
  rw [groupRow, List.getD_eq_getElem?_getD, List.getElem?_append]
  simp only [List.length_map, List.length_range]
  split
  case isTrue h => simp [h]
  case isFalse h => rw [List.getElem?_drop, Nat.add_sub_cancel' (Nat.not_lt.1 h), List.getD_eq_getElem?_getD]

/-- The rows after a fold that puts one row after the other, each from what stood there before. -/
theorem row_foldl_range {γ : Type} (f : Accum × γ → Nat → Accum × γ) (g : Nat → List Nat → List Nat)
    (hf : ∀ x i, (f x i).1.rows = x.1.rows.put i (g i (x.1.row i))) (x : Accum × γ) (n i : Nat) :
    ((List.range n).foldl f x).1.row i = if i < n then g i (x.1.row i) else x.1.row i := by
  induction n generalizing i with
  | zero => rfl
  | succ n ih =>
    have hstep (y : Accum × γ) : (f y n).1.row i = if i = n then g n (y.1.row n) else y.1.row i := by
      rw [Accum.row, hf, Tbl.get_put]
      rfl
    rw [List.range_succ, List.foldl_append, List.foldl_cons, List.foldl_nil, hstep]
    by_cases h : i = n
    · subst h
      rw [if_pos rfl, ih, if_neg (lt_irrefl _), if_pos i.lt_succ_self]
    · rw [if_neg h, ih]
      exact if_congr (by omega) rfl rfl

theorem row_group (ac : Accum) (a b : List (List Val)) (i : Nat) : (ac.group a b).1.row i =
    if i < a.length then groupRow (ac.row i) (b.map fun c => groupSum (a.getD i []) c) else ac.row i := by
  unfold Accum.group
  refine (row_foldl_range _ (fun i old => groupRow old ((a.map fun r => b.map fun c => groupSum r c).getD i []))
    (fun _ _ => rfl) (ac, []) _ i).trans ?_
  rw [List.length_map]
  split
  case isTrue h => simp [h]
  case isFalse => rfl

/-- Settles O42: `row_group` says what a group leaves of each row, `getD_groupRow` what that is at each column. -/
theorem accumulatorSteps : Obligations.AccumulatorSteps := by
  refine ⟨fun ac a b i j => ⟨fun hi hj => ?_, fun h => ?_⟩, fun ac i j => ⟨elem_basePoint ac i j, rfl, rfl, rfl⟩⟩
  · rw [Accum.elem, row_group, if_pos hi, getD_groupRow, List.length_map, if_pos hj]
    simp [accumulate, groupSum, Accum.elem, hj]
  · rw [Accum.elem, row_group]
    split
    case isTrue =>
      rw [getD_groupRow, List.length_map, if_neg (by omega)]
      rfl
    case isFalse => rfl

end Sys2Proof.Machine
end

section
/-! PROOF. The synchronous members (O41): what leaving a joint group leaves of the state, then each member by what it waits for. -/
namespace Sys2Proof.Machine

theorem foldl_kickPartner_rest (l : List Tk) (s : State) :
    ∃ x a, l.foldl (fun s t => s.kickPartner (posCore t.pos)) s = { s with cores := x, agenda := a } := by
  induction l generalizing s with
  | nil => exact ⟨s.cores, s.agenda, rfl⟩
  | cons t l ih =>
    obtain ⟨x, a, hk⟩ := kickPartner_rest s (posCore t.pos)
    obtain ⟨y, b, hl⟩ := ih (s.kickPartner (posCore t.pos))
    exact ⟨y, b, by rw [List.foldl_cons, hl, hk]⟩

/-- Leaving a joint group (R232): the task is no member; beside that only the groups, the partners and the agenda change. -/
theorem leaveJoint_rest (s : State) (p : Pos) : ∃ x a j, s.leaveJoint p =
    { s.modTask p fun t => { t with jointIn := false } with cores := x, agenda := a, joints := j } := by
  unfold State.leaveJoint
  dsimp only
  split
  · exact ⟨_, _, _, rfl⟩
  · split
    · exact ⟨_, _, _, rfl⟩
    · split
      · obtain ⟨x, a, h⟩ := foldl_kickPartner_rest _ _
        exact ⟨x, a, _, h⟩
      · exact ⟨_, _, _, rfl⟩

theorem leaveJoint_keeps {γ : Type} (g : State → γ) (hg : ∀ (s : State) w x a j, g { s with slots := w, cores := x, agenda := a, joints := j } = g s)
    (s : State) (p : Pos) : g (s.leaveJoint p) = g s := by
  obtain ⟨x, a, j, h⟩ := leaveJoint_rest s p
  rw [h]
  exact hg s _ x a j

@[simp] theorem leaveJoint_cur (s : State) (p : Pos) : (s.leaveJoint p).cur = s.cur := leaveJoint_keeps (·.cur) (fun _ _ _ _ _ => rfl) s p

@[simp] theorem leaveJoint_nextId (s : State) (p : Pos) : (s.leaveJoint p).nextId = s.nextId := leaveJoint_keeps (·.nextId) (fun _ _ _ _ _ => rfl) s p

@[simp] theorem leaveJoint_mem (s : State) (p : Pos) : (s.leaveJoint p).mem = s.mem := leaveJoint_keeps (·.mem) (fun _ _ _ _ _ => rfl) s p

theorem slot_leaveJoint (s : State) (p q : Pos) : (s.leaveJoint p).slot q = (s.modTask p fun t => { t with jointIn := false }).slot q := by
  obtain ⟨x, a, j, h⟩ := leaveJoint_rest s p
  rw [h]
  rfl

/-- A change of a slot that keeps its serial keeps the names of the tasks. -/
theorem tk_modSlot (s : State) (p q : Pos) {f : Slot → Slot} (hf : ∀ x, (f x).serial = x.serial) : (s.modSlot p f).tk q = s.tk q := by
  rw [State.tk, State.slot_modSlot]
  split
  case isTrue h => rw [hf, h, State.tk]
  case isFalse => rfl

/-- An event on the agenda beside what a slot waits for. -/
theorem ParksFor.post {s t : State} {w : Wait} (h : ParksFor s t w) (due tie : Nat) (ev : Instr) (m : Msg) :
    ParksFor s (t.post due tie ev m) w := h

theorem block_parks_due (s : State) (due : Nat) (f : Finish) : ParksFor s (s.block due f) (.blocking s.nextId) ∧
    Due (s.block due f) due .classBCompletion (.classBCompletion (s.tk s.cur) s.nextId f) := by
  obtain ⟨hp, hd, -⟩ := block_spec s due f
  exact ⟨hp, hd⟩

theorem due_post (s : State) (due tie : Nat) (ev : Instr) (m : Msg) : Due (s.post due tie ev m) due ev m :=
  ⟨_, (State.mem_post ..).2 (.inl rfl), rfl, rfl, rfl⟩

/-- MSTAT of an allotted accumulator (R238). -/
theorem mstat_spec {s : State} {c : TReg} (d : Reg) (h : c.toNat < s.my.nAccs) : ∃ t, exec (.mstat c d) s = .next t ∧
    ParksFor s t (.blocking s.nextId) ∧ Due t (s.cycle + 24) .classBCompletion (.mstat (s.tk s.cur) s.nextId c.toNat d) := by
  have htk : s.blockOpen.2.tk s.blockOpen.2.cur = s.tk s.cur := tk_modSlot s.fresh.2 s.cur s.cur fun _ => rfl
  refine ⟨s.blockOpen.2.postAt (s.cycle + 24) s.cur .classBCompletion (.mstat (s.tk s.cur) s.nextId c.toNat d), ?_, parksFor_park s.fresh.2 _,
    due_postAt ..⟩
  rw [exec_mstat, execMstat, if_neg (Nat.not_le.2 h), ← htk]
  rfl

/-- MWAIT of an allotted accumulator (R238). -/
theorem exec_mwait_of_allotted {s : State} {c : TReg} (h : c.toNat < s.my.nAccs) : exec (.mwait c) s =
    .next (if s.commandPending s.cur c.toNat s.nextId then s.park s.cur (.matrixWait c.toNat s.nextId)
      else s.block (s.cycle + 4) { Finish.plain with fault := if (s.my.acc c.toNat).pois then some (accTrap c.toNat) else none }) := by
  rw [exec_mwait, execMwait, if_neg (Nat.not_le.2 h)]

/-- MJOIN of a task that is in no joint group, once its tag is read (R238, R239). -/
theorem exec_mjoin_of_fetch {s s₁ : State} {r : Reg} {x : Word} (hl : s.isLight s.cur = false) (hj : s.my.jointIn = false)
    (hf : fetchSrcs [r] s = .ok [x] s₁) : exec (.mjoin r) s = .next (if x.toNat / 256 ≠ 0 then s₁.formatFault 0
      else (s₁.park s₁.cur (.join x.toNat)).post s₁.cycle (tieAt (posCore s₁.cur) s₁.cur) .jointGroupForm
        (.jointForm (quadNo (posCore s₁.cur)))) := by
  rw [exec_mjoin, execMjoin, hl, hj, with1_of_fetch hf]
  rfl

/-- MLEAVE of a member none of whose MMAJ commands is pending (R238). -/
theorem mleave_spec {s : State} (hj : s.my.jointIn = true) (hc : s.commandPending s.cur 16 s.nextId = false) :
    ∃ t, exec .mleave s = .next t ∧ (t.slot s.cur).st = .parked ∧ t.my = { s.my with jointIn := false, wait := some (.blocking s.nextId) } ∧
      t.mem = s.mem ∧ (∀ q, q ≠ s.cur → t.slot q = s.slot q) ∧
      Due t (s.cycle + 4) .classBCompletion (.classBCompletion (s.tk s.cur) s.nextId Finish.plain) := by
  have he : exec .mleave s = .next ((s.leaveJoint s.cur).block (s.cycle + 4) Finish.plain) := by
    rw [exec_mleave, execMleave, hj, hc]
    rfl
  have htk : (s.leaveJoint s.cur).tk s.cur = s.tk s.cur := by
    rw [State.tk, slot_leaveJoint]
    exact tk_modSlot s _ _ fun _ => rfl
  have hmy : (s.leaveJoint s.cur).my = { s.my with jointIn := false } := by
    rw [State.my, State.task, leaveJoint_cur, slot_leaveJoint]
    exact s.my_setMy _
  obtain ⟨⟨-, hst, ht, hmem, -, hslots⟩, hdue⟩ := block_parks_due (s.leaveJoint s.cur) (s.cycle + 4) Finish.plain
  simp only [leaveJoint_cur, leaveJoint_nextId, leaveJoint_mem, htk, hmy] at hst ht hmem hslots hdue
  exact ⟨_, he, hst, ht, hmem, fun q hq => (hslots q hq).trans ((slot_leaveJoint ..).trans (s.task_modTask_of_ne _ hq)), hdue⟩

/-- Settles O41: what each member is past its checks, by the lemmas above, and the checks. -/
theorem matrixSynchronousMembers : Obligations.MatrixSynchronousMembers := by
  refine ⟨fun s c d => ⟨fun h => ⟨?_, ?_⟩, fun h => ⟨mstat_spec d h, fun hc => ?_, fun hc => ?_⟩⟩, fun s s₁ r x => ⟨fun hl => ?_, fun hl hj => ?_,
    fun hl hj hf => ⟨fun hx => ?_, fun hx => ?_⟩⟩, fun s => ⟨fun hj => ?_, fun hj hc => ?_, mleave_spec⟩⟩
  · rw [exec_mstat, execMstat, if_pos h]
  · rw [exec_mwait, execMwait, if_pos h]
  · rw [exec_mwait_of_allotted h, if_pos hc]
    exact ⟨_, rfl, parksFor_park s _⟩
  · rw [exec_mwait_of_allotted h, hc]
    exact ⟨_, rfl, block_parks_due ..⟩
  · rw [exec_mjoin, execMjoin, if_pos hl]
  · rw [exec_mjoin, execMjoin, hl, hj]
    rfl
  · rw [exec_mjoin_of_fetch hl hj hf, if_pos (by omega)]
  · rw [exec_mjoin_of_fetch hl hj hf, if_neg (by omega)]
    exact ⟨_, rfl, (parksFor_park s₁ _).post .., due_post ..⟩
  · rw [exec_mleave, execMleave, hj]
    rfl
  · rw [exec_mleave, execMleave, hj, hc]
    exact ⟨_, rfl, parksFor_park s _⟩

end Sys2Proof.Machine
end

section
/-! PROOF. The end of a command whose task stands ready in its slot, and of a block of its operation (O43). -/
namespace Sys2Proof.Machine

-- a task that stands ready in its slot

/-- The task `t` is in its slot, which is ready. -/
structure ReadyAt (s : State) (t : Tk) : Prop where
  serial : (s.slot t.pos).serial = t.serial
  st : (s.slot t.pos).st = .ready

theorem ReadyAt.isAt {s : State} {t : Tk} (h : ReadyAt s t) : s.isAt t = true := isAt_of_ready h.serial h.st

theorem readyAt_of_isAt {s : State} {t : Tk} (h : s.isAt t = true) (hst : (s.slot t.pos).st = .ready) : ReadyAt s t := by
  rw [State.isAt, Bool.and_eq_true, beq_iff_eq] at h
  exact ⟨h.1, hst⟩

theorem ReadyAt.modSlot {s : State} {t : Tk} (h : ReadyAt s t) {f : Slot → Slot} (hf : ∀ x, (f x).serial = x.serial ∧ (f x).st = x.st) :
    ReadyAt (s.modSlot t.pos f) t := by
  obtain ⟨hser, hst⟩ := hf (s.slot t.pos)
  exact ⟨by rw [State.slot_modSlot_self, hser, h.serial], by rw [State.slot_modSlot_self, hst, h.st]⟩

theorem ReadyAt.modTask {s : State} {t : Tk} (h : ReadyAt s t) (f : Task → Task) : ReadyAt (s.modTask t.pos f) t :=
  h.modSlot fun _ => ⟨rfl, rfl⟩

theorem ReadyAt.congr {s u : State} {t : Tk} (h : ReadyAt s t) (e : u.slots = s.slots) : ReadyAt u t :=
  ⟨by rw [State.slot, e]; exact h.serial, by rw [State.slot, e]; exact h.st⟩

theorem ReadyAt.noteAt {s : State} {t : Tk} (h : ReadyAt s t) (e : Events) : ReadyAt (s.noteAt t.pos e) t := by
  unfold State.noteAt
  split
  · exact h
  · exact h.modTask _

theorem ReadyAt.onTask {s : State} {t : Tk} (h : ReadyAt s t) (f : Task → Task) : s.onTask t f = s.modTask t.pos f := if_pos h.isAt

theorem ReadyAt.findTask {s : State} {t : Tk} (h : ReadyAt s t) : s.findTask t = some (s.task t.pos) := if_pos h.isAt

theorem wake_of_ready {s : State} {p : Pos} (h : (s.slot p).st = .ready) (w : Wait) : s.wake p w = s := by simp [State.wake, h]

theorem wakeMatrix_of_ready {s : State} {p : Pos} (h : (s.slot p).st = .ready) : s.wakeMatrix p = s := by simp [State.wakeMatrix, h]

-- the end of a command

/-- Only slots differ; the task still stands ready, and of its accumulator `k` only the last status and member may differ. -/
structure SameButStatus (s u : State) (t : Tk) (k : Nat) : Prop where
  mem : u.mem = s.mem
  cores : u.cores = s.cores
  ready : ReadyAt u t
  acc : ∃ st op, (u.task t.pos).acc k = { (s.task t.pos).acc k with lastSt := st, lastOp := op }

theorem SameButStatus.trans {s u v : State} {t : Tk} {k : Nat} (h : SameButStatus s u t k) (g : SameButStatus u v t k) : SameButStatus s v t k := by
  obtain ⟨a, b, ha⟩ := h.acc
  obtain ⟨c, d, hc⟩ := g.acc
  exact ⟨g.mem.trans h.mem, g.cores.trans h.cores, g.ready, c, d, by rw [hc, ha]⟩

theorem sameButStatus_modSlot {s : State} {t : Tk} {k : Nat} (h : ReadyAt s t) {f : Slot → Slot} (hf : ∀ x, (f x).serial = x.serial ∧ (f x).st = x.st)
    (hacc : ∀ x, ∃ st op, (f x).task.acc k = { x.task.acc k with lastSt := st, lastOp := op }) : SameButStatus s (s.modSlot t.pos f) t k := by
  refine ⟨rfl, rfl, h.modSlot hf, ?_⟩
  rw [State.task, State.slot_modSlot_self]
  exact hacc _

@[simp] theorem acc_modAcc (x : Task) (k : Nat) (f : Accum → Accum) : (x.modAcc k f).acc k = f (x.acc k) := Tbl.get_upd_self ..

/-- The status of a command enters its accumulator, where its task has it (Table 7-7). -/
def State.recordsStatus (s : State) (t : Tk) (m : MCmd) (status : Nat) : State :=
  if ((s.findTask t).map (·.nAccs)).getD 0 ≤ m.acc then s else s.modAcc t m.acc fun a => { a with lastSt := status, lastOp := m.op }

theorem recordsStatus_of_ready {s u : State} {t : Tk} {m : MCmd} (h : SameButStatus s u t m.acc) (status : Nat) :
    SameButStatus s (u.recordsStatus t m status) t m.acc := by
  rw [State.recordsStatus]
  split
  · exact h
  · rw [State.modAcc, h.ready.onTask]
    exact h.trans (sameButStatus_modSlot h.ready (fun _ => ⟨rfl, rfl⟩) fun _ => ⟨_, _, acc_modAcc ..⟩)

/-- A completion word enters in the place reserved for it (R206). -/
def Slot.takesCompletion (w : Word) (x : Slot) : Slot := { x with comps := x.comps ++ [w], compsRes := x.compsRes - 1 }

theorem completeCommand_eq_of_ready {s : State} {t : Tk} (h : ReadyAt s t) (m : MCmd) (status : Nat) :
    let u := (s.modTask t.pos (Task.pendEnded m.id s.cycle)).recordsStatus t m status
    let w := completionWord u.cycle (if m.pushed then bits m.word 24 8 else m.joint) status m.acc m.op
    s.completeCommand t m status =
      (if m.pushed || m.op = 3 then (u.modSlot t.pos (Slot.takesCompletion w)).wake t.pos (.pop 4) else u).wakeMatrix t.pos := by
  rw [State.completeCommand, pendDone_of_ready m.id h.serial h.st]
  rfl

/-- The completion of a command of a task that stands ready: nothing waits for it (R205, R206). -/
theorem completeCommand_of_ready {s : State} {t : Tk} (h : ReadyAt s t) (m : MCmd) (status : Nat) :
    SameButStatus s (s.completeCommand t m status) t m.acc := by
  have hp : SameButStatus s (s.modTask t.pos (Task.pendEnded m.id s.cycle)) t m.acc :=
    sameButStatus_modSlot h (fun _ => ⟨rfl, rfl⟩) fun _ => ⟨_, _, rfl⟩
  have hu := recordsStatus_of_ready hp status
  rw [completeCommand_eq_of_ready h]
  split
  · have hw (w : Word) := hu.trans (sameButStatus_modSlot hu.ready (f := Slot.takesCompletion w) (fun _ => ⟨rfl, rfl⟩) fun _ => ⟨_, _, rfl⟩)
    rw [wake_of_ready (hw _).ready.st, wakeMatrix_of_ready (hw _).ready.st]
    exact hw _
  · rw [wakeMatrix_of_ready hu.ready.st]
    exact hu

@[simp] theorem partner_modPartner_self (s : State) (c : Nat) (f : Partner → Partner) : (s.modPartner c f).partner c = f (s.partner c) :=
  congrArg Core.partner (State.core_modCore_self ..)

theorem kickPartner_run (s : State) (c d : Nat) : ((s.kickPartner c).partner d).run = (s.partner d).run := by
  unfold State.kickPartner
  split
  · rfl
  · rw [State.partner, State.core_post, State.core_modCore]
    split
    case isTrue h => rw [h, State.partner]
    case isFalse => rfl

/-- A command ends, of a task that stands ready: the partner is free, and of the accumulator only the status changes (R205, R206). -/
theorem freePartner_completeCommand {s : State} {t : Tk} (c : Nat) (h : ReadyAt s t) (m : MCmd) (status : Nat) :
    let u := (s.freePartner c).completeCommand t m status
    u.mem = s.mem ∧ (u.partner c).run = none ∧ ∃ st op, (u.task t.pos).acc m.acc = { (s.task t.pos).acc m.acc with lastSt := st, lastOp := op } := by
  obtain ⟨x, a, hk⟩ := kickPartner_rest (s.modPartner c fun p => { p with run := none }) c
  have hfree : s.freePartner c = _ := hk
  have hrun : ((s.freePartner c).partner c).run = none := by
    rw [State.freePartner, kickPartner_run, partner_modPartner_self]
  obtain ⟨hmem, hcores, -, hacc⟩ := completeCommand_of_ready (h.congr (u := s.freePartner c) (by rw [hfree]; rfl)) m status
  refine ⟨hmem.trans (by rw [hfree]; rfl), ?_, ?_⟩
  · rw [State.partner, State.core, hcores]
    exact hrun
  · rw [hfree] at hacc ⊢
    exact hacc

/-- What the end of an operation leaves of its accumulator (R213, R217, R224). -/
def PRun.leaves (r : PRun) (status : Nat) (a : Accum) : Accum :=
  { a with
    chain := min 65535 (a.chain + 1)
    pois := a.pois || status == 4
    ops := if r.keep then a.ops ++ [{ m := r.a.lines, n := r.b.lines, a := r.a.vals, b := r.b.vals, bytes := r.bytes }] else a.ops }

theorem endMultiply_eq (s : State) (c : Nat) {r : PRun} (hs : r.skip = false) :
    let v := s.onTask r.t fun t => t.modAcc r.cmd.acc (r.leaves 0)
    s.endMultiply c r 0 = ((v.noteTk r.t (r.events (((v.findTask r.t).getD {}).acc r.cmd.acc))).freePartner c).completeCommand r.t r.cmd 0 := by
  rw [State.endMultiply, hs]
  rfl

/-- The end of an operation whose accumulator was not struck (R213, R217, R224). -/
theorem endMultiply_of_ready {s : State} {r : PRun} (c : Nat) (h : ReadyAt s r.t) (hs : r.skip = false) :
    let u := s.endMultiply c r 0
    u.mem = s.mem ∧ (u.partner c).run = none ∧ ((u.task r.t.pos).acc r.cmd.acc).rows = ((s.task r.t.pos).acc r.cmd.acc).rows ∧
      ((u.task r.t.pos).acc r.cmd.acc).chain = min 65535 (((s.task r.t.pos).acc r.cmd.acc).chain + 1) := by
  have he := endMultiply_eq s c hs
  have hv : ReadyAt (s.modTask r.t.pos fun t => t.modAcc r.cmd.acc (r.leaves 0)) r.t := h.modTask _
  simp only [h.onTask, State.noteTk, if_pos hv.isAt] at he
  obtain ⟨hmem, hrun, st, op, hacc⟩ := freePartner_completeCommand c (hv.noteAt _) r.cmd 0
  rw [noteAt_keeps (·.acc r.cmd.acc) (Task.note_keeps (·.acc r.cmd.acc) fun _ _ _ => rfl), State.task_modTask_self, acc_modAcc] at hacc
  rw [he]
  exact ⟨hmem.trans (State.noteAt_mem ..), hrun, by rw [hacc]; rfl, by rw [hacc]; rfl⟩

/-- The end of MZERO (R237). -/
theorem finishCommand_mzero {s : State} {r : PRun} (c : Nat) (h : ReadyAt s r.t) (hop : r.cmd.op = 4) :
    let u := s.finishCommand c r
    u.mem = s.mem ∧ (u.partner c).run = none ∧ ∀ i j, ((u.task r.t.pos).acc r.cmd.acc).elem i j = 0 := by
  have he : s.finishCommand c r = (((s.modTask r.t.pos fun t => t.modAcc r.cmd.acc Accum.basePoint).freePartner c).completeCommand r.t r.cmd 0) := by
    rw [State.finishCommand, if_pos hop, State.modAcc, h.onTask]
  obtain ⟨hmem, hrun, st, op, hacc⟩ := freePartner_completeCommand c (h.modTask fun t => t.modAcc r.cmd.acc Accum.basePoint) r.cmd 0
  rw [State.task_modTask_self, acc_modAcc] at hacc
  rw [he]
  exact ⟨hmem, hrun, fun i j => by
    rw [hacc]
    exact elem_basePoint ((s.task r.t.pos).acc r.cmd.acc) i j⟩

theorem exec_matrixCommandComplete_mzero {s : State} {c : Nat} {r : PRun} (hm : s.msg = .matrixPhase c) (hr : (s.partner c).run = some r)
    (hh : (s.core c).halted = false) (hop : r.cmd.op = 4) : exec .matrixCommandComplete s = .next (s.finishCommand c r) := by
  simp [execMatrixCommandComplete, hm, Partner.runs?, hh, hr, hop]

-- a block

/-- A partner's operation past one more block, whose roundings overflowed at `ovf` (R213, R215). -/
def PRun.pastBlock (r : PRun) (ovf : List Nat) : PRun := { r with block := r.block + 1, ovf := r.ovf ++ ovf }

/-- The accumulator of an operation past the block its partner works on, and where a rounding overflowed. -/
def State.blockSum (s : State) (r : PRun) : Accum × List Nat := ((s.task r.t.pos).acc r.cmd.acc).block r.block r.k r.a.vals r.b.vals

/-- The state once that block is accumulated. -/
def State.pastBlock (s : State) (c : Nat) (r : PRun) : State :=
  (s.modTask r.t.pos fun t => t.modAcc r.cmd.acc fun _ => (s.blockSum r).1).modPRun c fun _ => r.pastBlock (s.blockSum r).2

theorem injectBlock_of_disarmed {s : State} {c : Nat} (r : PRun) (h : (s.core c).errinj = 0) : s.injectBlock c r = s := by
  simp [State.injectBlock, h, bits]

theorem stopsHere_of_no_preempt {s : State} {r : PRun} (h : (s.slot r.t.pos).preempt = none) : s.stopsHere r = false := by simp [State.stopsHere, h]

section
variable {s : State} {c : Nat} {r : PRun}

theorem pastBlock_run (h : (s.partner c).run = some r) : ((s.pastBlock c r).partner c).run = some (r.pastBlock (s.blockSum r).2) := by
  rw [State.pastBlock, State.modPRun, partner_modPartner_self]
  exact congrArg (Option.map _) h

theorem pastBlock_slot (p : Pos) : (s.pastBlock c r).slot p = (s.modTask r.t.pos fun t => t.modAcc r.cmd.acc fun _ => (s.blockSum r).1).slot p := rfl

theorem ReadyAt.pastBlock (h : ReadyAt s r.t) : ReadyAt (s.pastBlock c r) r.t :=
  (h.modTask fun t => t.modAcc r.cmd.acc fun _ => (s.blockSum r).1).congr rfl

theorem pastBlock_acc : ((s.pastBlock c r).task r.t.pos).acc r.cmd.acc = (s.blockSum r).1 := by
  rw [State.task, pastBlock_slot, ← State.task, State.task_modTask_self, acc_modAcc]

/-- K_BLOCK_COMPLETE for the operation of a task that stands ready: it ends, stops or goes on. -/
theorem exec_kBlockComplete_of_run (hm : s.msg = .matrixBlock c) (hr : (s.partner c).runs? (s.core c).halted = some r) (ht : ReadyAt s r.t)
    (hs : r.skip = false) :
    let q := r.pastBlock (s.blockSum r).2
    let u := (s.pastBlock c r).injectBlock c q
    exec .kBlockComplete s = .next (if r.k ≤ 64 * (r.block + 1) then u.endRunMultiply c q 0
      else if u.stopsHere q then u.stopRun c q else u.startBlock c u.cycle) := by
  have hskip : ¬ r.skip = true := ne_true_of_eq_false hs
  simp only [exec_kBlockComplete, execKBlockComplete, hm, hr, ht.findTask, if_neg hskip, State.modAcc, ht.onTask]
  rfl

theorem exec_kBlockComplete_of_ready (hm : s.msg = .matrixBlock c) (hr : (s.partner c).run = some r) (hh : (s.core c).halted = false)
    (he : (s.core c).errinj = 0) (ht : ReadyAt s r.t) (hp : (s.slot r.t.pos).preempt = none) (hop : r.cmd.op ≠ 3) (hs : r.skip = false) :
    exec .kBlockComplete s = .next (if r.k ≤ 64 * (r.block + 1) then (s.pastBlock c r).endMultiply c (r.pastBlock (s.blockSum r).2) 0
      else (s.pastBlock c r).startBlock c s.cycle) := by
  have hrun : (s.partner c).runs? (s.core c).halted = some r := by rw [hh]; exact hr
  have hinj : (s.pastBlock c r).injectBlock c (r.pastBlock (s.blockSum r).2) = s.pastBlock c r := by
    refine injectBlock_of_disarmed _ ?_
    rw [State.pastBlock, State.modPRun, State.modPartner, State.core_modCore_self]
    exact he
  have hstop : (s.pastBlock c r).stopsHere (r.pastBlock (s.blockSum r).2) = false := by
    refine stopsHere_of_no_preempt ?_
    show ((s.pastBlock c r).slot r.t.pos).preempt = none
    rw [pastBlock_slot, State.modTask, State.slot_modSlot_self]
    exact hp
  rw [exec_kBlockComplete_of_run hm hrun ht hs, hinj, hstop, State.endRunMultiply,
    if_neg (show ¬ (r.pastBlock (s.blockSum r).2).cmd.op = 3 from hop)]
  rfl

end

/-- The end of an operation with its last block (R213, R215). -/
theorem endMultiply_pastBlock {s : State} {r : PRun} (c : Nat) (ht : ReadyAt s r.t) (hs : r.skip = false) :
    let u := (s.pastBlock c r).endMultiply c (r.pastBlock (s.blockSum r).2) 0
    u.mem = s.mem ∧ (u.partner c).run = none ∧ ((u.task r.t.pos).acc r.cmd.acc).rows = (s.blockSum r).1.rows ∧
      ((u.task r.t.pos).acc r.cmd.acc).chain = min 65535 ((s.blockSum r).1.chain + 1) := by
  obtain ⟨hmem, hrun, hrows, hchain⟩ := endMultiply_of_ready (r := r.pastBlock (s.blockSum r).2) c (ht.pastBlock (c := c)) hs
  exact ⟨hmem, hrun, hrows.trans (congrArg Accum.rows pastBlock_acc),
    hchain.trans (congrArg (fun a : Accum => min 65535 (a.chain + 1)) pastBlock_acc)⟩

end Sys2Proof.Machine
end

section
/-! PROOF. The service of a core's queues, and the forming of joint groups (O43). -/
namespace Sys2Proof.Machine

-- the service of the queues

theorem serveQueues_of_skips {s : State} {c : Nat} {l : List Nat} (h : ∀ j ∈ l, s.pick c j = .skip) (ks : List Nat) :
    State.serveQueues c (l ++ ks) s = State.serveQueues c ks s := by
  induction l with
  | nil => rfl
  | cons j l ih =>
    rw [List.cons_append, State.serveQueues, h j List.mem_cons_self]
    exact ih fun i hi => h i (List.mem_cons_of_mem _ hi)

/-- The state once the head of a slot's queue is taken (R203). -/
def State.takesHead (s : State) (c k : Nat) : State :=
  (s.modPartner c fun q => { q with last := k }).modSlot (mkPos c k) fun x => { x with cmds := x.cmds.drop 1 }

theorem queueFreed_of_ready {s : State} {p : Pos} (h : (s.slot p).st = .ready) : s.queueFreed p = s := by
  rw [State.queueFreed, wake_of_ready h, wake_of_ready h]

theorem serveQueues_of_take {s : State} {c k : Nat} {m : MCmd} (h : s.pick c k = .take m) (hst : (s.slot (mkPos c k)).st = .ready) (ks : List Nat) :
    State.serveQueues c (k :: ks) s = (s.takesHead c k).beginCommand c (mkPos c k) m := by
  have hr : ((s.takesHead c k).slot (mkPos c k)).st = .ready := by
    rw [State.takesHead, State.slot_modSlot_self]
    exact hst
  rw [State.serveQueues, h]
  exact congrArg (State.beginCommand · c (mkPos c k) m) (queueFreed_of_ready hr)

/-- What taking the head of a queue changes. -/
theorem takesHead_spec (s : State) (c k : Nat) : ((s.takesHead c k).partner c).last = k ∧ (s.takesHead c k).mem = s.mem ∧
    ((s.takesHead c k).slot (mkPos c k)).cmds = (s.slot (mkPos c k)).cmds.drop 1 ∧ (s.takesHead c k).task (mkPos c k) = s.task (mkPos c k) := by
  have hslot : (s.takesHead c k).slot (mkPos c k) = _ := State.slot_modSlot_self ..
  refine ⟨?_, rfl, by rw [hslot]; rfl, by rw [State.task, hslot]; rfl⟩
  exact congrArg Partner.last (partner_modPartner_self s c fun q => { q with last := k })

/-- MATRIX_OP_START (R203): a partner at work goes on, another looks at its queues. -/
theorem exec_matrixOpStart_of_msg {s : State} {c : Nat} (hm : s.msg = .matrixOpStart c) :
    let u := s.modPartner c fun p => { p with kicked := false }
    exec .matrixOpStart s =
      .next (if (u.partner c).run.isSome || (u.core c).halted then u else State.serveQueues c (serviceOrder (u.partner c).last) u) := by
  simp only [exec_matrixOpStart, execMatrixOpStart, hm]

section
variable {s u : State} {c : Nat} (hm : s.msg = .matrixOpStart c) (hu : u = s.modPartner c fun p => { p with kicked := false })
include hm hu

theorem exec_matrixOpStart_of_busy (hr : (u.partner c).run.isSome = true) : exec .matrixOpStart s = .next u := by
  rw [exec_matrixOpStart_of_msg hm, ← hu, hr]
  rfl

theorem exec_matrixOpStart_of_take {l₁ l₂ : List Nat} {k : Nat} {m : MCmd} (hr : (u.partner c).run = none) (hh : (u.core c).halted = false)
    (ho : serviceOrder (u.partner c).last = l₁ ++ k :: l₂) (hskip : ∀ j ∈ l₁, u.pick c j = .skip) (hpick : u.pick c k = .take m)
    (hst : (u.slot (mkPos c k)).st = .ready) : ∃ v : State, exec .matrixOpStart s = .next (v.beginCommand c (mkPos c k) m) ∧ (v.partner c).last = k ∧
      v.mem = s.mem ∧ (v.slot (mkPos c k)).cmds = (s.slot (mkPos c k)).cmds.drop 1 ∧ v.task (mkPos c k) = s.task (mkPos c k) := by
  obtain ⟨hlast, hmem, hcmds, htask⟩ := takesHead_spec u c k
  have he : exec .matrixOpStart s = .next ((u.takesHead c k).beginCommand c (mkPos c k) m) := by
    rw [exec_matrixOpStart_of_msg hm, ← hu, hr, hh, ho, serveQueues_of_skips hskip, serveQueues_of_take hpick hst]
    rfl
  have hslot : u.slot (mkPos c k) = s.slot (mkPos c k) := by rw [hu]; rfl
  refine ⟨u.takesHead c k, he, hlast, hmem.trans ?_, by rw [hcmds, hslot], by rw [htask, State.task, hslot, State.task]⟩
  rw [hu]
  rfl

end

-- forming a joint group

/-- Options that all are given, read one by one. -/
theorem map_filterMap_of_forall_some {α β γ : Type} {f : α → Option β} {g : β → γ} {e : α → γ} {l : List α}
    (h : ∀ a ∈ l, ∃ b, f a = some b ∧ g b = e a) : (l.filterMap f).map g = l.map e := by
  induction l with
  | nil => rfl
  | cons a l ih =>
    obtain ⟨b, hf, hg⟩ := h a List.mem_cons_self
    rw [List.filterMap_cons_some hf, List.map_cons, List.map_cons, hg, ih fun x hx => h x (List.mem_cons_of_mem _ hx)]

section
variable {γ : Type} (g : Task → γ) (hcr : ∀ t c v, g (Task.setCr t c v) = g t)
  (hg : ∀ (t : Task) pc resume tileFrom kept waited outst wait,
    g { t with pc := pc, resume := resume, tileFrom := tileFrom, kept := kept, waited := waited, outst := outst, wait := wait } = g t)
include hcr hg

theorem task_unpark_keeps (s : State) (p q : Pos) : g ((s.unpark p).task q) = g (s.task q) := by
  unfold State.unpark
  dsimp only
  split
  · rw [State.task_countEv_keeps g hcr, State.task, State.slot_modSlot]
    split
    case isTrue h =>
      rw [h]
      exact hg (s.task p) _ _ _ _ _ _ _
    case isFalse => rfl
  · rfl

theorem task_asPos_advance_keeps (s : State) (p q : Pos) : g ((s.asPos p State.advance).task q) = g (s.task q) := by
  have hmy := advance_my_keeps g hcr (fun t a b c d e f => hg t a b c d e f t.wait) { s with cur := p }
  rw [State.my, State.advance_cur] at hmy
  by_cases h : q = p
  · rw [h]
    exact hmy
  · exact congrArg (fun x : Slot => g x.task) (State.goTo_slot_of_ne { s with cur := p } _ h)

theorem task_wakePast_keeps (s : State) (p q : Pos) (w : Wait) : g ((s.wakePast p w).task q) = g (s.task q) := by
  unfold State.wakePast
  split
  · rw [task_unpark_keeps g hcr hg, task_asPos_advance_keeps g hcr hg]
  · rfl

end

theorem wakePast_mem (s : State) (p : Pos) (w : Wait) : (s.wakePast p w).mem = s.mem := by
  unfold State.wakePast
  split
  · exact (State.unpark_mem ..).trans (State.advance_mem _)
  · rfl

theorem wakePast_joints (s : State) (p : Pos) (w : Wait) : (s.wakePast p w).joints = s.joints := by
  unfold State.wakePast
  split
  · exact (State.unpark_joints ..).trans (State.advance_joints _)
  · rfl

/-- A task that waits in MJOIN becomes a member and goes on (R227, R238). -/
def State.joins (tag : Nat) (s : State) (p : Pos) : State := (s.modTask p fun t => { t with jointIn := true, joint := 0 }).wakePast p (.join tag)

/-- A task as it enters its group. -/
def Task.entered (t : Task) : Prop := t.jointIn = true ∧ t.joint = 0

theorem entered_joins (tag : Nat) (s : State) (p q : Pos) (h : q = p ∨ (s.task q).entered) : ((s.joins tag p).task q).entered := by
  rw [State.joins, task_wakePast_keeps Task.entered (fun _ _ _ => rfl) fun _ _ _ _ _ _ _ _ => rfl, State.task_modTask]
  split
  case isTrue => exact ⟨rfl, rfl⟩
  case isFalse hq => exact h.resolve_left hq

theorem entered_foldl_joins (tag : Nat) (l : List Pos) (s : State) (q : Pos) (h : q ∈ l ∨ (s.task q).entered) :
    ((l.foldl (State.joins tag) s).task q).entered := by
  induction l generalizing s with
  | nil => exact h.resolve_left List.not_mem_nil
  | cons p l ih =>
    refine ih _ ?_
    rcases h with h | h
    · rcases List.mem_cons.1 h with rfl | h
      · exact .inr (entered_joins tag s q q (.inl rfl))
      · exact .inl h
    · exact .inr (entered_joins tag s p q (.inr h))

/-- The tags in which the tasks of a quad's first core wait. -/
def State.joinTags (s : State) (q : Nat) : List Nat := (List.range 14).filterMap fun k =>
  match (quadCores q).head?.map fun c => (s.task (mkPos c (k + 1))).wait with
  | some (some (.join tag)) => some tag
  | _ => none

/-- A quad's tasks that wait with one tag form its group (R227). -/
def State.formJoint (s : State) (q tag : Nat) : State :=
  let ps := (quadCores q).filterMap fun c => s.joiner c tag
  ps.foldl (State.joins tag) { s with joints := s.joints.put q { tag := tag, members := ps.map s.tk } }

/-- Does a task of every core of a quad wait with this tag? -/
def State.allJoin (s : State) (q tag : Nat) : Bool := (quadCores q).all fun c => (s.joiner c tag).isSome

theorem allJoin_iff {s : State} {q tag : Nat} : s.allJoin q tag = true ↔ ∀ c ∈ quadCores q, (s.joiner c tag).isSome = true := List.all_eq_true

theorem exec_jointGroupForm_of_free {s : State} {q : Nat} (hm : s.msg = .jointForm q) (hf : s.quadHeld q = false) : exec .jointGroupForm s =
    .next (match (s.joinTags q).find? (s.allJoin q) with
      | none => s
      | some tag => s.formJoint q tag) := by
  have h : ¬ s.quadHeld q = true := ne_true_of_eq_false hf
  cases s
  subst hm
  exact congrArg Host.Outcome.next (if_neg h)

theorem joiner_spec {s : State} {c tag : Nat} {p : Pos} (h : s.joiner c tag = some p) :
    (∃ k, k < 14 ∧ p = mkPos c (k + 1)) ∧ (s.task p).wait = some (.join tag) := by
  have hp := List.find?_some h
  have hmem := List.mem_of_find?_eq_some h
  simp only [List.mem_map, List.mem_range] at hmem
  obtain ⟨k, hk, rfl⟩ := hmem
  simp only [Bool.and_eq_true, beq_iff_eq] at hp
  obtain ⟨⟨-, hw⟩, -⟩ := hp
  exact ⟨⟨k, hk, rfl⟩, hw⟩

theorem mem_joinTags {s : State} {q tag : Nat} (h : ∀ c ∈ quadCores q, (s.joiner c tag).isSome = true) : tag ∈ s.joinTags q := by
  obtain ⟨c, l, hq⟩ : ∃ c l, quadCores q = c :: l := ⟨_, _, rfl⟩
  obtain ⟨p, hp⟩ := Option.isSome_iff_exists.1 (h c (by rw [hq]; exact List.mem_cons_self))
  obtain ⟨⟨k, hk, rfl⟩, hw⟩ := joiner_spec hp
  refine List.mem_filterMap.2 ⟨k, List.mem_range.2 hk, ?_⟩
  rw [hq, List.head?_cons, Option.map_some, hw]

theorem formJoint_spec {s : State} {q tag : Nat} (h : ∀ c ∈ quadCores q, (s.joiner c tag).isSome = true) :
    ∃ g, (s.formJoint q tag).joints.look q = some g ∧ g.members.length = 32 ∧ g.left = [] ∧ (s.formJoint q tag).mem = s.mem ∧
      ∀ x ∈ g.members, (s.task x.pos).wait = some (.join g.tag) ∧ ((s.formJoint q tag).task x.pos).entered := by
  let ps := (quadCores q).filterMap fun c => s.joiner c tag
  let g : Joint := { tag := tag, members := ps.map s.tk }
  have hjoints : (s.formJoint q tag).joints = s.joints.put q g := foldl_keeps State.joints (State.joins tag) (fun u p => wakePast_joints _ p _) ps _
  have hmem : (s.formJoint q tag).mem = s.mem := foldl_keeps State.mem (State.joins tag) (fun u p => wakePast_mem _ p _) ps _
  refine ⟨g, by rw [hjoints, Tbl.look_put_self], ?_, rfl, hmem, fun x hx => ?_⟩
  · have hlen := map_filterMap_of_forall_some (g := fun _ : Pos => ()) (e := fun _ => ()) fun c hc =>
      (Option.isSome_iff_exists.1 (h c hc)).imp fun _ hp => ⟨hp, rfl⟩
    rw [List.length_map]
    simpa [ps, quadCores] using congrArg List.length hlen
  · obtain ⟨p, hp, rfl⟩ := List.mem_map.1 hx
    obtain ⟨c, -, hc⟩ := List.mem_filterMap.1 hp
    exact ⟨(joiner_spec hc).2, entered_foldl_joins tag ps _ p (.inl hp)⟩

/-- JOINT_GROUP_FORM in a quad whose tasks have all joined with one tag (R227). -/
theorem exec_jointGroupForm_of_joined {s : State} {q tag : Nat} (hm : s.msg = .jointForm q) (hf : s.quadHeld q = false)
    (hall : ∀ c ∈ quadCores q, (s.joiner c tag).isSome = true) :
    ∃ t g, exec .jointGroupForm s = .next t ∧ t.joints.look q = some g ∧ g.members.length = 32 ∧ g.left = [] ∧ t.mem = s.mem ∧
      ∀ x ∈ g.members, (s.task x.pos).wait = some (.join g.tag) ∧ (t.task x.pos).jointIn = true ∧ (t.task x.pos).joint = 0 := by
  have hsome : ((s.joinTags q).find? (s.allJoin q)).isSome = true := by
    rw [List.find?_isSome]
    exact ⟨tag, mem_joinTags hall, allJoin_iff.2 hall⟩
  obtain ⟨tag', htag⟩ := Option.isSome_iff_exists.1 hsome
  obtain ⟨g, hg⟩ := formJoint_spec (allJoin_iff.1 (List.find?_some htag))
  exact ⟨s.formJoint q tag', g, by rw [exec_jointGroupForm_of_free hm hf, htag], hg⟩

end Sys2Proof.Machine
end

section
/-! PROOF. Joint operations (O43): the heads that agree, the pieces that they start, and the statement. -/
namespace Sys2Proof.Machine

-- the start of a joint operation

/-- The members of a group with the commands at the heads of their queues (R229). -/
def State.jointHeads (s : State) (g : Joint) : List (Tk × MCmd) := g.members.filterMap fun t => ((s.slot t.pos).cmds.head?).map fun m => (t, m)

/-- The first listed member of a cluster, with its command. -/
def jointLead (heads : List (Tk × MCmd)) (k : Nat) : Option (Tk × MCmd) := heads.find? fun x => clusterMember (posCore x.1.pos) == k

/-- What the members of one cluster must have captured alike (R229). -/
def MCmd.agrees (m n : MCmd) : Bool :=
  m.ta == n.ta && m.tb == n.tb && m.fmtA == n.fmtA && m.fmtB == n.fmtB && m.fmtC == n.fmtC
    && m.sclA == n.sclA && m.sclB == n.sclB && m.scnt == n.scnt

/-- Do the captured states allow the operation? -/
def jointAgree (heads : List (Tk × MCmd)) (m₀ : MCmd) : Bool := heads.all fun x =>
  (match jointLead heads (clusterMember (posCore x.1.pos)) with | some l => l.2.agrees x.2 | none => false) && x.2.da.cols == m₀.da.cols

/-- The heads leave their queues. -/
def State.takesHeads (s : State) (heads : List (Tk × MCmd)) : State :=
  heads.foldl (fun s x =>
    ((s.modSlot x.1.pos fun y => { y with cmds := y.cmds.drop 1 }).queueFreed x.1.pos).modPartner (posCore x.1.pos) fun q =>
      { q with last := posSlot x.1.pos }) s

/-- The piece of a member `x` whose B quarter is the one of `b` (R228). -/
def State.jointPiece (s : State) (x b : Tk × MCmd) : PRun :=
  let c := posCore x.1.pos
  let first := 96 * (memberNo c % 2)
  let run : PRun :=
    { t := x.1, cmd := x.2,
      a := operandOf x.2.ta x.2.fmtA x.2.fmtC x.2.sclA c (s.task x.1.pos).space true 0 x.2.da.rows,
      b := operandOf b.2.tb b.2.fmtB b.2.fmtC b.2.sclB (posCore b.1.pos) (s.task b.1.pos).space true first (min 96 (b.2.db.rows - first)),
      k := x.2.da.cols, lead := 48, skip := ((s.task x.1.pos).acc x.2.acc).pois }
  { run with rate := macRate run.a.fmt }

/-- The pieces of an operation, each with its core. -/
def State.jointPieces (s : State) (heads : List (Tk × MCmd)) : List (Nat × PRun) := heads.filterMap fun x =>
  (jointLead heads (memberNo (posCore x.1.pos) / 2)).map fun b => (posCore x.1.pos, s.jointPiece x b)

/-- A piece is prepared, paced by `area` elements (R213, R214, R224). -/
def State.beginPiece (area : Nat) (s : State) (x : Nat × PRun) : State := s.beginMultiply x.1 { x.2 with area := area }

/-- Every piece is prepared, for the area of the largest. -/
def State.beginPieces (s : State) (runs : List (Nat × PRun)) : State :=
  runs.foldl (State.beginPiece ((runs.map fun x => x.2.a.lines * x.2.b.lines).foldl max 0)) s

theorem exec_jointOpStart_of_agree {s : State} {q : Nat} {g : Joint} {x : Tk × MCmd} {l : List (Tk × MCmd)} (hm : s.msg = .jointStart q)
    (hg : s.joints.look q = some g) (hh : s.jointHeads g = x :: l) (ha : s.jointAtHeads g x.2.joint = true)
    (hi : ∀ y ∈ x :: l, (s.partner (posCore y.1.pos)).run = none) (hok : jointAgree (x :: l) x.2 = true) :
    let u := s.takesHeads (x :: l)
    let runs := u.jointPieces (x :: l)
    exec .jointOpStart s = .next (runs.foldl (fun s y => s.startBlock y.1 (s.cycle + 49)) (u.beginPieces runs)) := by
  have hh' : (g.members.filterMap fun t => ((s.slot t.pos).cmds.head?).map fun m => (t, m)) = x :: l := hh
  have hc : ¬ (!s.jointAtHeads g x.2.joint || (x :: l).any fun y => (s.partner (posCore y.1.pos)).run.isSome) = true := by
    rw [ha, Bool.not_true, Bool.false_or, List.any_eq_true]
    rintro ⟨y, hy, hrun⟩
    rw [hi y hy] at hrun
    exact absurd hrun (by decide)
  have hok' : ¬ (!jointAgree (x :: l) x.2) = true := by
    rw [hok]
    decide
  simp only [exec_jointOpStart, execJointOpStart, hm, hg, hh']
  exact congrArg Host.Outcome.next ((if_neg hc).trans (if_neg hok'))

-- the heads of a group

section
variable {s : State} {g : Joint} {n : Nat}

theorem jointHead_of_atHeads (h : s.jointAtHeads g n = true) {t : Tk} (ht : t ∈ g.members) :
    ∃ m, (s.slot t.pos).cmds.head? = some m ∧ m.joint = n := by
  have hall := List.all_eq_true.1 h t ht
  simp only [Bool.and_eq_true] at hall
  obtain ⟨-, hm⟩ := hall
  cases hc : (s.slot t.pos).cmds.head? with
  | none => simp [hc] at hm
  | some m =>
    simp only [hc, Bool.and_eq_true, beq_iff_eq] at hm
    obtain ⟨-, hj⟩ := hm
    exact ⟨m, rfl, hj⟩

theorem mem_jointHeads {x : Tk × MCmd} : x ∈ s.jointHeads g ↔ x.1 ∈ g.members ∧ (s.slot x.1.pos).cmds.head? = some x.2 := by
  obtain ⟨t, m⟩ := x
  simp [State.jointHeads]

theorem map_fst_jointHeads (h : s.jointAtHeads g n = true) : (s.jointHeads g).map Prod.fst = g.members := by
  refine (map_filterMap_of_forall_some (e := id) fun t ht => ?_).trans (List.map_id _)
  obtain ⟨m, hm, -⟩ := jointHead_of_atHeads h ht
  exact ⟨(t, m), by rw [hm]; rfl, rfl⟩

theorem joint_of_mem_jointHeads (h : s.jointAtHeads g n = true) {x : Tk × MCmd} (hx : x ∈ s.jointHeads g) : x.2.joint = n := by
  obtain ⟨ht, hm⟩ := mem_jointHeads.1 hx
  obtain ⟨m, hm', hn⟩ := jointHead_of_atHeads h ht
  rw [hm] at hm'
  rw [Option.some.inj hm']
  exact hn

theorem jointLead_spec {heads : List (Tk × MCmd)} {k : Nat} (h : ∃ x ∈ heads, clusterMember (posCore x.1.pos) = k) :
    ∃ l ∈ heads, jointLead heads k = some l ∧ clusterMember (posCore l.1.pos) = k := by
  obtain ⟨x, hx, hk⟩ := h
  have hsome : (jointLead heads k).isSome = true := by
    rw [jointLead, List.find?_isSome]
    exact ⟨x, hx, beq_iff_eq.2 hk⟩
  obtain ⟨l, hl⟩ := Option.isSome_iff_exists.1 hsome
  have hlk := List.find?_some (show List.find? _ heads = some l from hl)
  exact ⟨l, List.mem_of_find?_eq_some hl, hl, beq_iff_eq.1 hlk⟩

end

theorem takesHeads_mem (s : State) (heads : List (Tk × MCmd)) : (s.takesHeads heads).mem = s.mem := by
  refine foldl_keeps State.mem _ (fun u x => ?_) heads s
  simp [State.modPartner, State.queueFreed]

-- the pieces

theorem beginPiece_spec (area : Nat) (s : State) (x : Nat × PRun) : let u := s.beginPiece area x
    u.mem = s.mem ∧ (∃ r, (u.partner x.1).run = some r ∧ r.t = x.2.t ∧ r.cmd = x.2.cmd) ∧ ∀ d, d ≠ x.1 → u.partner d = s.partner d := by
  let v := if x.2.cmd.op = 2 then s.modAcc x.2.t x.2.cmd.acc Accum.basePoint else s
  obtain ⟨p, hu, hp⟩ : ∃ p, s.beginPiece area x = v.modPartner x.1 (fun q => { q with run := some p }) ∧ p.t = x.2.t ∧ p.cmd = x.2.cmd :=
    ⟨_, rfl, rfl, rfl⟩
  have hv : v.mem = s.mem ∧ v.cores = s.cores := by
    unfold v
    split
    · exact ⟨State.onTask_mem .., State.onTask_cores ..⟩
    · exact ⟨rfl, rfl⟩
  obtain ⟨hmem, hcores⟩ := hv
  intro u
  refine ⟨(congrArg State.mem hu).trans hmem, ⟨p, ?_, hp⟩, fun d hd => ?_⟩
  · rw [show u = _ from hu, partner_modPartner_self]
  · rw [show u = _ from hu, State.partner, State.modPartner, State.core_modCore, if_neg hd, State.core, hcores]
    rfl

theorem foldl_beginPiece_spec (area : Nat) (l : List (Nat × PRun)) (hn : (l.map Prod.fst).Nodup) (s : State) :
    let u := l.foldl (State.beginPiece area) s
    (∀ x ∈ l, ∃ r, (u.partner x.1).run = some r ∧ r.t = x.2.t ∧ r.cmd = x.2.cmd) ∧ ∀ d, d ∉ l.map Prod.fst → u.partner d = s.partner d := by
  induction l generalizing s with
  | nil => exact ⟨fun x hx => absurd hx List.not_mem_nil, fun _ _ => rfl⟩
  | cons x l ih =>
    rw [List.map_cons, List.nodup_cons] at hn
    obtain ⟨hx, hn⟩ := hn
    obtain ⟨-, hhead, hother⟩ := beginPiece_spec area s x
    obtain ⟨hmem, hrest⟩ := ih hn (s.beginPiece area x)
    refine ⟨fun y hy => ?_, fun d hd => ?_⟩
    · rcases List.mem_cons.1 hy with rfl | hy
      · rwa [List.foldl_cons, hrest _ hx]
      · exact hmem y hy
    · rw [List.map_cons, List.mem_cons, not_or] at hd
      exact (hrest d hd.2).trans (hother d hd.1)

theorem beginPieces_mem (s : State) (runs : List (Nat × PRun)) : (s.beginPieces runs).mem = s.mem :=
  foldl_keeps State.mem _ (fun u x => (beginPiece_spec _ u x).1) runs s

/-- What the members of a group captured allows their operation (R229). -/
def JointAgrees (s : State) (g : Joint) : Prop :=
  ∀ t ∈ g.members, ∀ u ∈ g.members, ∀ x y, (s.slot t.pos).cmds.head? = some x → (s.slot u.pos).cmds.head? = some y →
  x.da.cols = y.da.cols ∧ (clusterMember (posCore t.pos) = clusterMember (posCore u.pos) →
    x.ta = y.ta ∧ x.tb = y.tb ∧ x.fmtA = y.fmtA ∧ x.fmtB = y.fmtB ∧ x.fmtC = y.fmtC ∧ x.sclA = y.sclA ∧ x.sclB = y.sclB ∧ x.scnt = y.scnt)

theorem jointAgree_of_agrees {s : State} {g : Joint} (h : JointAgrees s g) {x : Tk × MCmd} (hx : x ∈ s.jointHeads g) :
    jointAgree (s.jointHeads g) x.2 = true := by
  refine List.all_eq_true.2 fun y hy => ?_
  obtain ⟨l, hl, hlead, hk⟩ := jointLead_spec ⟨y, hy, rfl⟩
  have hm {z : Tk × MCmd} (hz : z ∈ s.jointHeads g) := mem_jointHeads.1 hz
  obtain ⟨hcols, -⟩ := h y.1 (hm hy).1 x.1 (hm hx).1 y.2 x.2 (hm hy).2 (hm hx).2
  obtain ⟨-, hsame⟩ := h l.1 (hm hl).1 y.1 (hm hy).1 l.2 y.2 (hm hl).2 (hm hy).2
  obtain ⟨h₁, h₂, h₃, h₄, h₅, h₆, h₇, h₈⟩ := hsame hk
  simp [hlead, MCmd.agrees, hcols, h₁, h₂, h₃, h₄, h₅, h₆, h₇, h₈]

theorem memberNo_div_two_lt (c : Nat) : memberNo c / 2 < 4 := by
  rw [memberNo]
  omega

/-- A joint operation whose members agree: every piece starts (R229, R230). -/
theorem jointOpStart_spec {s : State} {q n : Nat} {g : Joint} (hm : s.msg = .jointStart q) (hg : s.joints.look q = some g)
    (ha : s.jointAtHeads g n = true) (hi : ∀ t ∈ g.members, (s.partner (posCore t.pos)).run = none)
    (hn : (g.members.map fun t => posCore t.pos).Nodup) (hk : ∀ k, k < 4 → ∃ t ∈ g.members, clusterMember (posCore t.pos) = k)
    (hs : JointAgrees s g) :
    ∃ v : State, exec .jointOpStart s = .next ((g.members.map fun t => posCore t.pos).foldl (fun s c => s.startBlock c (s.cycle + 49)) v) ∧
      v.mem = s.mem ∧ ∀ t ∈ g.members, ∃ r, (v.partner (posCore t.pos)).run = some r ∧ r.t = t ∧ (s.slot t.pos).cmds.head? = some r.cmd := by
  let u := s.takesHeads (s.jointHeads g)
  let runs := u.jointPieces (s.jointHeads g)
  have hhead {t : Tk} (ht : t ∈ g.members) : ∃ m, (t, m) ∈ s.jointHeads g := by
    obtain ⟨m, hm, -⟩ := jointHead_of_atHeads ha ht
    exact ⟨m, mem_jointHeads.2 ⟨ht, hm⟩⟩
  have hlead (x : Tk × MCmd) : ∃ b, jointLead (s.jointHeads g) (memberNo (posCore x.1.pos) / 2) = some b := by
    obtain ⟨t, ht, hc⟩ := hk _ (memberNo_div_two_lt (posCore x.1.pos))
    obtain ⟨m, hm⟩ := hhead ht
    obtain ⟨b, -, hb, -⟩ := jointLead_spec ⟨(t, m), hm, hc⟩
    exact ⟨b, hb⟩
  have hcores : runs.map Prod.fst = g.members.map fun t => posCore t.pos := by
    rw [← map_fst_jointHeads ha, List.map_map]
    refine map_filterMap_of_forall_some fun x _ => ?_
    obtain ⟨b, hb⟩ := hlead x
    exact ⟨_, by rw [hb]; rfl, rfl⟩
  obtain ⟨hrun, -⟩ := foldl_beginPiece_spec ((runs.map fun x => x.2.a.lines * x.2.b.lines).foldl max 0) runs (hcores ▸ hn) u
  refine ⟨u.beginPieces runs, ?_, (beginPieces_mem ..).trans (takesHeads_mem ..), fun t ht => ?_⟩
  · obtain ⟨t, ht, -⟩ := hk 0 (by decide)
    obtain ⟨m, hmem⟩ := hhead ht
    obtain ⟨x, l, hl⟩ := List.exists_cons_of_ne_nil (List.ne_nil_of_mem hmem)
    have hx : x ∈ s.jointHeads g := by rw [hl]; exact List.mem_cons_self
    have he := exec_jointOpStart_of_agree hm hg hl (by rw [joint_of_mem_jointHeads ha hx]; exact ha)
      (fun y hy => hi _ (mem_jointHeads.1 (hl ▸ hy)).1) (hl ▸ jointAgree_of_agrees hs hx)
    rw [← hl] at he
    rw [he, ← hcores, List.foldl_map]
  · obtain ⟨m, hmem⟩ := hhead ht
    obtain ⟨b, hb⟩ := hlead (t, m)
    obtain ⟨r, hr, hrt, hrc⟩ := hrun (posCore t.pos, u.jointPiece (t, m) b) (List.mem_filterMap.2 ⟨(t, m), hmem, by rw [hb]; rfl⟩)
    refine ⟨r, hr, hrt, ?_⟩
    rw [hrc]
    exact (mem_jointHeads.1 hmem).2

/-- Settles O43: one lemma for each event above. -/
theorem matrixEvents : Obligations.MatrixEvents := by
  refine ⟨fun s u c hm hu => ⟨exec_matrixOpStart_of_busy hm hu, fun _ _ _ _ => exec_matrixOpStart_of_take hm hu⟩, ?_, ?_,
    fun s q n g => jointOpStart_spec, fun s q tag => exec_jointGroupForm_of_joined⟩
  · intro s c r hm hr hh he hat hst hp hop hs
    have ht := readyAt_of_isAt hat hst
    have hexec := exec_kBlockComplete_of_ready hm hr hh he ht hp hop hs
    refine ⟨fun hk => ⟨s.pastBlock c r, ?_, rfl, pastBlock_acc, pastBlock_run hr⟩, fun hk => ⟨_, ?_, endMultiply_pastBlock c ht hs⟩⟩
    · rw [hexec, if_neg (Nat.not_le.2 hk)]
    · rw [hexec, if_pos hk]
  · intro s c r hm hr hh hop hat hst
    exact ⟨_, exec_matrixCommandComplete_mzero hm hr hh hop, finishCommand_mzero c (readyAt_of_isAt hat hst) hop⟩

end Sys2Proof.Machine
end

section
/-! PROOF. Vcache members (O33): what issue does once the operands are read, then the members. -/
namespace Sys2Proof.Machine

section
variable {s s₁ : State} {srcs : List Reg} {vs : List Word} {op : Nat} (d : Reg)

/-- A reserved operand: after the reads, the format fault and nothing else (R307). -/
theorem vcacheMember_of_reserved (hf : fetchSrcs srcs s = .ok vs s₁) (hr : vcReserved op (vs.getD 0 0).toNat (vs.getD 1 0).toNat = true) :
    vcacheMember op d srcs s = s₁.formatFault 0 := by
  rw [vcacheMember, withSrcs, hf]
  exact if_pos hr

/-- Acceptable operands: the slot parks under a new number, and the request with that number is under way to the agent (R305). -/
theorem vcacheMember_of_acceptable (hf : fetchSrcs srcs s = .ok vs s₁) (hr : vcReserved op (vs.getD 0 0).toNat (vs.getD 1 0).toNat = false) :
    vcacheMember op d srcs s = (s₁.fresh.2.park s₁.cur (.reconfig s₁.nextId)).postAt (s₁.cycle + 100) s₁.cur .configAgentTake
      (.configArrive s₁.my.space (s₁.tk s₁.cur) s₁.nextId op (vs.getD 0 0).toNat (vs.getD 1 0).toNat d s₁.my.world) := by
  rw [vcacheMember, withSrcs, hf]
  exact if_neg (ne_true_of_eq_false hr)

end

/-- Settles O33: each member is `vcacheMember` of its operation, where CUNBIND, CQUERY and CDROP have 0 in place of B. -/
theorem vcacheMembersAskTheAgent : Obligations.VcacheMembersAskTheAgent := by
  intro s s₁ d a b x y holds
  have key {i op srcs vs} (hf : fetchSrcs srcs s = .ok vs s₁) (hi : exec i s = .next (vcacheMember op d srcs s)) :
      holds i op (vs.getD 0 0).toNat (vs.getD 1 0).toNat := by
    refine ⟨fun hr => ?_, fun hr => ?_⟩
    · rw [hi, vcacheMember_of_reserved d hf hr]
    · rw [hi, vcacheMember_of_acceptable d hf hr]
      exact ⟨_, rfl, (parksFor_park s₁.fresh.2 _).post .., due_postAt ..⟩
  exact ⟨fun hf => ⟨key hf rfl, key hf rfl, key hf rfl, key hf rfl⟩, fun hf => ⟨key hf rfl, key hf rfl, key hf rfl⟩⟩

end Sys2Proof.Machine
end

section
/-! PROOF. A release seals the hand (O25): the next number, what sealing does to a hand, and `sealHand` when no seal is too far back. -/
namespace Sys2Proof.Machine

theorem nextRelease_pos (n : Nat) : 1 ≤ nextRelease n := by
  unfold nextRelease
  split <;> omega

theorem nextRelease_lt (n : Nat) : nextRelease n < 65536 := by
  unfold nextRelease
  split <;> omega

/-- One entry after a release with number `n`: an open one is sealed under it, a sealed one keeps its seal (R323 step 2). -/
def HandEntry.sealUnder (n : Nat) (e : HandEntry) : HandEntry := if e.sealNo = 0 then { e with sealNo := n } else e

/-- A task after a release with number `n` (R323 step 2); `sealHand_of_recent` says that `State.sealHand` makes it. -/
def Task.sealUnder (n : Nat) (t : Task) : Task := { t with relCount := n, hand := t.hand.map (HandEntry.sealUnder n) }

@[simp] theorem HandEntry.sealUnder_region (n : Nat) (e : HandEntry) : (e.sealUnder n).region = e.region := by
  unfold HandEntry.sealUnder
  split <;> rfl

/-- No entry stays open, since a release number is not 0. -/
theorem HandEntry.sealUnder_sealNo_ne_zero {n : Nat} (hn : 1 ≤ n) (e : HandEntry) : (e.sealUnder n).sealNo ≠ 0 := by
  unfold HandEntry.sealUnder
  split
  next => exact Nat.ne_of_gt hn
  next hsealed => exact hsealed

theorem Task.sealUnder_all_sealed {n : Nat} (hn : 1 ≤ n) (t : Task) : ∀ e ∈ (t.sealUnder n).hand, e.sealNo ≠ 0 :=
  List.forall_mem_map.2 fun e _ => e.sealUnder_sealNo_ne_zero hn

theorem Task.sealUnder_regions (n : Nat) (t : Task) : (t.sealUnder n).hand.map (·.region) = t.hand.map (·.region) := by
  simp [Task.sealUnder, Function.comp_def]

theorem State.sealHand_num (s : State) (p : Pos) : (s.sealHand p).1 = nextRelease (s.task p).relCount := rfl

/-- Without a seal 32768 or more releases back nothing drains: the release seals the hand at its position and does nothing else (R323). -/
theorem State.sealHand_of_recent {s : State} {p : Pos}
    (hrecent : ∀ e ∈ (s.task p).hand, e.sealNo = 0 ∨ (nextRelease (s.task p).relCount + 65536 - e.sealNo) % 65536 < 32768) :
    (s.sealHand p).2 = s.modTask p (Task.sealUnder (nextRelease (s.task p).relCount)) := by
  have hnear : ¬ ((s.task p).hand.any fun e =>
      e.sealNo != 0 && decide (32768 ≤ (nextRelease (s.task p).relCount + 65536 - e.sealNo) % 65536)) = true := by
    intro hfar
    obtain ⟨e, he, hback⟩ := List.any_eq_true.1 hfar
    simp only [Bool.and_eq_true, bne_iff_ne, decide_eq_true_eq] at hback
    rcases hrecent e he with hopen | hclose
    · exact hback.1 hopen
    · exact Nat.not_le.2 hclose hback.2
  unfold State.sealHand
  simp only [if_neg hnear]
  rfl

/-- Settles O25: after `sealHand_of_recent`, the frame is that of `modTask`, and the rest is what `sealUnder` does to the task. -/
theorem releaseSealsTheHand : Obligations.ReleaseSealsTheHand := by
  intro s p
  have hpos := nextRelease_pos (s.task p).relCount
  refine ⟨(s.sealHand p).2, Prod.ext (s.sealHand_num p) rfl, fun hrecent => ?_, hpos, nextRelease_lt _⟩
  rw [State.sealHand_of_recent hrecent, State.task_modTask_self]
  exact ⟨rfl, fun _ hq => s.task_modTask_of_ne _ hq, rfl, Task.sealUnder_all_sealed hpos _, Task.sealUnder_regions _ _, rfl, rfl⟩

end Sys2Proof.Machine
end

section
/-! PROOF. What moving dirty lines towards home leaves alone: everything but memory, the agenda, the hub's counters and the logs of lost dies. -/
namespace Sys2Proof.Machine

/-- A state without what moving lines changes. -/
def State.apart (s : State) : State := { s with mem := {}, agenda := [], hub := {}, module_ := {} }

-- the updates that such a move is made of

@[simp] theorem apart_modMem (s : State) (f : Mem → Mem) : (s.modMem f).apart = s.apart := rfl
@[simp] theorem apart_post (s : State) (due tie : Nat) (ev : Instr) (m : Msg) : (s.post due tie ev m).apart = s.apart := rfl
@[simp] theorem apart_charge (s : State) (part cls kind n : Nat) : (s.charge part cls kind n).apart = s.apart := rfl
@[simp] theorem apart_putVline (s : State) (i : Inst) (x : VLine) : (s.putVline i x).apart = s.apart := rfl
@[simp] theorem apart_modVline (s : State) (i : Inst) (line : Nat) (f : VLine → VLine) : (s.modVline i line f).apart = s.apart := rfl

/-- A fold of moves is one. -/
theorem apart_foldl {β : Type} {f : State → β → State} (hf : ∀ s x, (f s x).apart = s.apart) (l : List β) (s : State) :
    (l.foldl f s).apart = s.apart := foldl_keeps State.apart f hf l s

/-- A fold of moves that counts beside is one. -/
theorem apart_foldl_snd {β γ : Type} {f : γ × State → β → γ × State} (hf : ∀ x b, (f x b).2.apart = x.2.apart)
    (l : List β) (x : γ × State) :
    (l.foldl f x).2.apart = x.2.apart := foldl_keeps (fun y : γ × State => y.2.apart) f hf l x

-- at home

@[simp] theorem apart_bufTouch (s : State) (line : Nat) : (s.bufTouch line).apart = s.apart := by
  refine (apart_foldl (fun s k => ?_) _ _).trans rfl
  split <;> rfl

@[simp] theorem apart_fetchErr (s : State) (line : Nat) : (s.fetchErr line).apart = s.apart := by
  unfold State.fetchErr
  split <;> rfl

@[simp] theorem apart_homeRead (s : State) (line : Nat) : (s.homeRead line).2.apart = s.apart := by
  unfold State.homeRead
  dsimp only
  split <;> simp

@[simp] theorem apart_bufWrite (s : State) (line : Nat) (whole : Bool) : (s.bufWrite line whole).apart = s.apart := by
  unfold State.bufWrite
  dsimp only
  split <;> split <;> simp

@[simp] theorem apart_logLost (s : State) (loc : Nat) : (s.logLost loc).apart = s.apart := by
  unfold State.logLost
  dsimp only
  split <;> rfl

@[simp] theorem apart_keepTier (s : State) (line : Nat) : (s.keepTier line).apart = s.apart := by
  unfold State.keepTier
  split <;> rfl

@[simp] theorem apart_putCells (s : State) (loc n : Nat) (f : Memory → Memory) : (s.putCells loc n f).apart = s.apart := by
  unfold State.putCells
  split
  · exact apart_logLost s loc
  · exact (apart_modMem ..).trans (apart_foldl (fun s k => apart_keepTier s _) _ s)

@[simp] theorem apart_setPoison (s : State) (line : Nat) (b : Bool) : (s.setPoison line b).apart = s.apart := by
  unfold State.setPoison
  split <;> rfl

@[simp] theorem apart_notify (s : State) (loc : Nat) : (s.notify loc).apart = s.apart :=
  apart_foldl (fun s x => apart_foldl (fun s a => by split <;> rfl) _ s) _ s

@[simp] theorem apart_wakeMonitors (s : State) (loc late : Nat) : (s.wakeMonitors loc late).apart = s.apart :=
  (apart_foldl (fun _ _ => apart_post ..) _ _).trans (apart_notify s loc)

@[simp] theorem apart_mergeHome (s : State) (line : Nat) (mask : BitVec 128) (data : BitVec 1024) (poison : Bool) :
    (s.mergeHome line mask data poison).apart = s.apart := by
  unfold State.mergeHome
  split
  · rfl
  · rw [apart_wakeMonitors, apart_bufWrite]
    split
    · simp
    · split <;> simp

-- in the instances of a chain

@[simp] theorem apart_chargeHome (s : State) (core line n : Nat) : (s.chargeHome core line n).apart = s.apart := by
  unfold State.chargeHome
  split
  · rfl
  · split
    · exact apart_foldl (fun _ _ => apart_charge ..) _ s
    · rfl

@[simp] theorem apart_untrack (s : State) (i : Inst) (line : Nat) : (s.untrack i line).apart = s.apart := by
  unfold State.untrack
  dsimp only
  split <;> split <;> rfl

@[simp] theorem apart_dropVline (s : State) (i : Inst) (line : Nat) : (s.dropVline i line).apart = s.apart := apart_untrack ..

@[simp] theorem apart_track (s : State) (i : Inst) (line : Nat) : (s.track i line).apart = s.apart := by
  have hrecall (s : State) (l : List Nat) : (l.foldl (fun s r =>
      (s.tally 2 (s.homeOf (r * 512)) 1).post (s.cycle + probeCost (s.regionLines r)) 0 .homeProbe (.directoryRecall r)) s).apart = s.apart :=
    apart_foldl (fun _ _ => by rfl) l s
  have hevict (s : State) (l : List Nat) : (l.foldl (fun s l => s.post s.cycle 0 .homeProbe (.filterEvict (clusterNo i.idx) l)) s).apart = s.apart :=
    apart_foldl (fun _ _ => by rfl) l s
  unfold State.track
  dsimp only
  split <;> split <;> simp only [hrecall, hevict, apart_modMem]

@[simp] theorem apart_orphan (s : State) (i : Inst) (x : VLine) : (s.orphan i x).apart = s.apart := by
  unfold State.orphan
  split <;> rfl

@[simp] theorem apart_sendBack (s : State) (i : Inst) (up : List Inst) (x : VLine) : (s.sendBack i up x).apart = s.apart := by
  cases up with
  | nil => exact apart_chargeHome ..
  | cons j _ => rfl

@[simp] theorem apart_makeRoom (s : State) (i : Inst) (up : List Inst) (line : Nat) : (s.makeRoom i up line).apart = s.apart := by
  unfold State.makeRoom
  dsimp only
  split
  · rfl
  · split
    · rfl
    · rw [apart_dropVline]
      split <;> simp

@[simp] theorem apart_writeBack (c : List Inst) (x : VLine) (s : State) : (writeBack c x s).apart = s.apart := by
  induction c with
  | nil => exact apart_mergeHome ..
  | cons i up ih =>
    unfold writeBack
    split
    · exact ih
    · split <;> simp

@[simp] theorem apart_backArrives (s : State) (m : Msg) : (s.backArrives m).apart = s.apart := by
  unfold State.backArrives
  split
  · exact apart_writeBack ..
  · rfl

@[simp] theorem apart_flushBacks (s : State) (p : Nat → Nat → Nat → Nat → Bool) : (s.flushBacks p).apart = s.apart := by
  unfold State.flushBacks
  dsimp only
  split
  · rfl
  · exact (apart_foldl (fun s (x : Pending) => apart_backArrives s x.msg) _ _).trans rfl

@[simp] theorem apart_flushLine (s : State) (line : Nat) : (s.flushLine line).apart = s.apart := apart_flushBacks ..
@[simp] theorem apart_flushSpace (s : State) (space : Nat) : (s.flushSpace space).apart = s.apart := apart_flushBacks ..

@[simp] theorem apart_lift (core n : Nat) (c : List Inst) (line : Nat) (ws : Written × State) : (lift core n c line ws).2.apart = ws.2.apart := by
  induction n generalizing c ws with
  | zero => rfl
  | succ n ih =>
    cases c with
    | nil => rfl
    | cons i up =>
      obtain ⟨w, s⟩ := ws
      refine (ih up _).trans ?_
      split
      · split
        · exact apart_flushLine ..
        · cases up <;> simp
      · exact apart_flushLine ..

@[simp] theorem apart_liftInsts (s : State) (core : Nat) (is : List Inst) : (s.liftInsts core is).2.apart = s.apart := by
  have hfold := apart_foldl_snd (f := fun (x : Written × State) i =>
    ((x.2.flushSpace i.space).linesOf i).foldl (fun x l => lift core 9 (i :: x.2.above i) l x) (x.1, x.2.flushSpace i.space))
    (fun x i => (apart_foldl_snd (fun x l => apart_lift ..) _ _).trans (apart_flushSpace ..)) (s.parentsFirst is).reverse ([], s)
  cases is with
  | nil => exact hfold
  | cons i r => exact (apart_flushSpace ..).trans hfold

/-- A drain keeps what neither the moved lines nor the drained task enter (R330). -/
theorem apart_drainAll (s : State) (space core : Nat) : (s.drainAll space core).2.apart = s.apart := apart_liftInsts ..

@[simp] theorem drain_cur (s : State) (p : Pos) : (s.drain p).2.cur = s.cur := by
  have h := congrArg State.cur (apart_drainAll s (s.task p).space (posCore p))
  exact h

end Sys2Proof.Machine
end

section
/-! PROOF. The life of a task (O45): START of a new task, REAP, EXIT, SLEEP and SPAWN. -/
namespace Sys2Proof.Machine

-- START

/-- The fields of the event word of a new task's placement (Table 14-7). -/
theorem bits_placement {x e n k : Nat} (hx : x = 2 ^ 60 + k * 2 ^ 56 + e * 2 ^ 48 + n) (hk : k ≤ 14) (he : e < 256) (hn : n < 2 ^ 48) :
    bits x 60 4 = 1 ∧ bits x 56 4 = k ∧ bits x 48 8 = e ∧ bits x 0 48 = n := by
  simp only [bits]
  omega

theorem startMisuse_new_iff (s : State) (p : Pos) (d : ActiveDeal) : s.startMisuse p d none false = true ↔
    (s.slot p).st ≠ .empty ∨ s.isLight p ≠ d.light ∨ 16 < s.accsHeld (posCore p) + d.accs := by
  simp [State.startMisuse, or_assoc]

@[simp] theorem core_modDeal (s : State) (e : Nat) (f : ActiveDeal → ActiveDeal) (c : Nat) : (s.modDeal e f).core c = s.core c := rfl
@[simp] theorem slot_modDeal (s : State) (e : Nat) (f : ActiveDeal → ActiveDeal) (p : Pos) : (s.modDeal e f).slot p = s.slot p := rfl
@[simp] theorem core_postHub (s : State) (due : Nat) (ev : Instr) (m : Msg) (c : Nat) : (s.postHub due ev m).core c = s.core c := rfl
@[simp] theorem slot_kickDealer (s : State) (c : Nat) (p : Pos) : (s.kickDealer c).slot p = s.slot p := rfl

/-- A slot whose task starts in cycle `now` without waiting for lines to go: its slice, and its first turn after START's 20 cycles (R374). -/
def Slot.starts (x : Slot) (now slice : Nat) : Slot := { x with task := { x.task with sliceEnd := now + slice }, notBefore := now + 20 + 1 }

/-- What is left of a start, where the deal has started on the core before and no counter released it: no line is invalidated (R374). -/
theorem startSlot_of_started {s : State} {e : Nat} (n : Nat) {d : ActiveDeal} {p : Pos} (hs : e ∈ (s.core (posCore p)).started)
    (hc : d.counted = false) : ∃ w h a, s.startSlot e n (posCore p) d p 0 = { s with slots := w, hub := h, agenda := a } ∧
      ∀ q, (s.startSlot e n (posCore p) d p 0).slot q = if q = p then (s.slot p).starts s.cycle d.slice else s.slot q := by
  let v : State := s.modTask p fun t => { t with sliceEnd := s.cycle + d.slice }
  let u : State := (v.postHub (s.cycle + d.slice) .sliceExpiry (.sliceExpiry (s.tk p) (s.cycle + d.slice))).modDeal e
    fun d => { d with grants := d.grants.erase (posCore p, n), first := some (d.first.getD s.cycle) }
  have hu : s.startSlot e n (posCore p) d p 0 = (u.modSlot p fun x => { x with notBefore := s.cycle + 20 + 1 }).kickDealer (posCore p) := by
    simp only [State.startSlot, core_modDeal, core_postHub, State.core_modTask, List.contains_eq_mem, hs, hc, decide_true, Bool.not_true,
      Bool.false_and, Bool.or_self, Bool.false_eq_true, if_false]
    rfl
  rw [hu]
  refine ⟨_, _, _, rfl, fun q => ?_⟩
  rw [slot_kickDealer, State.slot_modSlot, slot_modDeal, slot_modDeal, State.slot_postHub, State.slot_postHub, State.slot_modTask, State.slot_modTask,
    if_pos rfl]
  split
  · rfl
  · rfl

/-- An empty slot as it takes a task, before its start is complete. -/
def Slot.takes (x : Slot) (t : Task) : Slot :=
  { x.nextSerial with st := .ready, task := t, pending? := none, answer := none, preempt := none, endRes := false, cmds := [], comps := [],
                      compsRes := 0, mrun := none, mready := 0, q6n := 0, fetchTr := [] }

/-- START of a new task under these conditions: the slot takes the task; beside that only the deal's counts and the agenda change. -/
theorem startNew_of_started {s : State} {e : Nat} (n : Nat) {d : ActiveDeal} {p : Pos} (hs : e ∈ (s.core (posCore p)).started)
    (hc : d.counted = false) : ∃ w h a, s.startNew e n d p = { s with slots := w, hub := h, agenda := a } ∧
      ∀ q, (s.startNew e n d p).slot q = if q = p then ((s.slot p).takes (d.firstTask e n)).starts s.cycle d.slice else s.slot q := by
  let v : State := s.modSlot p (Slot.takes · (d.firstTask e n))
  obtain ⟨h, hv⟩ : ∃ h, s.startNew e n d p = State.startSlot { v with hub := h } e n (posCore p) d p 0 := by
    rw [State.startNew]
    dsimp only
    split
    · exact ⟨_, rfl⟩
    · exact ⟨_, rfl⟩
  obtain ⟨w, h', a, hrest, hslot⟩ := startSlot_of_started (s := { v with hub := h }) n hs hc
  have hmod (q : Pos) : State.slot { v with hub := h } q = if q = p then (s.slot p).takes (d.firstTask e n) else s.slot q :=
    s.slot_modSlot p q (Slot.takes · (d.firstTask e n))
  rw [hv]
  refine ⟨w, h', a, hrest, fun q => (hslot q).trans ?_⟩
  rw [hmod p, hmod q, if_pos rfl]
  by_cases hq : q = p
  · rw [if_pos hq, if_pos hq]
    rfl
  · rw [if_neg hq, if_neg hq, if_neg hq]

/-- START of a new task past its reserved values and its deal's check (R373, R374). -/
theorem exec_start_of_fetch {s s₁ : State} {a : Reg} {x : Word} {e n k : Nat} {d : ActiveDeal} (hf : fetchSrcs [a] s = .ok [x] s₁)
    (hp : posSlot s.cur = 0) (hx : x.toNat = 2 ^ 60 + k * 2 ^ 56 + e * 2 ^ 48 + n) (hk : 1 ≤ k) (hk' : k ≤ 14) (he : e < 256) (hn : n < 2 ^ 48)
    (hd : s₁.deal e = some d) : exec (.start a) s =
      .next (if s₁.startMisuse (mkPos (posCore s₁.cur) k) d none false then s₁.supFault s₁.cur 0x49 0 0 3
        else (s₁.startNew e n d (mkPos (posCore s₁.cur) k)).block
          ((s₁.startNew e n d (mkPos (posCore s₁.cur) k)).cycle + 20) Finish.plain) := by
  obtain ⟨hkind, hslot, hdeal, hindex⟩ := bits_placement hx hk' he hn
  have h0 : k ≠ 0 := by omega
  have h15 : k ≠ 15 := by omega
  simp [execStart, hp, with1_of_fetch hf, hkind, hslot, hdeal, hindex, hd, h0, h15]

theorem posCore_mkPos (c : Nat) {k : Nat} (hk : k ≤ 14) : posCore (mkPos c k) = c := by
  simp only [posCore, mkPos]
  omega

theorem ne_mkPos_of_banker {p : Pos} (hp : posSlot p = 0) (c : Nat) {k : Nat} (hk : 1 ≤ k) (hk' : k ≤ 14) : p ≠ mkPos c k := by
  rintro rfl
  simp only [posSlot, mkPos] at hp
  omega

theorem sreg_firstTask (d : ActiveDeal) (e n : Nat) : (d.firstTask e n).sreg 1 = word d.args ∧ ∀ r, 3 ≤ r → (d.firstTask e n).sreg r = 0 := by
  have hr (r : Nat) : (d.firstTask e n).sreg r = ((({} : Task).setSreg 1 (word d.args)).setSreg 2 (if d.light then word n else 0)).sreg r := rfl
  refine ⟨?_, fun r h => ?_⟩
  · rw [hr, Task.sreg_setSreg, Task.sreg_setSreg]
    simp
  · rw [hr, Task.sreg_setSreg, Task.sreg_setSreg, if_neg (by omega), if_neg (by omega), sreg_start]

/-- The START of a new task that meets its checks, its deal having started on this core before. -/
theorem start_spec {s : State} {e : Nat} (n : Nat) {k : Nat} {d : ActiveDeal} (hp : posSlot s.cur = 0) (hk : 1 ≤ k) (hk' : k ≤ 14)
    (hs : e ∈ (s.core (posCore s.cur)).started) (hc : d.counted = false) : let p := mkPos (posCore s.cur) k
      let u := s.startNew e n d p
      let t := u.block (u.cycle + 20) Finish.plain
      t.slot p = ((s.slot p).takes (d.firstTask e n)).starts s.cycle d.slice ∧ (t.slot s.cur).st = .parked ∧ t.mem = s.mem ∧
        Due t (s.cycle + 20) .classBCompletion (.classBCompletion (s.tk s.cur) s.nextId endsPlain) := by
  intro p u t
  have hne : s.cur ≠ p := ne_mkPos_of_banker hp _ hk hk'
  obtain ⟨w, h, a, hrest, hslot⟩ := startNew_of_started (p := p) n (by rwa [posCore_mkPos _ hk']) hc
  have keeps {γ : Type} (g : State → γ) (hg : ∀ (s : State) w h a, g { s with slots := w, hub := h, agenda := a } = g s) : g u = g s :=
    (congrArg g hrest).trans (hg s w h a)
  have hcur : u.cur = s.cur := keeps (·.cur) fun _ _ _ _ => rfl
  have hcycle : u.cycle = s.cycle := keeps (·.cycle) fun _ _ _ _ => rfl
  have hid : u.nextId = s.nextId := keeps (·.nextId) fun _ _ _ _ => rfl
  have htk : u.tk s.cur = s.tk s.cur := by rw [State.tk, hslot, if_neg hne, State.tk]
  obtain ⟨⟨-, hst, -, hmem, -, hothers⟩, hdue⟩ := block_parks_due u (u.cycle + 20) Finish.plain
  rw [hcur] at hst hothers hdue
  rw [hcycle, htk, hid] at hdue
  refine ⟨(hothers p hne.symm).trans ((hslot p).trans (if_pos rfl)), hst, hmem.trans (keeps (·.mem) fun _ _ _ _ => rfl), ?_⟩
  exact hcycle ▸ hdue

-- REAP

/-- The slot of a task that has exited, as REAP leaves it: empty, with its channels (R375). -/
def State.reaps (s : State) (p : Pos) : State :=
  (s.modSlot p fun x => { x.emptied with evq := [] }).endTask (s.task p).deal (s.task p).err

theorem exec_reap_of_fetch {s s₁ : State} {d a : Reg} {x : Word} (hf : fetchSrcs [a] s = .ok [x] s₁) (hp : posSlot s.cur = 0) :
    (x.toNat = 0 ∨ 15 ≤ x.toNat → exec (.reap d a) s = .next (s₁.formatFault 0)) ∧
    (1 ≤ x.toNat → x.toNat ≤ 14 → exec (.reap d a) s = .next (
      let p := mkPos (posCore s₁.cur) x.toNat
      if (s₁.slot p).st != .exited then s₁.block (s₁.cycle + 8) (Finish.value_ d 0)
      else
        let v := (s₁.reaps p).schedule (posCore s₁.cur)
        v.block (v.cycle + 8) (Finish.value_ d (eventWord 2 x.toNat (s₁.task p).deal (s₁.task p).index).toNat))) := by
  refine ⟨fun h => ?_, fun h h' => ?_⟩
  · have hbad : x.toNat / 16 ≠ 0 ∨ bits x.toNat 0 4 = 0 ∨ bits x.toNat 0 4 = 15 := by
      rw [bits_zero]
      omega
    simp only [exec_reap, execReap, hp, ne_eq, not_true_eq_false, if_false, with1_of_fetch hf, Bool.or_eq_true, decide_eq_true_eq, or_assoc]
    rw [if_pos hbad]
  · have hk : bits x.toNat 0 4 = x.toNat := by
      rw [bits_zero]
      omega
    have hgood : ¬ (x.toNat / 16 ≠ 0 ∨ x.toNat = 0 ∨ x.toNat = 15) := by omega
    simp only [exec_reap, execReap, hp, ne_eq, not_true_eq_false, if_false, with1_of_fetch hf, hk, Bool.or_eq_true, decide_eq_true_eq, or_assoc,
      hgood]
    rfl

theorem toNat_eventWord (kind slot deal index : Nat) : (eventWord kind slot deal index).toNat =
    (kind * 2 ^ 60 + slot * 2 ^ 56 + deal * 2 ^ 48 + index % 2 ^ 48) % 2 ^ 64 := BitVec.toNat_ofNat ..

/-- What REAP of an exited task leaves in its slot, and the end it reports to its deal (R375, R376). -/
theorem reaps_spec (s : State) (p : Pos) : ((s.reaps p).slot p).st = .empty ∧ (s.reaps p).task p = {} ∧
    ((s.reaps p).slot p).ends = (s.slot p).ends ∧ (s.reaps p).mem = s.mem ∧
    Due (s.reaps p) (s.reaps p).cycle .completionRecordWrite (.taskEnded (s.task p).deal (s.task p).err) := by
  have hslot : (s.reaps p).slot p = { (s.slot p).emptied with evq := [] } :=
    s.slot_modSlot_self p fun x => { x.emptied with evq := [] }
  refine ⟨by rw [hslot]; rfl, by rw [State.task, hslot]; rfl, by rw [hslot]; rfl, rfl, due_post ..⟩

-- EXIT

theorem waitsFor_park (s : State) (p : Pos) (w : Wait) : (s.park p w).waitsFor (s.tk p) w = true := by
  have hslot := s.slot_park p p w
  rw [if_pos rfl] at hslot
  simp [State.waitsFor, State.isAt, Slot.resident, State.tk, State.task, hslot]

/-- EXIT while a wait of step 1 has not ended, or a store or a reconfiguration holds the drain up: the task looks again in the next cycle (R376). -/
theorem exec_exit_of_waiting {s : State} (h : (s.park s.cur .exiting).quiet s.cur = false ∨ (s.park s.cur .exiting).drainWaits s.cur = true) :
    exec .exit s = .next ((s.park s.cur .exiting).postAt (s.cycle + 1) s.cur .exitEventPush (.exitWait (s.tk s.cur))) := by
  rw [exec_exit, execExit, State.exitPoll, waitsFor_park, if_neg (by decide), if_pos]
  · rfl
  · rcases h with h | h
    · rw [show (s.tk s.cur).pos = s.cur from rfl, h]
      rfl
    · rw [show (s.tk s.cur).pos = s.cur from rfl, h, Bool.or_true]

/-- The current task as its EXIT drains it: parked, its monitor and its requests that wait freed (R376). -/
def State.exitDrained (s : State) : Written × State :=
  (((s.park s.cur .exiting).revoke (s.tk s.cur)).freeWaits (s.tk s.cur)).drain s.cur

/-- EXIT after these waits: the drain, and the push of its event is due (R376). -/
theorem exec_exit_of_quiet {s : State} (hq : (s.park s.cur .exiting).quiet s.cur = true) (hd : (s.park s.cur .exiting).drainWaits s.cur = false) :
    exec .exit s = .next (s.exitDrained.2.postAt (s.exitDrained.2.cycle + 4 + s.exitDrained.1.cost) s.cur .exitEventPush
      (.exitPush (s.tk s.cur) none)) := by
  rw [exec_exit, execExit, State.exitPoll, waitsFor_park, if_neg (by decide), if_neg]
  · rfl
  · rw [show (s.tk s.cur).pos = s.cur from rfl, hq, hd]
    decide

-- SLEEP

@[simp] theorem asPos_cur_advance (s : State) : s.asPos s.cur State.advance = s.advance := by
  have h : s.advance.cur = s.cur := s.advance_cur
  show { s.advance with cur := s.cur } = s.advance
  rw [← h]

theorem exec_sleep_of_fetch {s s₁ : State} {a : Reg} {x : Word} (hf : fetchSrcs [a] s = .ok [x] s₁) : exec (.sleep a) s =
    .next (if x.toNat ≤ s₁.cycle then s₁.slept s₁.cur x.toNat
      else (s₁.park s₁.cur (.sleep x.toNat ((s₁.promised s₁.cur x.toNat).map (·.1)))).post x.toNat 50000 .sleepExpiry
        (.sleepExpiry (s₁.tk s₁.cur) x.toNat)) := by
  rw [exec_sleep, execSleep, with1_of_fetch hf]

/-- SLEEP until a later cycle: the slot parks, and its end is due then (R377). -/
theorem sleep_parks (s : State) (w : Wait) (till : Nat) :
    ∃ t, (s.park s.cur w).post till 50000 .sleepExpiry (.sleepExpiry (s.tk s.cur) till) = t ∧ (t.slot s.cur).st = .parked ∧
      t.my.pc = s.my.pc ∧ OnlyMySlot { s with agenda := t.agenda } t ∧ Due t till .sleepExpiry (.sleepExpiry (s.tk s.cur) till) := by
  obtain ⟨-, hst, hmy, -, -, hslots⟩ := parksFor_park s w
  refine ⟨_, rfl, hst, ?_, ⟨rfl, hslots⟩, due_post ..⟩
  show (s.park s.cur w).my.pc = s.my.pc
  rw [hmy]

theorem slept_of_no_promise {s : State} {v : Nat} (h : s.promised s.cur v = none) : s.slept s.cur v = s.advance := by
  simp only [State.slept, h, asPos_cur_advance]

theorem slept_of_missed {s : State} {v k : Nat} {c : Copy} (h : s.promised s.cur v = some (k, c)) (hc : c.outcome = none)
    (hi : s.my.inTrap = false) : s.slept s.cur v = s.advance.trapAfter s.cur s.my.pc { cause := 7, sub := 0, val := v, deferred := false } := by
  have hi : (s.task s.cur).inTrap = false := hi
  simp only [State.slept, h, hc, hi, Option.isSome_none, Bool.false_eq_true, if_false, asPos_cur_advance]
  rfl

/-- A trap at PC + 4, where nothing earlier is outstanding or held and a handler can run (R42, R458, R459). -/
theorem trapAfter_advance_my {s : State} (tr : Trap) (hd : tr.deferred = false) (hi : s.my.inTrap = false) (hl : s.isLight s.cur = false)
    (h₁ : s.my.cr 1 ≠ 0) (ho : s.my.outst = []) (ht : s.my.traps = []) (hr : s.my.resume = none) (hst : (s.slot s.cur).st = .ready) :
    ∃ t, s.advance.trapAfter s.cur s.my.pc tr = t ∧ t.my.pc = word (s.my.cr 1) ∧ t.my.cr 2 = (s.my.pc + 4).toNat ∧
      t.my.cr 3 = (tr.cause + 256 * tr.sub) % 2 ^ 64 ∧ t.my.cr 4 = tr.val % 2 ^ 64 := by
  have hcr (k : Nat) (hk : ¬(0x48 ≤ k ∧ k ≤ 0x4F)) : s.advance.my.cr k = s.my.cr k := State.goTo_cr s _ k hk
  obtain ⟨hpc, hres⟩ := goesOn_advance s
  rw [hr] at hpc
  have hst' : (s.advance.slot s.advance.cur).st = .ready := by rw [State.advance_cur, st_advance, hst]
  have ho' : s.advance.my.outst = [] := (State.goTo_my s _ (·.outst) fun _ _ _ => rfl).trans (by simp [ho])
  have ht' : s.advance.my.traps = [] := (State.goTo_my s _ (·.traps) fun _ _ _ => rfl).trans ht
  have hi' : s.advance.my.inTrap = false := by rw [Task.inTrap, hcr 0 (by decide)]; exact hi
  have hl' : s.advance.isLight s.advance.cur = false := by rw [State.advance_cur, State.isLight, State.core_advance]; exact hl
  obtain ⟨t, h, -, -, htpc, h₂, h₃, h₄, -⟩ := trapAfter_my s.my.pc tr hst' ho' ht' hres hi' hd (by rwa [hcr 1 (by decide)]) hl'
  rw [State.advance_cur] at h
  rw [hcr 1 (by decide)] at htpc
  rw [hpc] at h₂
  rw [hd] at h₃
  exact ⟨t, h, htpc, h₂, h₃, h₄⟩

-- SPAWN

/-- An open wait of the current slot with an event for it on the agenda, whatever the event and its place in its cycle. -/
theorem waitsWith_blockOpen_post (s : State) (due tie : Nat) (ev : Instr) (m : Tk → Nat → Msg) :
    WaitsWith (s.blockOpen.2.post due tie ev (m (s.blockOpen.2.tk s.blockOpen.2.cur) s.blockOpen.1)) ev m := by
  obtain ⟨-, hst, hmy, -⟩ := parksFor_park s.fresh.2 (.blocking s.nextId)
  refine ⟨hst, s.nextId, due, ?_, due_post ..⟩
  show (s.fresh.2.park s.fresh.2.cur (.blocking s.nextId)).my.wait = _
  rw [hmy]

/-- SPAWN once its operand is read (R413). -/
theorem exec_spawn_of_fetch {s s₁ : State} {a : Reg} {x : Word} (d : Reg) (hf : fetchSrcs [a] s = .ok [x] s₁) : exec (.spawn d a) s = .next (
    if !s₁.isLight s₁.cur then s₁.formatFault 10
    else if x.toNat % 4 ≠ 0 ∨ x.toNat / 2 ^ 57 ≠ 0 then s₁.formatFault 1
    else if s₁.drainWaits s₁.cur then s₁.waitTurn
    else
      let v := s₁.drain s₁.cur
      let u := v.2.blockOpen
      u.2.post (v.2.cycle + v.1.cost + 1) (posSlot u.2.cur) .lightRecordArrival
        (.lightSpawn (u.2.tk u.2.cur) u.1 d (v.2.cycle + v.1.cost + 8) (lightWords s₁.my x.toNat 1 s₁.my.lineage 0))) := by
  simp only [exec_spawn, execSpawn, with1_of_fetch hf, Bool.or_eq_true, decide_eq_true_eq]
  rfl

/-- Settles O45: for each member what it does once its operand is read, by the lemmas above. -/
theorem taskLifeMembers : Obligations.TaskLifeMembers := by
  refine ⟨fun s a d hp => ⟨?startDenied, ?reapDenied⟩,
    fun s s₁ a x e n k d hf hp hp₁ hx hk hk' he hn hd => ⟨fun hbad => ?misuse, fun hst hl ha hs hc => ?start⟩,
    fun s s₁ d a x hf hp => ⟨(exec_reap_of_fetch hf hp).1, fun h h' => ⟨fun hst => ?reapLive, fun hst => ?reapExited⟩⟩, fun s => ?exit,
    fun s s₁ a x hf => ⟨fun h => ?sleep, fun h hn => ?slept, fun k c h hk hc hi hl h₁ ho ht hr hst => ?missed⟩,
    fun s s₁ d a x hf => ⟨fun hl => ?spawnFull, fun hl hx => ?spawnTarget, fun hl hx hx' hw => ?spawnWaits, fun hl hx hx' hw => ?spawn⟩⟩
  case startDenied => rw [exec_start, execStart, if_pos hp]
  case reapDenied => rw [exec_reap, execReap, if_pos hp]
  case misuse => rw [exec_start_of_fetch hf hp hx hk hk' he hn hd, if_pos ((startMisuse_new_iff ..).2 (by rwa [posCore_mkPos _ hk']))]
  case start =>
    have hgood : ¬ s₁.startMisuse (mkPos (posCore s₁.cur) k) d none false = true := by
      rw [startMisuse_new_iff, posCore_mkPos _ hk']
      exact fun h => h.elim (· hst) fun h => h.elim (· hl) fun h => Nat.not_lt.2 ha h
    obtain ⟨hslot, hpark, hmem, hdue⟩ := start_spec n hp₁ hk hk' (by simpa using hs) hc
    obtain ⟨hargs, hzero⟩ := sreg_firstTask d e n
    refine ⟨_, by rw [exec_start_of_fetch hf hp hx hk hk' he hn hd, if_neg hgood], ?_⟩
    simp only [State.task, hslot]
    exact ⟨rfl, Nat.lt_succ_self _, rfl, hargs, hzero, rfl, rfl, rfl, rfl, rfl, rfl, rfl, rfl, fun _ => rfl, hpark, hmem, hdue⟩
  case reapLive =>
    rw [(exec_reap_of_fetch hf hp).2 h h', if_pos (by simpa using hst)]
    exact ⟨_, rfl, block_parks_due ..⟩
  case reapExited =>
    obtain ⟨hempty, htask, hends, hmem, hdue⟩ := reaps_spec s₁ (mkPos (posCore s₁.cur) x.toNat)
    refine ⟨s₁.reaps (mkPos (posCore s₁.cur) x.toNat), hempty, htask, hends, hmem, hdue, ?_⟩
    rw [(exec_reap_of_fetch hf hp).2 h h', if_neg (by simpa using hst), toNat_eventWord]
    rfl
  case exit =>
    by_cases h : (s.park s.cur .exiting).quiet s.cur = false ∨ (s.park s.cur .exiting).drainWaits s.cur = true
    · refine ⟨_, exec_exit_of_waiting h, fun _ => ⟨(parksFor_park s .exiting).post .., due_postAt ..⟩, fun hq hd => ?_⟩
      simp [hq, hd] at h
    · obtain ⟨hq, hd⟩ : (s.park s.cur .exiting).quiet s.cur = true ∧ (s.park s.cur .exiting).drainWaits s.cur = false := by simpa using h
      exact ⟨_, exec_exit_of_quiet hq hd, fun hw => absurd hw h, fun _ _ => ⟨_, due_postAt ..⟩⟩
  case sleep =>
    rw [exec_sleep_of_fetch hf, if_neg (Nat.not_le.2 h)]
    obtain ⟨t, rfl, hsleeps⟩ := sleep_parks s₁ (.sleep x.toNat ((s₁.promised s₁.cur x.toNat).map (·.1))) x.toNat
    exact ⟨_, rfl, hsleeps⟩
  case slept =>
    rw [exec_sleep_of_fetch hf, if_pos h, slept_of_no_promise hn]
    exact ⟨_, rfl, goesOn_advance s₁, onlyMySlot_advance s₁⟩
  case missed =>
    rw [exec_sleep_of_fetch hf, if_pos h, slept_of_missed hk hc hi]
    obtain ⟨t, rfl, hpc, h₂, h₃, h₄⟩ :=
      trapAfter_advance_my { cause := 7, sub := 0, val := x.toNat, deferred := false } rfl hi hl h₁ ho ht hr hst
    exact ⟨_, rfl, hpc, h₂, h₃, h₄.trans (Nat.mod_eq_of_lt x.isLt)⟩
  all_goals rw [exec_spawn_of_fetch d hf, hl]
  case spawnFull => rfl
  case spawnTarget => rw [if_neg (by decide), if_pos (by omega)]
  case spawnWaits => rw [if_neg (by decide), if_neg (by omega), if_pos hw]
  case spawn =>
    rw [if_neg (by decide), if_neg (by omega), if_neg (by simp [hw])]
    let v := s₁.drain s₁.cur
    exact ⟨_, v.2.cycle + v.1.cost + 8, rfl, waitsWith_blockOpen_post v.2 (v.2.cycle + v.1.cost + 1) (posSlot v.2.cur) _
      fun k id => .lightSpawn k id d (v.2.cycle + v.1.cost + 8) (lightWords s₁.my x.toNat 1 s₁.my.lineage 0)⟩

end Sys2Proof.Machine
end

section
/-! PROOF. Queue and counter members (O44): QTRY, COORD, QCFG, DEPINIT, DEPDEC, LAUNCH and the arrival of a counter's request. -/
namespace Sys2Proof.Machine

-- QTRY, by port (R387)

theorem portState_channel (s : State) (p : Pos) {n : Nat} (h : n < 4) : s.portState p n =
    min 255 (s.endpoint p n).inbound.length + 256 * s.channelRoom p n + if s.channelPartner p n = none then 65536 else 0 := by
  have h6 : n ≠ 6 := by omega
  simp only [State.portState, h, h6, decide_true, decide_false, Bool.true_and, Bool.false_and, Bool.false_eq_true, if_true, if_false]
  cases s.channelPartner p n <;> rfl

theorem portState_partner (s : State) (p : Pos) : s.portState p 4 = min 255 (s.slot p).comps.length +
    256 * min (8 - (s.slot p).cmds.length) (8 - ((s.slot p).comps.length + (s.slot p).compsRes)) := by
  simp [State.portState]

theorem portState_dealer (s : State) (p : Pos) : s.portState p 5 = min 255 (s.slot p).returns.length + 256 * (4 - (s.slot p).mailbox.length) := by
  simp [State.portState]

theorem portState_arrivals {s : State} {p : Pos} (h : s.isLight p = false) : s.portState p 6 = 0 := by
  simp [State.portState, h]

theorem portState_events (s : State) (p : Pos) : s.portState p 7 = min 255 (s.slot p).evq.length +
    256 * if posSlot p = 0 then 16 - (s.core (posCore p)).outq.length else 16 - (s.slot (mkPos (posCore p) 0)).evq.length := by
  simp [State.portState]

theorem exec_qtry_of_port {s : State} {a : Reg} {n : Nat} (d : Reg) (h : a.toNat = 24 + n) :
    exec (.qtry d a) s = .next (finishShort d (word (s.portState s.cur n)) s) := by
  rw [exec_qtry, execQtry, h, Nat.add_sub_cancel_left]

-- QCFG

theorem exec_qcfg_of_fetch {s s₁ : State} {a : Reg} {x : Word} (n : BitVec 2) (hf : fetchSrcs [a] s = .ok [x] s₁) :
    exec (.qcfg a n) s = .next (
      if x.toNat / 2 ^ 15 ≠ 0 ∨
          (if bit x.toNat 14 then bits x.toNat 0 14 ≠ 0 else bits x.toNat 8 4 = 0 ∨ bits x.toNat 8 4 = 15) then s₁.formatFault 0
      else
        let u := coreOf (coreDie (posCore s₁.cur)) 8 8
        let h := hops (posCore s₁.cur) u
        s₁.blockOpen.2.post (s₁.cycle + 10 + 2 * h) (tieAt u s₁.cur) .channelAgentRequest
          (.channelAgent (s₁.blockOpen.2.tk s₁.cur) s₁.nextId n.toNat x.toNat (s₁.cycle + 20 + 4 * h))) := by
  rw [exec_qcfg, execQcfg, with1_of_fetch hf]
  by_cases h : bit x.toNat 14 = true <;> simp [h] <;> rfl

/-- The operands that QCFG accepts: bit 14 alone, or the name of an endpoint of a task slot (R386). -/
theorem qcfg_accepts {x : Nat} (h : x = 2 ^ 14 ∨ (x < 2 ^ 14 ∧ 1 ≤ x / 256 % 16 ∧ x / 256 % 16 ≤ 14)) :
    ¬ (x / 2 ^ 15 ≠ 0 ∨ if bit x 14 then bits x 0 14 ≠ 0 else bits x 8 4 = 0 ∨ bits x 8 4 = 15) := by
  rintro (hbig | hbad)
  · omega
  · rcases h with rfl | ⟨hlt, hlo, hhi⟩
    · exact absurd hbad (by decide)
    · have hbit : bit x 14 = false := (bit_eq_false_iff ..).2 (by omega)
      rw [hbit, if_neg (by decide)] at hbad
      simp only [bits] at hbad
      omega

theorem tk_blockOpen (s : State) : s.blockOpen.2.tk s.cur = s.tk s.cur := tk_modSlot s.fresh.2 s.cur s.cur fun _ => rfl

-- DEPINIT and DEPDEC

/-- The end of DEPINIT and DEPDEC: `cost` cycles on, the request is under way to its counter unit, and the slot waits for its answer (R380). -/
def State.asksCounter (s : State) (k : Nat) (dec : Bool) (v cost : Nat) : State :=
  let u := unitCore (k / 4096)
  let h := routeHops (posCore s.cur) u
  let far := if coreDie (posCore s.cur) = coreDie u then 0 else 80
  let from_ := s.cycle + cost
  (s.post (from_ + 10 + 2 * h + far) (tieAt u s.cur) .counterRequestArrival (.counterRequest k dec v)).block
    (from_ + 20 + 4 * h + 2 * far) Finish.plain

theorem due_block {s : State} {due : Nat} {ev : Instr} {m : Msg} (h : Due s due ev m) (till : Nat) (f : Finish) : Due (s.block till f) due ev m := by
  obtain ⟨x, hx, hdue⟩ := h
  exact ⟨x, (State.mem_postAt ..).2 (.inr hx), hdue⟩

theorem waitsWith_block (s : State) (due : Nat) (f : Finish) : WaitsWith (s.block due f) .classBCompletion fun k id => .classBCompletion k id f := by
  have h := waitsWith_blockOpen s due fun k id => .classBCompletion k id f
  simp only [tk_blockOpen] at h
  exact h

theorem asksCounter_spec (s : State) (k : Nat) (dec : Bool) (v cost : Nat) : let t := s.asksCounter k dec v cost
    ParksFor s t (.blocking s.nextId) ∧ WaitsWith t .classBCompletion (fun k id => .classBCompletion k id endsPlain) ∧
      ∃ due, s.cycle + 10 ≤ due ∧ Due t due .counterRequestArrival (.counterRequest k dec v) := by
  refine ⟨(block_parks_due ..).1, waitsWith_block .., _, ?_, due_block (due_post ..) ..⟩
  omega

section
variable {s : State} {k v : Nat} {dec : Bool}

theorem depMember_reserved (h : 2 ^ 14 ≤ k ∨ 2 ^ 16 ≤ v) : depMember k dec v s = s.formatFault 0 := by
  have hbad : k / 2 ^ 14 ≠ 0 ∨ v / 2 ^ 16 ≠ 0 := by omega
  rw [depMember, if_pos (by simpa using hbad)]

variable (hk : k < 2 ^ 14) (hv : v < 2 ^ 16)
include hk hv

/-- Reserved values aside, DEPINIT and DEPDEC as the model makes them. -/
theorem depMember_of_lt : depMember k dec v s =
    if (s.hub.counters.get {} k).owner ≠ some s.my.space ∨ ¬ s.diePart (k / 4096) = s.diePart (coreDie (posCore s.cur)) then s.formatFault 9
    else if dec = true ∧ (s.my.accessesDone s.cycle = false ∨ s.drainStuck s.cur = true) then s.waitTurn
    else if dec then (s.drain s.cur).2.asksCounter k dec v (s.drain s.cur).1.cost else s.asksCounter k dec v 0 := by
  have hgood : ¬ (k / 2 ^ 14 ≠ 0 ∨ v / 2 ^ 16 ≠ 0) := by omega
  rw [depMember, if_neg (by simpa using hgood)]
  cases dec
  · simp only [Bool.or_eq_true, decide_eq_true_eq, Bool.false_and, Bool.false_eq_true, false_and, if_false]
    rfl
  · simp only [Bool.or_eq_true, decide_eq_true_eq, Bool.true_and, Bool.not_eq_true', true_and, if_true, State.asksCounter, drain_cur]

end

/-- The drain of a DEPDEC empties the task's hand, and its request leaves it empty (R330, R380). -/
theorem hand_asksCounter_drain (s : State) (k : Nat) (dec : Bool) (v cost : Nat) : ((s.drain s.cur).2.asksCounter k dec v cost).my.hand = [] := by
  obtain ⟨⟨-, -, hmy, -⟩, -⟩ := asksCounter_spec (s.drain s.cur).2 k dec v cost
  have hdrained : (s.drain s.cur).2.my = ((s.drainAll s.my.space (posCore s.cur)).2.task s.cur).drained := by
    rw [State.my, drain_cur]
    exact State.task_modTask_self _ _ _
  rw [hmy, hdrained]
  rfl

-- LAUNCH

/-- An access that does not migrate its task, once it reaches its place. -/
theorem withAccess_of_reaches_fixed {s t : State} {va n : Nat} {write : Bool} {p : Place} (h : Reaches s va n write p t)
    (k : Place → State → State) : withAccess va n write false s k = k p t := by
  obtain ⟨hal, hres, hport, hwait⟩ := h
  simp [withAccess, hal, withPlace, hres, hport, hwait]

theorem exec_launch_of_fetch {s s₁ : State} {a b : Reg} {x y : Word} (d : Reg) (hf : fetchSrcs [a, b] s = .ok [x, y] s₁) :
    (x.toNat % 64 ≠ 0 → exec (.launch d a b) s = .next (s₁.formatFaultAt 1 x.toNat)) ∧
    (x.toNat % 64 = 0 → 2 ^ 16 ≤ y.toNat → exec (.launch d a b) s = .next (s₁.formatFault 0)) ∧
    (x.toNat % 64 = 0 → y.toNat < 2 ^ 16 → ∀ p s₂, Reaches s₁ x.toNat 64 false p s₂ → s₂.drainWaits s₂.cur = false →
      ∃ (u : State) (due r : Nat) (q : Bool), exec (.launch d a b) s = .next (u.blockOpen.2.postAt due u.cur .classBCompletion
        (.launch (u.blockOpen.2.tk u.cur) u.blockOpen.1 y.toNat r q x.toNat d))) := by
  rw [exec_launch, execLaunch, with2_of_fetch hf]
  refine ⟨fun h => by rw [if_pos h], fun h h' => ?_, fun h h' p s₂ hreach hw => ?_⟩
  · rw [if_neg (by simp [h]), if_pos (by omega)]
  · rw [if_neg (by simp [h]), if_neg (by omega), withAccess_of_reaches_fixed hreach, hw]
    cases p.scratch
    · exact ⟨_, _, _, _, rfl⟩
    · exact ⟨_, _, _, _, rfl⟩

-- the arrival of a request at its counter

/-- A request at a counter that holds no deal changes that counter's value alone, and the hub's count of decrements below zero (R372). -/
theorem applyCounter_of_free {s : State} {k : Nat} (dec : Bool) (v : Nat) (hh : (s.hub.counters.get {} k).held = none) :
    ∃ h, s.applyCounter k dec v = { s with hub := h } ∧ ∀ c, h.counters.get {} c =
      if c = k then { s.hub.counters.get {} k with value := if dec then (s.hub.counters.get {} k).value - 1 else v }
      else s.hub.counters.get {} c := by
  unfold State.applyCounter
  simp only [hh]
  split
  · exact ⟨_, rfl, fun c => Tbl.get_put ..⟩
  · exact ⟨_, rfl, fun c => Tbl.get_put ..⟩

theorem counterRequestArrival_spec {s : State} {k v : Nat} {dec : Bool} (c : Nat) (hm : s.msg = .counterRequest k dec v)
    (hp : s.partHalted (s.diePart (k / 4096)) = false) (hh : (s.hub.counters.get {} k).held = none) :
    ∃ t, exec .counterRequestArrival s = .next t ∧
      (t.hub.counters.get {} k).value = (if dec then (s.hub.counters.get {} k).value - 1 else v) ∧
      t.slots = s.slots ∧ t.mem = s.mem ∧ t.cores = s.cores ∧ (c ≠ k → t.hub.counters.get {} c = s.hub.counters.get {} c) := by
  obtain ⟨h, ht, hcounters⟩ := applyCounter_of_free dec v hh
  refine ⟨{ s with hub := h }, ?_, ?_, rfl, rfl, rfl, fun hc => (hcounters c).trans (if_neg hc)⟩
  · rw [← ht, exec_counterRequestArrival, execCounterRequestArrival]
    simp only [hm, hp, Bool.false_eq_true, if_false]
  · exact congrArg Counter.value ((hcounters k).trans (if_pos rfl))

/-- Settles O44: for each member what it does once its operands are read, by the lemmas above. -/
theorem queueAndCounterMembers : Obligations.QueueAndCounterMembers := by
  refine ⟨fun s d a hl => ⟨fun h h' => ?channel, fun h => ?partner, fun h => ?dealer, fun h => ?arrivals, fun h hp => ?taskEvents,
      fun h hp => ?bankerEvents, fun k hk => ?coord⟩,
    fun s s₁ a n x hf => ⟨fun h => ?qcfgReserved, fun h => ?qcfg⟩,
    fun s s₁ a b x y hf => ?depinit, fun s s₁ a x hf => ?depdec,
    fun s s₁ s₂ d a b x y p hf => ⟨(exec_launch_of_fetch d hf).1, (exec_launch_of_fetch d hf).2.1, fun h h' hr hw => ?launch⟩,
    fun s c k v => counterRequestArrival_spec c, fun s c k v => counterRequestArrival_spec c⟩
  case channel => rw [exec_qtry_of_port d (n := a.toNat - 24) (by omega), portState_channel _ _ (by omega)]
  case partner => rw [exec_qtry_of_port (n := 4) d h, portState_partner]; rfl
  case dealer => rw [exec_qtry_of_port (n := 5) d h, portState_dealer]; rfl
  case arrivals => rw [exec_qtry_of_port (n := 6) d h, portState_arrivals hl]; rfl
  case taskEvents => rw [exec_qtry_of_port (n := 7) d h, portState_events, if_neg hp]; rfl
  case bankerEvents => rw [exec_qtry_of_port (n := 7) d h, portState_events, if_pos hp]; rfl
  case coord => rw [exec_coord, execCoord, hl]; rfl
  case qcfgReserved => rw [exec_qcfg_of_fetch n hf, if_pos (.inl (by omega))]
  case qcfg =>
    rw [exec_qcfg_of_fetch n hf, if_neg (qcfg_accepts h), tk_blockOpen]
    exact ⟨_, rfl, (parksFor_park s₁.fresh.2 _).post .., due_post ..⟩
  case depinit =>
    rw [exec_depinit, execDepinit, with2_of_fetch hf]
    refine ⟨fun h => ?_, fun hx hy => ?_⟩
    · rw [depMember_reserved h]
    · rw [depMember_of_lt hx hy]
      refine ⟨fun h => by rw [if_pos h], fun ho hn => ?_⟩
      rw [if_neg (by simp only [ho, hn, ne_eq, not_true_eq_false, or_self, not_false_eq_true])]
      obtain ⟨hp, -, due, hdue⟩ := asksCounter_spec s₁ x.toNat false y.toNat 0
      exact ⟨_, due, rfl, hp, hdue⟩
  case depdec =>
    rw [exec_depdec, execDepdec, with1_of_fetch hf]
    refine ⟨fun h => ?_, fun hx => ?_⟩
    · rw [depMember_reserved (.inl h)]
    · rw [depMember_of_lt hx (by decide)]
      refine ⟨fun h => by rw [if_pos h], fun ho hn hw => ?_, fun ho hn ha hd => ?_⟩
      all_goals rw [if_neg (by simp only [ho, hn, ne_eq, not_true_eq_false, or_self, not_false_eq_true])]
      · rw [if_pos ⟨rfl, hw⟩]
      · obtain ⟨-, hwaits, due, -, hdue⟩ := asksCounter_spec (s₁.drain s₁.cur).2 x.toNat true 0 (s₁.drain s₁.cur).1.cost
        exact ⟨_, due, by rw [if_neg (by simp [ha, hd]), if_pos rfl], hwaits, hand_asksCounter_drain .., hdue⟩
  case launch =>
    obtain ⟨u, due, r, q, he⟩ := (exec_launch_of_fetch d hf).2.2 h h' p s₂ hr hw
    exact ⟨_, r, q, he, waitsWith_blockOpen u due fun k id => .launch k id y.toNat r q x.toNat d⟩

end Sys2Proof.Machine
end

section
/-! PROOF. What stands on the agenda stays there while more is put on it. -/
namespace Sys2Proof.Machine

theorem Due.of_agenda {s t : State} {due : Nat} {ev : Instr} {m : Msg} (h : Due s due ev m) (hs : ∀ x ∈ s.agenda, x ∈ t.agenda) : Due t due ev m := by
  obtain ⟨x, hx, hdue⟩ := h
  exact ⟨x, hs x hx, hdue⟩

theorem Due.post {s : State} {due : Nat} {ev : Instr} {m : Msg} (h : Due s due ev m) (due' tie : Nat) (ev' : Instr) (m' : Msg) :
    Due (s.post due' tie ev' m') due ev m := h.of_agenda fun _ hx => (State.mem_post ..).2 (.inr hx)

theorem due_postHub (s : State) (due : Nat) (ev : Instr) (m : Msg) : Due (s.postHub due ev m) due ev m := due_post ..

end Sys2Proof.Machine
end

section
/-! PROOF. Barrier members (O46): BARW, BARA and their arrivals, BARQ, PROBE, DRAIN and EVGATH. -/
namespace Sys2Proof.Machine

-- wires and units

@[simp] theorem wire_modWire_self (s : State) (w : Nat) (f : Wire → Wire) : (s.modWire w f).wire w = f (s.wire w) := Tbl.get_upd_self ..

@[simp] theorem barUnit_modBarUnit_self (s : State) (c k : Nat) (f : BarUnit → BarUnit) : (s.modBarUnit c k f).barUnit c k = f (s.barUnit c k) := by
  simp only [State.barUnit, State.modBarUnit, State.core_modCore_self, Tbl.get_upd_self]

@[simp] theorem wire_modBarUnit (s : State) (c k w : Nat) (f : BarUnit → BarUnit) : (s.modBarUnit c k f).wire w = s.wire w := rfl

theorem barKind_eq (d : Nat) : barKind d = d % 4 := bits_zero d 2

theorem kind_ne_three_of_barValid {d : Nat} {p : Pos} (h : barValid d p = true) : d % 4 ≠ 3 := by
  simp only [barValid, Bool.and_eq_true, bne_iff_ne, barKind_eq, and_assoc] at h
  exact h.1

/-- A wire's number gives its kind back (R388). -/
theorem wireKind_barWire {k : Nat} (c : Nat) (h : k < 3) : wireKind (barWire k c) = k := by
  have hy : coreY c < 16 := Nat.mod_lt _ (by decide)
  have hx : coreX c < 16 := Nat.mod_lt _ (by decide)
  have hmod (n : Nat) (hn : n < 48) : (coreDie c * 48 + n) % 48 = n := by omega
  interval_cases k
  · have hw : barWire 0 c % 48 = coreY c := hmod (coreY c) (by omega)
    rw [wireKind, hw, if_pos hy]
  · have hw : barWire 1 c % 48 = 16 + coreX c := hmod (16 + coreX c) (by omega)
    rw [wireKind, hw, if_neg (by omega), if_pos (by omega)]
  · have hw : barWire 2 c % 48 = 32 := hmod 32 (by decide)
    rw [wireKind, hw]
    rfl

-- an arrival on its way to its wire

theorem mem_insertArrival (x y : Nat × Nat × BarWait) (l : List (Nat × Nat × BarWait)) : y ∈ insertArrival x l ↔ y = x ∨ y ∈ l := by
  induction l with
  | nil => simp [insertArrival]
  | cons z r ih =>
    unfold insertArrival
    split
    · simp
    · simp only [List.mem_cons, ih]
      tauto

/-- An arrival at its wire: it stands among those of this cycle, which the wire takes at the cycle's end. -/
theorem offer_spec (s : State) (wire d : Nat) (b : BarWait) : (s.cycle, d, b) ∈ ((s.offer wire d b).wire wire).coming ∧
    Due (s.offer wire d b) (s.cycle + 1) .classBCompletion (.barrierArrivals wire) := by
  refine ⟨?_, due_post ..⟩
  show _ ∈ ((s.modWire wire fun w => { w with coming := insertArrival (s.cycle, d, b) w.coming }).wire wire).coming
  rw [wire_modWire_self, mem_insertArrival]
  exact .inl rfl

theorem startArrival_eq {s : State} {d : Nat} (b : Nat → BarWait) (hv : barValid d s.cur = true) : s.startArrival d b =
    let u := s.fresh.2.park s.cur (.barrier s.nextId)
    let wire := barWire (d % 4) (posCore s.cur)
    if ((b s.nextId).kind = 0 ∧ posSlot s.cur ∈ (s.barUnit (posCore s.cur) (d % 4)).arrived) ∨ s.my.allDone s.cycle = true
    then u.offer wire d (b s.nextId)
    else u.postAt (s.cycle + 1) s.cur .classBCompletion (.barWait wire d (b s.nextId)) := by
  have hk : wireKind (barWire (d % 4) (posCore s.cur)) = d % 4 := by
    have := kind_ne_three_of_barValid hv
    exact wireKind_barWire _ (by omega)
  have hdone : (s.fresh.2.park s.cur (.barrier s.nextId)).my.allDone s.cycle = s.my.allDone s.cycle := by
    rw [show (s.fresh.2.park s.cur (.barrier s.nextId)).my = _ from my_park s.fresh.2 _]
    rfl
  unfold State.startArrival
  simp only [barKind_eq]
  dsimp only [State.fresh] at hdone ⊢
  simp only [State.park_cur, State.park_cycle, hk, hdone, State.barUnit, State.core_park, Bool.or_eq_true, Bool.and_eq_true, beq_iff_eq,
    List.contains_iff_mem]
  rfl

/-- The two ways of an arrival once its operands are read (R389, R391). -/
theorem startArrival_spec {s : State} {d : Nat} (b : Nat → BarWait) (hv : barValid d s.cur = true) :
    let wire := barWire (d % 4) (posCore s.cur)
    let again := (b s.nextId).kind = 0 ∧ posSlot s.cur ∈ (s.barUnit (posCore s.cur) (d % 4)).arrived
    (s.my.allDone s.cycle = false → ¬again → ∃ t, s.startArrival d b = t ∧ ParksFor s t (.barrier s.nextId) ∧
      Due t (s.cycle + 1) .classBCompletion (.barWait wire d (b s.nextId))) ∧
    (s.my.allDone s.cycle = true ∨ again → ∃ t, s.startArrival d b = t ∧ (t.slot s.cur).st = .parked ∧
      t.my = { s.my with wait := some (.barrier s.nextId) } ∧ t.mem = s.mem ∧ (∀ q, q ≠ s.cur → t.slot q = s.slot q) ∧ t.cores = s.cores ∧
      (s.cycle, d, b s.nextId) ∈ (t.wire wire).coming ∧ Due t (s.cycle + 1) .classBCompletion (.barrierArrivals wire)) := by
  intro wire again
  have hparks : ParksFor s (s.fresh.2.park s.cur (.barrier s.nextId)) (.barrier s.nextId) := parksFor_park s.fresh.2 _
  rw [startArrival_eq b hv]
  refine ⟨fun hd ha => ⟨_, if_neg (by simp only [hd, Bool.false_eq_true, or_false]; exact ha), hparks.post .., due_postAt ..⟩, fun h => ?_⟩
  obtain ⟨-, hst, hmy, hmem, hcores, hslots⟩ := hparks
  exact ⟨_, if_pos h.symm, hst, hmy, hmem, hslots, hcores, offer_spec ..⟩

-- the effect of an arrival

/-- An arrival that its wire takes, before it is known whether the generation completes: the descriptor is latched, the slot has arrived,
and the arrival stands among the generation's, with its expiry (R389, R392, R393). -/
def State.takesArrival (s : State) (wire d : Nat) (b : BarWait) : State :=
  let s := (s.modWire wire fun w => { w with latch := some d }).modBarUnit (posCore b.t.pos) (wireKind wire)
    fun u => { u with arrived := posSlot b.t.pos :: u.arrived }
  let s := s.modWire wire fun w => { w with waits := w.waits ++ [b] }
  if b.kind = 1 then s.postAt (s.cycle + 4) b.t.pos .classBCompletion (.classBCompletion b.t b.id Finish.plain)
  else match b.expiry with
    | some e => s.post (max (e + 1) (s.cycle + 1)) 1 .barrierTimeout (.barrierTimeout wire b.id (max e s.cycle))
    | none => s

/-- The generation with this stamp is to complete in cycle `due` (R390). -/
def State.completes (s : State) (wire due stamp : Nat) : State :=
  (s.modWire wire fun w => { w with due := some due }).post due 0 .barrierComplete (.barrierComplete wire stamp)

@[simp] theorem wire_completes (s : State) (wire due stamp : Nat) : (s.completes wire due stamp).wire wire = { s.wire wire with due := some due } :=
  wire_modWire_self s wire fun w => { w with due := some due }

section
variable {s : State} {wire d : Nat} {b : BarWait}

theorem arrive_eq (hl : (s.wire wire).latch = none ∨ (s.wire wire).latch = some d)
    (hn : posSlot b.t.pos ∉ (s.barUnit (posCore b.t.pos) (wireKind wire)).arrived) : s.arrive wire d b =
    if ((s.takesArrival wire d b).wire wire).due.isNone && (s.takesArrival wire d b).allArrived wire d then
      (s.takesArrival wire d b).completes wire ((s.takesArrival wire d b).cycle + if wireKind wire = 2 then 14 else 6) (s.wire wire).stamp
    else s.takesArrival wire d b := by
  have hlatch : (s.wire wire).latch.any (· != d) = false := by rcases hl with h | h <;> simp [h]
  unfold State.arrive
  simp only [List.contains_iff_mem, hn, if_false, hlatch, Bool.false_eq_true]
  rfl

/-- What the wire and the slots' units hold once an arrival is taken; slots, memory and time are as before. -/
theorem takesArrival_spec (s : State) (wire d : Nat) (b : BarWait) : let u := s.takesArrival wire d b
    u.slots = s.slots ∧ u.mem = s.mem ∧ u.cycle = s.cycle ∧
      u.wire wire = { s.wire wire with latch := some d, waits := (s.wire wire).waits ++ [b] } ∧
      (u.barUnit (posCore b.t.pos) (wireKind wire)).arrived =
        posSlot b.t.pos :: (s.barUnit (posCore b.t.pos) (wireKind wire)).arrived ∧
      (b.kind = 1 → Due u (s.cycle + 4) .classBCompletion (.classBCompletion b.t b.id endsPlain)) := by
  let v := ((s.modWire wire fun w => { w with latch := some d }).modBarUnit (posCore b.t.pos) (wireKind wire)
    fun u => { u with arrived := posSlot b.t.pos :: u.arrived }).modWire wire fun w => { w with waits := w.waits ++ [b] }
  have hv : v.wire wire = { s.wire wire with latch := some d, waits := (s.wire wire).waits ++ [b] } :=
    by rw [wire_modWire_self, wire_modBarUnit, wire_modWire_self]
  have ha : (v.barUnit (posCore b.t.pos) (wireKind wire)).arrived = _ := congrArg BarUnit.arrived (barUnit_modBarUnit_self _ _ _ _)
  intro u
  by_cases h : b.kind = 1
  · rw [show u = v.postAt _ _ _ _ from if_pos h]
    exact ⟨rfl, rfl, rfl, hv, ha, fun _ => due_postAt ..⟩
  · rw [show u = _ from if_neg h]
    cases b.expiry with
    | none => exact ⟨rfl, rfl, rfl, hv, ha, fun h' => absurd h' h⟩
    | some e => exact ⟨rfl, rfl, rfl, hv, ha, fun h' => absurd h' h⟩

theorem arrive_spec (hl : (s.wire wire).latch = none ∨ (s.wire wire).latch = some d)
    (hn : posSlot b.t.pos ∉ (s.barUnit (posCore b.t.pos) (wireKind wire)).arrived) : let k := wireKind wire
    let c := posCore b.t.pos
    ∃ t, s.arrive wire d b = t ∧ t.slots = s.slots ∧ t.mem = s.mem ∧ (t.wire wire).latch = some d ∧
      (t.wire wire).waits = (s.wire wire).waits ++ [b] ∧
      (∀ n, n ∈ (t.barUnit c k).arrived ↔ n = posSlot b.t.pos ∨ n ∈ (s.barUnit c k).arrived) ∧
      (b.kind = 1 → Due t (s.cycle + 4) .classBCompletion (.classBCompletion b.t b.id endsPlain)) ∧
      ((s.wire wire).due = none → (∀ m ∈ barCores wire d, ∀ n ∈ onesOf 16 (barSlots d), n ∈ (t.barUnit m k).arrived) →
        let end_ := s.cycle + if k = 2 then 14 else 6
        (t.wire wire).due = some end_ ∧ Due t end_ .barrierComplete (.barrierComplete wire (s.wire wire).stamp)) := by
  intro k c
  obtain ⟨hslots, hmem, hcycle, hwire, harr, hdue⟩ := takesArrival_spec s wire d b
  have hmember (n : Nat) : n ∈ ((s.takesArrival wire d b).barUnit c k).arrived ↔ n = posSlot b.t.pos ∨ n ∈ (s.barUnit c k).arrived := by
    rw [harr, List.mem_cons]
  rw [arrive_eq hl hn, hcycle]
  refine ⟨_, rfl, ?_⟩
  split
  case isTrue h =>
    have hw : ((s.takesArrival wire d b).completes wire (s.cycle + if k = 2 then 14 else 6) (s.wire wire).stamp).wire wire =
        { s.wire wire with latch := some d, due := some (s.cycle + if k = 2 then 14 else 6), waits := (s.wire wire).waits ++ [b] } :=
      by rw [wire_completes, hwire]
    exact ⟨hslots, hmem, by rw [hw], by rw [hw], hmember, fun h' => (hdue h').post .., fun _ _ => ⟨by rw [hw], due_post ..⟩⟩
  case isFalse h =>
    refine ⟨hslots, hmem, by rw [hwire], by rw [hwire], hmember, hdue, fun hnone hall => absurd ?_ h⟩
    have hdueNone : ((s.takesArrival wire d b).wire wire).due = none := by rw [hwire]; exact hnone
    simpa [hdueNone, State.allArrived] using hall

end

-- the members

theorem exec_barw_of_fetch {s s₁ : State} {a b : Reg} {x y : Word} (d : Reg) (hf : fetchSrcs [a, b] s = .ok [x, y] s₁) : exec (.barw d a b) s = .next (
    if barValid x.toNat s₁.cur = false ∨ 2 ^ 32 ≤ y.toNat then s₁.formatFault 0
    else s₁.startArrival x.toNat fun id =>
      { t := s₁.tk s₁.cur, id := id, kind := 0, dest := d, expiry := if y.toNat = 0 then none else some (s₁.cycle + y.toNat), pc := s₁.my.pc,
        btotrap := bit (s₁.my.cr 0) 23 }) := by
  have h : y.toNat / 2 ^ 32 ≠ 0 ↔ 2 ^ 32 ≤ y.toNat := by omega
  simp only [exec_barw, execBarw, with2_of_fetch hf, Bool.or_eq_true, Bool.not_eq_true', decide_eq_true_eq, h]

section
variable {s s₁ : State} {a : Reg} {x : Word} (hf : fetchSrcs [a] s = .ok [x] s₁)
include hf

theorem exec_bara_of_fetch : exec (.bara a) s = .next (if barValid x.toNat s₁.cur = false then s₁.formatFault 0
    else s₁.startArrival x.toNat fun id => { t := s₁.tk s₁.cur, id := id, kind := 1, pc := s₁.my.pc }) := by
  simp only [exec_bara, execBara, with1_of_fetch hf, Bool.not_eq_true']

theorem exec_barq_of_fetch (d : Reg) : exec (.barq d a) s = .next (if x.toNat % 4 = 3 then s₁.formatFault 0
    else
      let u := s₁.barUnit (posCore s₁.cur) (x.toNat % 4)
      s₁.block (s₁.cycle + 8) (ends d
        ((if u.gen then 1 else 0) + (if posSlot s₁.cur ∈ u.arrived then 2 else 0) + (if u.aband then 4 else 0) + 16 * u.arrived.length))) := by
  simp only [exec_barq, execBarq, with1_of_fetch hf, barKind_eq]
  have hbit (c : Nat) (b : Bool) : c * b.toNat = if b then c else 0 := by cases b <;> simp
  have h₁ (b : Bool) : b.toNat = if b then 1 else 0 := by cases b <;> rfl
  simp only [hbit, List.contains_iff_mem, h₁ (BarUnit.gen _)]
  rfl

theorem exec_probe_of_fetch (d : Reg) : exec (.probe d a) s = .next (match rectCores (coreDie (posCore s₁.cur)) x.toNat with
    | none => s₁.formatFault 0
    | some l => if 2 ^ 32 ≤ x.toNat ∨ posCore s₁.cur ∉ l then s₁.formatFault 0
      else s₁.blockOpen.2.postAt s₁.cycle s₁.cur .probeCircuitEnd
        (.probeVisit (s₁.tk s₁.cur) s₁.nextId x.toNat (bits x.toNat 16 16) 1 0 0 false d)) := by
  have h : x.toNat / 2 ^ 32 ≠ 0 ↔ 2 ^ 32 ≤ x.toNat := by omega
  rw [← tk_blockOpen s₁]
  simp only [exec_probe, execProbe, with1_of_fetch hf, Bool.or_eq_true, Bool.not_eq_true', decide_eq_true_eq, h]
  cases rectCores (coreDie (posCore s₁.cur)) x.toNat with
  | none => rfl
  | some l => simp only [← Bool.not_eq_true, List.contains_iff_mem]; rfl

theorem exec_drain_of_fetch : exec (.drain a) s = .next (match rectCores (coreDie (posCore s₁.cur)) x.toNat with
    | none => s₁.formatFault 0
    | some l => if 2 ^ 16 ≤ x.toNat then s₁.formatFault 0
      else s₁.blockOpen.2.postAt (s₁.cycle + 8 + 3 * l.length + 4 * (l.map (hops (posCore s₁.cur))).foldl max 0) s₁.cur .classBCompletion
        (.drainWait (s₁.tk s₁.cur) s₁.nextId x.toNat s₁.cycle)) := by
  have h : x.toNat / 2 ^ 16 ≠ 0 ↔ 2 ^ 16 ≤ x.toNat := by omega
  rw [← tk_blockOpen s₁]
  simp only [exec_drain, execDrain, with1_of_fetch hf, h]
  rfl

end

/-- What a fold of maxima starts from and meets, it bounds. -/
theorem le_foldl_max (l : List Nat) (m : Nat) : m ≤ l.foldl max m ∧ ∀ n ∈ l, n ≤ l.foldl max m := by
  induction l generalizing m with
  | nil => simp
  | cons a l ih =>
    obtain ⟨hm, hl⟩ := ih (max m a)
    refine ⟨(le_max_left ..).trans hm, fun n hn => ?_⟩
    rcases List.mem_cons.1 hn with rfl | hn
    · exact (le_max_right ..).trans hm
    · exact hl n hn

/-- The eight counters that EVGATH gathers: XCNT0 to XCNT4 whole, XCNT5 to XCNT7 without their selectors (R400). -/
def Task.gathered (t : Task) : List Nat :=
  (List.range 8).map fun k => if k < 5 then t.cr (0x28 + k) else t.cr (0x28 + k) % 2 ^ 28

theorem gathered_spec (t : Task) : t.gathered.length = 8 ∧ (∀ k, k < 5 → t.gathered[k]? = some (t.cr (0x28 + k))) ∧
    ∀ k, 5 ≤ k → k < 8 → t.gathered[k]? = some (t.cr (0x28 + k) % 2 ^ 28) := by
  have hget (k : Nat) (h : k < 8) : t.gathered[k]? = some (if k < 5 then t.cr (0x28 + k) else t.cr (0x28 + k) % 2 ^ 28) := by
    simp [Task.gathered, h]
  refine ⟨by simp [Task.gathered], fun k h => ?_, fun k h h' => ?_⟩
  · rw [hget k (by omega), if_pos h]
  · rw [hget k h', if_neg (by omega)]

section
variable {s s₁ : State} {a : Reg} {x : Word} (hf : fetchSrcs [a] s = .ok [x] s₁)
include hf

/-- EVGATH of a block in the requester's own window that it can read and whose words it accepts (R400). -/
theorem exec_evgath_own (d : Reg) {off v : Nat} {s₂ s₃ : State} {p : Place} (hc : classify (posCore s₁.cur) x.toNat = .scratch (posCore s₁.cur) off)
    (hr : Reaches s₁ x.toNat 128 false p s₂) (hread : s₂.readScratch (posCore s₁.cur) s₂.my.space off p.loc 128 = (v, false, s₃))
    (hv : barValid (v % 2 ^ 64) s₃.cur = true) (hn : v / 2 ^ 64 % 2 ^ 64 < 2 ^ 32) (h₁ : v / 2 ^ 133 % 2 ^ 59 = 0) (h₂ : v / 2 ^ 192 % 2 ^ 320 = 0) :
    exec (.evgath d a) s = .next (s₃.startArrival (v % 2 ^ 64) fun id =>
      { t := s₃.tk s₃.cur, id := id, kind := 2, dest := d,
        expiry := if v / 2 ^ 64 % 2 ^ 64 = 0 then none else some (s₃.cycle + v / 2 ^ 64 % 2 ^ 64),
        block := off, space := s₃.my.space, sums := s₃.my.gathered, exc := s₃.my.cr 0x20, pc := s₃.my.pc, btotrap := bit (s₃.my.cr 0) 23 }) := by
  have hsmall : v / 2 ^ 64 % 2 ^ 64 / 2 ^ 32 = 0 := by omega
  rw [exec_evgath, execEvgath, with1_of_fetch hf]
  simp only [hc, ne_eq, not_true_eq_false, if_false, withAccess_of_reaches_fixed hr, hread, bits_zero]
  simp only [bits, hv, hsmall, h₁, h₂]
  rfl

theorem exec_evgath_elsewhere (d : Reg) {off core : Nat} (hc : classify (posCore s₁.cur) x.toNat = .scratch core off) (hne : core ≠ posCore s₁.cur) :
    exec (.evgath d a) s = .next (s₁.formatFaultAt 0 x.toNat) := by
  rw [exec_evgath, execEvgath, with1_of_fetch hf]
  simp only [hc]
  rw [if_pos hne]

end

/-- Settles O46: each member once its operands are read, then an arrival on its way and at its wire. -/
theorem barrierMembers : Obligations.BarrierMembers := by
  refine ⟨fun s s₁ d a b x y hf => ⟨fun h => ?barwRefused, fun h h' => ?barw⟩, fun s s₁ d a x hf => ⟨fun h => ?baraRefused, fun h => ?bara,
      fun h => ?barqRefused, fun h => ?barq, fun l hl hc hx => ?probe, fun hl => ?leaves, fun l hl hx => ?drain,
      fun off s₂ s₃ p v hc hr hread hv hn h₁ h₂ => ⟨_, (gathered_spec _).1, (gathered_spec _).2.1, (gathered_spec _).2.2,
        exec_evgath_own hf d hc hr hread hv hn h₁ h₂⟩,
      fun off core hc hne => exec_evgath_elsewhere hf d hc hne⟩,
    fun s d b hv _ => startArrival_spec b hv, fun s wire hm => ?arrivals, fun s wire d b hl => fun hn => arrive_spec hl hn⟩
  case barwRefused => rw [exec_barw_of_fetch d hf, if_pos h]
  case barw => rw [exec_barw_of_fetch d hf, if_neg (by simpa [h] using h')]
  case baraRefused => rw [exec_bara_of_fetch hf, if_pos h]
  case bara => rw [exec_bara_of_fetch hf, if_neg (by simp [h])]
  case barqRefused => rw [exec_barq_of_fetch hf, if_pos h]
  case barq =>
    rw [exec_barq_of_fetch hf, if_neg h]
    exact ⟨_, rfl, block_parks_due ..⟩
  case probe =>
    rw [exec_probe_of_fetch hf, hl]
    have hfield : bits x.toNat 16 16 = x.toNat / 65536 := by simp only [bits]; omega
    refine ⟨_, congrArg _ (if_neg (by simpa [hc] using hx)), (parksFor_park s₁.fresh.2 _).post .., ?_⟩
    rw [hfield]
    exact due_postAt ..
  case leaves => rw [exec_probe_of_fetch hf, exec_drain_of_fetch hf, hl]; exact ⟨rfl, rfl⟩
  case drain =>
    rw [exec_drain_of_fetch hf, hl]
    exact ⟨_, _, congrArg _ (if_neg (by omega)), (parksFor_park s₁.fresh.2 _).post ..,
      fun c hc => (le_foldl_max _ 0).2 _ (List.mem_map_of_mem hc), due_postAt ..⟩
  case arrivals => rw [exec_classBCompletion, execClassBCompletion, hm]

end Sys2Proof.Machine
end

section
/-! PROOF. Collective and copy members (O47): CPY, CPYD, CPYM and CPYQ, a request's entry into its mailbox, COLL and CWAIT. -/
namespace Sys2Proof.Machine

-- copy members

/-- The request word of an aligned descriptor is its address with the kind in its low bits (Table 17-1). -/
theorem requestWord_of_aligned {x : Word} (k : Nat) (h : x.toNat % 64 = 0) : requestWord x k = x + BitVec.ofNat 64 k := by
  refine BitVec.eq_of_toNat_eq ?_
  rw [requestWord, word, if_pos h, BitVec.toNat_add, BitVec.toNat_ofNat, BitVec.toNat_ofNat, Nat.add_mod_mod]
  congr 1
  omega

/-- A request member parks for its mailbox, and its request is to be pushed at once (R429). -/
theorem copyMember_spec (d : Reg) (ws : List Word) (s : State) : ParksFor s (copyMember d ws s) (.mailbox s.nextId) ∧
    Due (copyMember d ws s) s.cycle .classBCompletion (.mailPush (s.tk s.cur) s.nextId ws d) :=
  ⟨(parksFor_park s.fresh.2 _).post .., due_postAt ..⟩

theorem copyMember_asks {i : Instr} {s s₁ : State} {d : Reg} {x : Word} {kind : Nat} (he : exec i s = .next (copyMember d [requestWord x kind] s₁))
    (h : x.toNat % 64 = 0) : ∃ t, exec i s = .next t ∧ ParksFor s₁ t (.mailbox s₁.nextId) ∧
      Due t s₁.cycle .classBCompletion (.mailPush (s₁.tk s₁.cur) s₁.nextId [x + BitVec.ofNat 64 kind] d) := by
  rw [requestWord_of_aligned kind h] at he
  exact ⟨_, he, copyMember_spec ..⟩

theorem cpyq_spec {s s₁ : State} {a : Reg} {x : Word} (d : Reg) (hf : fetchSrcs [a] s = .ok [x] s₁) :
    ∃ t, exec (.cpyq d a) s = .next t ∧ ParksFor s₁ t (.blocking s₁.nextId) ∧
      Due t (s₁.cycle + 40) .classBCompletion (.copyQuery (s₁.tk s₁.cur) s₁.nextId (x.toNat % 64) d) := by
  rw [exec_cpyq, execCpyq, with1_of_fetch hf, bits_zero, ← tk_blockOpen s₁]
  exact ⟨_, rfl, (parksFor_park s₁.fresh.2 _).post .., due_postAt ..⟩

-- the request at its mailbox

/-- The words of a request, as its mailbox takes them: the first names the instruction that waits for the result (R415, R417). -/
def mailOf (before id : Nat) (ws : List Word) (d : Reg) : List MailWord :=
  (List.range ws.length).map fun k => { word := ws.getD k 0, before := before, by_ := if k = 0 then some (id, d) else none }

theorem words_mailOf (before id : Nat) (ws : List Word) (d : Reg) : (mailOf before id ws d).map (·.word) = ws := by
  refine List.ext_getElem (by simp [mailOf]) fun k h h' => ?_
  simp [mailOf, h']

theorem mailPush_of_room {s : State} {t : Tk} {id : Nat} {ws : List Word} (d : Reg) (hw : s.waitsFor t (.mailbox id) = true)
    (hp : ∀ a ∈ (s.task t.pos).pend, a.partner = true → ∃ c, a.doneAt = some c ∧ c ≤ s.cycle) (hroom : (s.slot t.pos).mailbox.length + ws.length ≤ 4) :
    s.mailPush t id ws d =
      (s.modSlot t.pos fun x => { x with mailbox := x.mailbox ++ mailOf s.nextId id ws d }).kickDealer (posCore t.pos) := by
  have hpend : (s.slot t.pos).task.pend.any (fun a => a.partner && a.doneAt.all (s.cycle < ·)) = false := by
    rw [List.any_eq_false]
    intro a ha h
    obtain ⟨hpartner, hdone⟩ := Bool.and_eq_true_iff.1 h
    obtain ⟨c, hc, hle⟩ := hp a ha hpartner
    rw [hc, Option.all_some, decide_eq_true_eq] at hdone
    omega
  have hlen : ¬ 4 < (s.slot t.pos).mailbox.length + ws.length := by omega
  simp only [State.mailPush, hw, Bool.not_true, Bool.false_eq_true, if_false, hpend, hlen, decide_false, Bool.or_self]
  rfl

-- COLL and CWAIT

theorem coll_misaligned {s s₁ : State} {a : Reg} {x : Word} (d : Reg) (hf : fetchSrcs [a] s = .ok [x] s₁) (h : x.toNat % 64 ≠ 0) :
    exec (.coll d a) s = .next (s₁.block s₁.cycle (ends d 1)) := by
  rw [exec_coll, execColl, with1_of_fetch hf]
  exact congrArg _ (if_pos h)

/-- COLL of a descriptor that it reaches parks, and the descriptor is read (R434). -/
theorem coll_of_reaches {s s₁ s₂ : State} {a : Reg} {x : Word} {p : Place} (d : Reg) (hf : fetchSrcs [a] s = .ok [x] s₁)
    (hr : Reaches s₁ x.toNat 64 false p s₂) : ∃ late, exec (.coll d a) s = .next (s₂.blockOpen.2.postAt (s₂.cycle + late) s₂.cur .classBCompletion
      (.collRead (s₂.tk s₂.cur) s₂.nextId x.toNat s₂.my.pc.toNat d 0)) := by
  have hal : ¬ x.toNat % 64 ≠ 0 := not_not.2 hr.1
  rw [← tk_blockOpen s₂, exec_coll, execColl, with1_of_fetch hf]
  simp only [hal, if_false, withAccess_of_reaches_fixed hr]
  exact ⟨_, rfl⟩

theorem cwait_without_coll {s s₁ : State} {a : Reg} {x : Word} (d : Reg) (hf : fetchSrcs [a] s = .ok [x] s₁)
    (h : s₁.my.colls.look x.toNat = none) : exec (.cwait d a) s = .next (s₁.block s₁.cycle (ends d 3)) := by
  rw [exec_cwait, execCwait, with1_of_fetch hf]
  simp only [h]
  rfl

theorem tk_park (s : State) (p q : Pos) (w : Wait) : (s.park p w).tk q = s.tk q := tk_modSlot s p q (f := fun x =>
  { x with st := .parked, parkedAt := if x.st == .parked then x.parkedAt else s.cycle, task := { x.task with wait := some w } }) fun _ => rfl

/-- The current task waits in a CWAIT: it is parked, and stands among those that wait for its collective (R436). -/
def State.awaitsColl (s : State) (k : Nat) (d : Reg) : State :=
  (s.fresh.2.park s.cur (.coll s.nextId)).modColl k fun x => { x with waits := x.waits ++ [(s.tk s.cur, s.nextId, d)] }

theorem look_modColl (s : State) {k : Nat} {y : Coll} (f : Coll → Coll) (h : s.hub.colls.look k = some y) :
    s.modColl k f = { s with hub := { s.hub with colls := s.hub.colls.put k (f y) } } := by
  simp only [State.modColl, State.modHub, h]

theorem awaitsColl_spec {s : State} {k : Nat} {y : Coll} (d : Reg) (h : s.hub.colls.look k = some y) : let t := s.awaitsColl k d
    t.cur = s.cur ∧ t.cycle = s.cycle ∧ t.tk s.cur = s.tk s.cur ∧ (t.slot s.cur).st = .parked ∧ t.my.wait = some (.coll s.nextId) ∧
      ∃ z, t.hub.colls.look k = some z ∧ z.st = y.st ∧ z.waits = y.waits ++ [(s.tk s.cur, s.nextId, d)] := by
  obtain ⟨-, hst, hmy, -⟩ := parksFor_park s.fresh.2 (.coll s.nextId)
  intro t
  have ht : t = _ := look_modColl (s.fresh.2.park s.cur (.coll s.nextId)) _ h
  rw [ht]
  exact ⟨rfl, rfl, tk_park s.fresh.2 .., hst, congrArg Task.wait hmy, _, Tbl.look_put_self .., rfl, rfl⟩

/-- CWAIT of a collective in flight whose descriptor it can read waits, for TIMEOUT cycles if that is not 0 (R436). -/
theorem cwait_in_flight {s s₁ s₂ s₃ : State} {a : Reg} {x : Word} {k : Nat} {y : Coll} {p : Place} {e : EngineRead} (d : Reg)
    (hf : fetchSrcs [a] s = .ok [x] s₁) (hk : s₁.my.colls.look x.toNat = some k) (hy : s₁.hub.colls.look k = some y) (hfl : y.inFlight = true)
    (hr : s₁.resolve x.toNat false = .ok p s₂) (he : s₂.engineRead (posCore s₂.cur) s₂.my.space s₂.my.world x.toNat 64 = .ok (e, s₃))
    (hc : s₃.hub.colls = s₁.hub.colls) : exec (.cwait d a) s = .next (if collTimeout e.v = 0 then s₃.awaitsColl k d
      else (s₃.awaitsColl k d).post (s₃.cycle + collTimeout e.v) 50000 .cwaitTimeout (.cwaitTimeout (s₃.tk s₃.cur) s₃.nextId d)) := by
  obtain ⟨-, hcycle, htk', -⟩ := awaitsColl_spec d (hc ▸ hy)
  obtain ⟨hdone, hfailed⟩ : (y.st == .done) = false ∧ (y.st == .failed) = false := by
    simpa [Coll.inFlight, bne] using hfl
  have htk : (s₃.fresh.2.park s₃.cur (.coll s₃.nextId)).tk s₃.cur = s₃.tk s₃.cur := tk_park ..
  rw [← hcycle, ← htk', State.awaitsColl, ← htk]
  rw [exec_cwait, execCwait, with1_of_fetch hf]
  simp only [hk, hy, hdone, hfailed, Bool.false_eq_true, if_false, withPlace, hr, he]
  rfl

/-- Settles O47: the members by what they do once their operands are read, and the request at its mailbox. -/
theorem collectiveAndCopyMembers : Obligations.CollectiveAndCopyMembers := by
  refine ⟨fun s s₁ d a x hf => ⟨?cpy, ?cpyd, cpyq_spec d hf, fun h => ⟨_, coll_misaligned d hf h, block_parks_due ..⟩, fun s₂ p hr => ?coll,
      fun h => ⟨_, cwait_without_coll d hf h, block_parks_due ..⟩, fun k y s₂ s₃ p e hk hy hfl hr he hc => ?cwait⟩,
    fun s s₁ d a b x y hf hx => ?cpym, fun s t id ws d hw hp hroom => ?mail⟩
  case cpy => exact copyMember_asks (kind := 0) (by rw [exec_cpy, execCpy, with1_of_fetch hf])
  case cpyd => exact copyMember_asks (kind := 1) (by rw [exec_cpyd, execCpyd, with1_of_fetch hf])
  case coll =>
    obtain ⟨late, he⟩ := coll_of_reaches d hf hr
    exact ⟨_, _, he, (parksFor_park s₂.fresh.2 _).post .., Nat.le_add_right .., due_postAt ..⟩
  case cwait =>
    obtain ⟨hcur, -, -, hst, hwait, hz⟩ := awaitsColl_spec d (hc ▸ hy)
    refine ⟨_, cwait_in_flight d hf hk hy hfl hr he hc, ?_⟩
    by_cases h0 : collTimeout e.v = 0
    · rw [if_pos h0]
      exact ⟨hcur ▸ hst, hwait, hz, (absurd h0 ·)⟩
    · rw [if_neg h0]
      exact ⟨hcur ▸ hst, hwait, hz, fun _ => due_post ..⟩
  case cpym =>
    rw [exec_cpym, execCpym, with2_of_fetch hf, requestWord_of_aligned 2 hx]
    exact ⟨_, rfl, copyMember_spec ..⟩
  case mail =>
    refine ⟨_, mailPush_of_room d hw hp hroom, ?_, rfl⟩
    show (((s.modSlot t.pos fun x => { x with mailbox := x.mailbox ++ mailOf s.nextId id ws d }).slot t.pos).mailbox).map (·.word) = _
    rw [State.slot_modSlot_self, List.map_append, words_mailOf]

end Sys2Proof.Machine
end

section
/-! PROOF. What the end of a wait leaves alone: everything but slots, cores, the agenda, the next name and the saved contexts. -/
namespace Sys2Proof.Machine

/-- A state without what the end of a wait changes. -/
def State.beside (s : State) : State := { s with slots := [], cores := [], agenda := [], nextId := 0, saved := [] }

@[simp] theorem beside_modSlot (s : State) (p : Pos) (f : Slot → Slot) : (s.modSlot p f).beside = s.beside := rfl
@[simp] theorem beside_modTask (s : State) (p : Pos) (f : Task → Task) : (s.modTask p f).beside = s.beside := rfl
@[simp] theorem beside_modCore (s : State) (c : Nat) (f : Core → Core) : (s.modCore c f).beside = s.beside := rfl
@[simp] theorem beside_setEndpoint (s : State) (p : Pos) (n : Nat) (f : Endpoint → Endpoint) : (s.setEndpoint p n f).beside = s.beside := rfl
@[simp] theorem beside_post (s : State) (due tie : Nat) (ev : Instr) (m : Msg) : (s.post due tie ev m).beside = s.beside := rfl
@[simp] theorem beside_postAt (s : State) (due : Nat) (p : Pos) (ev : Instr) (m : Msg) : (s.postAt due p ev m).beside = s.beside := rfl
@[simp] theorem beside_park (s : State) (p : Pos) (w : Wait) : (s.park p w).beside = s.beside := rfl
@[simp] theorem beside_sendRecord (s : State) (c : Nat) (r : FaultRec) : (s.sendRecord c r).beside = s.beside := rfl
@[simp] theorem beside_countSent (s : State) (c : Nat) : (s.countSent c).beside = s.beside := rfl
@[simp] theorem beside_supFault (s : State) (p : Pos) (cause sub addr acc arg : Nat) (pc : Option Word) :
    (s.supFault p cause sub addr acc arg pc).beside = s.beside := rfl

@[simp] theorem beside_countEv (s : State) (p : Pos) (code n : Nat) : (s.countEv p code n).beside = s.beside := by
  unfold State.countEv
  split <;> rfl

@[simp] theorem beside_unpark (s : State) (p : Pos) : (s.unpark p).beside = s.beside := by
  unfold State.unpark
  dsimp only
  split <;> simp

@[simp] theorem beside_wake (s : State) (p : Pos) (w : Wait) : (s.wake p w).beside = s.beside := by
  unfold State.wake
  split <;> simp

/-- Going on for another position. -/
@[simp] theorem beside_asPos_advance (s : State) (p : Pos) : (s.asPos p State.advance).beside = s.beside := by
  unfold State.asPos State.advance
  rw [State.goTo_rest]
  rfl

@[simp] theorem beside_wakePast (s : State) (p : Pos) (w : Wait) : (s.wakePast p w).beside = s.beside := by
  unfold State.wakePast
  split <;> simp

@[simp] theorem beside_trapEntry (s : State) (p : Pos) (tr : Trap) (pc : Option Word) : (s.trapEntry p tr pc).beside = s.beside := by
  unfold State.trapEntry
  dsimp only
  split
  · simp
  · split <;> simp

@[simp] theorem beside_takeTraps (s : State) (p : Pos) : (s.takeTraps p).beside = s.beside := by
  unfold State.takeTraps
  dsimp only
  split
  case isFalse => rfl
  case isTrue =>
    split
    · split
      · split <;> simp
      · rfl
    · split <;> simp

@[simp] theorem beside_trapAfter (s : State) (p : Pos) (pc : Word) (tr : Trap) : (s.trapAfter p pc tr).beside = s.beside := by
  unfold State.trapAfter
  dsimp only
  rw [beside_takeTraps, beside_modTask]
  rfl

@[simp] theorem beside_kickPartner (s : State) (c : Nat) : (s.kickPartner c).beside = s.beside := by
  unfold State.kickPartner
  split <;> simp

@[simp] theorem beside_enterCommand (s : State) (p : Pos) (w : Nat) (pushed completes : Bool) (pc : Option Nat) :
    (s.enterCommand p w pushed completes pc).beside = s.beside := by
  unfold State.enterCommand
  exact beside_kickPartner _ _

@[simp] theorem beside_kickDealer (s : State) (c : Nat) : (s.kickDealer c).beside = s.beside := rfl

@[simp] theorem beside_putEvent (s : State) (p : Pos) (from_ : Nat) (w : Word) : (s.putEvent p from_ w).beside = s.beside := by
  simp [State.putEvent]

@[simp] theorem beside_channelPush (s : State) (p : Pos) (n : Nat) (w : Word) : (s.channelPush p n w).beside = s.beside := by
  unfold State.channelPush
  split
  · rfl
  · split
    · rfl
    · dsimp only
      split <;> rfl

theorem beside_pushQ7 {s u : State} {p : Pos} {w : Word} (h : s.pushQ7 p w = some u) : u.beside = s.beside := by
  unfold State.pushQ7 at h
  dsimp only at h
  split_ifs at h <;> cases h <;> simp

theorem beside_pushPort {s u : State} {p : Pos} {n : Nat} {w : Word} (h : s.pushPort p n w = some u) : u.beside = s.beside := by
  unfold State.pushPort at h
  dsimp only at h
  split_ifs at h
  · cases h
    exact beside_channelPush ..
  · cases h
    exact beside_enterCommand ..
  · cases h
    simp
  · cases h
    rfl
  · exact beside_pushQ7 h

theorem beside_writeDest {s u : State} {p : Pos} {delay : Nat} {d : Reg} {v : Word} (h : s.writeDest p delay d v = some u) : u.beside = s.beside := by
  unfold State.writeDest at h
  split_ifs at h
  · cases h; rfl
  · cases h; rfl
  · exact beside_pushPort h

theorem beside_finishBlocking {s u : State} {p : Pos} {f : Finish} (h : s.finishBlocking p f = some u) : u.beside = s.beside := by
  unfold State.finishBlocking at h
  split at h
  · cases h; simp
  · dsimp only at h
    rw [Option.map_eq_some_iff] at h
    obtain ⟨w, hw, rfl⟩ := h
    have hwritten : w.beside = s.beside := by
      split at hw
      · exact beside_writeDest hw
      · cases hw; rfl
    split <;> simp [hwritten]

@[simp] theorem beside_finishSaved (s : State) (w : Wait) (f : Finish) : (s.finishSaved w f).beside = s.beside := rfl

@[simp] theorem beside_completeWait (s : State) (t : Tk) (id : Nat) (w : Wait) (f : Finish) : (s.completeWait t id w f).beside = s.beside := by
  unfold State.completeWait
  split
  · split
    next h => exact beside_finishBlocking h
    next => rfl
  · rfl

end Sys2Proof.Machine
end

section
/-! PROOF. Events of the module (O55): halts, the bankers' start, error records, the ports and features. -/
namespace Sys2Proof.Machine

-- a partition halts

@[simp] theorem module_modColl (s : State) (k : Nat) (f : Coll → Coll) : (s.modColl k f).module_ = s.module_ := rfl

@[simp] theorem module_endHold (s : State) (t : Tk) (va k : Nat) : (s.endHold t va k).module_ = s.module_ := by
  unfold State.endHold
  dsimp only
  split
  · exact State.onTask_module_ ..
  · split
    · exact State.onTask_module_ ..
    · exact State.onTask_module_ ..

/-- A CWAIT's end with the failure of its collective: no line is acquired (R435). -/
theorem module_cwaitEnd_failed (s : State) (k : Nat) (x : Coll) (t : Tk) (id : Nat) (d : Reg) : (s.cwaitEnd k x t id d 1).module_ = s.module_ := by
  unfold State.cwaitEnd
  refine (congrArg State.module_ (beside_completeWait ..)).trans ?_
  simp only [one_ne_zero, if_false]
  split
  · exact module_endHold ..
  · rfl

@[simp] theorem module_collFail (s : State) (k : Nat) : (s.collFail k).module_ = s.module_ := by
  unfold State.collFail
  split
  · rfl
  · split
    · rfl
    · exact (foldl_keeps State.module_ _ (fun a w => module_cwaitEnd_failed a ..) _ _).trans rfl

@[simp] theorem module_collsFail (s : State) (cores : List Nat) : (s.collsFail cores).module_ = s.module_ :=
  foldl_keeps State.module_ _ (fun _ _ => module_collFail ..) _ s

theorem module_foldl_modCore (f : Core → Core) (l : List Nat) (s : State) : (l.foldl (fun s c => s.modCore c f) s).module_ = s.module_ :=
  foldl_keeps State.module_ (fun s c => s.modCore c f) (fun _ _ => rfl) l s

/-- What a halted partition's module state is (R456). -/
theorem module_haltPart (s : State) (part : Nat) : (s.haltPart part).module_ = { s.module_ with
    haltedParts := part :: s.module_.haltedParts.filter (· != part),
    ports := s.module_.ports.filter fun p => s.module_.portPart.get 0 p != part } := by
  have hm (cores : List Nat) : ((cores.foldl (fun s c => s.modCore c fun k => { k with stopped := true }) s).collsFail cores).module_ = s.module_ :=
    (module_collsFail ..).trans (module_foldl_modCore ..)
  exact congrArg (fun m : Module => { m with
    haltedParts := part :: m.haltedParts.filter (· != part), ports := m.ports.filter fun p => m.portPart.get 0 p != part }) (hm _)

theorem mem_haltedParts_haltPart (s : State) (part p : Nat) :
    p ∈ (s.haltPart part).module_.haltedParts ↔ p = part ∨ p ∈ s.module_.haltedParts := by
  rw [module_haltPart, List.mem_cons, List.mem_filter, bne_iff_ne]
  tauto

/-- The halts of some partitions, one after the other. -/
theorem haltParts_spec (l : List Nat) (s : State) : (l.foldl State.haltPart s).module_.parts = s.module_.parts ∧
    ∀ p, p ∈ l ∨ p ∈ s.module_.haltedParts → p ∈ (l.foldl State.haltPart s).module_.haltedParts := by
  refine ⟨foldl_keeps (fun s : State => s.module_.parts) _ (fun s p => by rw [module_haltPart]) l s, fun p => ?_⟩
  induction l generalizing s with
  | nil => simp
  | cons q l ih =>
    intro h
    refine ih (s.haltPart q) ?_
    rw [mem_haltedParts_haltPart]
    rcases h with h | h
    · rcases List.mem_cons.1 h with rfl | h
      · exact .inr (.inl rfl)
      · exact .inl h
    · exact .inr (.inr h)

-- the bankers' start

/-- The banker of a core stands ready in its slot 0. -/
def BankerRuns (s : State) (c : Nat) : Prop := (s.slot (mkPos c 0)).st = .ready ∧ s.task (mkPos c 0) = bankerTask c

theorem bankerRuns_loadBanker_self (s : State) (c : Nat) : BankerRuns (s.loadBanker c) c := by
  have h : (s.loadBanker c).slot (mkPos c 0) = _ := State.slot_modSlot_self ..
  unfold BankerRuns State.task
  rw [h]
  exact ⟨rfl, rfl⟩

theorem BankerRuns.loadBanker {s : State} {c : Nat} (h : BankerRuns s c) (k : Nat) : BankerRuns (s.loadBanker k) c := by
  by_cases hk : k = c
  · exact hk ▸ bankerRuns_loadBanker_self s k
  · have hne : mkPos c 0 ≠ mkPos k 0 := by unfold mkPos; omega
    have hslot : (s.loadBanker k).slot (mkPos c 0) = s.slot (mkPos c 0) := by
      rw [State.loadBanker, State.slot_modSlot, if_neg hne]
    unfold BankerRuns State.task
    rwa [hslot]

theorem bankerRuns_loadBankers {l : List Nat} {s : State} {c : Nat} (h : c ∈ l ∨ BankerRuns s c) : BankerRuns (l.foldl State.loadBanker s) c := by
  induction l generalizing s with
  | nil => simpa using h
  | cons k l ih =>
    refine ih ?_
    rcases h with h | h
    · rcases List.mem_cons.1 h with rfl | h
      · exact .inr (bankerRuns_loadBanker_self s c)
      · exact .inl h
    · exact .inr (h.loadBanker k)

/-- START_REPORT changes the fuse counter and slots alone (R484). -/
theorem startReport_spec {s : State} {v : Nat} (hm : s.msg = .startReport) (hb : s.module_.booted = some v) : ∃ t, exec .startReport s = .next t ∧
    t.module_.fuse = max s.module_.fuse v ∧ t.mem = s.mem ∧ t.cores = s.cores ∧
    ∀ c, c < 1024 → (s.slot (mkPos c 0)).st = .empty → (s.core c).fenced = false → BankerRuns t c := by
  let u := s.modModule fun m => { m with fuse := max m.fuse v }
  let l := (List.range 1024).filter fun c => (u.slot (mkPos c 0)).st == .empty && !(u.core c).fenced
  refine ⟨l.foldl State.loadBanker u, ?_, ?_, ?_, ?_, fun c hc hst hf => bankerRuns_loadBankers (.inl ?_)⟩
  · rw [exec_startReport, execStartReport, hm]
    simp only [hb]
    rfl
  · exact (foldl_keeps (fun s : State => s.module_.fuse) State.loadBanker (fun _ _ => rfl) l u)
  · exact (foldl_keeps State.mem State.loadBanker (fun _ _ => rfl) l u)
  · exact (foldl_keeps State.cores State.loadBanker (fun _ _ => rfl) l u)
  · have hst' : (u.slot (mkPos c 0)).st = .empty := hst
    have hf' : (u.core c).fenced = false := hf
    simp [l, hc, hst', hf']

-- error records

theorem writeError_spec (s : State) (e : ErrRec) : ∃ ns, (s.writeError e).hub.errors = s.hub.errors ++ [toBytes 64 (e.words (s.hub.seqs.get 0 e.part) ns)] ∧
    (s.writeError e).hub.seqs.get 0 e.part = (s.hub.seqs.get 0 e.part + 1) % 65536 ∧ (s.writeError e).mem = s.mem ∧
    (s.writeError e).slots = s.slots ∧ (s.writeError e).cores = s.cores := by
  unfold State.writeError
  cases ptpOf s.module_.ptp e.cycle with
  | some ns => exact ⟨ns, rfl, Tbl.get_put_self .., rfl, rfl, rfl⟩
  | none => exact ⟨s.freeVal.1, rfl, Tbl.get_put_self .., rfl, rfl, rfl⟩

theorem errorRecord_other {s : State} {e : ErrRec} (hm : s.msg = .errorRecord e) (h₁₀ : e.code ≠ 0x10) (h₁ : e.code ≠ 0x01) :
    exec .errorRecordDelivery s = .next (s.writeError e) := by
  rw [exec_errorRecordDelivery, execErrorRecordDelivery, hm]
  simp [h₁₀, h₁]

-- the host port and the fabric ports

/-- A range within one line is one piece. -/
theorem engPieces_of_one_line {va n : Nat} (hn : n ≠ 0) (h : va / 128 = (va + n - 1) / 128) : engPieces va n = [(va, n)] := by
  have hone : (va + n - 1) / 128 + 1 - va / 128 = 1 := by omega
  have hlen : min (va + n) ((va / 128 + 1) * 128) - va = n := by omega
  rw [engPieces, if_neg hn, hone]
  simp [hlen]

/-- What a read at home leaves alone: the bytes, the slots and the module. -/
def State.readable (s : State) : Memory × Tbl Slot × Module := (s.mem.bytes, s.slots, s.module_)

theorem readable_bufTouch (s : State) (line : Nat) : (s.bufTouch line).readable = s.readable := by
  unfold State.bufTouch
  refine (foldl_keeps State.readable _ (fun a k => ?_) _ _).trans rfl
  split <;> rfl

theorem readable_fetchErr (s : State) (line : Nat) : (s.fetchErr line).readable = s.readable := by
  unfold State.fetchErr
  split <;> rfl

theorem readable_homeRead (s : State) (line : Nat) : (s.homeRead line).2.readable = s.readable := by
  unfold State.homeRead
  dsimp only
  split
  · exact readable_bufTouch ..
  · exact (readable_bufTouch ..).trans (readable_fetchErr ..)

section
variable {s : State} {a : Nat} {bs : List (BitVec 8)} {port : Option Nat}

/-- What the host sends below the register window, and what comes in by a fabric port, means memory. -/
theorem notWindow (hp : port ≠ none ∨ a < hostBar) : (port.isNone && decide (hostBar ≤ a)) = false := by
  rw [Bool.and_eq_false_iff, decide_eq_false_iff_not, Nat.not_le, Option.isNone_eq_false_iff, Option.isSome_iff_ne_none]
  exact hp

theorem hostWrite_spec (hm : s.msg = .hostWrite a bs port) (hbs : bs ≠ []) (hp : port ≠ none ∨ a < hostBar) : exec .hostWrite s = .next (
    if s.portReaches port a bs.length = false then s
    else if s.inWorld (s.portSecure port) a bs.length = false ∨ s.meetsCode a bs.length = true then
      s.refuse (s.portPartOf port a) a (s.portSecure port)
    else (engPieces a bs.length).foldl (fun (s : State) x => s.hubWrite x.1 x.2 (ofBytes ((bs.drop (x.1 - a)).take x.2))) s) := by
  have hn : bs.length ≠ 0 := by simpa using hbs
  rw [exec_hostWrite, execHostWrite, hm]
  simp only [hn, if_false, notWindow hp, Bool.false_eq_true, Bool.or_eq_true, Bool.not_eq_true']

variable {name n : Nat}

/-- The answer to a host read. -/
def State.answers (s : State) (name : Nat) (bs : List (BitVec 8)) (poison : Bool) : State :=
  s.modModule fun m => { m with reads := m.reads ++ [(name, bs, poison)] }

theorem hostRead_window (hm : s.msg = .hostRead name a n none) (hn : n ≠ 0) (ha : hostBar ≤ a) :
    exec .hostRead s = .next (s.answers name ((List.range n).map fun k => s.windowByte (a - hostBar + k)) false) := by
  rw [exec_hostRead, execHostRead, hm]
  simp only [hn, if_false, Option.isNone_none, ha, decide_true, Bool.and_self, if_true]
  rfl

theorem hostRead_memory (hm : s.msg = .hostRead name a n port) (hn : n ≠ 0) (hp : port ≠ none ∨ a < hostBar)
    (hr : s.portReaches port a n = true) : exec .hostRead s = .next (
    if s.inWorld (s.portSecure port) a n = false then
      (s.refuse (s.portPartOf port a) a (s.portSecure port)).answers name (List.replicate n 0) true
    else ((engPieces a n).foldl (fun (s : State) x => (s.homeRead (x.1 / 128)).2) s).answers name (s.mem.bytes.bytes a n) (s.rangePoisoned a n)) := by
  rw [exec_hostRead, execHostRead, hm]
  simp only [hn, if_false, notWindow hp, hr, Bool.not_true, Bool.false_eq_true, Bool.not_eq_true']
  rfl

end

-- features and the fabric

theorem facceptWrite_first {s : State} {v : Word} (hm : s.msg = .facceptWrite v) (ha : s.module_.accepted = false) (hv : v &&& ~~~(featWord 0) = 0) :
    exec .facceptWrite s = .next ((s.modModule fun m => { m with accepted := true, faccept := v }).postHub (s.cycle + 1000)
      .featureEnable (.featureEnable v)) := by
  rw [exec_facceptWrite, execFacceptWrite, hm]
  simp only [State.acceptFeatures, ha, hv, ne_eq, not_true_eq_false, decide_false, Bool.or_self, Bool.false_eq_true, if_false]

theorem facceptWrite_again {s : State} {v : Word} (hm : s.msg = .facceptWrite v) (ha : s.module_.accepted = true) :
    exec .facceptWrite s = .next ((s.modModule fun m => { m with accepted := true }).refuse 0 0 false) := by
  rw [exec_facceptWrite, execFacceptWrite, hm]
  simp only [State.acceptFeatures, ha, Bool.true_or, if_true]

theorem fabricBringUp_spec {s : State} {port peer : Nat} {rsa slh : Bool} (hm : s.msg = .fabricBringUp port peer rsa slh)
    (he : s.module_.enabled.getLsbD 1 = true) (hp : port < 12) (hh : s.partHalted (s.module_.portPart.get 0 port) = false) :
    exec .fabricBringUp s = .next (if rsa = true ∧ slh = true then
        s.modModule fun m => { m with ports := port :: m.ports.filter (· != port), links := Link.redraw (Link.redraw m.links (20 + 2 * port)) (21 + 2 * port) }
      else s.refuse (s.module_.portPart.get 0 port) 0 (s.portSecure (some port))) := by
  rw [exec_fabricBringUp, execFabricBringUp, hm]
  cases rsa <;> cases slh <;> simp [he, hp, hh]

-- links and temperatures

/-- A frame of a link direction is counted (R455, R489). -/
def State.countFrame (s : State) (l : Nat) : State :=
  (s.modModule fun m => { m with links := m.links.upd {} l fun x => { x with frames := x.frames + 1 } }).tally 4 l 1

theorem frames_countFrame (s : State) (l : Nat) : ((s.countFrame l).module_.links.get {} l).frames = (s.module_.links.get {} l).frames + 1 := by
  simp [State.countFrame, State.modModule]

theorem linkFrame_spec {s : State} {l part : Nat} {ok : Bool} (hm : s.msg = .linkFrame l ok) (ho : s.linkOwner l = some part) :
    exec .linkFrame s = .next (if ok then s.countFrame l else (((s.countFrame l).haltPart part).tally 5 l 1).postHub s.cycle .errorRecordDelivery
      (.errorRecord { cycle := s.cycle, code := 0x40, sev := 4, part := part })) := by
  rw [exec_linkFrame, execLinkFrame, hm]
  simp only [ho]
  rfl

theorem thermalTrip_spec {s : State} {die : Nat} (hm : s.msg = .thermalTrip die) : ∃ t e due, exec .thermalTrip s = .next t ∧
    t.module_.hot = List.range s.module_.parts ∧ t.module_.overLimit = true ∧ t.module_.holdBack = true ∧
    (∀ p, p < s.module_.parts → p ∈ t.module_.haltedParts) ∧ e.code = 0x60 ∧ e.sev = 4 ∧ e.detail = die ∧
    Due t due .errorRecordDelivery (.errorRecord e) := by
  obtain ⟨hparts, hhalted⟩ := haltParts_spec (List.range s.module_.parts) s
  let u := (List.range s.module_.parts).foldl State.haltPart s
  refine ⟨(u.modModule fun m => { m with hot := List.range m.parts, overLimit := true, holdBack := true }).postHub u.cycle .errorRecordDelivery
    (.errorRecord { cycle := u.cycle, code := 0x60, sev := 4, detail := die }), _, _, ?_, congrArg List.range hparts, rfl, rfl,
    fun p hp => hhalted p (.inl (List.mem_range.2 hp)), rfl, rfl, rfl, due_postHub ..⟩
  rw [exec_thermalTrip, execThermalTrip, hm]

theorem powerCap_spec {s : State} {w : Nat} (hm : s.msg = .powerCap w) : exec .powerCap s = .next (
    if (w < 800 ∨ 1650 < w) ∨ s.module_.recovery = true then s else s.modModule fun m => { m with cap := w }) := by
  rw [exec_powerCap, execPowerCap, hm]
  simp only [Bool.or_eq_true, decide_eq_true_eq]

/-- Settles O55: each event's meaning, with what it leaves alone. -/
theorem eventsOfTheModule : Obligations.EventsOfTheModule := by
  refine ⟨fun s l part ok hm => ⟨fun ho => ?noOwner, fun ho hok => ?frame, fun ho hok => ?badFrame⟩, fun s die hm => thermalTrip_spec hm,
    fun s hot hm => ?junction, fun s w hm => ⟨fun hlo hhi hr => ?cap, fun h => ?capOutside⟩, fun s hm => ?moduleReset,
    fun s v hm hb => startReport_spec hm hb, fun s b hm => ?imageUpdate,
    fun s e hm => ⟨fun h he => ?corrected, fun h₁₀ h₁ => ?errorRecord⟩, fun s core hm => ?softCorrected, fun s core line hm => ?softError,
    fun s sec ns hm => ?ptpSample, fun s a bs port hm hbs hp => ⟨fun hr => ?writeUnreached, fun hr hw => ?writeRefused, fun hr hw hc hline => ?write⟩,
    fun s name a n port hm hn => ⟨fun hp ha => ?readWindow, fun hp hr hw => ?read, fun hp hr hw => ?readRefused⟩,
    fun s v => ⟨fun hm ha hv => facceptWrite_first hm ha hv, fun hm ha => ⟨_, facceptWrite_again hm ha, rfl, rfl, rfl, rfl⟩, fun hm => ?featureEnable⟩,
    fun s port peer rsa slh hm he hp hh => ⟨fun hrsa hslh => ?portUp, fun h => ?portDown⟩⟩
  case noOwner =>
    rw [exec_linkFrame, execLinkFrame, hm]
    simp only [ho]
  case frame => exact ⟨s.countFrame l, (linkFrame_spec hm ho).trans (congrArg _ (if_pos hok)), frames_countFrame s l, rfl, rfl, rfl, rfl, rfl⟩
  case badFrame =>
    subst hok
    exact ⟨_, _, linkFrame_spec hm ho, (mem_haltedParts_haltPart ..).2 (.inl rfl), rfl, rfl, rfl, due_postHub ..⟩
  case junction =>
    show exec _ s = .next (s.modModule fun m => { m with holdBack := hot, overLimit := hot })
    rw [exec_junctionLimitCrossing, execJunctionLimitCrossing, hm]
  case cap =>
    show exec _ s = .next (s.modModule fun m => { m with cap := w })
    rw [powerCap_spec hm, if_neg]
    simp only [hr, Bool.false_eq_true, or_false]
    omega
  case capOutside => rw [powerCap_spec hm, if_pos (.inl h)]
  case moduleReset =>
    refine ⟨(s.agenda.filter fun x => x.msg.outside).map fun x => { x with due := x.due - s.cycle }, fun x hx => ?_, ?_⟩
    · obtain ⟨y, hy, rfl⟩ := List.mem_map.1 hx
      exact (List.mem_filter.1 hy).2
    · rw [exec_moduleReset, execModuleReset, hm]
  case imageUpdate =>
    show exec _ s = .next (s.modModule fun m => { m with imageB := b })
    rw [exec_imageUpdate, execImageUpdate, hm]
  case corrected =>
    rw [exec_errorRecordDelivery, execErrorRecordDelivery, hm]
    simp [h, he]
  case errorRecord =>
    obtain ⟨ns, herr, hseq, hmem, hslots, hcores⟩ := writeError_spec s e
    exact ⟨_, ns, errorRecord_other hm h₁₀ h₁, herr, hseq, hmem, hslots, hcores⟩
  case softCorrected =>
    rw [exec_errorRecordDelivery, execErrorRecordDelivery, hm]
    exact ⟨_, _, rfl, rfl, rfl, due_postHub .., rfl, rfl⟩
  case softError =>
    rw [exec_errorRecordDelivery, execErrorRecordDelivery, hm]
    exact ⟨_, rfl, List.mem_cons_self .., rfl, rfl⟩
  case ptpSample =>
    show exec _ s = .next (s.modModule fun m => { m with ptp := (s.cycle, sec, ns) :: m.ptp.take 1 })
    rw [exec_ptpSample, execPtpSample]
    split
    next sec' ns' h =>
      cases hm.symm.trans h
      rfl
    next h => exact absurd hm (h sec ns)
  case writeUnreached => rw [hostWrite_spec hm hbs hp, if_pos hr]
  case writeRefused => rw [hostWrite_spec hm hbs hp, if_neg (by simp [hr]), if_pos hw]
  case write =>
    rw [hostWrite_spec hm hbs hp, if_neg (by simp [hr]), if_neg (by simp [hw, hc]), engPieces_of_one_line (by simpa using hbs) hline]
    simp
  case readWindow =>
    subst hp
    exact hostRead_window hm hn ha
  case read =>
    have hkeep := foldl_keeps State.readable (fun (s : State) (x : Nat × Nat) => (s.homeRead (x.1 / 128)).2) (fun s x => readable_homeRead s _)
      (engPieces a n) s
    simp only [State.readable, Prod.mk.injEq] at hkeep
    obtain ⟨hbytes, hslots, hmodule⟩ := hkeep
    refine ⟨_, (hostRead_memory hm hn hp hr).trans (congrArg _ (if_neg (by simp [hw]))), ?_, hbytes, hslots⟩
    exact congrArg (fun m : Module => m.reads ++ [(name, s.mem.bytes.bytes a n, s.rangePoisoned a n)]) hmodule
  case readRefused => exact ⟨_, (hostRead_memory hm hn hp hr).trans (congrArg _ (if_pos hw)), rfl, rfl, rfl⟩
  case featureEnable =>
    show exec _ s = .next (s.modModule fun m => { m with enabled := m.enabled ||| v })
    rw [exec_featureEnable, execFeatureEnable, hm]
  case portUp => exact ⟨_, (fabricBringUp_spec hm he hp hh).trans (congrArg _ (if_pos ⟨hrsa, hslh⟩)), List.mem_cons_self .., rfl, rfl, rfl⟩
  case portDown => rw [fabricBringUp_spec hm he hp hh, if_neg (by rcases h with h | h <;> simp [h])]

end Sys2Proof.Machine
end

section
/-! PROOF. Events of tasks (O51): deferred faults, results and windows. -/
namespace Sys2Proof.Machine

/-- With one trap held, due, no handler running and no demand for pre-emption, that trap is entered, deferred or not (R86, R460). -/
theorem takeTraps_of_due_of_no_preempt {s : State} {p : Pos} {x : PTrap} (hst : (s.slot p).st = .ready) (hs : (s.task p).settled = true)
    (hr : (s.task p).resume = none) (hi : (s.task p).inTrap = false) (ht : (s.task p).traps = [x]) (hd : x.due = true)
    (hn : (s.slot p).preempt = none) :
    s.takeTraps p = (s.modTask p fun t => { t with traps := [], precise := none }).trapEntry p x.trap (some x.pc) := by
  have hx : (s.task p).nextTrap = some x := by simp [Task.nextTrap, hr, hi, ht, hd]
  have he : (s.modTask p fun t => { t with traps := (t.traps.erase x).map fun y => { y with due := true }, precise := none }) =
      s.modTask p fun t => { t with traps := [], precise := none } := by
    rw [State.modTask, State.modTask, State.modSlot, State.modSlot, show (s.slot p).task.traps = [x] from ht, List.erase_cons_head]
    rfl
  simp only [State.takeTraps, hst, hs, hx, hn, he, beq_self_eq_true, Bool.and_self, Option.isSome_none, Bool.false_and, Bool.false_eq_true, if_true,
    if_false]

/-- A trap that is entered leaves the held traps and the s registers as they are. -/
theorem trapEntry_of_enabled_keeps {s : State} {p : Pos} (tr : Trap) (pc : Option Word) (hi : (s.task p).inTrap = false) (h₁ : (s.task p).cr 1 ≠ 0)
    (hl : s.isLight p = false) :
    ((s.trapEntry p tr pc).task p).traps = (s.task p).traps ∧ ((s.trapEntry p tr pc).task p).regs = (s.task p).regs := by
  rw [s.trapEntry_of_enabled p tr pc hi h₁ hl, State.task, State.slot_modSlot_self]
  exact ⟨rfl, rfl⟩

/-- The traps of a task once its waited results are in: those of a result that some instruction waits for are due (R85). -/
def Task.trapsDue (t : Task) : List PTrap :=
  t.traps.map fun x => if ((t.outst.filter (·.left == 0)).map (·.id)).contains x.id then { x with due := true } else x

theorem exec_deferredFaultTaken_of_turn {s : State} (hm : s.msg = .none) : exec .deferredFaultTaken s =
    .next ((s.setMy fun t => { t with traps := s.my.trapsDue }).takeTraps s.cur).waitTurn := by
  show execDeferredFaultTaken s = _
  unfold execDeferredFaultTaken
  rw [hm]
  rfl

/-- DEFERRED_FAULT_TAKEN of a task with one recorded fault. -/
theorem deferredFaultTaken_sole {s : State} {x : PTrap} (hm : s.msg = .none) (ht : s.my.traps = [x])
    (hd : x.due = true ∨ ∃ o ∈ s.my.outst, o.left = 0 ∧ o.id = x.id) (hst : s.mySlot.st = .ready) (hs : s.my.settled = true)
    (hr : s.my.resume = none) (hi : s.my.inTrap = false) (h₁ : s.my.cr 1 ≠ 0) (hl : s.isLight s.cur = false) (hp : s.mySlot.preempt = none) :
    ∃ t : State, exec .deferredFaultTaken s = .next t.waitTurn ∧
      t.my.pc = word (s.my.cr 1) ∧ t.my.cr 2 = s.my.pc.toNat ∧ t.my.cr 3 = (x.trap.cause + 256 * x.trap.sub + 65536 * x.trap.deferred.toNat) % 2 ^ 64 ∧
      t.my.cr 4 = x.trap.val % 2 ^ 64 ∧ t.my.inTrap = true ∧ t.my.traps = [] ∧ t.my.regs = s.my.regs ∧ t = { s with slots := t.slots } ∧
      ∀ p, p ≠ s.cur → t.slot p = s.slot p := by
  have hdue : s.my.trapsDue = [{ x with due := true }] := by
    rw [Task.trapsDue, ht, List.map_singleton]
    rcases hd with hd | ⟨o, ho, hleft, hid⟩
    · simp [← hd]
    · rw [if_pos]
      simp only [List.contains_eq_mem, List.mem_map, List.mem_filter, decide_eq_true_eq]
      exact ⟨o, ⟨ho, by simp [hleft]⟩, hid⟩
  rw [exec_deferredFaultTaken_of_turn hm, hdue]
  let v : State := s.setMy fun t => { t with traps := [{ x with due := true }] }
  let w : State := v.setMy fun t => { t with traps := [], precise := none }
  have hv : v.mySlot = { s.mySlot with task := { s.my with traps := [{ x with due := true }] } } := State.slot_modSlot_self ..
  have hvt : v.my = { s.my with traps := [{ x with due := true }] } := congrArg Slot.task hv
  have hw : w.my = { s.my with traps := [], precise := none } := by
    show (v.setMy _).my = _
    rw [State.my_setMy, hvt]
  have hv' : v.takeTraps s.cur = w.trapEntry s.cur x.trap (some x.pc) := by
    refine takeTraps_of_due_of_no_preempt (s := v) (x := { x with due := true }) ?_ ?_ ?_ ?_ ?_ rfl ?_
    · exact (congrArg Slot.st hv).trans hst
    · show v.my.settled = true; rw [hvt]; exact hs
    · show v.my.resume = none; rw [hvt]; exact hr
    · show v.my.inTrap = false; rw [hvt]; exact hi
    · show v.my.traps = _; rw [hvt]
    · exact (congrArg Slot.preempt hv).trans hp
  have hon : OnlyMySlot s w := (onlyMySlot_setMy _ _).trans (onlyMySlot_setMy _ _)
  have hwi : (w.task w.cur).inTrap = false := by rw [show w.task w.cur = w.my from rfl, hw]; exact hi
  have hw₁ : (w.task w.cur).cr 1 ≠ 0 := by rw [show w.task w.cur = w.my from rfl, hw]; exact h₁
  obtain ⟨hone, hpc, h₂, h₃, h₄, hin, -⟩ := trapEntry_my (s := w) x.trap (some x.pc) hwi hw₁ hl
  obtain ⟨htr, hregs⟩ := trapEntry_of_enabled_keeps (s := w) (p := w.cur) x.trap (some x.pc) hwi hw₁ hl
  rw [show w.task w.cur = _ from hw] at htr hregs
  rw [hw] at hpc h₂
  rw [← show (w.trapEntry w.cur x.trap (some x.pc)).my = (w.trapEntry w.cur x.trap (some x.pc)).task w.cur by rw [State.my, State.trapEntry_cur]]
    at htr hregs
  obtain ⟨hstate, hother⟩ := hon.trans hone
  exact ⟨_, by rw [show (s.setMy _).takeTraps s.cur = _ from hv']; rfl, hpc, h₂, h₃, h₄, hin, htr, hregs, hstate, hother⟩

-- LONG_RESULT_READY

/-- The task once a result without a fault has ended: TRES where it has one, and its arithmetic trap where an enabled flag is raised (R127). -/
def Task.longEnded (t : Task) (o : Outst) (id now : Nat) : Task :=
  let t := t.resultEnded id now
  let t := match o.tres with
    | some v => t.setCr 5 v
    | none => t
  if o.events.flags &&& o.xen = 0 then t else t.addDeferred o (arithTrap o.pc true)

/-- What the end of a result leaves of a task besides its results, accesses, control registers and traps. -/
theorem longEnded_keeps {γ : Type} (g : Task → γ) (hcr : ∀ t c v, g (Task.setCr t c v) = g t) (ht : ∀ (t : Task) ts, g { t with traps := ts } = g t)
    (t : Task) (o : Outst) (id now : Nat) : g (t.longEnded o id now) = g (t.resultEnded id now) := by
  have hres : g (match o.tres with
      | some v => (t.resultEnded id now).setCr 5 v
      | none => t.resultEnded id now) = g (t.resultEnded id now) := by
    cases o.tres
    · rfl
    · exact hcr ..
  unfold Task.longEnded
  dsimp only
  split
  · exact hres
  · exact (addDeferred_keeps g ht ..).trans hres

theorem finishLong_of_sreg {s : State} {p : Pos} {id : Nat} {o : Outst} {d : Reg} (hf : (s.task p).outst.find? (·.id == id) = some o)
    (hn : o.fault = none) (hd : o.dest = some d) (h : d.toNat < 16) : s.finishLong p id =
      ((((s.modTask p fun t => t.setSreg d.toNat (word o.value)).noteAt p o.events).modTask p fun t => t.longEnded o id s.cycle).boundary p) := by
  simp only [State.finishLong, hf, hn, hd, State.writeDest, if_pos h, State.noteAt_cycle, State.modTask_cycle]
  rfl

@[simp] theorem boundary_slots (s : State) (p : Pos) : (s.boundary p).slots = s.slots := by
  unfold State.boundary
  split <;> rfl

@[simp] theorem boundary_mem (s : State) (p : Pos) : (s.boundary p).mem = s.mem := by
  unfold State.boundary
  split <;> rfl

theorem slot_boundary (s : State) (p q : Pos) : (s.boundary p).slot q = s.slot q := by rw [State.slot, boundary_slots]; rfl

theorem task_boundary (s : State) (p q : Pos) : (s.boundary p).task q = s.task q := congrArg Slot.task (slot_boundary s p q)

/-- Every result of the name that ends has ended. -/
theorem doneAt_resultEnded {t : Task} {id now : Nat} {o : Outst} (h : o ∈ (t.resultEnded id now).outst) (hid : o.id = id) : o.doneAt = some now := by
  obtain ⟨x, -, rfl⟩ := List.mem_map.1 h
  by_cases hx : x.id = id
  · simp [hx]
  · simp [hx] at hid

/-- LONG_RESULT_READY of a result for an s register. -/
theorem longResultReady_sreg {s : State} {k : Tk} {id : Nat} {o : Outst} {d : Reg} (hm : s.msg = .longResultReady k id) (hat : s.isAt k = true)
    (hf : (s.task k.pos).outst.find? (·.id == id) = some o) (hn : o.fault = none) (hd : o.dest = some d) (h : d.toNat < 16) :
    ∃ t, exec .longResultReady s = .next t ∧
      (∀ r, (t.task k.pos).sreg r = if r = d.toNat ∧ r ≠ 0 then word o.value else (s.task k.pos).sreg r) ∧
      (∀ o' ∈ (t.task k.pos).outst, o'.id = id → o'.doneAt = some s.cycle) ∧ t.mem = s.mem ∧ ∀ p, p ≠ k.pos → t.slot p = s.slot p := by
  refine ⟨s.finishLong k.pos id, ?_, ?_⟩
  · rw [exec_longResultReady, execLongResultReady, hm]
    simp only [hat, if_true]
  rw [finishLong_of_sreg hf hn hd h]
  let u := (s.modTask k.pos fun t => t.setSreg d.toNat (word o.value)).noteAt k.pos o.events
  have htask : (((u.modTask k.pos fun t => t.longEnded o id s.cycle).boundary k.pos).task k.pos) = (u.task k.pos).longEnded o id s.cycle := by
    rw [task_boundary, State.task_modTask_self]
  refine ⟨fun r => ?_, fun o' ho' => ?_, by simp, fun p hp => ?_⟩
  · have hregs : (u.task k.pos).sreg r = ((s.task k.pos).setSreg d.toNat (word o.value)).sreg r := by
      rw [noteAt_keeps (·.sreg r) (Task.note_keeps (·.sreg r) fun _ _ _ => rfl), State.task_modTask_self]
    rw [htask, longEnded_keeps (·.sreg r) (fun _ _ _ => rfl) fun _ _ => rfl, show (Task.resultEnded _ _ _).sreg r = (u.task k.pos).sreg r from rfl,
      hregs, Task.sreg_setSreg]
    by_cases hr : r = d.toNat
    · simp [hr]
    · simp [hr]
  · rw [htask, longEnded_keeps (·.outst) (fun _ _ _ => rfl) fun _ _ => rfl] at ho'
    exact doneAt_resultEnded ho'
  · rw [slot_boundary, State.task_modTask_of_ne _ _ hp, slot_noteAt_of_ne _ _ hp, State.task_modTask_of_ne _ _ hp]

end Sys2Proof.Machine
end

section
/-! PROOF. Events of tasks (O51): windows, channels, barriers and probes. -/
namespace Sys2Proof.Machine

-- windows

theorem windowMoved_eq_at (s : State) (p : Pos) (n : Nat) : s.windowMoved p n =
    if ∃ k ∈ (s.task p).struck, k / 16 = n then s.post s.cycle 0 .reset (.uncontained (posCore p) 0 0x23 p) else s := by
  simp [State.windowMoved]

theorem exec_windowSpill_of_msg {s : State} {p : Pos} (h : s.msg = .windowSpill p) : exec .windowSpill s = .next
    ((s.windowMoved p (1 + (s.task p).callers.length + 1 - (s.task p).onChip)).modTask p fun t => { t with onChip := t.onChip - 1 }) := by
  rw [exec_windowSpill, execWindowSpill, h]
  rfl

theorem exec_windowFill_of_msg {s : State} {p : Pos} (h : s.msg = .windowFill p) : exec .windowFill s = .next
    ((s.windowMoved p (1 + (s.task p).callers.length - (s.task p).onChip)).modTask p fun t => { t with onChip := t.onChip + 1 }) := by
  rw [exec_windowFill, execWindowFill, h]
  rfl

-- the end of a wait

theorem slot_unpark_of_ne (s : State) {p q : Pos} (h : q ≠ p) : (s.unpark p).slot q = s.slot q := by
  unfold State.unpark
  dsimp only
  split
  · rw [State.slot_countEv_of_ne _ _ _ h, State.slot_modSlot, if_neg h]
  · rfl

/-- A slot once it is released, but for the counters of its task. -/
def Slot.released (x : Slot) (now : Nat) : Slot :=
  { x with st := .ready, notBefore := max x.notBefore (now + 1), task := { x.task with wait := none } }

theorem unpark_of_parked {s : State} {p : Pos} (h : (s.slot p).st = .parked) :
    s.unpark p = (s.modSlot p fun x => x.released s.cycle).countEv p 2 (turnsOf (posSlot p) (s.slot p).parkedAt s.cycle) := by
  simp only [State.unpark, h, beq_self_eq_true, if_true]
  rfl

theorem unpark_of_ready {s : State} {p : Pos} (h : (s.slot p).st = .ready) : s.unpark p = s := by simp [State.unpark, h]

theorem slot_unpark_keeps {γ : Type} (g : Slot → γ) (hg : ∀ (x : Slot) t, g { x with task := t } = g x) {s : State} {p : Pos}
    (h : (s.slot p).st = .parked) : g ((s.unpark p).slot p) = g ((s.slot p).released s.cycle) := by
  rw [unpark_of_parked h, State.slot_countEv_keeps g hg, State.slot_modSlot_self]

theorem task_unpark_of_parked {γ : Type} (g : Task → γ) (hg : ∀ t c v, g (Task.setCr t c v) = g t) {s : State} {p : Pos}
    (h : (s.slot p).st = .parked) : g ((s.unpark p).task p) = g { s.task p with wait := none } := by
  rw [unpark_of_parked h, State.task_countEv_keeps g hg, State.task, State.slot_modSlot_self]
  rfl

theorem slot_wake_of_ne (s : State) {p q : Pos} (w : Wait) (h : q ≠ p) : (s.wake p w).slot q = s.slot q := by
  unfold State.wake
  split
  · exact slot_unpark_of_ne s h
  · rfl

theorem wake_of_waits {s : State} {p : Pos} {w : Wait} (h : (s.slot p).st = .parked) (hw : (s.task p).wait = some w) : s.wake p w = s.unpark p := by
  simp [State.wake, h, hw]

theorem slot_wake_keeps {γ : Type} (g : Slot → γ) (h : ∀ (x : Slot) st n t, g { x with st := st, notBefore := n, task := t } = g x)
    (s : State) (p q : Pos) (w : Wait) : g ((s.wake p w).slot q) = g (s.slot q) := by
  by_cases hq : q = p
  · unfold State.wake
    split
    case isTrue hc =>
      rw [hq, slot_unpark_keeps g (fun x t => h x x.st x.notBefore t) (by simp_all), Slot.released, h]
    case isFalse => rfl
  · rw [slot_wake_of_ne s w hq]

@[simp] theorem endpoint_wake (s : State) (p q : Pos) (w : Wait) (n : Nat) : (s.wake p w).endpoint q n = s.endpoint q n :=
  slot_wake_keeps (fun x => x.ends.get {} n) (fun _ _ _ _ => rfl) s p q w

theorem endpoint_setEndpoint (s : State) (p q : Pos) (n m : Nat) (f : Endpoint → Endpoint) :
    (s.setEndpoint p n f).endpoint q m = if q = p ∧ m = n then f (s.endpoint p n) else s.endpoint q m := by
  rw [State.endpoint, State.setEndpoint, State.slot_modSlot]
  by_cases hq : q = p
  · simp only [hq, if_true, true_and, Tbl.get_upd, State.endpoint]
  · simp only [hq, if_false, false_and, State.endpoint]

theorem endpoint_setEndpoint_self (s : State) (p : Pos) (n : Nat) (f : Endpoint → Endpoint) : (s.setEndpoint p n f).endpoint p n = f (s.endpoint p n) :=
  (endpoint_setEndpoint ..).trans (if_pos ⟨rfl, rfl⟩)

-- CHANNEL_WORD_ARRIVAL

/-- A word enters its queue: the pop that waits for it issues again. -/
theorem channelWordArrival_spec {s : State} {q : Pos} {m : Nat} {w : Word} {far : Bool} (hm : s.msg = .channelWordArrival q m w far)
    (hf : (s.core (posCore q)).fenced = false) : ∃ t, exec .channelWordArrival s = .next t ∧
      (t.endpoint q m).inbound = (s.endpoint q m).inbound ++ [w] ∧ (t.endpoint q m).coming = (s.endpoint q m).coming - 1 ∧ t.mem = s.mem ∧
      t.hub = s.hub ∧ (∀ p, p ≠ q → t.slot p = s.slot p) ∧
      ((s.slot q).st = .parked → (s.task q).wait = some (.pop m) → (t.slot q).st = .ready ∧ (t.task q).pc = (s.task q).pc) := by
  let f (e : Endpoint) : Endpoint := { e with coming := e.coming - 1, inbound := e.inbound ++ [w] }
  let v := if far then (s.setEndpoint q m f).countRecv (posCore q) else s.setEndpoint q m f
  have hslot (p : Pos) : v.slot p = (s.setEndpoint q m f).slot p := by
    show (if far then _ else _ : State).slot p = _
    split <;> rfl
  have hbeside : v.beside = s.beside := by
    show (if far then _ else _ : State).beside = _
    split <;> rfl
  refine ⟨v.wake q (.pop m), ?_, ?_⟩
  · rw [exec_channelWordArrival, execChannelWordArrival, hm]
    simp only [hf, Bool.false_eq_true, if_false]
    rfl
  have hend : (v.wake q (.pop m)).endpoint q m = f (s.endpoint q m) := by
    rw [endpoint_wake, State.endpoint, hslot]
    exact endpoint_setEndpoint_self s q m f
  have hb : (v.wake q (.pop m)).beside = s.beside := (beside_wake ..).trans hbeside
  refine ⟨by rw [hend], by rw [hend], show (State.beside _).mem = _ from congrArg (·.mem) hb, show (State.beside _).hub = _ from congrArg (·.hub) hb, fun p hp => ?_, fun hst hw => ?_⟩
  · rw [slot_wake_of_ne _ _ hp, hslot, State.setEndpoint, State.slot_modSlot, if_neg hp]
  · have hs : v.slot q = { s.slot q with ends := (s.slot q).ends.upd {} m f } := (hslot q).trans (State.slot_modSlot_self ..)
    have hp : (v.slot q).st = .parked := by rw [hs]; exact hst
    have ht : v.task q = s.task q := by rw [State.task, hs]; rfl
    rw [wake_of_waits hp (by rw [ht]; exact hw)]
    refine ⟨?_, ?_⟩
    · rw [slot_unpark_keeps (·.st) (fun _ _ => rfl) hp]
      rfl
    · rw [task_unpark_of_parked (·.pc) (fun _ _ _ => rfl) hp, ht]

-- CHANNEL_AGENT_REQUEST

/-- Who asks the channel agent, as it finds it. -/
theorem exec_channelAgentRequest_of_msg {s : State} {k : Tk} {id n a done : Nat} (hm : s.msg = .channelAgent k id n a done) :
    exec .channelAgentRequest s = .next (((if s.channelRefused k.pos n ((s.findTask k).getD {}).space a then s
      else if bit a 14 then s.breakChannel k.pos n
      else s.pairChannel k.pos n (mkPos (coreOf (coreDie (posCore k.pos)) (bits a 0 4) (bits a 4 4)) (bits a 8 4)) (bits a 12 2)).postAt done k.pos
        .classBCompletion (.classBCompletion k id (if s.channelRefused k.pos n ((s.findTask k).getD {}).space a then
          { endsPlain with trap := some ⟨2, 7, ((s.findTask k).getD {}).pc.toNat, false⟩ } else endsPlain)))) := by
  rw [exec_channelAgentRequest, execChannelAgentRequest, hm]
  rfl

/-- What a request to the channel agent does. -/
theorem channelAgentRequest_spec {s : State} {k : Tk} {id n a done : Nat} (hm : s.msg = .channelAgent k id n a done) :
    (s.channelRefused k.pos n ((s.findTask k).getD {}).space a = true → exec .channelAgentRequest s = .next (s.postAt done k.pos .classBCompletion
      (.classBCompletion k id { endsPlain with trap := some ⟨2, 7, ((s.findTask k).getD {}).pc.toNat, false⟩ }))) ∧
    (s.channelRefused k.pos n ((s.findTask k).getD {}).space a = false → bit a 14 = true → exec .channelAgentRequest s = .next
      ((s.breakChannel k.pos n).postAt done k.pos .classBCompletion (.classBCompletion k id endsPlain))) ∧
    (s.channelRefused k.pos n ((s.findTask k).getD {}).space a = false → bit a 14 = false → exec .channelAgentRequest s = .next
      ((s.pairChannel k.pos n (mkPos (coreOf (coreDie (posCore k.pos)) (bits a 0 4) (bits a 4 4)) (bits a 8 4)) (bits a 12 2)).postAt done k.pos
        .classBCompletion (.classBCompletion k id endsPlain))) := by
  refine ⟨fun h => ?_, fun h hb => ?_, fun h hb => ?_⟩ <;> rw [exec_channelAgentRequest_of_msg hm]
  · simp only [h, if_true]
  · simp only [h, hb, Bool.false_eq_true, if_true, if_false]
  · simp only [h, hb, Bool.false_eq_true, if_false]

-- BARRIER_COMPLETE and BARRIER_TIMEOUT

/-- A barrier in which one BARW waits is abandoned (R392). -/
theorem abandon_sole {s : State} {w d : Nat} {b : BarWait} (hw : (s.wire w).waits = [b]) (hb : b.kind = 0) (ht : b.btotrap = false) :
    s.abandon w d = (s.completeWait b.t b.id (.barrier b.id) (ends b.dest 1)).endGeneration w d true := by
  simp only [State.abandon, hw, List.foldl_cons, List.foldl_nil, hb, ht, Nat.zero_ne_one, Bool.false_eq_true, if_false]
  rfl

section
variable {s : State} {w stamp d at_ : Nat} {b : BarWait} (hl : (s.wire w).latch = some d)
include hl

/-- A generation in which one BARW waits completes. -/
theorem barrierComplete_sole (hstamp : (s.wire w).stamp = stamp) (hw : (s.wire w).waits = [b]) (hb : b.kind = 0)
    (hm : s.msg = .barrierComplete w stamp) (hdue : (s.wire w).due = some s.cycle) (hc : (s.wire w).coming = []) :
    exec .barrierComplete s = .next ((s.completeWait b.t b.id (.barrier b.id) (ends b.dest 0)).endGeneration w d false) := by
  rw [exec_barrierComplete, execBarrierComplete, hm]
  simp [hc, hl, hstamp, hdue, hw, hb]
  rfl

/-- The expiry of the one BARW that waits. -/
theorem barrierTimeout_sole (hw : (s.wire w).waits = [b]) (hb : b.kind = 0) (hm : s.msg = .barrierTimeout w b.id at_)
    (hdue : (s.wire w).due = none) (ht : b.btotrap = false) : exec .barrierTimeout s = .next
      (s.asOf at_ fun s => (s.completeWait b.t b.id (.barrier b.id) (ends b.dest 1)).endGeneration w d true) := by
  rw [exec_barrierTimeout, execBarrierTimeout, hm]
  simp only [hl, hdue, hw, Option.isSome_none, List.any_cons, beq_self_eq_true, List.any_nil, Bool.or_false, Bool.not_true, Bool.or_self, Bool.false_eq_true,
    if_false]
  exact congrArg (fun u : State => Host.Outcome.next { u with cycle := s.cycle }) (abandon_sole (s := { s with cycle := at_ }) hw hb ht)

/-- A withdrawn arrival has no expiry. -/
theorem barrierTimeout_withdrawn (hw : (s.wire w).waits = [b]) {id : Nat} (hid : id ≠ b.id) (hm : s.msg = .barrierTimeout w id at_) :
    exec .barrierTimeout s = .next s := by
  rw [exec_barrierTimeout, execBarrierTimeout, hm]
  simp [hl, hw, Ne.symm hid]

end

-- PROBE_CIRCUIT_END

/-- A circuit is back at its issuer. -/
theorem probeCircuitEnd_of_back {s : State} {k : Tk} {id rect maxc n j sum : Nat} {black : Bool} {d : Reg}
    (hm : s.msg = .probeVisit k id rect maxc n j sum black d)
    (hj : (probeRing (posCore k.pos) ((rectCores (coreDie (posCore k.pos)) rect).getD []))[j]? = none) :
    (sum = 0 → black = false → exec .probeCircuitEnd s = .next (s.postAt (s.cycle + 4) k.pos .classBCompletion (.classBCompletion k id (ends d n)))) ∧
    (¬(sum = 0 ∧ black = false) → n = maxc → exec .probeCircuitEnd s = .next (s.postAt (s.cycle + 4) k.pos .classBCompletion (.classBCompletion k id (ends d 0)))) ∧
    (¬(sum = 0 ∧ black = false) → n ≠ maxc → exec .probeCircuitEnd s = .next
      (s.postAt s.cycle k.pos .probeCircuitEnd (.probeVisit k id rect maxc (n + 1) 0 0 false d))) := by
  have he : exec .probeCircuitEnd s = .next (if sum = 0 ∧ black = false then
        s.postAt (s.cycle + 4) k.pos .classBCompletion (.classBCompletion k id (ends d n))
      else if n = maxc then s.postAt (s.cycle + 4) k.pos .classBCompletion (.classBCompletion k id (ends d 0))
      else s.postAt s.cycle k.pos .probeCircuitEnd (.probeVisit k id rect maxc (n + 1) 0 0 false d)) := by
    rw [exec_probeCircuitEnd, execProbeCircuitEnd, hm]
    simp only [hj, Bool.and_eq_true, decide_eq_true_eq, Bool.not_eq_true']
    rfl
  rw [he]
  exact ⟨fun h hb => by rw [if_pos ⟨h, hb⟩], fun h hn => by rw [if_neg h, if_pos hn], fun h hn => by rw [if_neg h, if_neg hn]⟩

-- going on for another position

theorem slot_asPos_advance_of_ne (s : State) {p q : Pos} (h : q ≠ p) : (s.asPos p State.advance).slot q = s.slot q :=
  State.goTo_slot_of_ne { s with cur := p } _ h

theorem slot_asPos_advance_keeps {γ : Type} (g : Slot → γ) (h : ∀ (x : Slot) t, g { x with task := t } = g x) (s : State) (p q : Pos) :
    g ((s.asPos p State.advance).slot q) = g (s.slot q) := State.goTo_slot_keeps g h { s with cur := p } _ q

theorem task_asPos_advance {γ : Type} (g : Task → γ) (h : ∀ t c v, g (Task.setCr t c v) = g t) (s : State) (p : Pos) :
    g ((s.asPos p State.advance).task p) = g { s.task p with
      pc := (s.task p).resume.getD ((s.task p).pc + 4), resume := none, tileFrom := 0, kept := (s.task p).kept.del (s.task p).keptKey, waited := false,
      outst := (s.task p).outst.map fun o => { o with left := o.left - 1 } } := by
  have hmy := State.goTo_my { s with cur := p } ((State.my { s with cur := p }).pc + 4) g h
  rwa [State.my, State.goTo_cur] at hmy

@[simp] theorem asPos_advance_agenda (s : State) (p : Pos) : (s.asPos p State.advance).agenda = s.agenda := State.advance_agenda { s with cur := p }
@[simp] theorem asPos_advance_cycle (s : State) (p : Pos) : (s.asPos p State.advance).cycle = s.cycle := State.advance_cycle { s with cur := p }

/-- A class B instruction that ends with a value for an s register. -/
theorem finishBlocking_sreg (s : State) (p : Pos) {d : Reg} (v : Nat) (h : d.toNat < 16) : s.finishBlocking p (ends d v) =
    some (((s.modTask p fun t => t.setSreg d.toNat (word v)).asPos p State.advance).unpark p) := by
  simp only [State.finishBlocking, ends, State.writeDest, if_pos h, Option.map_some]

theorem returns_finishBlocking {s : State} {p : Pos} {d : Reg} (v : Nat) (h : d.toNat < 16) (hst : (s.slot p).st = .parked) :
    ∃ u, s.finishBlocking p (ends d v) = some u ∧ Returns s u p d v := by
  refine ⟨_, finishBlocking_sreg s p v h, ?_⟩
  let w := s.modTask p fun t => t.setSreg d.toNat (word v)
  let x := w.asPos p State.advance
  have hw : w.slot p = { s.slot p with task := (s.task p).setSreg d.toNat (word v) } := State.slot_modSlot_self ..
  have hwt : w.task p = (s.task p).setSreg d.toNat (word v) := State.task_modTask_self ..
  have hx : (x.slot p).st = .parked := by
    rw [slot_asPos_advance_keeps (·.st) (fun _ _ => rfl) w, hw]
    exact hst
  have hbeside : (x.unpark p).beside = s.beside := by simp [x, w]
  refine ⟨?_, ?_, ?_, ?_, congrArg (·.mem) hbeside, congrArg (·.hub) hbeside,
    (State.unpark_agenda ..).trans (asPos_advance_agenda w p), fun q hq => ?_, fun r => ?_⟩
  · rw [slot_unpark_keeps (·.st) (fun _ _ => rfl) hx]
    rfl
  · rw [slot_unpark_keeps (·.notBefore) (fun _ _ => rfl) hx, Slot.released, slot_asPos_advance_keeps (·.notBefore) (fun _ _ => rfl) w, hw,
      asPos_advance_cycle]
    rfl
  · rw [task_unpark_of_parked (·.wait) (fun _ _ _ => rfl) hx]
  · rw [task_unpark_of_parked (·.pc) (fun _ _ _ => rfl) hx]
    refine (task_asPos_advance (·.pc) (fun _ _ _ => rfl) w p).trans ?_
    rw [hwt, Task.setSreg_keeps (·.resume) fun _ _ _ => rfl, Task.setSreg_keeps (·.pc) fun _ _ _ => rfl]
  · rw [slot_unpark_of_ne _ hq, slot_asPos_advance_of_ne _ hq, State.task_modTask_of_ne _ _ hq]
  · rw [task_unpark_of_parked (·.sreg r) (fun _ _ _ => rfl) hx]
    refine (task_asPos_advance (·.sreg r) (fun _ _ _ => rfl) w p).trans ?_
    show (w.task p).sreg r = _
    rw [hwt, Task.sreg_setSreg]
    by_cases hr : r = d.toNat
    · simp [hr]
    · simp [hr]

theorem parked_of_waitsFor {s : State} {k : Tk} {w : Wait} (h : s.waitsFor k w = true) :
    s.isAt k = true ∧ (s.slot k.pos).st = .parked ∧ (s.task k.pos).wait = some w := by
  simpa [State.waitsFor, and_assoc] using h

theorem waitPlace_of_waitsFor {s : State} {k : Tk} {w : Wait} (h : s.waitsFor k w = true) : s.waitPlace k w = some k.pos := if_pos h

/-- The task that waits in a blocking instruction is completed under that name. -/
theorem waitOf_of_blocking {t : Task} {id : Nat} (h : t.wait = some (.blocking id)) : t.waitOf id = .blocking id := by
  simp [Task.waitOf, h]

theorem classBCompletion_sreg {s : State} {k : Tk} {id v : Nat} {d : Reg} (h : d.toNat < 16) (hm : s.msg = .classBCompletion k id (ends d v))
    (hw : s.waitsFor k (.blocking id) = true) : ∃ t, exec .classBCompletion s = .next t ∧ Returns s t k.pos d v := by
  obtain ⟨hat, hst, hwait⟩ := parked_of_waitsFor hw
  obtain ⟨u, hu, hr⟩ := returns_finishBlocking (s := s) v h hst
  refine ⟨u, ?_, hr⟩
  rw [exec_classBCompletion, execClassBCompletion, hm]
  show fenceCompletion s = _
  rw [fenceCompletion, hm]
  simp only [State.findTask, hat, if_true, Option.map_some, Option.getD_some, waitOf_of_blocking hwait, State.completeWait, waitPlace_of_waitsFor hw, hu]

theorem vcacheStatusWrite_sreg {s : State} {k : Tk} {id v : Nat} {d : Reg} (h : d.toNat < 16) (hm : s.msg = .vcacheStatusWrite k id v d)
    (hw : s.waitsFor k (.reconfig id) = true) : ∃ t, exec .vcacheStatusWrite s = .next t ∧ Returns s t k.pos d v := by
  obtain ⟨-, hst, -⟩ := parked_of_waitsFor hw
  obtain ⟨u, hu, hr⟩ := returns_finishBlocking (s := s) v h hst
  refine ⟨u, ?_, hr⟩
  rw [exec_vcacheStatusWrite, execVcacheStatusWrite, hm]
  simp only [waitPlace_of_waitsFor hw, show Finish.value_ d v = ends d v from rfl, hu]

-- SLEEP_EXPIRY

theorem slept_of_not_promised {s : State} {p : Pos} {v : Nat} (h : s.promised p v = none) : s.slept p v = s.asPos p State.advance := by
  rw [State.slept, h]

/-- The expiry of a sleep that no promise names. -/
theorem sleepExpiry_plain {s : State} {k : Tk} {v : Nat} {pr : Option Nat} (hm : s.msg = .sleepExpiry k v)
    (hw : (s.task k.pos).wait = some (.sleep v pr)) (hat : s.isAt k = true) (hst : (s.slot k.pos).st = .parked) (htags : (s.task k.pos).tags = []) :
    ∃ t, exec .sleepExpiry s = .next t ∧ (t.slot k.pos).st = .ready ∧ (t.slot k.pos).notBefore = s.cycle ∧
      (t.task k.pos).pc = (s.task k.pos).resume.getD ((s.task k.pos).pc + 4) ∧ t.mem = s.mem ∧ t.hub = s.hub := by
  let u := (s.unpark k.pos).modSlot k.pos fun x => { x with notBefore := s.cycle }
  have hu : u.slot k.pos = { (s.unpark k.pos).slot k.pos with notBefore := s.cycle } := State.slot_modSlot_self ..
  have hut : u.task k.pos = (s.unpark k.pos).task k.pos := congrArg (·.task) hu
  have hpr : u.promised k.pos v = none := by
    rw [State.promised, hut, task_unpark_of_parked (·.tags) (fun _ _ _ => rfl) hst, htags]
    rfl
  refine ⟨u.asPos k.pos State.advance, ?_, ?_, ?_, ?_, ?_⟩
  · rw [exec_sleepExpiry, execSleepExpiry, hm]
    simp only [hw, hat, hst, beq_self_eq_true, decide_true, Bool.and_self, if_true]
    exact congrArg Host.Outcome.next (slept_of_not_promised hpr)
  · rw [slot_asPos_advance_keeps (·.st) (fun _ _ => rfl), hu]
    exact slot_unpark_keeps (·.st) (fun _ _ => rfl) hst
  · rw [slot_asPos_advance_keeps (·.notBefore) (fun _ _ => rfl), hu]
  · rw [task_asPos_advance (·.pc) (fun _ _ _ => rfl), hut, task_unpark_of_parked (·.resume) (fun _ _ _ => rfl) hst,
      task_unpark_of_parked (·.pc) (fun _ _ _ => rfl) hst]
  · have hb : (u.asPos k.pos State.advance).beside = s.beside := by simp [u]
    exact ⟨congrArg (·.mem) hb, congrArg (·.hub) hb⟩

-- QCFG_DEFAULT

/-- What a channel's end leaves alone, and that both its endpoints are unbound afterwards (R386). -/
theorem pair_breakChannel (s : State) (p q : Pos) (n m : Nat) :
    ((s.breakChannel p n).endpoint q m).pair = .unbound ∨ ((s.breakChannel p n).endpoint q m).pair = (s.endpoint q m).pair := by
  have hset (u : State) (p : Pos) (n : Nat) : (((u.setEndpoint p n fun e => { e with pair := .unbound }).wake p (.push n)).endpoint q m).pair = .unbound ∨
      (((u.setEndpoint p n fun e => { e with pair := .unbound }).wake p (.push n)).endpoint q m).pair = (u.endpoint q m).pair := by
    rw [endpoint_wake, endpoint_setEndpoint]
    split
    · exact .inl rfl
    · exact .inr rfl
  unfold State.breakChannel
  dsimp only
  split
  next q' m' h =>
    rcases hset ((s.setEndpoint q' m' fun e => { e with pair := .unbound }).wake q' (.push m')) p n with h | h
    · exact .inl h
    · rw [h]
      exact hset s q' m'
  next => exact hset s p n

theorem pair_breakChannel_self (s : State) (p : Pos) (n : Nat) : ((s.breakChannel p n).endpoint p n).pair = .unbound := by
  rw [State.breakChannel, endpoint_wake, endpoint_setEndpoint_self]

@[simp] theorem beside_breakChannel (s : State) (p : Pos) (n : Nat) : (s.breakChannel p n).beside = s.beside := by
  unfold State.breakChannel
  dsimp only
  split <;> simp

/-- One endpoint of QCFG_DEFAULT: paired as by default again. -/
def State.defaultChannel (s : State) (c n k : Nat) : State :=
  let p := mkPos c (k + 1)
  let s := s.breakChannel p n
  match adjacent c n with
  | none => s
  | some c' => ((s.breakChannel (mkPos c' (k + 1)) ((n + 2) % 4)).setEndpoint p n fun e => { e with pair := .default }).setEndpoint (mkPos c' (k + 1))
      ((n + 2) % 4) fun e => { e with pair := .default }

theorem exec_qcfgDefault_of_msg {s : State} {c n : Nat} (hm : s.msg = .qcfgDefault c n) :
    exec .qcfgDefault s = .next ((List.range 14).foldl (fun s k => s.defaultChannel c n k) s) := by
  rw [exec_qcfgDefault, execQcfgDefault, hm]
  rfl

@[simp] theorem beside_defaultChannel (s : State) (c n k : Nat) : (s.defaultChannel c n k).beside = s.beside := by
  unfold State.defaultChannel
  dsimp only
  split <;> simp

theorem qcfgDefault_mem (s : State) (c n : Nat) (l : List Nat) : (l.foldl (fun s k => s.defaultChannel c n k) s).mem = s.mem :=
  congrArg (·.mem) (foldl_keeps State.beside (fun (s : State) k => s.defaultChannel c n k) (fun s k => beside_defaultChannel s c n k) l s)

/-- At the die's edge every endpoint ends up unbound. -/
theorem pair_defaultChannels_of_edge {c n : Nat} (ha : adjacent c n = none) (l : List Nat) (s : State) {k : Nat} (hk : k ∈ l) :
    ((l.foldl (fun s k => s.defaultChannel c n k) s).endpoint (mkPos c (k + 1)) n).pair = .unbound := by
  have hone (s : State) (j : Nat) : s.defaultChannel c n j = s.breakChannel (mkPos c (j + 1)) n := by rw [State.defaultChannel, ha]
  have hkept (l : List Nat) (s : State) (h : (s.endpoint (mkPos c (k + 1)) n).pair = .unbound) :
      ((l.foldl (fun s k => s.defaultChannel c n k) s).endpoint (mkPos c (k + 1)) n).pair = .unbound := by
    induction l generalizing s with
    | nil => exact h
    | cons j l ih =>
      refine ih _ ?_
      show ((s.defaultChannel c n j).endpoint _ _).pair = _
      rw [hone]
      rcases pair_breakChannel s (mkPos c (j + 1)) (mkPos c (k + 1)) n n with h' | h'
      · exact h'
      · exact h'.trans h
  induction l generalizing s with
  | nil => cases hk
  | cons j l ih =>
    rcases List.mem_cons.1 hk with rfl | hk
    · exact hkept l _ ((congrArg (fun u : State => (u.endpoint (mkPos c (k + 1)) n).pair) (hone s k)).trans (pair_breakChannel_self ..))
    · exact ih _ hk

/-- Beside another core the last endpoint and its partner are paired by default again. -/
theorem pair_defaultChannel {c c' n : Nat} (ha : adjacent c n = some c') (s : State) (k : Nat) :
    ((s.defaultChannel c n k).endpoint (mkPos c (k + 1)) n).pair = .default ∧
      ((s.defaultChannel c n k).endpoint (mkPos c' (k + 1)) ((n + 2) % 4)).pair = .default := by
  rw [State.defaultChannel, ha]
  refine ⟨?_, by rw [endpoint_setEndpoint_self]⟩
  rw [endpoint_setEndpoint]
  split
  · rfl
  · rw [endpoint_setEndpoint_self]

theorem qcfgDefault_spec {s : State} {c n : Nat} (hm : s.msg = .qcfgDefault c n) :
    (adjacent c n = none → ∃ t, exec .qcfgDefault s = .next t ∧ t.mem = s.mem ∧ ∀ k, 1 ≤ k → k ≤ 14 → (t.endpoint (mkPos c k) n).pair = .unbound) ∧
    (∀ c', adjacent c n = some c' → ∃ t, exec .qcfgDefault s = .next t ∧ t.mem = s.mem ∧ (t.endpoint (mkPos c 14) n).pair = .default ∧
      (t.endpoint (mkPos c' 14) ((n + 2) % 4)).pair = .default) := by
  refine ⟨fun ha => ⟨_, exec_qcfgDefault_of_msg hm, qcfgDefault_mem .., fun k h1 h14 => ?_⟩, fun c' ha => ⟨_, exec_qcfgDefault_of_msg hm, qcfgDefault_mem .., ?_⟩⟩
  · obtain ⟨j, rfl⟩ : ∃ j, k = j + 1 := ⟨k - 1, by omega⟩
    exact pair_defaultChannels_of_edge ha _ s (List.mem_range.2 (by omega))
  · rw [List.range_succ, List.foldl_append]
    exact pair_defaultChannel ha _ 13

end Sys2Proof.Machine
end

section
/-! PROOF. Events of tasks (O51): the end of a walk. -/
namespace Sys2Proof.Machine

/-- A state whose walks and agenda are others. -/
def State.withWalks (s : State) (ws : List Walk) (a : List Pending) : State := { s with mem := { s.mem with walks := ws }, agenda := a }

theorem walkFrom_withWalks (s : State) (ws : List Walk) (a : List Pending) (space va fuel l tab : Nat) :
    (s.withWalks ws a).walkFrom space va fuel l tab = s.walkFrom space va fuel l tab := by
  induction fuel generalizing l tab with
  | zero => rfl
  | succ fuel ih =>
    simp only [State.walkFrom, ih]
    rfl

/-- A walk reads neither walks nor the agenda. -/
theorem walk_withWalks (s : State) (ws : List Walk) (a : List Pending) (die space va : Nat) :
    (s.withWalks ws a).walk die space va = s.walk die space va := by
  simp only [State.walk, walkFrom_withWalks]
  rfl

/-- The walks once one of a die has ended: that one is gone, and another may have begun. -/
theorem nextWalk_eq_withWalks (s : State) (die : Nat) : ∃ ws a, s.nextWalk die = s.withWalks ws a ∧
    ∀ x ∈ ws, ∃ y ∈ s.mem.walks, y.space = x.space ∧ y.page = x.page := by
  unfold State.nextWalk
  split
  next => exact ⟨s.mem.walks, s.agenda, rfl, fun x hx => ⟨x, hx, rfl, rfl⟩⟩
  next w _ =>
    refine ⟨_, _, rfl, fun x hx => ?_⟩
    obtain ⟨y, hy, rfl⟩ := List.mem_map.1 hx
    refine ⟨y, hy, ?_⟩
    split <;> exact ⟨rfl, rfl⟩

/-- The walker of a die keeps the tables that a walk has passed (R445). -/
def Mem.walkerKeeps (m : Mem) (die space va : Nat) (ts : List (Nat × Nat)) : Mem :=
  { m with walkerTlb := m.walkerTlb.upd [] die fun l => ((ts.map fun x => (space, walkKey x.1 va, x.2)) ++ l.filter fun y =>
    !ts.any fun x => y.1 == space && y.2.1 == walkKey x.1 va).take 256 }

/-- The state once a requester's walk has found a leaf, before the requester is released. -/
def State.leafFound (s : State) (p : Pos) (die space va : Nat) (ts : List (Nat × Nat)) (e : Tlb) : State :=
  ((s.modMem fun m => m.walkerKeeps die space va ts).enterClusterTlb (posCore p) e).enterCoreTlb (posCore p) e

/-- The record that a slot's supervisor-level fault leaves with it. -/
theorem pending_supFault (s : State) (p : Pos) (cause sub addr acc : Nat) : ∃ r, ((s.supFault p cause sub addr acc).slot p).pending? = some r ∧
    r.cause = cause ∧ r.sub = sub ∧ r.addr = addr ∧ r.acc = acc := by
  unfold State.supFault
  rw [State.slot_sendRecord, State.slot_park, if_pos rfl, State.slot_modSlot_self]
  exact ⟨_, rfl, rfl, rfl, rfl, rfl⟩

section
variable {s : State} {space page : Nat} {w : Walk} {k : Tk} (hm : s.msg = .translationWalk space page)
  (hf : s.mem.walks.find? (fun w => w.space == space && w.page == page) = some w) (hk : w.slots = [k]) (hr : w.runs = []) (hc : w.copies = [])
  (hw : s.waitsFor k .walk = true)
include hm hf hk hr hc hw

/-- The walk of one requester ends as it finds the tables. -/
theorem exec_translationWalk_sole : ∃ ws a, (∀ x ∈ ws, ∃ y ∈ s.mem.walks, y ≠ w ∧ y.space = x.space ∧ y.page = x.page) ∧
    (∀ n e ts, s.walk (coreDie (posCore w.by_)) space w.va = (n, .leaf e, ts) →
      exec .translationWalk s = .next (((s.withWalks ws a).leafFound k.pos (coreDie (posCore w.by_)) space w.va ts e).wake k.pos .walk)) ∧
    (∀ n sub ts, s.walk (coreDie (posCore w.by_)) space w.va = (n, .fault sub, ts) →
      exec .translationWalk s = .next ((s.withWalks ws a).supFault k.pos 0x40 sub w.va w.acc)) := by
  let u := s.modMem fun m => { m with walks := m.walks.filter fun x => x != w }
  obtain ⟨ws, a, hn, hws⟩ := nextWalk_eq_withWalks u (coreDie (posCore w.by_))
  have hn' : u.nextWalk (coreDie (posCore w.by_)) = s.withWalks ws a := hn
  have hwait : (s.withWalks ws a).waitsFor k .walk = true := hw
  refine ⟨ws, a, fun x hx => ?_, fun n e ts he => ?_, fun n sub ts he => ?_⟩
  · obtain ⟨y, hy, hsp, hpg⟩ := hws x hx
    obtain ⟨hy, hne⟩ := List.mem_filter.1 hy
    exact ⟨y, hy, by simpa using hne, hsp, hpg⟩
  all_goals
    rw [exec_translationWalk, execTranslationWalk, hm]
    simp only [hf]
    rw [show State.nextWalk _ (coreDie (posCore w.by_)) = _ from hn', walk_withWalks, he]
    simp only [hk, hr, hc, hwait, State.walked, State.walkFaults, List.filter_cons, List.filter_nil, if_true, List.foldl_cons, List.foldl_nil]
  rfl

/-- TRANSLATION_WALK with one requester: it looks again, or it parks with a fault record. -/
theorem translationWalk_sole :
    let gone (t : State) : Prop := (∀ x ∈ s.mem.walks, x.space = space → x.page = page → x = w) → ∀ x ∈ t.mem.walks, ¬(x.space = space ∧ x.page = page)
    (∀ n e ts, s.walk (coreDie (posCore w.by_)) space w.va = (n, .leaf e, ts) → ∃ t, exec .translationWalk s = .next t ∧
      (t.slot k.pos).st = .ready ∧ (t.task k.pos).pc = (s.task k.pos).pc ∧ t.mem.bytes = s.mem.bytes ∧ gone t ∧ e ∈ (t.core (posCore k.pos)).tlb) ∧
    (∀ n sub ts, s.walk (coreDie (posCore w.by_)) space w.va = (n, .fault sub, ts) → ∃ t r, exec .translationWalk s = .next t ∧
      (t.slot k.pos).st = .parked ∧ (t.task k.pos).wait = some .fault ∧ (t.slot k.pos).pending? = some r ∧ r.cause = 0x40 ∧ r.sub = sub ∧ r.addr = w.va ∧
      r.acc = w.acc ∧ (t.task k.pos).pc = (s.task k.pos).pc ∧ t.mem.bytes = s.mem.bytes ∧ gone t) := by
  intro gone
  obtain ⟨ws, a, hws, hleaf, hfault⟩ := exec_translationWalk_sole hm hf hk hr hc hw
  obtain ⟨-, hst, hwait⟩ := parked_of_waitsFor hw
  have hgone {t : State} (ht : t.mem.walks = ws) : gone t := by
    intro honly x hx ⟨hsp, hpg⟩
    rw [ht] at hx
    obtain ⟨y, hy, hne, hsp', hpg'⟩ := hws x hx
    exact hne (honly y hy (hsp'.trans hsp) (hpg'.trans hpg))
  refine ⟨fun n e ts he => ?_, fun n sub ts he => ?_⟩
  · let v := (s.withWalks ws a).leafFound k.pos (coreDie (posCore w.by_)) space w.va ts e
    have hv : v.wake k.pos .walk = v.unpark k.pos := wake_of_waits hst hwait
    have hmem : (v.unpark k.pos).mem.bytes = s.mem.bytes ∧ (v.unpark k.pos).mem.walks = ws := by
      rw [State.unpark_mem]
      exact ⟨rfl, rfl⟩
    refine ⟨_, hleaf n e ts he, ?_⟩
    rw [show State.wake _ k.pos .walk = _ from hv]
    refine ⟨slot_unpark_keeps (·.st) (fun _ _ => rfl) (s := v) hst, task_unpark_of_parked (·.pc) (fun _ _ _ => rfl) (s := v) hst, hmem.1, hgone hmem.2, ?_⟩
    rw [State.core, State.unpark_cores]
    show e ∈ (v.core (posCore k.pos)).tlb
    rw [show v.core (posCore k.pos) = _ from State.core_modCore_self ..]
    exact List.mem_cons_self
  · let v := s.withWalks ws a
    obtain ⟨r, hr, hrest⟩ := pending_supFault v k.pos 0x40 sub w.va w.acc
    obtain ⟨hcause, hsub, haddr, hacc⟩ := hrest
    obtain ⟨t, rfl, hpk, htask, hmem, -⟩ := v.supFault_spec k.pos 0x40 sub w.va w.acc 0
    refine ⟨_, r, hfault n sub ts he, hpk, by rw [htask], hr, hcause, hsub, haddr, hacc, by rw [htask]; rfl, by rw [hmem]; rfl, hgone (by rw [hmem]; rfl)⟩

end

-- CALL_SERVE

/-- Its answer is on its way behind what its core has sent the acquirer's before (R334, R347). -/
theorem answerCall_spec (s : State) (k : Tk) (id : Nat) (p : Pos) (rs : List Region) (kind : ReplyKind) :
    ∃ due, s.cycle + replyTime (posCore p) (posCore k.pos) rs.length ≤ due ∧ Due (s.answerCall k id p rs kind) due .callReply (.callReply k id rs kind) := by
  refine ⟨(s.laneTo (posCore p) (posCore k.pos) (s.cycle + replyTime (posCore p) (posCore k.pos) rs.length)).1, ?_, due_post ..⟩
  unfold State.laneTo
  split
  · exact le_refl _
  · exact le_max_left _ _

/-- The regions that serving lists are those of the covered entries (R328). -/
theorem serveRegions_regions (s : State) (p : Pos) (num : Nat) (acq : Option (Nat × Nat)) :
    (s.serveRegions p num acq).2.1.map (fun x => (x.v, x.p)) = ((s.task p).covered num).map fun e => (e.region.v, e.region.p) := by
  unfold State.serveRegions
  dsimp only
  suffices h : ∀ (l : List HandEntry) (a : Written × List Region × State) (f : Written × List Region × State → HandEntry → Written × List Region × State),
      (∀ a e, (f a e).2.1.map (fun x => (x.v, x.p)) = a.2.1.map (fun x => (x.v, x.p)) ++ [(e.region.v, e.region.p)]) →
      (l.foldl f a).2.1.map (fun x => (x.v, x.p)) = a.2.1.map (fun x => (x.v, x.p)) ++ l.map fun e => (e.region.v, e.region.p) from
    (h _ _ _ fun a e => by simp).trans (List.nil_append _)
  intro l a f hf
  induction l generalizing a with
  | nil => simp
  | cons e l ih => rw [List.foldl_cons, ih, hf, List.append_assoc]; rfl

/-- What a releaser in its slot answers (R328, R330). -/
theorem serveCall_answer (s : State) (r : Record) (acq : Option (Nat × Nat)) :
    ((s.task r.pos).drains ≠ r.drain → (s.serveCall r acq).2.1 = [] ∧ (s.serveCall r acq).2.2.1 = .selfInvalidate) ∧
    ((s.task r.pos).drains = r.drain → (s.task r.pos).ws = false → (s.serveCall r acq).2.2.1 = .regions ∧
      (s.serveCall r acq).2.1.map (fun x => (x.v, x.p)) = ((s.task r.pos).covered r.num).map (fun e => (e.region.v, e.region.p))) := by
  unfold State.serveCall
  refine ⟨fun h => by simp only [if_pos h, and_self], fun h hws => ?_⟩
  simp only [h, hws, ne_eq, not_true_eq_false, if_false, Bool.false_eq_true, true_and]
  exact serveRegions_regions ..

/-- The space and core of an acquirer. -/
def State.acquirer (s : State) (k : Tk) : Option (Nat × Nat) := some (((s.findTask k).map (·.space)).getD 0, posCore k.pos)

/-- The address of the location whose record a call carries. -/
def State.recordVa (s : State) (k : Tk) (id : Nat) (r : Record) : Nat :=
  (((s.mem.calls.find? fun c => c.t == k && c.id == id).bind fun c => c.places.find? (·.1 == r)).map (·.2)).getD 0

theorem recordVa_of_find {s : State} {k : Tk} {id : Nat} {r : Record} {c : Call} {x : Record × Nat} (hc : (s.mem.calls.find? fun c => c.t == k && c.id == id) = some c)
    (hx : c.places.find? (·.1 == r) = some x) : s.recordVa k id r = x.2 := by simp [State.recordVa, hc, hx]

/-- Is a record's releaser saved, so that the hub answers? -/
def State.atHub (s : State) (r : Record) : Bool := match s.releaser r with
  | .saved _ => true
  | _ => false

/-- How the answer to an acquirer leaves: by the hub, at once, or when the serving is done. -/
def callAnswered (k : Tk) (id : Nat) (r : Record) (hub : Bool) (at_ travel : Nat) (rs : List Region) (kind : ReplyKind) (s : State) : State :=
  if hub then s.post (at_ + travel) tieHub .callReply (.callReply k id rs kind)
  else if at_ = s.cycle then s.answerCall k id r.pos rs kind
  else s.post at_ 0 .callServe (.callAnswer k id r.pos rs kind)

theorem callAnswered_due (k : Tk) (id : Nat) (r : Record) (at_ travel : Nat) (rs : List Region) (kind : ReplyKind) (s : State) :
    ∃ due, Due (callAnswered k id r false at_ travel rs kind s) due .callReply (.callReply k id rs kind) ∨
      Due (callAnswered k id r false at_ travel rs kind s) due .callServe (.callAnswer k id r.pos rs kind) := by
  unfold callAnswered
  rw [if_neg Bool.false_ne_true]
  split
  · obtain ⟨due, -, h⟩ := answerCall_spec s k id r.pos rs kind
    exact ⟨due, .inl h⟩
  · exact ⟨at_, .inr (due_post ..)⟩

theorem exec_callServe_of_msg {s : State} {k : Tk} {id : Nat} {r : Record} (hm : s.msg = .callServe k id r) :
    exec .callServe s = .next (s.serveAt r (s.acquirer k) (posCore k.pos) (s.recordVa k id r) (.callServe k id r) (callAnswered k id r (s.atHub r))) := by
  rw [exec_callServe, execCallServe, hm]
  rfl

section
variable {s : State} {k : Tk} {id : Nat} {r : Record} (hm : s.msg = .callServe k id r)
include hm

theorem callServe_gone (h : s.releaser r = .gone) : exec .callServe s = .next (s.answerCall k id r.pos [] .selfInvalidate) := by
  rw [exec_callServe_of_msg hm, State.serveAt, State.atHub, h]
  simp [callAnswered]

theorem callServe_lost (h : s.releaser r = .lost) : exec .callServe s = .next (s.answerCall k id r.pos [] (.lost (s.recordVa k id r))) := by
  rw [exec_callServe_of_msg hm, State.serveAt, State.atHub, h]
  simp [callAnswered]

theorem callServe_busy (h : s.releaser r = .here) (hb : s.cycle < (s.slot r.pos).callBusy) :
    exec .callServe s = .next (s.post (s.slot r.pos).callBusy 0 .callServe (.callServe k id r)) := by
  rw [exec_callServe_of_msg hm, State.serveAt, h]
  simp only [if_pos hb]

theorem callServe_stuck (h : s.releaser r = .here) (hb : (s.slot r.pos).callBusy ≤ s.cycle)
    (hs : (s.task r.pos).drains = r.drain ∧ s.callStuck r.pos r.num (s.acquirer k) = true) :
    exec .callServe s = .next ((s.modSlot r.pos fun x => { x with callBusy := s.cycle + 1 }).post (s.cycle + 1) 0 .callServe (.callServe k id r)) := by
  rw [exec_callServe_of_msg hm, State.serveAt, h]
  simp only [if_neg (Nat.not_lt.2 hb), hs.1, hs.2, decide_true, Bool.and_self, if_true]

/-- A call that is served: what its answer carries. -/
theorem callServe_served (h : s.releaser r = .here) (hb : (s.slot r.pos).callBusy ≤ s.cycle)
    (hs : ¬((s.task r.pos).drains = r.drain ∧ s.callStuck r.pos r.num (s.acquirer k) = true)) : ∃ t due rs kind, exec .callServe s = .next t ∧
      (Due t due .callReply (.callReply k id rs kind) ∨ Due t due .callServe (.callAnswer k id r.pos rs kind)) ∧
      ((s.task r.pos).drains ≠ r.drain → rs = [] ∧ kind = .selfInvalidate) ∧
      ((s.task r.pos).drains = r.drain → (s.task r.pos).ws = false → kind = .regions ∧
        rs.map (fun x => (x.v, x.p)) = ((s.task r.pos).covered r.num).map (fun e => (e.region.v, e.region.p))) := by
  rw [exec_callServe_of_msg hm, State.serveAt, State.atHub, h]
  simp only [if_neg (Nat.not_lt.2 hb), Bool.and_eq_true, decide_eq_true_eq, if_neg hs]
  obtain ⟨due, hdue⟩ := callAnswered_due k id r _ _ (s.serveCall r (s.acquirer k)).2.1 (s.serveCall r (s.acquirer k)).2.2.1 _
  exact ⟨_, due, _, _, rfl, hdue, serveCall_answer s r _⟩

theorem callServe_saved {y : Saved} (h : s.releaser r = .saved y) : ∃ (u : State) (rs : List Region) (kind : ReplyKind), exec .callServe s = .next
    (u.post (u.cycle + 10 + 2 * portHops (posCore k.pos) 3 + 2 * rs.length + 80) tieHub .callReply (.callReply k id rs kind)) := by
  rw [exec_callServe_of_msg hm, State.serveAt, State.atHub, h]
  refine ⟨(s.serveSaved y r).2.2, (s.serveSaved y r).1, (s.serveSaved y r).2.1, ?_⟩
  simp only [callAnswered, if_true, Nat.add_assoc]

end

theorem exec_callServe_of_answer {s : State} {k : Tk} {id : Nat} {p : Pos} {rs : List Region} {kind : ReplyKind} (hm : s.msg = .callAnswer k id p rs kind) :
    exec .callServe s = .next (s.answerCall k id p rs kind) := by rw [exec_callServe, execCallServe, hm]

/-- The call of a displaced record whose releaser is gone (R324). -/
theorem retireCall_gone {s : State} {own : Nat} {x : LocRec} {q : PortReq} (hm : s.msg = .retireCall own x q) (h : s.releaser x.record = .gone) :
    exec .callServe s = .next (s.post (s.cycle + replyTime (posCore x.record.pos) own 0 + 8) 0 .callReply (.retired x q)) := by
  rw [exec_callServe, execCallServe, hm]
  simp only [State.serveAt, h]

-- CALL_REPLY

theorem exec_callReply_of_retired {s : State} {x : LocRec} {q : PortReq} (hm : s.msg = .retired x q) :
    exec .callReply s = .next (s.endRetire x q) := by rw [exec_callReply, execCallReply, hm]

section
variable {s : State} {k : Tk} {id : Nat} {rs : List Region} {c : Call} (hc : (s.mem.calls.find? fun c => c.t == k && c.id == id) = some c)
include hc

/-- R329 step 1: the acquirer's own earlier stores to the listed regions complete first. -/
theorem callReply_waits (hm : s.msg = .callReply k id rs .regions) (hat : s.isAt k = true) (hst : (s.task k.pos).storesTo s.cycle rs = true) :
    exec .callReply s = .next (s.post (s.cycle + 1) (tieAt (posCore k.pos) k.pos) .callReply (.callReply k id rs .regions)) := by
  rw [exec_callReply, execCallReply, hm]
  simp [callReplied, hc, hat, hst]

/-- R329 step 3: the acquirer inherits the listed regions. -/
theorem callReply_inherits (hm : s.msg = .callReply k id rs .regions) (hat : s.isAt k = true) (hst : (s.task k.pos).storesTo s.cycle rs = false)
    (hd : s.dropStuck k.pos rs = false) (hi : c.inval = false) : exec .callReply s = .next
      ((s.modTask k.pos fun x => rs.foldl (fun x r => x.inherit r c.sealNo) x).postAt (s.cycle + 8) k.pos .callReply (.callDone k id)) := by
  rw [exec_callReply, execCallReply, hm]
  simp [callReplied, hc, hat, hst, hd, hi]

theorem callDone_more (hm : s.msg = .callDone k id) (hl : 1 < c.left) : exec .callReply s = .next
    (s.modMem fun m => { m with calls := m.calls.map fun y => if y = c then { y with left := y.left - 1 } else y }) := by
  rw [exec_callReply, execCallReply, hm]
  simp only [hc, if_neg (Nat.not_le.2 hl)]

theorem callDone_last (hm : s.msg = .callDone k id) (hl : c.left ≤ 1) :
    exec .callReply s = .next ((s.modMem fun m => { m with calls := m.calls.erase c }).afterCalls c) := by
  rw [exec_callReply, execCallReply, hm]
  simp only [hc, if_pos hl]

end

/-- Settles O51: one lemma an event. -/
theorem eventsOfTasks : Obligations.EventsOfTasks := by
  refine ⟨fun s x hm ht hd hst hs hr hi h₁ hl hp => deferredFaultTaken_sole hm ht hd hst hs hr hi h₁ hl hp, fun s p hm => ?deferred,
    fun s k id o d hm hat hf hn hd h => longResultReady_sreg hm hat hf hn hd h, fun s p n => ?window,
    fun s q m w far hm hf => channelWordArrival_spec hm hf, fun s k id n a done hm => channelAgentRequest_spec hm,
    fun s w stamp d at_ b hl hs hw hb => ⟨fun hm hd hc => barrierComplete_sole hl hs hw hb hm hd hc,
      fun hm hd ht => barrierTimeout_sole hl hw hb hm hd ht, fun id hid hm => barrierTimeout_withdrawn hl hw hid hm⟩,
    fun s k id rect maxc n j sum black d hm hj => probeCircuitEnd_of_back hm hj,
    fun s k v pr hm hw hat hst ht => sleepExpiry_plain hm hw hat hst ht,
    fun s k id v d h => ⟨fun hm hw => classBCompletion_sreg h hm hw, fun hm hw => vcacheStatusWrite_sreg h hm hw⟩,
    fun s c n hm _ _ => qcfgDefault_spec hm, fun s space page w k hm hf hk hr hc hw => translationWalk_sole hm hf hk hr hc hw,
    fun s k id r hm => ?serve, fun s k id p rs kind => ⟨exec_callServe_of_answer, answerCall_spec s k id p rs kind⟩,
    fun s own x q => ⟨retireCall_gone, exec_callReply_of_retired⟩,
    fun s k id rs c hc => ⟨callReply_waits hc, callReply_inherits hc, callDone_more hc, callDone_last hc⟩⟩
  case deferred =>
    rw [exec_deferredFaultTaken, execDeferredFaultTaken, hm]
  case window =>
    intro u
    rw [show u = s.windowMoved p n from (windowMoved_eq_at s p n).symm]
    exact ⟨fun hm hn => by rw [hn]; exact exec_windowSpill_of_msg hm, fun hm hn => by rw [hn]; exact exec_windowFill_of_msg hm⟩
  case serve =>
    exact ⟨callServe_gone hm, fun h => ⟨_, callServe_lost hm h, fun c x hc hx => recordVa_of_find hc hx⟩, callServe_busy hm,
      fun h hb => ⟨callServe_stuck hm h hb, callServe_served hm h hb⟩, fun y h => callServe_saved hm h⟩

end Sys2Proof.Machine
end

section
/-! PROOF. What stewards do (O54): the scanner, RESUME and pre-emption. -/
namespace Sys2Proof.Machine

-- MAP_EXECUTABLE and PAGE_SCAN

section
variable {s : State} {part n va k : Nat} {w : Bool} (hm : s.msg = .mapExecutable part n va k w)
include hm

theorem mapExecutable_other (h : (s.space n).part ≠ part) : exec .mapExecutable s = .next (s.refuseSteward part 0) := by
  rw [exec_mapExecutable, execMapExecutable, hm]
  simp only [if_pos h]

/-- A request beside another waits in the queue. -/
theorem mapExecutable_queued (h : (s.space n).part = part) (hs : s.module_.scans ≠ []) : exec .mapExecutable s = .next
    { s with module_ := { s.module_ with scans := s.module_.scans ++ [{ part := part, space := n, va := va, n := k, bad := w }] } } := by
  rw [exec_mapExecutable, execMapExecutable, hm]
  simp [h, hs]

/-- A request of more than 2 MiB is refused as a whole (R96). -/
theorem mapExecutable_large (h : (s.space n).part = part) (hs : s.module_.scans = []) (hk : 2 ^ 21 < k) : ∃ t, exec .mapExecutable s = .next t ∧
    t.module_.scans = [] ∧ t.module_.scanned = s.module_.scanned ∧
    t.hub.rejects = s.hub.rejects ++ [toBytes 32 (rejectRecord s.cycle n va 0 0 { reason := 0x10 })] := by
  have href (u : State) : u.scanRefusal { part := part, space := n, va := va, n := k, bad := w } w = some (0x10, va) := by
    rw [State.scanRefusal]
    exact if_pos hk
  rw [exec_mapExecutable, execMapExecutable, hm]
  simp only [h, hs, ne_eq, not_true_eq_false, if_false, List.isEmpty_nil, if_true, List.nil_append, State.serveScan, href]
  exact ⟨_, rfl, rfl, rfl, rfl⟩

end

/-- The last page of the only request has been scanned (R98, R99). -/
theorem pageScan_last {s : State} {q : ScanReq} (hm : s.msg = .pageScan) (hs : s.module_.scans = [q]) (hp : q.pages.length ≤ q.page + 1)
    (hf : q.frames.length ≤ q.page + 1) :
    (scanPage (s.frameWords (q.frames.getD q.page 0)) [] 0 = none → q.bad = false → ∃ t, exec .pageScan s = .next t ∧ t.module_.scans = [] ∧
      t.module_.scanned = (s.module_.scanned ++ q.frames).eraseDups ∧ t.hub = s.hub ∧ t.mem = s.mem) ∧
    (∀ k w f, scanPage (s.frameWords (q.frames.getD q.page 0)) [] 0 = some (k, w, f) → ∃ t, exec .pageScan s = .next t ∧ t.module_.scans = [] ∧
      t.module_.scanned = s.module_.scanned ∧ t.mem = s.mem ∧
      t.hub.rejects = s.hub.rejects ++ [toBytes 32 (rejectRecord s.cycle q.space (q.pages.getD q.page 0 * 4096 + 4 * k) w k f)]) := by
  refine ⟨fun h hb => ?_, fun k w f h => ?_⟩ <;> rw [exec_pageScan, execPageScan, hm] <;>
    simp only [hs, List.getElem?_eq_none hf, if_neg (Nat.not_lt.2 hp), h]
  · rw [hb]
    exact ⟨_, rfl, rfl, rfl, rfl, rfl⟩
  · exact ⟨_, rfl, rfl, rfl, rfl, rfl⟩

-- RESUME

/-- A slot parked with its record: its own, so a RESUME resolves it. -/
structure Resolves (s : State) (k : Tk) : Prop where
  away : (s.saved.any fun y => y.t == k) = false
  isAt : s.isAt k = true
  record : (s.slot k.pos).pending?.isSome = true
  still : (s.slot k.pos).preempt = none

theorem Resolves.resume {s : State} {k : Tk} (h : Resolves s k) (act : Nat) : s.resume k act = s.resolveSlot k.pos act := by
  have hser : (s.slot k.pos).serial = k.serial := by
    have := h.isAt
    simp only [State.isAt, Bool.and_eq_true, beq_iff_eq] at this
    exact this.1
  simp [State.resume, h.away, hser, h.isAt, h.record, h.still]

/-- A slot whose record is resolved. -/
def Slot.resolved (x : Slot) : Slot := { x with pending? := none }

theorem slot_resolved (s : State) (p : Pos) : (s.modSlot p Slot.resolved).slot p = (s.slot p).resolved := State.slot_modSlot_self ..

theorem task_resolved (s : State) (p : Pos) : (s.modSlot p Slot.resolved).task p = s.task p := by
  rw [State.task, slot_resolved]
  rfl

theorem resumeRuns_of_none {s : State} {p : Pos} (h : (s.task p).runs = []) (restored : Bool) (at_ : Nat) : s.resumeRuns p restored at_ = s := by
  rw [State.resumeRuns, h]
  rfl

theorem dropRuns_of_none {s : State} {p : Pos} (h : (s.task p).runs = []) : s.dropRuns p = s := by
  rw [State.dropRuns, h]
  rfl

section
variable {s : State} {p : Pos} (hst : (s.slot p).st = .parked) (hw : (s.task p).wait = some .fault) (hr : (s.task p).runs = [])
include hw hr

/-- Retry: the slot is released. -/
theorem resolveSlot_retry : s.resolveSlot p 0 = (s.modSlot p Slot.resolved).unpark p := by
  have hruns : ((s.modSlot p Slot.resolved).task p).runs = [] := by rw [task_resolved, hr]
  have h := resumeRuns_of_none hruns ((s.modSlot p Slot.resolved).task p |>.runs.any (·.cut)) (s.modSlot p Slot.resolved).cycle
  show (if (0 : Nat) = 2 then _ else _ : State) = _
  rw [if_neg (by decide)]
  simp only [hw, beq_self_eq_true, if_true]
  exact congrArg (State.unpark · p) h

/-- Skip: the instruction counts as done. -/
theorem resolveSlot_skip : s.resolveSlot p 1 = ((s.modSlot p Slot.resolved).asPos p State.advance).unpark p := by
  have hruns : ((s.modSlot p Slot.resolved).task p).runs = [] := by rw [task_resolved, hr]
  show (if (1 : Nat) = 2 then _ else _ : State) = _
  rw [if_neg (by decide)]
  simp only [hw, hr, beq_self_eq_true, List.any_nil, Bool.not_true, Bool.false_eq_true, if_false, Nat.one_ne_zero]
  exact congrArg (fun u : State => (u.asPos p State.advance).unpark p) (dropRuns_of_none hruns)

include hst

/-- What a retry leaves. -/
theorem resolveSlot_retry_spec : let t := s.resolveSlot p 0
    (t.slot p).st = .ready ∧ (t.slot p).pending? = none ∧ (t.task p).pc = (s.task p).pc ∧ (t.task p).regs = (s.task p).regs ∧ t.mem = s.mem ∧
      t.hub = s.hub ∧ ∀ q, q ≠ p → t.slot q = s.slot q := by
  intro t
  have hpk : ((s.modSlot p Slot.resolved).slot p).st = .parked := by rw [slot_resolved]; exact hst
  have hb : t.beside = s.beside := by rw [show t = _ from resolveSlot_retry hw hr, beside_unpark, beside_modSlot]
  rw [show t = _ from resolveSlot_retry hw hr] at hb ⊢
  refine ⟨?_, ?_, ?_, ?_, congrArg (·.mem) hb, congrArg (·.hub) hb, fun q hq => ?_⟩
  · rw [slot_unpark_keeps (·.st) (fun _ _ => rfl) hpk]
    rfl
  · rw [slot_unpark_keeps (·.pending?) (fun _ _ => rfl) hpk, slot_resolved]
    rfl
  · rw [task_unpark_of_parked (·.pc) (fun _ _ _ => rfl) hpk, task_resolved]
  · rw [task_unpark_of_parked (·.regs) (fun _ _ _ => rfl) hpk, task_resolved]
  · rw [slot_unpark_of_ne _ hq, State.slot_modSlot, if_neg hq]

/-- What a skip leaves. -/
theorem resolveSlot_skip_spec : let t := s.resolveSlot p 1
    (t.slot p).st = .ready ∧ (t.slot p).pending? = none ∧ (t.task p).pc = (s.task p).resume.getD ((s.task p).pc + 4) ∧
      (t.task p).regs = (s.task p).regs ∧ t.mem = s.mem ∧ t.hub = s.hub ∧ ∀ q, q ≠ p → t.slot q = s.slot q := by
  intro t
  have hpk : (((s.modSlot p Slot.resolved).asPos p State.advance).slot p).st = .parked := by
    rw [slot_asPos_advance_keeps (·.st) fun _ _ => rfl, slot_resolved]; exact hst
  have hb : t.beside = s.beside := by rw [show t = _ from resolveSlot_skip hw hr, beside_unpark, beside_asPos_advance, beside_modSlot]
  rw [show t = _ from resolveSlot_skip hw hr] at hb ⊢
  refine ⟨?_, ?_, ?_, ?_, congrArg (·.mem) hb, congrArg (·.hub) hb, fun q hq => ?_⟩
  · rw [slot_unpark_keeps (·.st) (fun _ _ => rfl) hpk]
    rfl
  · rw [slot_unpark_keeps (·.pending?) (fun _ _ => rfl) hpk, Slot.released, slot_asPos_advance_keeps (·.pending?) fun _ _ => rfl, slot_resolved]
    rfl
  · rw [task_unpark_of_parked (·.pc) (fun _ _ _ => rfl) hpk]
    refine (task_asPos_advance (·.pc) (fun _ _ _ => rfl) _ p).trans ?_
    rw [task_resolved]
  · rw [task_unpark_of_parked (·.regs) (fun _ _ _ => rfl) hpk]
    refine (task_asPos_advance (·.regs) (fun _ _ _ => rfl) _ p).trans ?_
    rw [task_resolved]
  · rw [slot_unpark_of_ne _ hq, slot_asPos_advance_of_ne _ hq, State.slot_modSlot, if_neg hq]

end

-- PREEMPT

/-- The demand of a task that has not been asked before and is in no joint group. -/
theorem preempt_asks {s : State} {p : Pos} (hm : s.msg = .preempt p) (hres : (s.slot p).resident = true) (he : (s.slot p).endRes = false)
    (hp : (s.slot p).preempt = none) (ha : (s.agenda.any fun e => e.msg == .preemptGo p) = false) (hj : (s.task p).jointIn = false) :
    exec .preempt s = .next ((s.modSlot p fun x => { x with preempt := some s.cycle }).post (s.cycle + 1) 0 .preempt (.preemptGo p)) := by
  have hin : (((s.modSlot p fun x => { x with preempt := some s.cycle }).post (s.cycle + 1) 0 .preempt (.preemptGo p)).task p).jointIn = false := by
    rw [State.task, State.slot_post, State.slot_modSlot_self]
    exact hj
  rw [exec_preempt, execPreempt, hm]
  simp only [State.demand, hres, he, hp, ha, Bool.not_true, Bool.or_self, Option.any_none, Bool.false_eq_true, if_false, hin, Bool.not_false, if_true]

-- PREEMPT_SAVE_COMPLETE

/-- A save that may take the last place of q7 lets a push of a lower slot come before it (R317). -/
theorem preemptSaveComplete_tight {s : State} {k : Tk} (hm : s.msg = .preemptSaveComplete k none) (hat : s.isAt k = true)
    (hp : (s.slot k.pos).preempt.isSome = true) (ht : s.eventTight (mkPos (posCore k.pos) 0) = true) :
    exec .preemptSaveComplete s = .next (s.post (s.cycle + 1) 0 .preemptSaveComplete (.preemptSaveComplete k (some s.cycle))) := by
  have hn : (s.slot k.pos).preempt.isNone = false := by simpa [← Option.not_isSome] using hp
  rw [exec_preemptSaveComplete, execPreemptSaveComplete, hm]
  simp only [State.asOf, Option.getD_none, hat, hn, ht, Option.isNone_none, Bool.not_true, Bool.or_self, Bool.and_self, Bool.false_eq_true, if_true,
    if_false]
  rfl

end Sys2Proof.Machine
end

section
/-! PROOF. What stewards do (O54): a context stands in the store. -/
namespace Sys2Proof.Machine

/-- A word that no word of its cycle from a higher slot precedes goes last (R317). -/
theorem evq_enterEvent_last {x : Slot} {cycle k : Nat} (w : Word) (h : x.evqAt = cycle → ∀ y ∈ x.evqFrom, y ≤ k) :
    (x.enterEvent cycle k w).evq = x.evq ++ [w] := by
  have hnone : (if x.evqAt = cycle then x.evqFrom else []).filter (k < ·) = [] := by
    refine List.filter_eq_nil_iff.2 fun y hy => ?_
    split at hy
    case isTrue hc => simpa using h hc y hy
    case isFalse => cases hy
  show x.evq.take _ ++ w :: x.evq.drop _ = _
  rw [hnone]
  simp

/-- A reading of a slot that being released, or going on, does not change. -/
structure KeptByWaking {γ : Type} (g : Slot → γ) : Prop where
  released : ∀ (x : Slot) st n t, g { x with st := st, notBefore := n, task := t } = g x

theorem KeptByWaking.task {γ : Type} {g : Slot → γ} (h : KeptByWaking g) (x : Slot) (t : Task) : g { x with task := t } = g x :=
  h.released x x.st x.notBefore t

section
variable {γ : Type} {g : Slot → γ} (hg : KeptByWaking g)
include hg

theorem KeptByWaking.wake (s : State) (p q : Pos) (w : Wait) : g ((s.wake p w).slot q) = g (s.slot q) := slot_wake_keeps g hg.released s p q w

theorem KeptByWaking.unpark (s : State) (p q : Pos) : g ((s.unpark p).slot q) = g (s.slot q) := by
  by_cases hq : q = p
  · cases hst : decide ((s.slot p).st = .parked)
    · rw [State.unpark, if_neg (by simpa using hst)]
    · rw [hq, slot_unpark_keeps g hg.task (by simpa using hst), Slot.released, hg.released]
  · rw [slot_unpark_of_ne s hq]

theorem KeptByWaking.wakePast (s : State) (p q : Pos) (w : Wait) : g ((s.wakePast p w).slot q) = g (s.slot q) := by
  unfold State.wakePast
  split
  · rw [hg.unpark, slot_asPos_advance_keeps g hg.task]
  · rfl

theorem KeptByWaking.wakeCore (s : State) (c : Nat) (w : Wait) (q : Pos) : g ((s.wakeCore c w).slot q) = g (s.slot q) :=
  foldl_keeps (fun s : State => g (s.slot q)) (fun (s : State) k => s.wake (mkPos c k) w) (fun s k => hg.wake s (mkPos c k) q w) _ s

end

theorem slot_wakePast_of_ne (s : State) {p q : Pos} (w : Wait) (h : q ≠ p) : (s.wakePast p w).slot q = s.slot q := by
  unfold State.wakePast
  split
  · rw [slot_unpark_of_ne _ h, slot_asPos_advance_of_ne _ h]
  · rfl

theorem slot_putEvent_of_ne (s : State) {p q : Pos} (k : Nat) (w : Word) (h : q ≠ p) : (s.putEvent p k w).slot q = s.slot q := by
  rw [State.putEvent, slot_wakePast_of_ne _ _ h, slot_wake_of_ne _ _ h, State.slot_modSlot, if_neg h]

theorem evq_putEvent (s : State) (p : Pos) (k : Nat) (w : Word) : ((s.putEvent p k w).slot p).evq = ((s.slot p).enterEvent s.cycle k w).evq := by
  have hg : KeptByWaking (·.evq) := ⟨fun _ _ _ _ => rfl⟩
  rw [State.putEvent, hg.wakePast, hg.wake, State.slot_modSlot_self]

theorem saved_wakePast (s : State) (p : Pos) (w : Wait) : (s.wakePast p w).saved = s.saved := by
  unfold State.wakePast
  split
  · exact (State.unpark_saved ..).trans (State.advance_saved _)
  · rfl

theorem saved_putEvent (s : State) (p : Pos) (k : Nat) (w : Word) : (s.putEvent p k w).saved = s.saved := by
  rw [State.putEvent, saved_wakePast, State.wake_saved, State.modSlot_saved]

theorem saved_wakeCore (s : State) (c : Nat) (w : Wait) : (s.wakeCore c w).saved = s.saved :=
  foldl_keeps (·.saved) (fun (s : State) k => s.wake (mkPos c k) w) (fun _ _ => State.wake_saved ..) _ s

/-- A task waits to be placed again: only the hub, the agenda and the next name differ. -/
theorem giveBack_rest (s : State) (e : Nat) (r : Returned) : ∃ h a n, s.giveBack e r = { s with hub := h, agenda := a, nextId := n } := by
  have hmod (s : State) (f : ActiveDeal → ActiveDeal) : ∃ h, s.modDeal e f = { s with hub := h } := ⟨_, rfl⟩
  have hage (s : State) : ∃ h a n, s.restartAging e = { s with hub := h, agenda := a, nextId := n } := by
    unfold State.restartAging
    split
    · exact ⟨s.hub, s.agenda, s.nextId, rfl⟩
    · split
      · exact ⟨s.hub, s.agenda, s.nextId, rfl⟩
      · dsimp only
        split
        · exact ⟨_, _, _, rfl⟩
        · exact ⟨_, s.agenda, _, rfl⟩
  unfold State.giveBack
  obtain ⟨h, hh⟩ := hmod s fun d => { d with back := r :: d.back }
  dsimp only
  split
  · obtain ⟨h', a, n, ha⟩ := hage (s.modDeal e fun d => { d with back := r :: d.back })
    exact ⟨h', a, n, ha.trans (by rw [hh])⟩
  · exact ⟨h, s.agenda, s.nextId, hh⟩

/-- A saved task's runs are to be sent again: only its runs and the counts of cores differ. -/
theorem uncountRuns_rest (s : State) (p : Pos) : ∃ x, s.uncountRuns p = ({ s with cores := x } : State).modTask p fun t =>
    { t with runs := t.runs.map fun r => { r with sent := false } } := by
  have hfold (l : List TileRun) (s : State) : ∃ x, l.foldl (fun s r => s.uncountRun p r r.next) s = { s with cores := x } := by
    induction l generalizing s with
    | nil => exact ⟨s.cores, rfl⟩
    | cons r l ih =>
      obtain ⟨x, hx⟩ := uncountRun_rest s p r r.next
      obtain ⟨y, hy⟩ := ih (s.uncountRun p r r.next)
      exact ⟨y, hy.trans (by rw [hx])⟩
  obtain ⟨x, hx⟩ := hfold (s.task p).runs s
  exact ⟨x, by rw [State.uncountRuns, hx]⟩

/-- The context that goes into the store (R464). -/
def State.context (s : State) (t : Tk) : Saved :=
  let x := s.slot t.pos
  { t := t, task := x.task, pending? := x.pending?, cmds := x.cmds, comps := x.comps, compsRes := x.compsRes, run := x.mrun, answer := x.answer }

/-- The core on which a saved task is to run again. -/
def State.backOf (s : State) (e c : Nat) : Nat := match s.deal e with
  | some d => s.returnCore d c
  | none => c

/-- The slot is empty, and what waited for room in its banker's q7 goes on. -/
def State.slotEmptied (s : State) (p : Pos) : State :=
  ((s.cancelArrival p).modSlot p Slot.emptied).wake (mkPos (posCore p) 0) (.push 7)

/-- The state with the context in the store. -/
def State.contextSaved (s : State) (t : Tk) : State :=
  { s.slotEmptied t.pos with saved := (s.slotEmptied t.pos).saved ++ [s.context t] }

/-- The save is told to the banker. -/
def State.saveTold (s : State) (t : Tk) : State :=
  let u := s.contextSaved t
  (u.giveBack (s.task t.pos).deal { index := (s.task t.pos).index, core := u.backOf (s.task t.pos).deal (posCore t.pos), redo := false }).putEvent
    (mkPos (posCore t.pos) 0) (posSlot t.pos) (eventWord 3 (posSlot t.pos) (s.task t.pos).deal (s.task t.pos).index)

theorem saved_slotEmptied (s : State) (p : Pos) : (s.slotEmptied p).saved = s.saved := by
  have hc : (s.cancelArrival p).saved = s.saved := by
    unfold State.cancelArrival
    split
    · rfl
    · exact saved_wakeCore ..
  rw [State.slotEmptied, State.wake_saved, State.modSlot_saved, hc]

/-- What the cancelled arrival leaves of a slot. -/
theorem cancelArrival_keeps {γ : Type} {g : Slot → γ} (hg : KeptByWaking g) (hq : ∀ (x : Slot) n, g { x with q6n := n } = g x) (s : State) (p q : Pos) :
    g ((s.cancelArrival p).slot q) = g (s.slot q) := by
  unfold State.cancelArrival
  split
  · rfl
  · dsimp only
    rw [hg.wakeCore, State.slot_modCore, State.slot_modSlot]
    split
    case isTrue h => rw [h, hq]
    case isFalse => rfl

section
variable {p : Pos} (hp : posSlot p ≠ 0)
include hp

theorem ne_bankerPos : p ≠ mkPos (posCore p) 0 := fun h => hp (by rw [h]; unfold posSlot mkPos; omega)

theorem st_slotEmptied (s : State) : ((s.slotEmptied p).slot p).st = .empty := by
  rw [State.slotEmptied, slot_wake_of_ne _ _ (ne_bankerPos hp), State.slot_modSlot_self]
  rfl

theorem slotEmptied_banker {γ : Type} {g : Slot → γ} (hg : KeptByWaking g) (hq : ∀ (x : Slot) n, g { x with q6n := n } = g x) (s : State) :
    g ((s.slotEmptied p).slot (mkPos (posCore p) 0)) = g (s.slot (mkPos (posCore p) 0)) := by
  rw [State.slotEmptied, hg.wake, State.slot_modSlot, if_neg (ne_bankerPos hp).symm, cancelArrival_keeps hg hq]

end

theorem slotEmptied_cycle (s : State) (p : Pos) : (s.slotEmptied p).cycle = s.cycle := by
  have hc : (s.cancelArrival p).cycle = s.cycle := by
    unfold State.cancelArrival
    split
    · rfl
    · exact foldl_keeps (·.cycle) (fun (s : State) k => s.wake (mkPos (posCore p) k) (.pop 6)) (fun _ _ => State.wake_cycle ..) _ _
  rw [State.slotEmptied, State.wake_cycle, State.modSlot_cycle, hc]

/-- What the store and the banker's q7 hold once a save is told. -/
theorem saveTold_spec {s : State} {t : Tk} (hp : posSlot t.pos ≠ 0)
    (hev : (s.slot (mkPos (posCore t.pos) 0)).evqAt = s.cycle → ∀ x ∈ (s.slot (mkPos (posCore t.pos) 0)).evqFrom, x ≤ posSlot t.pos) :
    (s.saveTold t).saved = s.saved ++ [s.context t] ∧ ((s.saveTold t).slot t.pos).st = .empty ∧
      ((s.saveTold t).slot (mkPos (posCore t.pos) 0)).evq = (s.slot (mkPos (posCore t.pos) 0)).evq
        ++ [eventWord 3 (posSlot t.pos) (s.task t.pos).deal (s.task t.pos).index] := by
  let u := s.contextSaved t
  let b := mkPos (posCore t.pos) 0
  obtain ⟨h, a, n, hb⟩ := giveBack_rest u (s.task t.pos).deal
    { index := (s.task t.pos).index, core := u.backOf (s.task t.pos).deal (posCore t.pos), redo := false }
  have hslots (q : Pos) : ({ u with hub := h, agenda := a, nextId := n } : State).slot q = (s.slotEmptied t.pos).slot q := rfl
  have hq7 : ((s.slotEmptied t.pos).slot b).evq = (s.slot b).evq := slotEmptied_banker (g := (·.evq)) hp ⟨fun _ _ _ _ => rfl⟩ (fun _ _ => rfl) s
  have hat : ((s.slotEmptied t.pos).slot b).evqAt = (s.slot b).evqAt := slotEmptied_banker (g := (·.evqAt)) hp ⟨fun _ _ _ _ => rfl⟩ (fun _ _ => rfl) s
  have hfrom : ((s.slotEmptied t.pos).slot b).evqFrom = (s.slot b).evqFrom :=
    slotEmptied_banker (g := (·.evqFrom)) hp ⟨fun _ _ _ _ => rfl⟩ (fun _ _ => rfl) s
  have hcycle : ({ u with hub := h, agenda := a, nextId := n } : State).cycle = s.cycle := slotEmptied_cycle s t.pos
  have ht : s.saveTold t = ({ u with hub := h, agenda := a, nextId := n } : State).putEvent b (posSlot t.pos)
      (eventWord 3 (posSlot t.pos) (s.task t.pos).deal (s.task t.pos).index) := congrArg (State.putEvent · _ _ _) hb
  rw [ht]
  refine ⟨?_, ?_, ?_⟩
  · rw [saved_putEvent]
    exact congrArg (· ++ [s.context t]) (saved_slotEmptied s t.pos)
  · rw [slot_putEvent_of_ne _ _ _ (ne_bankerPos hp), hslots]
    exact st_slotEmptied hp s
  · rw [evq_putEvent, hslots, hcycle, evq_enterEvent_last _ (by rw [hat, hfrom]; exact hev), hq7]

/-- PREEMPT_SAVE_COMPLETE of a task in no joint group, whose banker has room in its q7. -/
theorem preemptSaveComplete_spec {s : State} {k : Tk} {a : Option Nat} (hm : s.msg = .preemptSaveComplete k a)
    (ha : a = none → s.eventTight (mkPos (posCore k.pos) 0) = false) (hat : s.isAt k = true) (hpre : (s.slot k.pos).preempt.isSome = true)
    (hp : posSlot k.pos ≠ 0) (hroom : (s.slot (mkPos (posCore k.pos) 0)).evq.length < 16)
    (hev : (s.slot (mkPos (posCore k.pos) 0)).evqAt = a.getD s.cycle → ∀ x ∈ (s.slot (mkPos (posCore k.pos) 0)).evqFrom, x ≤ posSlot k.pos)
    (hj : (s.task k.pos).jointIn = false) : ∃ u y back, (u : State).saved = s.saved ++ [y] ∧ y.t = k ∧
      y.task = { s.task k.pos with runs := (s.task k.pos).runs.map fun r => { r with sent := false } } ∧ y.cmds = (s.slot k.pos).cmds ∧
      y.comps = (s.slot k.pos).comps ∧ y.run = (s.slot k.pos).mrun ∧ (u.slot k.pos).st = .empty ∧
      (u.slot (mkPos (posCore k.pos) 0)).evq = (s.slot (mkPos (posCore k.pos) 0)).evq
        ++ [eventWord 3 (posSlot k.pos) (s.task k.pos).deal (s.task k.pos).index] ∧
      exec .preemptSaveComplete s = .next { ((u.schedule (posCore k.pos)).schedule back) with cycle := s.cycle } := by
  let s₀ : State := { s with cycle := a.getD s.cycle }
  obtain ⟨x, hx⟩ := uncountRuns_rest s₀ k.pos
  let v := s₀.uncountRuns k.pos
  have hslot (q : Pos) : v.slot q = if q = k.pos then { s.slot k.pos with task :=
      { s.task k.pos with runs := (s.task k.pos).runs.map fun r => { r with sent := false } } } else s.slot q := by
    rw [show v = _ from hx, State.slot_modTask]
    rfl
  have hself := (hslot k.pos).trans (if_pos rfl)
  have htask : v.task k.pos = _ := congrArg (·.task) hself
  have hbank : v.slot (mkPos (posCore k.pos) 0) = s.slot (mkPos (posCore k.pos) 0) := (hslot _).trans (if_neg (ne_bankerPos hp).symm)
  have hcycle : v.cycle = a.getD s.cycle := by rw [show v = _ from hx]; rfl
  have hsaved : v.saved = s.saved := by rw [show v = _ from hx]; rfl
  obtain ⟨h₁, h₂, h₃⟩ := saveTold_spec (s := v) hp (by rw [hbank, hcycle]; exact hev)
  rw [hsaved] at h₁
  rw [hbank, htask] at h₃
  have hc : v.context k = _ := rfl
  refine ⟨v.saveTold k, v.context k, (v.contextSaved k).backOf (v.task k.pos).deal (posCore k.pos), h₁, rfl, htask, ?_, ?_, ?_, h₂, h₃, ?_⟩
  · exact congrArg (·.cmds) hself
  · exact congrArg (·.comps) hself
  · exact congrArg (·.mrun) hself
  · have hn : (s₀.slot k.pos).preempt.isNone = false := by
      rw [← Option.not_isSome, show (s₀.slot k.pos).preempt.isSome = true from hpre]
      rfl
    have hat' : s₀.isAt k = true := hat
    have htight : (a.isNone && s₀.eventTight (mkPos (posCore k.pos) 0)) = false := by
      cases a with
      | none => exact ha rfl
      | some n => rfl
    have hfull : ¬ 16 ≤ (s₀.slot (mkPos (posCore k.pos) 0)).evq.length := Nat.not_le.2 hroom
    have haway : s₀.groupAway k.pos = s₀ := by
      have hj' : (s₀.task k.pos).jointIn = false := hj
      rw [State.groupAway, hj']
      rfl
    rw [exec_preemptSaveComplete, execPreemptSaveComplete, hm]
    refine congrArg (fun u : State => Host.Outcome.next { u with cycle := s.cycle }) (a₁ := _) (a₂ := ((v.saveTold k).schedule (posCore k.pos)).schedule
      ((v.contextSaved k).backOf (v.task k.pos).deal (posCore k.pos))) ?_
    rw [show ({ s with cycle := a.getD s.cycle } : State) = s₀ from rfl]
    simp only [hat', hn, htight, haway, if_neg hfull, Bool.not_true, Bool.or_self, Bool.false_eq_true, if_false]
    rfl

end Sys2Proof.Machine
end

section
/-! PROOF. What stewards do (O54): pages, mappings, resets and injections. -/
namespace Sys2Proof.Machine

-- UNPIN, PAGEFREE, PAGETAKE

section
variable {s : State} {part c n pg : Nat}

theorem unpin_begins (hd : s.diePart (coreDie c) = part) (hn : (s.space n).part = part) (hm : s.msg = .unpin part c n pg) (hb : s.agentBusy = false)
    {w : WPage} (hw : s.mem.wpages.look (wpageKey c n pg) = some w) :
    exec .unpin s = .next (s.postHub (s.cycle + 200 + (if w.bank.isSome && w.dirty then 64 else 0)) .unpin (.unpinEnd c n pg)) := by
  rw [exec_unpin, execUnpin, hm]
  simp only [hd, hn, hb, hw, ne_eq, not_true_eq_false, decide_false, Bool.or_self, Bool.false_eq_true, if_false]

theorem unpin_ends (hm : s.msg = .unpinEnd c n pg) (hb : s.pageBusy c n pg = false) : exec .unpin s = .next (s.unpinPage c n pg true) := by
  rw [exec_unpin, execUnpin, hm]
  simp only [hb, Bool.false_eq_true, if_false]

theorem pagefree_enters (hd : s.diePart (coreDie c) = part) (hm : s.msg = .pagefree part c pg) (hpg : pg < 768)
    (hu : (s.core c).bankUse.get 0 (pg / 4) = 1) (ht : s.bankTaken c pg = false) (hf : pg ∉ (s.core c).free) (hr : s.mem.refills = []) :
    exec .pagefree s = .next (s.modCore c fun k => { k with free := k.free ++ [pg] }) := by
  have hno : (s.modCore c fun k => { k with free := k.free ++ [pg] }).mem.refills = [] := hr
  rw [exec_pagefree, execPagefree, hm]
  simp only [hd, hu, ht, hf, Nat.not_le.2 hpg, ne_eq, not_true_eq_false, decide_false, List.contains_eq_mem, Bool.or_self, Bool.false_eq_true, if_false,
    State.pageEnters, hno, List.filter_nil, List.foldl_nil]

theorem pagetake_leaves (hd : s.diePart (coreDie c) = part) (hm : s.msg = .pagetake part c pg) :
    exec .pagetake s = .next (s.modCore c fun k => { k with free := k.free.erase pg }) := by
  rw [exec_pagetake, execPagetake, hm]
  simp only [hd, ne_eq, not_true_eq_false, if_false]

theorem pagefree_other (hd : s.diePart (coreDie c) ≠ part) (hm : s.msg = .pagefree part c pg) : exec .pagefree s = .next (s.refuseSteward part 0) := by
  rw [exec_pagefree, execPagefree, hm]
  simp only [hd, ne_eq, not_false_eq_true, decide_true, Bool.true_or, if_true]

theorem pagetake_other (hd : s.diePart (coreDie c) ≠ part) (hm : s.msg = .pagetake part c pg) : exec .pagetake s = .next (s.refuseSteward part 0) := by
  rw [exec_pagetake, execPagetake, hm]
  simp only [hd, ne_eq, not_false_eq_true, if_true]

end

-- UNMAP

/-- A range that the agent accepts (R449). -/
theorem unmap_good {n pg count : Nat} (h₀ : count ≠ 0) (h₁ : count ≤ 2 ^ 32) (h₂ : pg + count ≤ 2 ^ 45) (hn : n < 4096) :
    (decide (count = 0) || decide (2 ^ 32 < count) || decide (2 ^ 45 < pg + count) || decide (4096 ≤ n)) = false := by
  simp only [Bool.or_eq_false_iff, decide_eq_false_iff_not]
  exact ⟨⟨⟨h₀, Nat.not_lt.2 h₁⟩, Nat.not_lt.2 h₂⟩, Nat.not_le.2 hn⟩

section
variable {s : State} {part n pg count : Nat} {force evict : Bool} (hm : s.msg = .unmap part n pg count force evict) (hp : (s.space n).part = part)
  (hb : s.agentBusy = false)
include hm hp hb

theorem unmap_bad (h : count = 0 ∨ 2 ^ 32 < count ∨ 2 ^ 45 < pg + count) : exec .unmap s = .next (s.unmapReply 2 0) := by
  have hbad : (decide (count = 0) || decide (2 ^ 32 < count) || decide (2 ^ 45 < pg + count) || decide (4096 ≤ n)) = true := by
    simp only [Bool.or_eq_true, decide_eq_true_eq]
    tauto
  rw [exec_unmap, execUnmap, hm]
  simp only [hp, hb, ne_eq, not_true_eq_false, Bool.false_eq_true, if_false, hbad, if_true]

variable (h₀ : count ≠ 0) (h₁ : count ≤ 2 ^ 32) (h₂ : pg + count ≤ 2 ^ 45) (hn : n < 4096)
include h₀ h₁ h₂ hn

theorem unmap_pinned (hpins : s.pinnedIn n pg count ≠ []) (hf : force = false) :
    exec .unmap s = .next (s.unmapReply 1 (s.pinnedIn n pg count).length) := by
  have hgood := unmap_good h₀ h₁ h₂ hn
  rw [exec_unmap, execUnmap, hm]
  simp only [hp, hb, ne_eq, not_true_eq_false, Bool.false_eq_true, if_false, hgood, hf, Bool.not_false, Bool.and_true, Bool.not_eq_true', List.isEmpty_eq_false_iff,
    hpins, not_false_eq_true, if_true]

theorem unmap_begins (hpins : s.pinnedIn n pg count = []) :
    ∃ t due spans, exec .unmap s = .next t ∧ Due t due .unmap (.unmapWait n pg count evict spans []) := by
  have hgood := unmap_good h₀ h₁ h₂ hn
  rw [exec_unmap, execUnmap, hm]
  simp only [hp, hb, ne_eq, not_true_eq_false, Bool.false_eq_true, if_false, hgood, hpins, List.isEmpty_nil, Bool.not_true, Bool.false_and, List.filterMap_nil]
  exact ⟨_, _, _, rfl, due_postHub ..⟩

end

theorem unmapWait_done {s u : State} {n pg count : Nat} {spans : List (Nat × Nat)} {pins : List (Nat × Nat × Option Nat × Option Nat)}
    (hm : s.msg = .unmapWait n pg count false spans pins) (hu : s.inUse n spans = false) (hf : State.forcePages n pins s = ([], u)) :
    exec .unmap s = .next ((u.forgetScans spans).unmapReply 0 0) := by
  rw [exec_unmap, execUnmap, hm]
  simp only [hu, hf, Bool.false_eq_true, if_false]

theorem unmapWait_again {s : State} {n pg count : Nat} {evict : Bool} {spans : List (Nat × Nat)} {pins : List (Nat × Nat × Option Nat × Option Nat)}
    (hm : s.msg = .unmapWait n pg count evict spans pins) (hu : s.inUse n spans = true) :
    exec .unmap s = .next (s.postHub (s.cycle + 1) .unmap (.unmapWait n pg count evict spans pins)) := by
  rw [exec_unmap, execUnmap, hm]
  simp only [hu, if_true]

-- RESET and CORDON_RETURN

theorem cordonOf_alone {s : State} {c : Nat} (h : bit (s.core c).cordon.toNat 63 = false) : s.cordonOf c = [c] := by
  rw [State.cordonOf, h]
  rfl

theorem beginReset_alone {s : State} {c : Nat} (salvage : Bool) (h : (s.core c).halted = false) : s.beginReset [c] salvage =
    (s.modCore c fun k => { k with halted := true }).post (s.cycle + 2) 0 .reset (.resetFence [c] salvage) := by
  simp [State.beginReset, h]

section
variable {s : State} {part c : Nat}

theorem reset_alone (hd : s.diePart (coreDie c) = part) (hc : bit (s.core c).cordon.toNat 63 = false) (hm : s.msg = .reset part c)
    (hh : (s.core c).halted = false) :
    exec .reset s = .next ((s.modCore c fun k => { k with halted := true }).post (s.cycle + 2) 0 .reset (.resetFence [c] true)) := by
  rw [exec_reset, execReset, hm]
  simp only [hd, ne_eq, not_true_eq_false, if_false, cordonOf_alone hc, beginReset_alone true hh]

theorem reset_other (hd : s.diePart (coreDie c) ≠ part) (hm : s.msg = .reset part c) : exec .reset s = .next (s.refuseSteward part 0) := by
  rw [exec_reset, execReset, hm]
  simp only [hd, ne_eq, not_false_eq_true, if_true]

theorem cordonReturn_other (hd : s.diePart (coreDie c) ≠ part) (hm : s.msg = .cordonReturn part c) :
    exec .cordonReturn s = .next (s.refuseSteward part 0) := by
  rw [exec_cordonReturn, execCordonReturn, hm]
  simp only [hd, ne_eq, not_false_eq_true, if_true]

/-- A core whose fence lifts, before it is made eligible (R474 step 5). -/
def State.fenceLifted (s : State) (c : Nat) : State :=
  (s.modCore c fun k => { k with fenced := false, halted := false, stopped := s.partHalted (s.diePart (coreDie c)) }).loadBanker c

theorem core_fenceLifted (s : State) (c : Nat) : (s.fenceLifted c).core c =
    { s.core c with fenced := false, halted := false, stopped := s.partHalted (s.diePart (coreDie c)) } := by
  unfold State.fenceLifted State.loadBanker
  rw [State.core_modSlot, State.core_modCore_self]

theorem comeBack_alone (s : State) (c : Nat) : s.comeBack [c] = (s.fenceLifted c).setEligible c true := by
  unfold State.comeBack State.fenceLifted
  simp only [List.foldl_cons, List.foldl_nil]

theorem exec_cordonReturn_alone (hd : s.diePart (coreDie c) = part) (hc : bit (s.core c).cordon.toNat 63 = false) (hm : s.msg = .cordonReturn part c)
    (hl : coreDie c ∉ s.module_.lostDies) (hf : (s.core c).fenced = true) : exec .cordonReturn s = .next
      (if s.cycle < (s.core c).resetEnd then s.postHub (s.core c).resetEnd .cordonReturn (.cordonReturn part c)
       else (s.fenceLifted c).setEligible c true) := by
  rw [exec_cordonReturn, execCordonReturn, hm]
  simp only [hd, cordonOf_alone hc, hl, hf, ne_eq, not_true_eq_false, if_false, List.contains_eq_mem, decide_false, Bool.false_eq_true, List.filter_cons,
    List.filter_nil, if_true, List.map_cons, List.map_nil, List.foldl_cons, List.foldl_nil, Nat.zero_max,
    comeBack_alone]

theorem cordonReturn_alone (hd : s.diePart (coreDie c) = part) (hc : bit (s.core c).cordon.toNat 63 = false) (hm : s.msg = .cordonReturn part c)
    (hl : coreDie c ∉ s.module_.lostDies) (hf : (s.core c).fenced = true) :
    (s.cycle < (s.core c).resetEnd → exec .cordonReturn s = .next (s.postHub (s.core c).resetEnd .cordonReturn (.cordonReturn part c))) ∧
    ((s.core c).resetEnd ≤ s.cycle → ∃ u : State, (u.core c).fenced = false ∧ (u.core c).halted = false ∧
      (u.core c).stopped = s.partHalted (s.diePart (coreDie c)) ∧ (u.slot (mkPos c 0)).st = .ready ∧ u.task (mkPos c 0) = bankerTask c ∧
      exec .cordonReturn s = .next (u.setEligible c true)) := by
  have he := exec_cordonReturn_alone hd hc hm hl hf
  refine ⟨fun h => he.trans (by rw [if_pos h]), fun h => ⟨s.fenceLifted c, ?_, ?_, ?_, ?_, ?_, he.trans (by rw [if_neg (Nat.not_lt.2 h)])⟩⟩
  iterate 3 rw [core_fenceLifted]
  · exact (bankerRuns_loadBanker_self _ c).1
  · exact (bankerRuns_loadBanker_self _ c).2

end

-- DIE_RESET, DIE_LOST, RETURN

section
variable {s : State} {die : Nat} (hdie : die < 4) (hl : die ∉ s.module_.lostDies)
include hdie hl

/-- What a die's loss does to the module, and its error record (R479). -/
theorem loseDie_spec : die ∈ (s.loseDie die).module_.lostDies ∧
    ∃ due e, e.code = 0x30 ∧ e.sev = 3 ∧ Due (s.loseDie die) due .errorRecordDelivery (.errorRecord e) := by
  have hgo : (s.module_.lostDies.contains die || decide (4 ≤ die)) = false := by simp [hl, hdie]
  unfold State.loseDie
  rw [hgo]
  exact ⟨List.mem_cons_self, _, _, rfl, rfl, due_postHub ..⟩

theorem dieReset_own {part : Nat} (hm : s.msg = .dieReset part die) (hd : s.diePart die = part) :
    ∃ t, exec .dieReset s = .next t ∧ die ∈ t.module_.lostDies := by
  refine ⟨s.loseDie die, ?_, (loseDie_spec hdie hl).1⟩
  rw [exec_dieReset, execDieReset, hm]
  simp only [hd, ne_eq, not_true_eq_false, if_false]

theorem dieLost_spec (hm : s.msg = .dieLost die) : ∃ t due e, exec .dieLost s = .next t ∧ die ∈ t.module_.lostDies ∧ e.code = 0x30 ∧ e.sev = 3 ∧
    Due t due .errorRecordDelivery (.errorRecord e) := by
  obtain ⟨hin, due, e, hcode, hsev, hdue⟩ := loseDie_spec hdie hl
  refine ⟨s.loseDie die, due, e, ?_, hin, hcode, hsev, hdue⟩
  rw [exec_dieLost, execDieLost, hm]

end

theorem dieReset_other {s : State} {part die : Nat} (hm : s.msg = .dieReset part die) (hd : s.diePart die ≠ part) :
    exec .dieReset s = .next (s.refuseSteward part 0) := by
  rw [exec_dieReset, execDieReset, hm]
  simp only [hd, ne_eq, not_false_eq_true, if_true]

theorem foldl_max_le {l : List Nat} {a n : Nat} (ha : a ≤ n) (h : ∀ x ∈ l, x ≤ n) : l.foldl max a ≤ n := by
  induction l generalizing a with
  | nil => exact ha
  | cons x l ih => exact ih (max_le ha (h x List.mem_cons_self)) fun y hy => h y (List.mem_cons_of_mem _ hy)

section
variable {s : State} {part die : Nat} (hm : s.msg = .returnDie part die) (hd : s.diePart die = part) (hl : die ∈ s.module_.lostDies)
include hm hd hl

theorem returnDie_waits (h : ∃ c ∈ dieCores die, (s.core c).fenced = false) :
    ∃ due, s.cycle < due ∧ exec .returnDie s = .next (s.postHub due .returnDie (.returnDie part die)) := by
  have hall : (dieCores die).all (fun c => (s.core c).fenced) = false := by simpa using h
  refine ⟨max (((dieCores die).map fun c => (s.core c).resetEnd).foldl max 0) (s.cycle + 1), by omega, ?_⟩
  rw [exec_returnDie, execReturnDie, hm]
  simp only [hd, hl, hall, ne_eq, not_true_eq_false, if_false, List.contains_eq_mem, decide_true, Bool.not_true, Bool.false_eq_true, Bool.not_false, Bool.or_true,
    if_true]

theorem returnDie_comes (h : ∀ c ∈ dieCores die, (s.core c).fenced = true ∧ (s.core c).resetEnd ≤ s.cycle) : exec .returnDie s = .next
    ((State.poisonLog { s with module_ := { s.module_ with lostDies := s.module_.lostDies.erase die } } die).comeBack (dieCores die)) := by
  have hall : (dieCores die).all (fun c => (s.core c).fenced) = true := by simpa using fun c hc => (h c hc).1
  have hend : ¬ s.cycle < ((dieCores die).map fun c => (s.core c).resetEnd).foldl max 0 := by
    refine Nat.not_lt.2 (foldl_max_le (Nat.zero_le _) fun x hx => ?_)
    obtain ⟨c, hc, rfl⟩ := List.mem_map.1 hx
    exact (h c hc).2
  rw [exec_returnDie, execReturnDie, hm]
  simp only [hd, hl, hall, hend, ne_eq, not_true_eq_false, if_false, List.contains_eq_mem, decide_true, decide_false, Bool.not_true, Bool.or_self,
    Bool.false_eq_true]

end

end Sys2Proof.Machine
end

section
/-! PROOF. What stewards do (O54): the partition's reset, commands, injections and settings. -/
namespace Sys2Proof.Machine

-- PARTITION_RESET

/-- The cores of a partition. -/
def State.partCores (s : State) (part : Nat) : List Nat := ((List.range 4).filter fun d => s.diePart d == part).flatMap dieCores

theorem mem_partCores {s : State} {part d c : Nat} (hd : d < 4) (hp : s.diePart d = part) (hc : c ∈ dieCores d) : c ∈ s.partCores part :=
  List.mem_flatMap.2 ⟨d, List.mem_filter.2 ⟨List.mem_range.2 hd, by simp [hp]⟩, hc⟩

/-- Cores that stop at once. -/
def State.haltCores (s : State) (l : List Nat) : State := l.foldl (fun s c => s.modCore c fun k => { k with halted := true }) s

theorem haltCores_rest (s : State) (l : List Nat) : ∃ x, s.haltCores l = { s with cores := x } := by
  induction l generalizing s with
  | nil => exact ⟨s.cores, rfl⟩
  | cons c l ih =>
    obtain ⟨x, hx⟩ := ih (s.modCore c fun k => { k with halted := true })
    exact ⟨x, hx⟩

theorem halted_haltCores {s : State} {l : List Nat} {c : Nat} (h : c ∈ l ∨ (s.core c).halted = true) : ((s.haltCores l).core c).halted = true := by
  induction l generalizing s with
  | nil => exact h.resolve_left List.not_mem_nil
  | cons k l ih =>
    refine ih (s := s.modCore k fun k => { k with halted := true }) ?_
    rcases h with h | h
    · rcases List.mem_cons.1 h with rfl | h
      · exact .inr (by rw [State.core_modCore_self])
      · exact .inl h
    · refine .inr ?_
      rw [State.core_modCore]
      split
      · rfl
      · exact h

section
variable {s : State} {part : Nat}

theorem exec_partitionReset_of_msg (hm : s.msg = .partitionReset part) : exec .partitionReset s = .next
    (if s.module_.hot.contains part && s.module_.overLimit then s.refuseSteward part 0
     else (s.haltCores (s.partCores part)).postHub (s.cycle + 2) .partitionReset (.partitionSteps part)) := by
  rw [exec_partitionReset, execPartitionReset, hm]
  rfl

theorem partitionReset_hot (hm : s.msg = .partitionReset part) (hh : part ∈ s.module_.hot) (ho : s.module_.overLimit = true) :
    exec .partitionReset s = .next (s.refuseSteward part 0) := by
  rw [exec_partitionReset_of_msg hm, if_pos (by simp [hh, ho])]

theorem partitionReset_begins (hm : s.msg = .partitionReset part) (ho : s.module_.overLimit = false) : ∃ t, exec .partitionReset s = .next t ∧
    (∀ d c, d < 4 → s.diePart d = part → c ∈ dieCores d → (t.core c).halted = true) ∧
    Due t (s.cycle + 2) .partitionReset (.partitionSteps part) ∧ t.mem = s.mem ∧ t.slots = s.slots ∧ t.hub = s.hub := by
  obtain ⟨x, hx⟩ := haltCores_rest s (s.partCores part)
  refine ⟨_, (exec_partitionReset_of_msg hm).trans (by rw [if_neg (by simp [ho])]), fun d c hd hp hc => ?_, ?_, ?_, ?_, ?_⟩
  · exact halted_haltCores (.inl (mem_partCores hd hp hc))
  all_goals rw [hx]
  · exact due_postHub ..
  all_goals rfl

end

-- commands

/-- A hub command that a steward issues (R493). -/
theorem issued_spec {s : State} {k : Nat} {m : Msg} (hm : s.msg = .issued k m) :
    exec .resumeRetry s = .next (s.command k .resumeRetry m) ∧ exec .resumeSkip s = .next (s.command k .resumeSkip m) ∧
    exec .resumeEnd s = .next (s.command k .resumeEnd m) ∧ exec .preempt s = .next (s.command k .preempt m) ∧
    exec .pagefree s = .next (s.command k .pagefree m) ∧ exec .pagetake s = .next (s.command k .pagetake m) ∧
    exec .unpin s = .next (s.command k .unpin m) ∧ exec .unmap s = .next (s.command k .unmap m) ∧ exec .reset s = .next (s.command k .reset m) ∧
    exec .cordonReturn s = .next (s.command k .cordonReturn m) ∧ exec .dieReset s = .next (s.command k .dieReset m) ∧
    exec .returnDie s = .next (s.command k .returnDie m) ∧ exec .partitionReset s = .next (s.command k .partitionReset m) := by
  simp only [exec_resumeRetry, execResumeRetry, exec_resumeSkip, execResumeSkip, exec_resumeEnd, execResumeEnd, exec_preempt, execPreempt, exec_pagefree,
    execPagefree, exec_pagetake, execPagetake, exec_unpin, execUnpin, exec_unmap, execUnmap, exec_reset, execReset, exec_cordonReturn, execCordonReturn,
    exec_dieReset, execDieReset, exec_returnDie, execReturnDie, exec_partitionReset, execPartitionReset, hm, and_self]

theorem command_of_part {s : State} {k part : Nat} {m : Msg} (ev : Instr) (hk : k < 8) (hp : s.commandPart m = some part) :
    s.command k ev m = if part ≠ s.stewardPart k then s.refuseSteward (s.stewardPart k) 0 else s.postHub (s.cycle + m.commandTime) ev m := by
  rw [State.command, hp]
  exact if_neg (Nat.not_le.2 hk)

theorem command_preempt (s : State) {k : Nat} (ev : Instr) (p : Pos) (hk : k < 8) :
    (s.diePart (coreDie (posCore p)) = s.stewardPart k →
      s.command k ev (.preempt p) = s.postHub (s.cycle + (60 + 2 * portHops (posCore p) 3 + 80)) ev (.preempt p)) ∧
    (s.diePart (coreDie (posCore p)) ≠ s.stewardPart k → s.command k ev (.preempt p) = s.refuseSteward (s.stewardPart k) 0) := by
  have h := command_of_part (s := s) (m := .preempt p) ev hk rfl
  exact ⟨fun hp => h.trans (if_neg fun hn => hn hp), fun hp => h.trans (if_pos hp)⟩

theorem command_unmap (s : State) {k : Nat} (n page count : Nat) (force evict : Bool) (ev : Instr) (hk : k < 8) :
    s.command k ev (.unmap (s.stewardPart k) n page count force evict) =
      s.postHub (s.cycle + 1) ev (.unmap (s.stewardPart k) n page count force evict) :=
  (command_of_part ev hk rfl).trans (if_neg fun hn => hn rfl)

-- ERRINJ

theorem errinj_fired (s : State) (c : Nat) : ((s.fired c).core c).errinj = 0 := by
  rw [State.fired, State.core_modCore_self]

section
variable {s : State} {c : Nat} {v : Word} (hm : s.msg = .errinj c v)
include hm

theorem errinjDisarm_spec : exec .errinjDisarm s = .next (s.modCore c fun k => { k with errinj := 0, injCount := 0 }) := by
  rw [exec_errinjDisarm, execErrinjDisarm, hm]

theorem errinjAccumulator_spec :
    exec .errinjAccumulator s = .next (s.modCore c fun k => { k with errinj := BitVec.ofNat 64 (v.toNat / 2 ^ 17 * 2 ^ 17), injCount := 0 }) := by
  rw [exec_errinjAccumulator, execErrinjAccumulator, hm]
  rfl

theorem errinjScratchpadWord_pinned {loc : Nat} (hl : s.bankLoc c (s.task (mkPos c 0)).space (bits v.toNat 0 22 / 4 * 4) = some loc) :
    ∃ t, exec .errinjScratchpadWord s = .next t ∧ loc / 4 ∈ t.mem.errWords ∧ t.mem.bytes = s.mem.bytes ∧ (t.core c).errinj = 0 ∧ t.slots = s.slots := by
  rw [exec_errinjScratchpadWord, execErrinjScratchpadWord, hm]
  simp only [hl]
  exact ⟨_, rfl, List.mem_cons_self, rfl, errinj_fired s c, rfl⟩

theorem errinjRegister_resident (h₁ : 1 ≤ bits v.toNat 56 4) (h₁₄ : bits v.toNat 56 4 ≤ 14) (hr : bits v.toNat 52 4 ≠ 0)
    (hres : (s.slot (mkPos c (bits v.toNat 56 4))).resident = true) : ∃ t, exec .errinjRegister s = .next t ∧ (t.core c).errinj = 0 ∧ t.mem = s.mem ∧
      (t.task (mkPos c (bits v.toNat 56 4))).regs = (s.task (mkPos c (bits v.toNat 56 4))).regs ∧
      (s.task (mkPos c (bits v.toNat 56 4))).strikeKey (bits v.toNat 52 4) ∈ (t.task (mkPos c (bits v.toNat 56 4))).struck := by
  have h0 : bits v.toNat 56 4 ≠ 0 := by omega
  have h15 : bits v.toNat 56 4 ≠ 15 := by omega
  rw [exec_errinjRegister, execErrinjRegister, hm]
  simp only [h0, h15, hr, hres, decide_false, Bool.not_true, Bool.or_self, Bool.false_eq_true, if_false]
  refine ⟨_, rfl, errinj_fired s c, rfl, ?_, ?_⟩ <;> rw [State.task_modTask_self]
  · rfl
  · exact List.mem_cons_self

theorem errinjVcacheLine_held {key line : Nat} (hl : (s.heldLines c)[bits v.toNat 0 22]? = some (key, line)) : ∃ t, exec .errinjVcacheLine s = .next t ∧
    (t.core c).errinj = 0 ∧ t.mem.bytes = s.mem.bytes ∧ t.slots = s.slots ∧
    ∀ x ∈ t.mem.vsets, x.1 = key → ∀ y ∈ x.2, y.line = line → y.err = true := by
  rw [exec_errinjVcacheLine, execErrinjVcacheLine, hm]
  simp only [hl]
  refine ⟨_, rfl, errinj_fired s c, rfl, rfl, fun x hx hk y hy hline => ?_⟩
  obtain ⟨z, -, rfl⟩ := List.mem_map.1 hx
  by_cases hz : z.1 = key
  · rw [if_pos hz] at hy
    obtain ⟨u, -, rfl⟩ := List.mem_map.1 hy
    by_cases hu : u.line = line
    · rw [if_pos hu]
    · rw [if_neg hu] at hline
      exact absurd hline hu
  · rw [if_neg hz] at hk
    exact absurd hk hz

theorem errinjCordonReset_spec : ∃ u : State, (u.core c).errinj = 0 ∧ u.mem = s.mem ∧ u.slots = s.slots ∧
    exec .errinjCordonReset s = .next (u.beginReset (s.cordonOf c) true) := by
  refine ⟨s.fired c, errinj_fired s c, rfl, rfl, ?_⟩
  rw [exec_errinjCordonReset, execErrinjCordonReset, hm]

end

-- LIGHT_UNIT_CONFIG

/-- The mask of a light unit as a steward sets it; a slot that cannot change is named in a record. -/
def State.setLmask (s : State) (c v : Nat) : State := (List.range 14).foldl (fun s i =>
  let k := i + 1
  let p := mkPos c k
  let on := bit v k
  if bit (s.core c).lmask k = on then s
  else if (s.slot p).st == .empty && (s.slot p).shipped.isEmpty then s.modCore c fun x => { x with lmask := setBits x.lmask k 1 on.toNat }
  else s.refuseSlot p) s

theorem setLmask_rest (s : State) (c v : Nat) : (s.setLmask c v).mem = s.mem ∧ (s.setLmask c v).slots = s.slots := by
  have h := foldl_keeps (fun s : State => (s.mem, s.slots)) (fun (s : State) i =>
    if bit (s.core c).lmask (i + 1) = bit v (i + 1) then s
    else if (s.slot (mkPos c (i + 1))).st == .empty && (s.slot (mkPos c (i + 1))).shipped.isEmpty then
      s.modCore c fun x => { x with lmask := setBits x.lmask (i + 1) 1 (bit v (i + 1)).toNat }
    else s.refuseSlot (mkPos c (i + 1))) (fun s i => by split_ifs <;> rfl) (List.range 14) s
  exact ⟨congrArg Prod.fst h, congrArg Prod.snd h⟩

theorem lightUnitConfig_other {s : State} {part c v : Nat} (hm : s.msg = .lightUnitConfig part c v) (hd : s.diePart (coreDie c) ≠ part) :
    exec .lightUnitConfig s = .next (s.refuseSlot (mkPos c 0)) := by
  rw [exec_lightUnitConfig, execLightUnitConfig, hm]
  simp only [hd, ne_eq, not_false_eq_true, if_true]

theorem lightUnitConfig_own {s : State} {part c v : Nat} (hm : s.msg = .lightUnitConfig part c v) (hd : s.diePart (coreDie c) = part) :
    ∃ u : State, (u.core c).kbase = bits v 81 35 * 2 ^ 17 ∧ (u.core c).ken = bit v 0 ∧ u.mem = s.mem ∧ u.slots = s.slots ∧
      exec .lightUnitConfig s = .next ((u.refillArrivals c s.cycle).schedule c) := by
  obtain ⟨hmem, hslots⟩ := setLmask_rest s c v
  refine ⟨(s.setLmask c v).modCore c fun x => { x with kbase := bits v 81 35 * 2 ^ 17, ken := bit v 0 }, ?_, ?_, hmem, hslots, ?_⟩
  · rw [State.core_modCore_self]
  · rw [State.core_modCore_self]
  · have hcycle : (s.setLmask c v).cycle = s.cycle := foldl_keeps (·.cycle) (fun (s : State) i =>
      if bit (s.core c).lmask (i + 1) = bit v (i + 1) then s
      else if (s.slot (mkPos c (i + 1))).st == .empty && (s.slot (mkPos c (i + 1))).shipped.isEmpty then
        s.modCore c fun x => { x with lmask := setBits x.lmask (i + 1) 1 (bit v (i + 1)).toNat }
      else s.refuseSlot (mkPos c (i + 1))) (fun s i => by split_ifs <;> rfl) (List.range 14) s
    rw [exec_lightUnitConfig, execLightUnitConfig, hm, ← hcycle]
    simp only [hd, ne_eq, not_true_eq_false, if_false]
    rfl

-- TRACE_RING_CONTROL

theorem traceRing_slice {s : State} {part n : Nat} {on : Bool} (hm : s.msg = .traceRing part true n on) (hn : n < 128) (hd : s.diePart (n / 32) = part) :
    exec .traceRingControl s = .next (s.modMem fun m => { m with rings := m.rings.upd {} n fun g => { g with on := on } }) := by
  rw [exec_traceRingControl, execTraceRingControl, hm]
  simp only [hd, Nat.not_le.2 hn, ne_eq, not_true_eq_false, if_true, decide_false, Bool.or_self, Bool.false_eq_true, if_false]

theorem traceRing_port {s : State} {part n : Nat} {on : Bool} (hm : s.msg = .traceRing part false n on) (hn : n < 1024)
    (hd : s.diePart (coreDie n) = part) :
    exec .traceRingControl s = .next (s.modCore n fun c => { c with ring := { c.ring with on := on } }) := by
  rw [exec_traceRingControl, execTraceRingControl, hm]
  simp only [hd, Nat.not_le.2 hn, ne_eq, not_true_eq_false, decide_false, Bool.or_self, Bool.false_eq_true, if_false]

-- HUB_REGISTER_WRITE

/-- The address that a refused write's record gives: that of the memory it names (R486). -/
def HubReg.refusedAddr : HubReg → Nat
  | .memory loc _ _ => loc
  | _ => 0

theorem exec_hubRegisterWrite_of_msg {s : State} {k : Nat} {r : HubReg} (hm : s.msg = .hubWrite k r) (hk : k < 8) : exec .hubRegisterWrite s =
    .next ((s.setHub (s.stewardPart k) (s.stewardWorld k) r).getD (s.refuseSteward (s.stewardPart k) r.refusedAddr)) := by
  rw [exec_hubRegisterWrite, execHubRegisterWrite, hm]
  simp only [if_neg (Nat.not_le.2 hk)]
  cases r <;> rfl

theorem hubRegisterWrite_spec {s : State} {k : Nat} {r : HubReg} (hm : s.msg = .hubWrite k r) (hk : k < 8) :
    let part := s.stewardPart k
    (∀ u, s.setHub part (s.stewardWorld k) r = some u → exec .hubRegisterWrite s = .next u) ∧
    (s.setHub part (s.stewardWorld k) r = none → (∀ loc n v, r ≠ .memory loc n v) → exec .hubRegisterWrite s = .next (s.refuseSteward part 0)) ∧
    (∀ loc n v, r = .memory loc n v → s.setHub part (s.stewardWorld k) r = none → exec .hubRegisterWrite s = .next (s.refuseSteward part loc)) := by
  intro part
  have he := exec_hubRegisterWrite_of_msg hm hk
  refine ⟨fun u hu => he.trans (by rw [hu]; rfl), fun hu hr => he.trans ?_, fun loc n v hr hu => he.trans ?_⟩ <;> rw [hu]
  · have h0 : r.refusedAddr = 0 := by
      cases r
      case memory loc n v => exact absurd rfl (hr loc n v)
      all_goals rfl
    rw [h0]
    rfl
  · rw [hr]
    rfl

/-- No write of a steward changes memory of another partition, of the other world, or that is executable (R97, R451). -/
theorem setHub_memory_none {s : State} {part : Nat} {w : Bool} {loc n v : Nat}
    (h : s.framePart loc ≠ some part ∨ s.secure loc ≠ w ∨ s.meetsCode loc n = true) : s.setHub part w (.memory loc n v) = none := by
  have hbad : (decide (8 < n) || decide (n = 0) || decide (loc % 8 + n > 8) || decide (s.framePart loc ≠ some part) || s.secure loc != w ||
      s.meetsCode loc n) = true := by
    simp only [Bool.or_eq_true, decide_eq_true_eq, bne_iff_ne]
    tauto
  unfold State.setHub
  simp only [hbad, if_true]

-- FAULT_RECORD_DELIVERY

/-- The record that a delivery carries (Table 19-5). -/
def deliveredRecord (l : List Nat) : FaultRec :=
  { cycle := l.getD 0 0, addr := l.getD 1 0, pc := l.getD 2 0, cause := l.getD 3 0, sub := l.getD 4 0, behalf := l.getD 5 0 == 1,
    acc := l.getD 6 0, world := l.getD 7 0 == 1, space := l.getD 8 0, slot := l.getD 9 0, arg := l.getD 10 0 }

theorem faultRecordDelivery_spec {s : State} {l : List Nat} (hm : s.msg = .faultRecordDelivery l) (hh : s.partHalted (s.recordPart l) = false) :
    ∃ (t : State) (r : FaultRec), exec .faultRecordDelivery s = .next t ∧
      t.hub.faults.get [] (s.recordPart l) = s.hub.faults.get [] (s.recordPart l) ++ [toBytes 32 r.word] ∧ r.cause = l.getD 3 0 ∧ r.sub = l.getD 4 0 ∧
      r.addr = l.getD 1 0 ∧ r.slot = l.getD 9 0 ∧ t.mem = s.mem ∧ t.slots = s.slots ∧ t.cores = s.cores := by
  refine ⟨s.modHub fun h => { h with faults := h.faults.upd [] (s.recordPart l) (· ++ [(deliveredRecord l).bytes]) }, deliveredRecord l, ?_,
    (Tbl.get_upd_self s.hub.faults [] (s.recordPart l) (· ++ [(deliveredRecord l).bytes])), rfl, rfl, rfl, rfl, rfl, rfl, rfl⟩
  rw [exec_faultRecordDelivery, execFaultRecordDelivery, hm]
  simp only [hh, Bool.false_eq_true, if_false]
  rfl

end Sys2Proof.Machine
end

section
/-! PROOF. The steps of a core reset take no time of their own: they leave the cycle as it stands (R474, R480). -/
namespace Sys2Proof.Machine

-- memory and home

theorem cycle_of_apart {s t : State} (h : t.apart = s.apart) : t.cycle = s.cycle := (congrArg State.cycle h : t.apart.cycle = s.apart.cycle)
theorem cycle_of_beside {s t : State} (h : t.beside = s.beside) : t.cycle = s.cycle := (congrArg State.cycle h : t.beside.cycle = s.beside.cycle)

/-- A fold of updates that leave the cycle alone. -/
theorem cycle_foldl {β : Type} {f : State → β → State} (hf : ∀ s x, (f s x).cycle = s.cycle) (l : List β) (s : State) :
    (l.foldl f s).cycle = s.cycle := foldl_keeps State.cycle f hf l s

@[simp] theorem apart_staleFills (s : State) (p : Fill → Bool) : (s.staleFills p).apart = s.apart := rfl

@[simp] theorem apart_probe (s : State) (line : Nat) : (s.probe line).2.apart = s.apart := by
  unfold State.probe
  refine (apart_foldl_snd (fun x i => ?_) _ _).trans ?_
  · dsimp only
    split
    next y _ =>
      rw [apart_dropVline]
      split <;> simp
    next => rfl
  · dsimp only
    split
    · simp
    · exact apart_flushLine s line

@[simp] theorem apart_allocate (s : State) (i : Inst) (up : List Inst) (line tensor : Nat) (world : Bool) :
    (s.allocate i up line tensor world).apart = s.apart := by
  unfold State.allocate
  split <;> simp

@[simp] theorem apart_fillLine (s : State) (i : Inst) (up : List Inst) (line tensor : Nat) (world : Bool) (d : BitVec 1024) (p : Bool) :
    (s.fillLine i up line tensor world d p).apart = s.apart := by
  unfold State.fillLine
  dsimp only
  split <;> simp

@[simp] theorem apart_fillRegion (s : State) (i : Inst) (line tensor : Nat) (world : Bool) : (s.fillRegion i line tensor world).apart = s.apart := by
  unfold State.fillRegion
  split
  · rfl
  · exact apart_foldl (fun s k => by dsimp only; split <;> simp) _ s

@[simp] theorem apart_meetErr (s : State) (i : Inst) (up : List Inst) (y : VLine) (core slot : Nat) : (s.meetErr i up y core slot).apart = s.apart := by
  unfold State.meetErr
  split
  · simp
  · rw [apart_dropVline]
    rfl

@[simp] theorem apart_readLine (core : Nat) (c : List Inst) (line : Nat) (mask : BitVec 128) (tensor : Nat) (world : Bool) (s : State) :
    (readLine core c line mask tensor world s).2.apart = s.apart := by
  induction c generalizing mask s with
  | nil => simp [readLine]
  | cons i up ih =>
    have herr (s : State) (y : Option VLine) : (match y with
        | some y => if y.err then s.meetErr i up y core (mkPos core 0) else s
        | none => s).apart = s.apart := by
      cases y with
      | none => rfl
      | some y => dsimp only; split <;> simp
    unfold readLine
    split
    · exact ih mask s
    · have hfill (s : State) : (if up.isEmpty then s.fillRegion i line tensor world else s).apart = s.apart := by split <;> simp
      dsimp only
      split
      · split
        · exact (apart_putVline ..).trans ((herr ..).trans (apart_flushLine ..))
        · rw [hfill, apart_fillLine, ih, apart_allocate]
          exact (herr ..).trans (apart_flushLine ..)
      · rw [if_neg Bool.false_ne_true, hfill, apart_fillLine, ih, apart_allocate]
        exact (herr ..).trans (apart_flushLine ..)

@[simp] theorem apart_hubWrite (s : State) (loc n v : Nat) : (s.hubWrite loc n v).apart = s.apart := by
  unfold State.hubWrite
  refine (apart_foldl (fun s l => by simp) _ _).trans ?_
  exact (apart_putCells ..).trans (apart_foldl (fun s l => apart_probe s l) _ s)

@[simp] theorem cycle_hubWrite (s : State) (loc n v : Nat) : (s.hubWrite loc n v).cycle = s.cycle := cycle_of_apart (apart_hubWrite ..)

-- the scheduler

@[simp] theorem cycle_modDeal (s : State) (e : Nat) (f : ActiveDeal → ActiveDeal) : (s.modDeal e f).cycle = s.cycle := rfl
@[simp] theorem cycle_modHwSlot (s : State) (k : Nat) (f : HwSlot → HwSlot) : (s.modHwSlot k f).cycle = s.cycle := rfl
@[simp] theorem cycle_modHub (s : State) (f : Hub → Hub) : (s.modHub f).cycle = s.cycle := rfl
@[simp] theorem cycle_endTask (s : State) (e : Nat) (err : Bool) : (s.endTask e err).cycle = s.cycle := rfl

@[simp] theorem cycle_restartAging (s : State) (e : Nat) : (s.restartAging e).cycle = s.cycle := by
  unfold State.restartAging
  split
  · rfl
  · split
    · rfl
    · dsimp only
      split <;> rfl

@[simp] theorem cycle_giveBack (s : State) (e : Nat) (r : Returned) : (s.giveBack e r).cycle = s.cycle := by
  obtain ⟨h, a, n, hb⟩ := giveBack_rest s e r
  rw [hb]

@[simp] theorem cycle_advanceQueue (s : State) (k : Nat) : (s.advanceQueue k).cycle = s.cycle := by
  unfold State.advanceQueue
  dsimp only
  split
  · exact cycle_hubWrite ..
  · split
    · exact cycle_hubWrite ..
    · exact cycle_hubWrite ..

@[simp] theorem cycle_place (s : State) (e : Nat) (d : ActiveDeal) (r : Returned) (c : Nat) : (s.place e d r c).cycle = s.cycle := by
  unfold State.place
  dsimp only
  split
  · rfl
  · split
    · exact cycle_restartAging ..
    · split
      · exact (cycle_advanceQueue ..).trans (cycle_restartAging ..)
      · exact cycle_restartAging ..

@[simp] theorem cycle_placeGroup (s : State) (l : List (Saved × Returned)) (q : Nat) : (s.placeGroup l q).cycle = s.cycle :=
  cycle_foldl (fun s x => by
    dsimp only
    split
    · exact cycle_place ..
    · rfl) l s

@[simp] theorem cycle_placeOn (c fuel : Nat) (s : State) : (State.placeOn c fuel s).cycle = s.cycle := by
  induction fuel generalizing s with
  | zero => rfl
  | succ fuel ih =>
    unfold State.placeOn
    dsimp only
    split
    · rfl
    · split
      · rw [ih, cycle_placeGroup]
      · split
        · rfl
        · rw [ih, cycle_place]

@[simp] theorem cycle_demandOn (c : Nat) (light : Bool) (fuel : Nat) (s : State) : (State.demandOn c light fuel s).cycle = s.cycle := by
  induction fuel generalizing s with
  | zero => rfl
  | succ fuel ih =>
    unfold State.demandOn
    split
    · rfl
    · dsimp only
      split
      · rfl
      · exact ih _

@[simp] theorem cycle_schedule (s : State) (c : Nat) : (s.schedule c).cycle = s.cycle := by
  unfold State.schedule
  split
  · rfl
  · rw [cycle_demandOn, cycle_demandOn, cycle_foldl (fun s g => by split <;> simp), cycle_placeOn]

@[simp] theorem cycle_scheduleDeal (s : State) (e : Nat) : (s.scheduleDeal e).cycle = s.cycle := by
  unfold State.scheduleDeal
  split
  · split
    · exact cycle_foldl (fun s c => cycle_schedule s c) _ s
    · rfl
  · rfl

@[simp] theorem cycle_startPlacing (s : State) (e : Nat) : (s.startPlacing e).cycle = s.cycle := by
  unfold State.startPlacing
  split
  · split <;> simp
  · rfl

@[simp] theorem cycle_makeReady (s : State) (e : Nat) (counted : Bool) : (s.makeReady e counted).cycle = s.cycle := by
  unfold State.makeReady
  split
  · rfl
  · exact cycle_startPlacing ..

@[simp] theorem cycle_meetCounter (s : State) (e : Nat) : (s.meetCounter e).cycle = s.cycle := by
  unfold State.meetCounter
  split
  · rfl
  · split
    · exact cycle_makeReady ..
    · dsimp only
      split
      · rfl
      · split
        · exact cycle_makeReady ..
        · rfl

@[simp] theorem cycle_freeCounter (s : State) (k : Nat) : (s.freeCounter k).cycle = s.cycle :=
  cycle_foldl (fun s x => by split <;> simp) _ s

@[simp] theorem cycle_applyCounter (s : State) (k : Nat) (dec : Bool) (v : Nat) : (s.applyCounter k dec v).cycle = s.cycle := by
  let c := s.hub.counters.get {} k
  have htally : (if dec && decide (c.value = 0) then s.tally 8 (k / 4096) 1 else s).cycle = s.cycle := by split <;> rfl
  unfold State.applyCounter
  dsimp only
  generalize (if dec && decide ((s.hub.counters.get {} k).value = 0) then s.tally 8 (k / 4096) 1 else s) = u at htally ⊢
  split
  · generalize (if dec then (s.hub.counters.get {} k).value - 1 else v) = w
    split
    · exact htally
    · exact (cycle_freeCounter ..).trans ((cycle_makeReady ..).trans htally)
  · exact htally

-- tasks and the matrix partner

@[simp] theorem cycle_wakeTk (s : State) (t : Tk) (w : Wait) : (s.wakeTk t w).cycle = s.cycle := by
  unfold State.wakeTk
  split
  · exact State.wake_cycle ..
  · rfl

@[simp] theorem cycle_pendDone (s : State) (t : Tk) (id : Nat) : (s.pendDone t id).cycle = s.cycle := by
  unfold State.pendDone State.pendDoneAt
  exact (cycle_wakeTk ..).trans (State.onTask_cycle ..)

@[simp] theorem cycle_modAcc (s : State) (t : Tk) (k : Nat) (f : Accum → Accum) : (s.modAcc t k f).cycle = s.cycle := State.onTask_cycle ..

@[simp] theorem cycle_kickPartner (s : State) (c : Nat) : (s.kickPartner c).cycle = s.cycle := cycle_of_beside (beside_kickPartner s c)

@[simp] theorem cycle_wakePast (s : State) (p : Pos) (w : Wait) : (s.wakePast p w).cycle = s.cycle := cycle_of_beside (beside_wakePast s p w)

@[simp] theorem cycle_leaveJoint (s : State) (p : Pos) : (s.leaveJoint p).cycle = s.cycle := leaveJoint_keeps (·.cycle) (fun _ _ _ _ _ => rfl) s p

@[simp] theorem cycle_wakeMatrix (s : State) (p : Pos) : (s.wakeMatrix p).cycle = s.cycle := by
  unfold State.wakeMatrix
  split
  · rfl
  · split
    · split
      · rfl
      · split
        · cases h : s.finishBlocking p { Finish.plain with fault := some (accTrap _) } with
          | none => rfl
          | some u => exact cycle_of_beside (beside_finishBlocking h)
        · exact cycle_wakePast ..
    · split
      · rfl
      · exact (cycle_wakePast ..).trans (cycle_leaveJoint ..)
    · rfl

@[simp] theorem cycle_completeCommand (s : State) (t : Tk) (m : MCmd) (status : Nat) : (s.completeCommand t m status).cycle = s.cycle := by
  unfold State.completeCommand
  dsimp only
  rw [cycle_wakeMatrix]
  split
  · rw [State.wake_cycle, State.modSlot_cycle]
    split <;> simp
  · split <;> simp

@[simp] theorem cycle_freePartner (s : State) (c : Nat) : (s.freePartner c).cycle = s.cycle := cycle_kickPartner ..

@[simp] theorem cycle_noteTk (s : State) (t : Tk) (e : Events) : (s.noteTk t e).cycle = s.cycle := by
  unfold State.noteTk
  split <;> simp

@[simp] theorem cycle_taskError (s : State) (core : Nat) (t : Tk) (e : ErrRec) : (s.taskError core t e).cycle = s.cycle := rfl

@[simp] theorem cycle_endMultiply (s : State) (c : Nat) (r : PRun) (status : Nat) : (s.endMultiply c r status).cycle = s.cycle := by
  unfold State.endMultiply
  split
  · simp
  · dsimp only
    rw [cycle_completeCommand, cycle_freePartner]
    split <;> simp

-- ordering points

@[simp] theorem cycle_laneTo (s : State) (a b due : Nat) : (s.laneTo a b due).2.cycle = s.cycle := by
  unfold State.laneTo
  split <;> rfl

@[simp] theorem cycle_touchRecord (s : State) (loc : Nat) : (s.touchRecord loc).cycle = s.cycle := by
  unfold State.touchRecord
  split
  · rfl
  · dsimp only
    split <;> rfl

@[simp] theorem cycle_traceHome (s : State) (loc space kind pos size v : Nat) : (s.traceHome loc space kind pos size v).cycle = s.cycle := by
  unfold State.traceHome
  dsimp only
  split <;> rfl

@[simp] theorem cycle_serveScratchErr (s : State) (core space off loc : Nat) : (s.serveScratchErr core space off loc).cycle = s.cycle := by
  unfold State.serveScratchErr
  dsimp only
  split
  · rfl
  · split
    · rfl
    · split
      · rfl
      · refine cycle_of_apart ((apart_setPoison ..).trans ((apart_modMem ..).trans ((apart_putCells ..).trans ?_)))
        exact apart_readLine ..

@[simp] theorem cycle_readScratch (s : State) (core space off loc n : Nat) : (s.readScratch core space off loc n).2.2.cycle = s.cycle := by
  unfold State.readScratch
  dsimp only
  split
  · exact cycle_serveScratchErr ..
  · rfl

@[simp] theorem cycle_homeRead (s : State) (line : Nat) : (s.homeRead line).2.cycle = s.cycle := cycle_of_apart (apart_homeRead s line)

@[simp] theorem cycle_grant (s : State) (r : PortReq) (m : Rmw) (loc : Nat) (queue : List PortReq) : (s.grant r m loc queue).cycle = s.cycle := by
  unfold State.grant
  dsimp only
  rw [State.post_cycle]
  cases hs : r.scratch
  · simp only [Bool.false_eq_true, if_false, Bool.not_false, if_true]
    split
    · rw [State.post_cycle, cycle_traceHome, cycle_homeRead, State.modMem_cycle, cycle_touchRecord]
    · rw [cycle_homeRead, State.modMem_cycle, cycle_touchRecord]
  · simp only [if_true, Bool.not_true, Bool.false_eq_true, if_false]
    by_cases hc : r.core = r.owner
    · simp only [hc, if_true]
      split
      · rw [State.post_cycle, cycle_readScratch, State.modMem_cycle, cycle_touchRecord]
      · rw [cycle_readScratch, State.modMem_cycle, cycle_touchRecord]
    · simp only [hc, if_false]
      split
      · rw [State.post_cycle, cycle_laneTo, cycle_readScratch, State.modMem_cycle, cycle_touchRecord]
      · rw [cycle_laneTo, cycle_readScratch, State.modMem_cycle, cycle_touchRecord]

@[simp] theorem cycle_nextGrant (s : State) (key : Nat) : (s.nextGrant key).cycle = s.cycle := by
  unfold State.nextGrant
  split
  · rfl
  · split
    · rfl
    · split
      · exact cycle_grant ..
      · rfl

@[simp] theorem cycle_refundFence (s : State) (r : PortReq) : (s.refundFence r).cycle = s.cycle := by
  unfold State.refundFence
  split <;> simp

@[simp] theorem cycle_reply (s : State) (r : PortReq) (at_ : Nat) (f : Finish) : (s.reply r at_ f).cycle = s.cycle := by
  unfold State.reply State.answer
  dsimp only
  rw [State.postAt_cycle]
  split
  · rw [cycle_laneTo]
  · rfl

@[simp] theorem cycle_answerLong (s : State) (t : Tk) (id at_ v : Nat) (poison : Bool) : (s.answerLong t id at_ v poison).cycle = s.cycle := by
  unfold State.answerLong
  simp

@[simp] theorem cycle_fencedPort (s : State) (r : PortReq) : (s.fencedPort r).cycle = s.cycle := by
  unfold State.fencedPort
  dsimp only
  split <;> simp

@[simp] theorem cycle_completeWait (s : State) (t : Tk) (id : Nat) (w : Wait) (f : Finish) : (s.completeWait t id w f).cycle = s.cycle :=
  cycle_of_beside (beside_completeWait s t id w f)

-- collectives

@[simp] theorem cycle_modColl (s : State) (k : Nat) (f : Coll → Coll) : (s.modColl k f).cycle = s.cycle := rfl

@[simp] theorem cycle_endHold (s : State) (t : Tk) (va k : Nat) : (s.endHold t va k).cycle = s.cycle := by
  unfold State.endHold
  dsimp only
  split
  · simp
  · split <;> simp

theorem cycle_cwaitEnd_failed (s : State) (k : Nat) (x : Coll) (t : Tk) (id : Nat) (d : Reg) : (s.cwaitEnd k x t id d 1).cycle = s.cycle := by
  unfold State.cwaitEnd
  dsimp only
  rw [cycle_completeWait]
  split
  · simp
  · simp

@[simp] theorem cycle_collFail (s : State) (k : Nat) : (s.collFail k).cycle = s.cycle := by
  unfold State.collFail
  split
  · rfl
  · split
    · rfl
    · exact cycle_foldl (fun s w => cycle_cwaitEnd_failed ..) _ _

@[simp] theorem cycle_collsFail (s : State) (cores : List Nat) : (s.collsFail cores).cycle = s.cycle := by
  unfold State.collsFail
  exact cycle_foldl (f := fun (s : State) (x : Nat × Coll) => s.collFail x.1) (fun s x => cycle_collFail s x.1) _ s

-- the steps of a reset

@[simp] theorem cycle_redoOrEnd (s : State) (t : Task) (core : Nat) : (s.redoOrEnd t core).cycle = s.cycle := by
  unfold State.redoOrEnd
  split
  · rfl
  · dsimp only
    split <;> simp

@[simp] theorem cycle_withdrawTasks (s : State) (c : Nat) : (s.withdrawTasks c).cycle = s.cycle := by
  unfold State.withdrawTasks
  dsimp only
  refine (cycle_foldl (f := fun (s : State) (r : LightRec) => s.endTask r.deal true) (fun _ _ => rfl) _ _).trans (cycle_foldl (fun s k => ?_) _ s)
  split
  · exact cycle_redoOrEnd ..
  · split <;> rfl

@[simp] theorem cycle_breakJointOp (s : State) (t : Tk) : (s.breakJointOp t).cycle = s.cycle := by
  unfold State.breakJointOp
  dsimp only
  split
  · split
    · split
      · rfl
      · simp
    · rfl
  · rw [cycle_kickPartner]
    have hrun (s : State) : (match (s.slot t.pos).mrun with
        | some r => if r.cmd.op = 3 then (s.modSlot t.pos fun x => { x with mrun := none }).completeCommand t r.cmd 3 else s
        | none => s).cycle = s.cycle := by
      split
      · split
        · rw [cycle_completeCommand, State.modSlot_cycle]
        · rfl
      · rfl
    split
    · split
      · exact (cycle_endMultiply ..).trans (hrun s)
      · exact hrun s
    · exact hrun s

@[simp] theorem cycle_dissolveJoints (s : State) (cores : List Nat) : (s.dissolveJoints cores).cycle = s.cycle := by
  unfold State.dissolveJoints
  dsimp only
  have hbreak (l : List Tk) (s : State) : (l.foldl State.breakJointOp s).cycle = s.cycle := cycle_foldl cycle_breakJointOp l s
  refine (cycle_foldl (fun s g => ?_) _ _).trans (cycle_foldl (fun s x => ?_) _ s)
  · exact hbreak ..
  · exact (State.post_cycle ..).trans (hbreak ..)

@[simp] theorem cycle_clearCopies (s : State) (cores : List Nat) : (s.clearCopies cores).cycle = s.cycle := by
  refine cycle_foldl (fun s x => ?_) _ s
  have hc : (if x.2.outcome.isNone && copyDepv x.2.desc then s.applyCounter (copyDep x.2.desc) true 0 else s).cycle = s.cycle := by
    split <;> simp
  dsimp only
  generalize (if x.2.outcome.isNone && copyDepv x.2.desc then s.applyCounter (copyDep x.2.desc) true 0 else s) = u at hc ⊢
  split <;> exact hc

@[simp] theorem cycle_clearPoints (s : State) (cores : List Nat) : (s.clearPoints cores).cycle = s.cycle := by
  unfold State.clearPoints
  dsimp only
  rw [cycle_foldl fun s m => cycle_completeWait .., cycle_foldl cycle_fencedPort, cycle_foldl fun s x => cycle_nextGrant ..]
  rfl

@[simp] theorem cycle_clearSets (s : State) (cores : List Nat) : (s.clearSets cores).cycle = s.cycle := by
  unfold State.clearSets
  dsimp only
  have hpost (l : List Acc) (s : State) :
      (l.foldl (fun s a => s.post s.cycle 0 .vcacheAccessArrival (.vcacheAccessArrival a)) s).cycle = s.cycle :=
    cycle_foldl (f := fun (s : State) a => s.post s.cycle 0 .vcacheAccessArrival (.vcacheAccessArrival a)) (fun _ _ => rfl) l s
  refine (cycle_foldl (fun s f => hpost _ s) _ _).trans ((cycle_foldl (fun s x => ?_) _ _).trans rfl)
  split
  · exact cycle_foldl (fun s y => cycle_of_apart (apart_dropVline ..)) _ s
  · rfl

@[simp] theorem cycle_clearWires (s : State) (cores : List Nat) : (s.clearWires cores).cycle = s.cycle := by
  unfold State.clearWires
  dsimp only
  refine (cycle_foldl (fun s x => ?_) _ _).trans rfl
  split
  · rfl
  · refine cycle_foldl (fun s b => ?_) _ s
    split
    · split <;> rfl
    · rfl

@[simp] theorem cycle_clearChannels (s : State) (cores : List Nat) : (s.clearChannels cores).cycle = s.cycle := by
  unfold State.clearChannels
  dsimp only
  refine cycle_foldl (fun s c => cycle_foldl (fun s k => cycle_foldl (fun s n => ?_) _ s) _ s) _ s
  split
  · split <;> rfl
  · rfl

@[simp] theorem cycle_rehome (s : State) : s.rehome.cycle = s.cycle := rfl
@[simp] theorem cycle_regrant (s : State) (cores : List Nat) : (s.regrant cores).cycle = s.cycle := rfl

/-- The slots and the registers of some cores are cleared, which are to return when `w` cycles of write-back have passed (R474 step 4). -/
def State.coresCleared (s : State) (cores : List Nat) (w : Nat) : State := cores.foldl (fun (s : State) c =>
  let s := (List.range 16).foldl (fun (s : State) k => s.modSlot (mkPos c k) Slot.cleared) s
  s.modCore c fun k => k.cleared (s.cycle - 2 + 8192 + w)) s

theorem cycle_coresCleared (s : State) (cores : List Nat) (w : Nat) : (s.coresCleared cores w).cycle = s.cycle := by
  refine cycle_foldl (fun s c => ?_) cores s
  rw [State.modCore_cycle]
  exact cycle_foldl (f := fun (s : State) k => s.modSlot (mkPos c k) Slot.cleared) (fun s k => State.modSlot_cycle ..) _ s

/-- What a reset does to a cordon before its slots are cleared, without salvage. -/
def State.cordonEmptied (s : State) (cores : List Nat) : State :=
  let s := cores.foldl (fun (s : State) c => s.modCore c fun k => { k with fenced := true, ineligible := true }) s
  let s := cores.foldl State.withdrawTasks s
  let s := (s.regrant cores).dissolveJoints cores
  let s := s.collsFail cores
  let s := (s.clearCopies cores).clearPoints cores
  let s := s.clearSets cores
  (s.modMem fun m => { m.clearBanks cores with
    clusterTlb := m.clusterTlb.filter fun x => !cores.any fun c => clusterNo c == x.1 / 256 }).clearWires cores

theorem cycle_cordonEmptied (s : State) (cores : List Nat) : (s.cordonEmptied cores).cycle = s.cycle := by
  unfold State.cordonEmptied
  dsimp only
  rw [cycle_clearWires, State.modMem_cycle, cycle_clearSets, cycle_clearPoints, cycle_clearCopies, cycle_collsFail, cycle_dissolveJoints,
    cycle_regrant, cycle_foldl cycle_withdrawTasks]
  exact cycle_foldl (f := fun (s : State) c => s.modCore c fun k => { k with fenced := true, ineligible := true })
    (fun s c => State.modCore_cycle ..) cores s

/-- No event of some cores is due any more. -/
def State.withoutEvents (s : State) (cores : List Nat) : State := { s with agenda := s.agenda.filter fun x => !x.msg.ofCores cores }

theorem cycle_withoutEvents (s : State) (cores : List Nat) : (s.withoutEvents cores).cycle = s.cycle := rfl

/-- A cordon when a reset without salvage has cleared it. -/
def State.cordonCleared (s : State) (cores : List Nat) : State :=
  ((((s.cordonEmptied cores).withoutEvents cores).coresCleared cores (Written.cost [])).clearChannels cores).rehome

theorem cycle_cordonCleared (s : State) (cores : List Nat) : (s.cordonCleared cores).cycle = s.cycle := by
  unfold State.cordonCleared
  rw [cycle_rehome, cycle_clearChannels, cycle_coresCleared, cycle_withoutEvents, cycle_cordonEmptied]

theorem resetCores_eq (s : State) (cores : List Nat) : s.resetCores cores false =
    (s.cordonCleared cores).hub.deals.foldl (fun s x => (x.2.back.map (·.core)).eraseDups.foldl State.schedule s) (s.cordonCleared cores) := by
  unfold State.resetCores State.cordonCleared State.cordonEmptied State.withoutEvents State.coresCleared
  simp only [Bool.false_eq_true, if_false]

/-- The steps of a reset without salvage take no time. -/
theorem cycle_resetCores (s : State) (cores : List Nat) : (s.resetCores cores false).cycle = s.cycle := by
  rw [resetCores_eq]
  generalize hu : s.cordonCleared cores = u
  have hc : u.cycle = s.cycle := hu ▸ cycle_cordonCleared s cores
  exact (cycle_foldl (f := fun (s : State) (x : Nat × ActiveDeal) => (x.2.back.map (·.core)).eraseDups.foldl State.schedule s)
    (fun s x => cycle_foldl cycle_schedule _ s) u.hub.deals u).trans hc

/-- PARTITION_RESET is over for the hub after the steps of the reset: the partition is neither halted nor hot, and its cores return 8192
cycles after the reset began. -/
theorem partitionReset_steps {s : State} {part : Nat} (hm : s.msg = .partitionSteps part) : ∃ t, exec .partitionReset s = .next t ∧
    part ∉ t.module_.haltedParts ∧ part ∉ t.module_.hot ∧ Due t (s.cycle - 2 + 8192) .partitionReset (.partitionBack part) := by
  rw [exec_partitionReset, execPartitionReset, hm]
  dsimp -zeta only
  extract_lets dies cores u₀ u₁ u₂ gone u₃ mine m₀ m₁
  have h₀ : u₀.cycle = s.cycle := cycle_resetCores s _
  have h₁ : u₁.cycle = s.cycle := by
    unfold u₁
    split
    · exact h₀
    · exact h₀
  have h₂ : u₂.cycle = s.cycle := by
    unfold u₂
    split
    · exact h₁
    · exact h₁
  refine ⟨_, rfl, ?_, ?_, ?_⟩
  · unfold m₁; simp
  · unfold m₁; simp
  · rw [← h₂]
    exact due_postHub ..

end Sys2Proof.Machine
end

section
/-! PROOF. What stewards do (O54): the statement, put together. -/
namespace Sys2Proof.Machine

section
variable {s : State} {k : Tk} (h : Resolves s k)
include h

theorem resumeRetry_resolves (hm : s.msg = .resumeRetry k) : exec .resumeRetry s = .next (s.resolveSlot k.pos 0) := by
  rw [exec_resumeRetry, execResumeRetry, hm]
  exact congrArg Host.Outcome.next (h.resume 0)

theorem resumeSkip_resolves (hm : s.msg = .resumeSkip k) : exec .resumeSkip s = .next (s.resolveSlot k.pos 1) := by
  rw [exec_resumeSkip, execResumeSkip, hm]
  exact congrArg Host.Outcome.next (h.resume 1)

theorem resumeEnd_resolves (hm : s.msg = .resumeEnd k) : exec .resumeEnd s = .next (s.resolveSlot k.pos 2) := by
  rw [exec_resumeEnd, execResumeEnd, hm]
  exact congrArg Host.Outcome.next (h.resume 2)

end

/-- RESUME of a slot parked with its record and without a tile run (R462). -/
theorem resume_parked {s : State} {k : Tk} {r : FaultRec} (ha : (s.saved.any fun y => y.t == k) = false) (hat : s.isAt k = true)
    (hr : (s.slot k.pos).pending? = some r) (hp : (s.slot k.pos).preempt = none) (hst : (s.slot k.pos).st = .parked)
    (hw : (s.task k.pos).wait = some .fault) (hruns : (s.task k.pos).runs = []) :
    (s.msg = .resumeRetry k → ∃ t, exec .resumeRetry s = .next t ∧ (t.slot k.pos).st = .ready ∧ (t.slot k.pos).pending? = none ∧
      (t.task k.pos).pc = (s.task k.pos).pc ∧ (t.task k.pos).regs = (s.task k.pos).regs ∧ t.mem = s.mem ∧ t.hub = s.hub ∧ ∀ p, p ≠ k.pos → t.slot p = s.slot p) ∧
    (s.msg = .resumeSkip k → ∃ t, exec .resumeSkip s = .next t ∧ (t.slot k.pos).st = .ready ∧ (t.slot k.pos).pending? = none ∧
      (t.task k.pos).pc = (s.task k.pos).resume.getD ((s.task k.pos).pc + 4) ∧ (t.task k.pos).regs = (s.task k.pos).regs ∧ t.mem = s.mem ∧ t.hub = s.hub ∧
      ∀ p, p ≠ k.pos → t.slot p = s.slot p) ∧
    (s.msg = .resumeEnd k → exec .resumeEnd s = .next ((((s.dropRuns k.pos).modSlot k.pos fun x =>
      { x with pending? := none, preempt := none, endRes := false, task := { x.task with err := true } }).park k.pos .exiting).exitPoll
        (((s.dropRuns k.pos).modSlot k.pos fun x => { x with pending? := none, preempt := none, endRes := false, task := { x.task with err := true } }).tk k.pos))) := by
  have h : Resolves s k := ⟨ha, hat, by rw [hr]; rfl, hp⟩
  exact ⟨fun hm => ⟨_, resumeRetry_resolves h hm, resolveSlot_retry_spec hst hw hruns⟩,
    fun hm => ⟨_, resumeSkip_resolves h hm, resolveSlot_skip_spec hst hw hruns⟩, fun hm => resumeEnd_resolves h hm⟩

/-- Settles O54: each steward's event by the lemma about it. -/
theorem eventsOfStewards : Obligations.EventsOfStewards := by
  unfold Obligations.EventsOfStewards
  refine ⟨fun s part n va k w hm => ⟨mapExecutable_other hm, mapExecutable_large hm, mapExecutable_queued hm⟩,
    fun s q => pageScan_last, fun s k r => resume_parked, fun s p => preempt_asks, fun s k => preemptSaveComplete_tight,
    fun s k a => preemptSaveComplete_spec, ?pages, ?pagesOther, ?unmap, fun s u n pg count spans pins => unmapWait_done,
    fun s n pg count evict spans pins => unmapWait_again, ?reset, ?resetOther, ?dies, ?returnDie, ?partition, fun s part => partitionReset_steps,
    fun s k m => issued_spec, fun s k ev p => command_preempt s ev p, fun s k n page count force evict ev => command_unmap s n page count force evict ev,
    ?errinj, fun s part c v hm => ⟨lightUnitConfig_other hm, lightUnitConfig_own hm⟩, fun s part n on => ⟨traceRing_slice, traceRing_port⟩,
    fun s k r => hubRegisterWrite_spec, fun s part w loc n v => setHub_memory_none, fun s l => faultRecordDelivery_spec⟩
  case pages =>
    intro s part c n pg w hd hn
    exact ⟨fun hm hb hw => unpin_begins hd hn hm hb hw, fun hm hb => unpin_ends hm hb, fun hm => pagefree_enters hd hm, fun hm => pagetake_leaves hd hm⟩
  case pagesOther =>
    intro s part c pg hd
    exact ⟨pagefree_other hd, pagetake_other hd⟩
  case unmap =>
    intro s part n pg count force evict hm hp hb
    exact ⟨unmap_bad hm hp hb, fun h₀ h₁ h₂ hn => ⟨unmap_pinned hm hp hb h₀ h₁ h₂ hn, unmap_begins hm hp hb h₀ h₁ h₂ hn⟩⟩
  case reset =>
    intro s part c hd hc
    exact ⟨reset_alone hd hc, cordonReturn_alone hd hc⟩
  case resetOther =>
    intro s part c hd
    exact ⟨reset_other hd, cordonReturn_other hd⟩
  case dies =>
    intro s part die hdie hl
    exact ⟨dieReset_own hdie hl, dieReset_other, dieLost_spec hdie hl⟩
  case returnDie =>
    intro s part die hm hd hl
    exact ⟨returnDie_waits hm hd hl, returnDie_comes hm hd hl⟩
  case partition =>
    intro s part hm
    exact ⟨partitionReset_hot hm, partitionReset_begins hm⟩
  case errinj =>
    intro s c v hm
    exact ⟨errinjDisarm_spec hm, errinjAccumulator_spec hm, fun loc => errinjScratchpadWord_pinned hm, errinjRegister_resident hm,
      fun key line => errinjVcacheLine_held hm, errinjCordonReset_spec hm⟩

end Sys2Proof.Machine
end

section
/-! PROOF. The hub's scheduler (O53): queues, intake, mapping, completion records, aging and slices. -/
namespace Sys2Proof.Machine

-- deals and hardware queue slots

theorem deal_modDeal {s : State} {e : Nat} {d : ActiveDeal} (f : ActiveDeal → ActiveDeal) (h : s.deal e = some d) :
    (s.modDeal e f).deal e = some (f d) := by
  rw [State.deal, State.modDeal, State.modHub, show s.hub.deals.look e = some d from h]
  exact Tbl.look_put_self ..

/-- What an update of a deal does depends on the deal that stands there alone. -/
theorem modDeal_congr {s : State} {e : Nat} {d : ActiveDeal} {f g : ActiveDeal → ActiveDeal} (h : s.deal e = some d) (hfg : f d = g d) :
    s.modDeal e f = s.modDeal e g := by
  rw [State.modDeal, State.modDeal, State.modHub, State.modHub, show s.hub.deals.look e = some d from h]
  simp only [hfg]

theorem hwSlot_modHwSlot_self (s : State) (k : Nat) (f : HwSlot → HwSlot) : (s.modHwSlot k f).hwSlot k = f (s.hwSlot k) := Tbl.get_upd_self ..

theorem hub_bufTouch (s : State) (line : Nat) : (s.bufTouch line).hub = s.hub := by
  unfold State.bufTouch
  refine (foldl_keeps State.hub _ (fun a k => ?_) _ _).trans rfl
  split <;> rfl

theorem hub_fetchErr (s : State) (line : Nat) : (s.fetchErr line).hub = s.hub := by
  unfold State.fetchErr
  split <;> rfl

/-- A read at home does not touch the hub. -/
theorem hub_homeRead (s : State) (line : Nat) : (s.homeRead line).2.hub = s.hub := by
  unfold State.homeRead
  dsimp only
  split
  · exact hub_bufTouch ..
  · exact (hub_bufTouch ..).trans (hub_fetchErr ..)

-- NOTIFY_WORD and QUEUE_SLOT_BIND

section
variable {s : State} {q : Nat}

theorem notifyWord_nothing (hm : s.msg = .notifyWord q) (hp : queuePending (s.queueDesc q) = false) : exec .notifyWord s = .next s := by
  rw [exec_notifyWord, execNotifyWord, hm]
  simp only [hp, Bool.not_false, if_true]

/-- A queue with no slot of its own waits for one (R359). -/
theorem notifyWord_waits (hm : s.msg = .notifyWord q) (hp : queuePending (s.queueDesc q) = true) (hs : s.hub.slots = []) (hw : q ∉ s.hub.waiting) :
    ∃ t, exec .notifyWord s = .next t ∧ t.hub.waiting = s.hub.waiting ++ [q] ∧ Due t s.cycle .queueSlotBind .queueSlotBind ∧ t.mem = s.mem ∧
      t.slots = s.slots := by
  rw [exec_notifyWord, execNotifyWord, hm]
  simp only [hp, Bool.not_true, Bool.false_eq_true, if_false, hs, List.find?_nil, List.contains_eq_mem, hw, decide_false]
  exact ⟨_, rfl, rfl, due_postHub .., rfl, rfl⟩

/-- The only queue that waits takes a slot (R361). -/
theorem queueSlotBind_only {k : Nat} (hw : s.hub.waiting = [q]) (hk : s.slotForQueue = some k) : ∃ t, exec .queueSlotBind s = .next t ∧
    t.hub.slots.look k = some { st := .bound, queue := q, entry := none, used := s.cycle } ∧ t.hub.waiting = [] ∧ t.hub.entryQ = s.hub.entryQ ++ [k] ∧
    Due t s.cycle .dealIntake (.dealBegin k) ∧ t.mem = s.mem ∧ t.slots = s.slots := by
  rw [exec_queueSlotBind, execQueueSlotBind]
  simp only [hw, hk, List.isEmpty_nil, if_true]
  exact ⟨_, rfl, Tbl.look_put_self .., rfl, rfl, due_postHub .., rfl, rfl⟩

end

-- DEAL_INTAKE

section
variable {s : State} {e : Nat}

/-- The deal whose head record slot `k` is to read, before the record has come. -/
def State.dealOf (s : State) (k : Nat) : ActiveDeal :=
  let q := (s.hwSlot k).queue
  let d := s.queueDesc q
  { slot := k, queue := q, space := bits d 144 12, part := bits d 157 2, world := bit d 156, aging := bit d 134, ceil := bits d 136 8 }

/-- The only slot that waits for an entry gets one, and the read of its head record begins (R499). -/
theorem dealIntake_begins {k j : Nat} (hm : s.msg = .dealBegin j) (hq : s.hub.entryQ = [k]) (hh : s.partHalted ((s.hwSlot k).queue / 65536) = false)
    (he : s.freeEntry = some e) : ∃ t d, exec .dealIntake s = .next t ∧
    t.hub.entryQ = [] ∧ t.hub.deals.look e = some d ∧ d.slot = k ∧ d.queue = (s.hwSlot k).queue ∧ d.phase = .reading ∧ (t.hwSlot k).entry = some e := by
  rw [exec_dealIntake, execDealIntake, hm]
  simp only [hq, List.find?_cons, hh, Bool.not_false, he, List.erase_cons_head]
  refine ⟨_, s.dealOf k, rfl, ?entryQ, ?deal, rfl, rfl, rfl, ?slot⟩
  case entryQ => exact congrArg Hub.entryQ (hub_homeRead ..)
  case deal => exact (congrArg (fun h : Hub => h.deals.look e) (hub_homeRead ..)).trans (Tbl.look_put_self ..)
  case slot => exact (congrArg (fun h : Hub => (h.slots.get {} k).entry) (hub_homeRead ..)).trans (congrArg HwSlot.entry (hwSlot_modHwSlot_self ..))

variable {d : ActiveDeal} (hd : s.deal e = some d)
include hd

/-- The record reaches the scheduler, whose checks fall due 40 cycles later or after that. -/
theorem dealIntake_reads (hm : s.msg = .dealRecord e) (hh : s.partHalted d.part = false) : ∃ t d' due, exec .dealIntake s = .next t ∧
    t.deal e = some d' ∧
    d'.record = s.bytesAt (queueRing (s.queueDesc d.queue) + 64 * (queueHead (s.queueDesc d.queue) % queueSize (s.queueDesc d.queue))) 64 ∧
    s.cycle + 40 ≤ due ∧ Due t due .dealIntake (.dealCheck e) := by
  rw [exec_dealIntake, execDealIntake, hm]
  simp only [hd, hh, Bool.false_eq_true, if_false]
  exact ⟨_, _, _, rfl, deal_modDeal _ hd, rfl, Nat.le_add_right _ _, due_postHub ..⟩

theorem reject_eq (code : Nat) : s.reject e code = (((s.modDeal e fun d => { d with phase := .ended, code := code, told := false }).tally 7 d.part
    1).advanceQueue d.slot).postHub s.cycle .completionRecordWrite (.completionWrite e) := by
  unfold State.reject
  simp only [hd]
  rfl

theorem intake_of_code (hc : s.intakeCode d ≠ 0) : s.intake e = s.reject e (s.intakeCode d) := by
  unfold State.intake
  simp only [hd, if_pos hc]

theorem dealIntake_rejects (hm : s.msg = .dealCheck e) (hh : s.partHalted d.part = false) (hc : s.intakeCode d ≠ 0) :
    exec .dealIntake s = .next ((((s.modDeal e fun d => { d with phase := .ended, code := s.intakeCode d, told := false }).tally 7 d.part
      1).advanceQueue d.slot).postHub s.cycle .completionRecordWrite (.completionWrite e)) := by
  rw [exec_dealIntake, execDealIntake, hm]
  simp only [hd, Option.any_some, hh, Bool.false_eq_true, if_false]
  rw [intake_of_code hd hc, reject_eq hd]
  exact congrArg (fun u : State => Host.Outcome.next (((u.tally 7 d.part 1).advanceQueue d.slot).postHub s.cycle .completionRecordWrite
    (.completionWrite e))) (modDeal_congr hd rfl)

-- the mapping

/-- A deal whose mapping is fixed now: it is placed, or waits for its counter (R364). -/
def State.mappingFixed (s : State) (e : Nat) (d : ActiveDeal) (l : List Nat) : State :=
  let u := s.modDeal e fun x => { x with mapped := true, elig := s.eligibleCores d.part d.cls, table := l, told := false }
  if d.phase = .ready then (u.restartAging e).scheduleDeal e else u

theorem fixMapping_ok {l : List Nat} (hp : d.phase ∈ [.ready, .held, .busy]) (hmap : d.mapped = false) (he : s.eligibleCores d.part d.cls ≠ [])
    (hc : s.checkMap d (s.eligibleCores d.part d.cls) = .ok l) : s.fixMapping e = s.mappingFixed e d l := by
  have hgo : (d.phase == .reading || d.phase == .table || d.phase == .ended || d.mapped || (s.eligibleCores d.part d.cls).isEmpty) = false := by
    rw [hmap, List.isEmpty_eq_false_iff.2 he]
    simp only [List.mem_cons, List.not_mem_nil, or_false] at hp
    rcases hp with h | h | h <;> rw [h] <;> rfl
  have hd' : (s.mapDeal e (s.eligibleCores d.part d.cls) l).deal e = some { d with mapped := true, elig := s.eligibleCores d.part d.cls, table := l, told := false } :=
    deal_modDeal _ hd
  unfold State.fixMapping
  simp only [hd, hgo, Bool.false_eq_true, if_false, hc]
  unfold State.startPlacing
  simp only [hd', Bool.and_true, beq_iff_eq]
  rfl

variable {l : List Nat} (hp : d.phase ∈ [.ready, .held, .busy]) (hmap : d.mapped = false) (he : s.eligibleCores d.part d.cls ≠ [])
  (hc : s.checkMap d (s.eligibleCores d.part d.cls) = .ok l)
include hp hmap he hc

theorem dealMappingFix_ok (hm : s.msg = .mappingFix e) : exec .dealMappingFix s = .next (s.mappingFixed e d l) := by
  rw [exec_dealMappingFix, execDealMappingFix, hm]
  exact congrArg Host.Outcome.next (fixMapping_ok hd hp hmap he hc)

theorem tableReadRetry_ok (hm : s.msg = .tableReadRetry e) (hh : s.partHalted d.part = false) : exec .tableReadRetry s = .next (s.mappingFixed e d l) := by
  have hph : (d.phase == .table) = false := by
    simp only [List.mem_cons, List.not_mem_nil, or_false] at hp
    rcases hp with h | h | h <;> rw [h] <;> rfl
  rw [exec_tableReadRetry, execTableReadRetry, hm]
  simp only [hd, hh, hph, Bool.false_eq_true, if_false]
  exact congrArg Host.Outcome.next (fixMapping_ok hd hp hmap he hc)

omit hp hmap he hc

/-- A deal that waits at intake for its mapping table goes through the whole of intake again (R499). -/
theorem tableReadRetry_intake (hm : s.msg = .tableReadRetry e) (hp : d.phase = .table) (hh : s.partHalted d.part = false) :
    exec .tableReadRetry s = .next (s.intake e) := by
  rw [exec_tableReadRetry, execTableReadRetry, hm]
  simp only [hd, hh, hp, beq_self_eq_true, Bool.false_eq_true, if_false, if_true]

-- completion records

/-- A deal's counts when a task of it has ended. -/
def ActiveDeal.taskOver (d : ActiveDeal) (err : Bool) : ActiveDeal :=
  { d with live := d.live - 1, tasks := d.tasks + (!err).toNat, errs := d.errs + err.toNat }

theorem taskEnded_spec {err : Bool} (hm : s.msg = .taskEnded e err) : ∃ t d', exec .completionRecordWrite s = .next t ∧
    t.deal e = some d' ∧ d'.live = d.live - 1 ∧ d'.tasks = d.tasks + (if err then 0 else 1) ∧ d'.errs = d.errs + (if err then 1 else 0) ∧
    t.mem = s.mem ∧ t.slots = s.slots ∧
    (d.phase = .ready → d.mapped = true → d.placed = d.total → d.live ≤ 1 → d.back = [] → d'.phase = .ended ∧
      Due t s.cycle .completionRecordWrite (.completionWrite e)) := by
  have hd₁ := deal_modDeal (fun d => d.taskOver err) hd
  have htasks : (d.taskOver err).tasks = d.tasks + (if err then 0 else 1) := by cases err <;> rfl
  have herrs : (d.taskOver err).errs = d.errs + (if err then 1 else 0) := by cases err <;> rfl
  have he : exec .completionRecordWrite s = .next ((s.modDeal e fun d => d.taskOver err).checkDone e) := by
    rw [exec_completionRecordWrite, execCompletionRecordWrite, hm]
    rfl
  rw [he]
  unfold State.checkDone
  simp only [hd₁]
  split
  case isTrue h => exact ⟨_, _, rfl, deal_modDeal _ hd₁, rfl, htasks, herrs, rfl, rfl, fun _ _ _ _ _ => ⟨rfl, due_postHub ..⟩⟩
  case isFalse h =>
    refine ⟨_, _, rfl, hd₁, rfl, htasks, herrs, rfl, rfl, fun hr hmap hpl hl hb => absurd ?_ h⟩
    have hlive : (d.taskOver err).live = 0 := Nat.sub_eq_zero_of_le hl
    have htotal : (d.taskOver err).total = d.total := rfl
    simp only [show (d.taskOver err).phase = .ready from hr, show (d.taskOver err).mapped = true from hmap, show (d.taskOver err).placed = d.placed from rfl,
      htotal, hpl, hlive, show (d.taskOver err).back = [] from hb, beq_self_eq_true, List.isEmpty_nil, Bool.and_self]

/-- A completion record that can be written frees the deal's entry (R363). -/
theorem completionWrite_spec (hm : s.msg = .completionWrite e) (hh : s.partHalted d.part = false) {ps : List (Place × Nat)}
    (hps : s.hubPlaces d.space d.world true (d.recordVa / 16 * 16) 64 = .ok ps) : ∃ t, exec .completionRecordWrite s = .next t ∧
      exec .completionRecordRetry s = .next t ∧ t.deal e = none := by
  refine ⟨s.writeCompletion e, ?_, ?_, ?_⟩
  · rw [exec_completionRecordWrite, execCompletionRecordWrite, hm]
  · rw [exec_completionRecordRetry, execCompletionRecordRetry, hm]
  · unfold State.writeCompletion
    simp only [hd, hh, Bool.false_eq_true, if_false, hps]
    split
    all_goals exact (Tbl.look_del ..).trans (if_pos rfl)

-- aging

theorem agingTick_gains {stamp : Nat} (hm : s.msg = .agingTick e stamp) (hs : d.stamp = stamp) (hp : d.phase = .ready) (hw : d.waits = true) :
    exec .agingTick s = .next (((s.modDeal e fun d => { d with credit := min (d.ceil - d.priority) (d.credit + 1) }).postHub
      (s.cycle + 64 * d.slice) .agingTick (.agingTick e stamp)).scheduleDeal e) := by
  rw [exec_agingTick, execAgingTick, hm]
  simp only [hd, hs, hp, hw, bne_self_eq_false, ne_eq, not_true_eq_false, decide_false, Bool.not_true, Bool.or_self, Bool.false_eq_true, if_false]
  rfl

theorem agingTick_stale {stamp : Nat} (hm : s.msg = .agingTick e stamp) (h : d.stamp ≠ stamp ∨ d.waits = false) : exec .agingTick s = .next s := by
  have hno : (decide (d.stamp ≠ stamp) || d.phase != .ready || !d.waits) = true := by
    simp only [Bool.or_eq_true, decide_eq_true_eq, Bool.not_eq_true']
    exact h.imp .inl id
  rw [exec_agingTick, execAgingTick, hm]
  simp only [hd, hno, if_true]

end

-- SLICE_EXPIRY and PLACEMENT_EVENT

theorem sliceExpiry_spec {s : State} {k : Tk} {v : Nat} (hm : s.msg = .sliceExpiry k v) :
    (s.isAt k = true → (s.task k.pos).sliceEnd = v → exec .sliceExpiry s = .next (s.schedule (posCore k.pos))) ∧
    ((s.task k.pos).sliceEnd ≠ v → exec .sliceExpiry s = .next s) := by
  refine ⟨fun hat hv => ?_, fun hv => ?_⟩ <;> rw [exec_sliceExpiry, execSliceExpiry, hm]
  · simp only [hat, hv, decide_true, Bool.and_self, if_true]
  · simp only [hv, decide_false, Bool.and_false, Bool.false_eq_true, if_false]

section
variable {s : State} {c : Nat} {w : Word} (hm : s.msg = .placement c w) (hh : s.partHalted (s.diePart (coreDie c)) = false)
include hm hh

/-- A placement event reaches the banker's q7, behind what stands there (R365). -/
theorem placementEvent_enters (hroom : (s.slot (mkPos c 0)).evq.length < 16) (hev : ∀ x ∈ (s.slot (mkPos c 0)).evqFrom, x ≤ 16) :
    ∃ t, exec .placementEvent s = .next t ∧ (t.slot (mkPos c 0)).evq = (s.slot (mkPos c 0)).evq ++ [w] ∧
      t.mem = s.mem ∧ t.hub = s.hub ∧ ∀ p, p ≠ mkPos c 0 → t.slot p = s.slot p := by
  have hb := beside_putEvent s (mkPos c 0) 16 w
  refine ⟨s.putEvent (mkPos c 0) 16 w, ?_, ?_, congrArg (·.mem) hb, congrArg (·.hub) hb, fun p hp => slot_putEvent_of_ne s 16 w hp⟩
  · rw [exec_placementEvent, execPlacementEvent, hm]
    simp only [hh, Bool.false_eq_true, if_false, if_neg (Nat.not_le.2 hroom)]
  · rw [evq_putEvent, evq_enterEvent_last w fun _ => hev]

theorem placementEvent_waits (hfull : 16 ≤ (s.slot (mkPos c 0)).evq.length) :
    exec .placementEvent s = .next (s.postHub (s.cycle + 1) .placementEvent (.placement c w)) := by
  rw [exec_placementEvent, execPlacementEvent, hm]
  simp only [hh, Bool.false_eq_true, if_false, if_pos hfull]

end

end Sys2Proof.Machine
end

section
/-! PROOF. Light units (O53): records that arrive, are dispatched and travel. -/
namespace Sys2Proof.Machine

theorem core_wake (s : State) (p : Pos) (w : Wait) (c : Nat) : (s.wake p w).core c = s.core c := by
  rw [State.core, State.wake_cores, State.core]

theorem core_postAt (s : State) (due : Nat) (p : Pos) (ev : Instr) (m : Msg) (c : Nat) : (s.postAt due p ev m).core c = s.core c := rfl

theorem core_wakeCore (s : State) (c : Nat) (w : Wait) (d : Nat) : (s.wakeCore c w).core d = s.core d :=
  foldl_keeps (fun s : State => s.core d) _ (fun _ _ => core_wake ..) _ _

theorem cycle_wakeCore (s : State) (c : Nat) (w : Wait) : (s.wakeCore c w).cycle = s.cycle :=
  foldl_keeps State.cycle _ (fun _ _ => State.wake_cycle ..) _ _

theorem mem_wakeCore (s : State) (c : Nat) (w : Wait) : (s.wakeCore c w).mem = s.mem :=
  foldl_keeps State.mem _ (fun _ _ => State.wake_mem ..) _ _

-- records that arrive

section
variable {s : State} {c : Nat} {r : LightRec}

theorem placeRecord_refused (h : (s.core c).refuses = true) (at_ : Nat) : s.placeRecord c r at_ = none := by
  unfold State.placeRecord
  simp only [h, if_true]

/-- A light unit when a record that came in cycle `at_` has entered its queue. -/
def State.recordEntered (s : State) (c : Nat) (r : LightRec) (at_ : Nat) : State :=
  (s.modCore c fun k => { k with arrivals := k.arrivals ++ [{ r with entered := at_, taker := none }] }).wakeCore c (.pop 6)

theorem cycle_recordEntered (at_ : Nat) : (s.recordEntered c r at_).cycle = s.cycle := cycle_wakeCore ..

theorem arrivals_recordEntered (at_ : Nat) : ((s.recordEntered c r at_).core c).arrivals = (s.core c).arrivals ++ [{ r with entered := at_, taker := none }] :=
  congrArg Core.arrivals ((core_wakeCore ..).trans (State.core_modCore_self ..))

theorem placeRecord_room (h : (s.core c).refuses = false) (hroom : (s.core c).arrivals.length < 48) (hk : (s.core c).kittyLen = 0) (at_ : Nat) :
    s.placeRecord c r at_ = some (s.recordEntered c r at_) := by
  unfold State.placeRecord
  simp only [h, Bool.false_eq_true, if_false, hroom, hk, decide_true, Bool.and_self, if_true]
  rfl

/-- A record from another core is placed or refused, and its origin answered (R411). -/
theorem lightRecordArrival_foreign (hm : s.msg = .lightRecord c r) (hc : c ≠ posCore r.origin.pos) : ∃ t, exec .lightRecordArrival s = .next t ∧
    ((s.core c).refuses = true → Due t (s.cycle - 1 + lightTransit c (posCore r.origin.pos)) .migrationAnswer (.migrationAnswer r.origin c false)) ∧
    ((s.core c).refuses = false → (s.core c).arrivals.length < 48 → (s.core c).kittyLen = 0 →
      (t.core c).arrivals = (s.core c).arrivals ++ [{ r with entered := s.cycle - 1, taker := none }] ∧
      Due t (s.cycle - 1 + lightTransit c (posCore r.origin.pos)) .migrationAnswer (.migrationAnswer r.origin c true)) := by
  rw [exec_lightRecordArrival, execLightRecordArrival, hm]
  simp only [if_neg hc]
  refine ⟨_, rfl, fun h => ?_, fun h hroom hk => ?_⟩
  · rw [placeRecord_refused h]
    exact due_postAt ..
  · rw [placeRecord_room h hroom hk]
    dsimp only
    rw [cycle_recordEntered, core_postAt]
    exact ⟨arrivals_recordEntered _, due_postAt ..⟩

/-- A record read from the kitty enters the queue (R407). -/
theorem kittyRefill_enters {l : List LightRec} (hm : s.msg = .kittyRefill c true) (hr : (s.core c).refills = r :: l) :
    ∃ t x, exec .kittyRefill s = .next t ∧ (t.core c).refills = l ∧ (t.core c).arrivals = (s.core c).arrivals ++ [x] ∧ x.words.length = 16 ∧
      x.entered = s.cycle := by
  let v := s.bytesAt ((s.core c).kittyAt ((s.core c).kitTail - (s.core c).kittyLen)) 128
  let x : LightRec := { r with words := (List.range 16).map fun i => word (bits v (64 * i) 64), entered := s.cycle, taker := none }
  let t := (s.modCore c fun k => { k with refills := l, arrivals := k.arrivals ++ [x] }).wakeCore c (.pop 6)
  have hcore : t.core c = { s.core c with refills := l, arrivals := (s.core c).arrivals ++ [x] } := (core_wakeCore ..).trans (State.core_modCore_self ..)
  refine ⟨t, x, ?_, congrArg Core.refills hcore, congrArg Core.arrivals hcore, by simp [x], rfl⟩
  rw [exec_kittyRefill, execKittyRefill, hm]
  simp only [hr]
  rfl

end

-- dispatch

theorem slot_of_apart {s t : State} (h : t.apart = s.apart) (p : Pos) : t.slot p = s.slot p :=
  (congrArg (State.slot · p) h : t.apart.slot p = s.apart.slot p)

theorem core_of_apart {s t : State} (h : t.apart = s.apart) (c : Nat) : t.core c = s.core c :=
  (congrArg (State.core · c) h : t.apart.core c = s.apart.core c)

theorem apart_emptyInsts (s : State) (core : Nat) (is : List Inst) : (s.emptyInsts core is).2.apart = s.apart := by
  unfold State.emptyInsts
  refine (apart_foldl_snd (fun x i => ?_) _ _).trans (apart_liftInsts ..)
  exact (apart_foldl_snd (fun y l => apart_dropVline ..) _ _).trans (apart_staleFills ..)

theorem apart_selfInvalidate (s : State) (space core : Nat) : (s.selfInvalidate space core).2.apart = s.apart := apart_emptyInsts ..

/-- A turn that issues nothing changes no slot, no memory and no record that waits (R17). -/
theorem idleTurn_rest (s : State) (c : Nat) : (s.idleTurn c).slots = s.slots ∧ (s.idleTurn c).mem = s.mem ∧ (s.idleTurn c).cycle = s.cycle ∧
    (s.idleTurn c).hub = s.hub ∧ ∀ d, ((s.idleTurn c).core d).arrivals = (s.core d).arrivals := by
  have hcore (u : State) (n d : Nat) : ((u.modCore c fun k => { k with idleRun := n }).core d).arrivals = (u.core d).arrivals := by
    rw [State.core_modCore]
    split
    next h => rw [h]
    next => rfl
  unfold State.idleTurn
  split
  · split
    · exact ⟨rfl, rfl, rfl, rfl, fun _ => rfl⟩
    · exact ⟨rfl, rfl, rfl, rfl, fun d => hcore s 0 d⟩
  · split
    · exact ⟨rfl, rfl, rfl, rfl, fun d => hcore s 1 d⟩
    · exact ⟨rfl, rfl, rfl, rfl, fun d => hcore s 0 d⟩

/-- The registers with which a record's task begins: words 0 to 6 are s1 to s7 (Table 16-3). -/
def LightRec.registers (r : LightRec) : Task := (List.range 7).foldl (fun (t : Task) k => t.setSreg (k + 1) (r.words.getD k 0)) {}

theorem sreg_registers (r : LightRec) {n : Nat} (h₁ : 1 ≤ n) (h₇ : n ≤ 7) : r.registers.sreg n = r.words.getD (n - 1) 0 := by
  rw [LightRec.registers, show List.range 7 = [0, 1, 2, 3, 4, 5, 6] from rfl]
  simp only [List.foldl_cons, List.foldl_nil, Task.sreg_setSreg]
  interval_cases n <;> rfl

/-- The task with which a record's dispatch begins (R408). -/
def State.dispatchedTask (s : State) (r : LightRec) (now slice : Nat) : Task :=
  { r.registers with
    pc := word (r.field 7 0 64), space := r.space, world := r.world, deal := r.deal, index := r.index, budget := r.budget,
    light := true, lineage := r.lineage, placed := r.kind == 3 && r.placed, sliceEnd := now + slice,
    pend := r.pend.filter fun a => s.unacked a.id }

theorem pc_dispatchedTask (s : State) (r : LightRec) (now slice : Nat) : (s.dispatchedTask r now slice).pc = r.words.getD 7 0 := by
  have h : r.field 7 0 64 = (r.words.getD 7 0).toNat := by
    rw [LightRec.field, pow_zero, Nat.div_one]
    exact Nat.mod_eq_of_lt (r.words.getD 7 0).isLt
  exact (congrArg word h).trans (by rw [word, BitVec.ofNat_toNat, BitVec.setWidth_eq])

/-- A slot that takes a record. -/
def Slot.dispatched (x : Slot) (t : Task) (now : Nat) : Slot :=
  { x.nextSerial with st := .ready, task := t, notBefore := now + 1, q6n := 0, fetchTr := [] }

/-- The core's light unit gives a record away in cycle `now`, in a turn that issues nothing. -/
def State.recordLeaves (s : State) (c : Nat) (r : LightRec) : State :=
  ((s.idleTurn c).modCore c fun k => { k with arrivals := k.arrivals.erase r }).postAt s.cycle (mkPos c 0) .kittyRefill (.kittyRefill c false)

/-- A slot that has taken a record, before what its lines take. -/
def State.recordTaken (s : State) (p : Pos) (r : LightRec) : State :=
  let s := s.recordLeaves (posCore p) r
  let slice := ((s.deal r.deal).map (·.slice)).getD 0
  let s := s.modSlot p fun x => x.dispatched (s.dispatchedTask r s.cycle slice) s.cycle
  s.postHub (s.cycle + slice) .sliceExpiry (.sliceExpiry (s.tk p) (s.cycle + slice))

theorem cycle_recordTaken (s : State) (p : Pos) (r : LightRec) : (s.recordTaken p r).cycle = s.cycle := (idleTurn_rest s (posCore p)).2.2.1

theorem mem_recordTaken (s : State) (p : Pos) (r : LightRec) : (s.recordTaken p r).mem = s.mem := (idleTurn_rest s (posCore p)).2.1

theorem arrivals_recordTaken (s : State) (p : Pos) (r : LightRec) : ((s.recordTaken p r).core (posCore p)).arrivals =
    (s.core (posCore p)).arrivals.erase r := by
  have hc : ((s.idleTurn (posCore p)).core (posCore p)).arrivals = (s.core (posCore p)).arrivals := (idleTurn_rest s (posCore p)).2.2.2.2 _
  refine (congrArg Core.arrivals (State.core_modCore_self (s.idleTurn (posCore p)) (posCore p) fun k => { k with arrivals := k.arrivals.erase r })).trans ?_
  exact congrArg (·.erase r) hc

/-- The slot that took the record. -/
theorem slot_recordTaken (s : State) (p : Pos) (r : LightRec) : ∃ u slice, (s.recordTaken p r).slot p =
    (s.slot p).dispatched (State.dispatchedTask u r s.cycle slice) s.cycle := by
  have hslot : (s.recordLeaves (posCore p) r).slot p = s.slot p := congrArg (fun l : Tbl Slot => l.get {} p) (idleTurn_rest s (posCore p)).1
  have hcycle : (s.recordLeaves (posCore p) r).cycle = s.cycle := (idleTurn_rest s (posCore p)).2.2.1
  refine ⟨s.recordLeaves (posCore p) r, ((s.recordLeaves (posCore p) r).deal r.deal |>.map (·.slice)).getD 0, ?_⟩
  rw [State.recordTaken, State.slot_postHub, State.slot_modSlot_self, hslot, hcycle]

/-- What the lines of a dispatched task take before its first turn (R408, R354). -/
def State.dispatchEnds (s : State) (p : Pos) (r : LightRec) : State :=
  if r.kind = 1 && !((s.deal r.deal).any (·.counted)) then s
  else
    let (n, s) := if r.kind = 1 then s.selfInvalidate r.space (posCore p) else s.applyRegions p r.regions r.whole
    s.modSlot p fun x => { x with notBefore := s.cycle + 8 + 2 * n + 1 }

section
variable {s : State} {p : Pos} {r : LightRec} (hm : s.msg = .lightDispatch p) (hd : s.dispatchable p = some r)
include hm hd

theorem lightDispatch_stuck (hr : s.regionsStuck p r.space r.regions (r.whole || r.kind == 1) = true) : exec .lightDispatch s = .next s := by
  rw [exec_lightDispatch, execLightDispatch, hm]
  simp only [hd, hr, if_true]

variable (hr : s.regionsStuck p r.space r.regions (r.whole || r.kind == 1) = false)
include hr

theorem exec_lightDispatch_free : exec .lightDispatch s = .next ((s.recordTaken p r).dispatchEnds p r) := by
  rw [exec_lightDispatch, execLightDispatch, hm]
  dsimp -zeta only
  rw [hd]
  dsimp -zeta only
  rw [hr, if_neg Bool.false_ne_true]
  rfl

variable (hk : r.kind = 1)
include hk

/-- A record of a deal that a counter released sees its lines invalidated before its first turn (R354). -/
theorem lightDispatch_counted (hc : (s.deal r.deal).any (·.counted) = true) : ∃ t n, exec .lightDispatch s = .next t ∧ (t.slot p).st = .ready ∧
    (t.slot p).notBefore = s.cycle + 8 + 2 * n + 1 ∧ (t.task p).pc = r.words.getD 7 0 := by
  have hdeal : (s.recordTaken p r).deal r.deal = s.deal r.deal := congrArg (fun h : Hub => h.deals.look r.deal) (idleTurn_rest s (posCore p)).2.2.2.1
  let w := (s.recordTaken p r).selfInvalidate r.space (posCore p)
  have hends : (s.recordTaken p r).dispatchEnds p r = w.2.modSlot p fun x => { x with notBefore := w.2.cycle + 8 + 2 * w.1 + 1 } := by
    rw [State.dispatchEnds, hdeal, hc, Bool.not_true, Bool.and_false, if_neg Bool.false_ne_true, if_pos hk]
  have hapart : w.2.apart = (s.recordTaken p r).apart := apart_selfInvalidate ..
  have hslots : w.2.slot p = (s.recordTaken p r).slot p := slot_of_apart hapart p
  have hcycle : w.2.cycle = s.cycle := (cycle_of_apart hapart).trans (cycle_recordTaken s p r)
  obtain ⟨u, slice, hslot⟩ := slot_recordTaken s p r
  refine ⟨_, w.1, (exec_lightDispatch_free hm hd hr).trans (congrArg _ hends), ?_, ?_, ?_⟩
  · rw [State.slot_modSlot_self, hslots, hslot]
    rfl
  · rw [State.slot_modSlot_self, hcycle]
  · rw [State.task, State.slot_modSlot_self, hslots, hslot]
    exact pc_dispatchedTask ..

/-- A record of a deal that no counter released runs from the next turn on (R408). -/
theorem lightDispatch_plain (hc : (s.deal r.deal).any (·.counted) = false) : ∃ t, exec .lightDispatch s = .next t ∧
    (t.slot p).st = .ready ∧ (t.slot p).notBefore = s.cycle + 1 ∧ (t.slot p).serial = (s.slot p).nextSerial.serial ∧ (t.task p).pc = r.words.getD 7 0 ∧
    (∀ n, 1 ≤ n → n ≤ 7 → (t.task p).sreg n = r.words.getD (n - 1) 0) ∧ (t.task p).space = r.space ∧ (t.task p).world = r.world ∧
    (t.task p).deal = r.deal ∧ (t.task p).light = true ∧ (t.core (posCore p)).arrivals = (s.core (posCore p)).arrivals.erase r ∧ t.mem = s.mem := by
  have hdeal : (s.recordTaken p r).deal r.deal = s.deal r.deal := congrArg (fun h : Hub => h.deals.look r.deal) (idleTurn_rest s (posCore p)).2.2.2.1
  have hends : (s.recordTaken p r).dispatchEnds p r = s.recordTaken p r := by
    rw [State.dispatchEnds, hdeal, hc, hk]
    rfl
  obtain ⟨u, slice, hslot⟩ := slot_recordTaken s p r
  refine ⟨s.recordTaken p r, (exec_lightDispatch_free hm hd hr).trans (congrArg _ hends), ?_, ?_, ?_, ?_, fun n h₁ h₇ => ?_, ?_, ?_, ?_, ?_,
    arrivals_recordTaken s p r, mem_recordTaken s p r⟩
  case refine_4 =>
    rw [State.task, hslot]
    exact pc_dispatchedTask ..
  case refine_5 =>
    rw [State.task, hslot]
    exact sreg_registers r h₁ h₇
  all_goals
    simp only [State.task, hslot]
    rfl

end

-- travel

section
variable {s : State} {k : Tk} {home : Nat}

theorem migrationShip_waits {at_ : Nat} (hm : s.msg = .migrationShip k home at_) (hw : s.waitsFor k .migrate = true)
    (hq : (s.quiet k.pos && (s.task k.pos).releaseDone s.cycle && !s.drainStuck k.pos) = false) :
    exec .migrationShip s = .next (s.postAt (s.cycle + 1) k.pos .migrationShip (.migrationShip k home at_)) := by
  rw [exec_migrationShip, execMigrationShip, hm]
  simp only [hw, hq, Bool.not_true, Bool.not_false, Bool.false_eq_true, if_false, if_true]

theorem migrationShip_sends {rs : List Region} {w : Bool} (hm : s.msg = .migrationSend k home rs w) (hw : s.waitsFor k .migrate = true) :
    exec .migrationShip s = .next (s.shipRecord k home 2 rs w) := by
  rw [exec_migrationShip, execMigrationShip, hm]
  simp only [hw, if_true]

theorem migrationAnswer_accepted (hm : s.msg = .migrationAnswer k home true) : exec .migrationAnswer s = .next
    (s.modSlot k.pos fun x => { x with shipped := x.shipped.filter (·.origin != k) }) := by
  rw [exec_migrationAnswer, execMigrationAnswer, hm]
  rfl

theorem migrationAnswer_refused (hm : s.msg = .migrationAnswer k home false) :
    exec .migrationAnswer s = .next (s.postAt (s.cycle + 256) k.pos .recordResend (.recordResend k home)) := by
  rw [exec_migrationAnswer, execMigrationAnswer, hm]
  rfl

theorem recordResend_sends {r : LightRec} (hm : s.msg = .recordResend k home) (hr : (s.slot k.pos).shipped.find? (·.origin == k) = some r)
    (hh : home ≠ posCore k.pos) : exec .recordResend s = .next
      (s.post (s.cycle + lightTransit (posCore k.pos) home + 1) (tieAt home k.pos) .lightRecordArrival (.lightRecord home r)) := by
  rw [exec_recordResend, execRecordResend, hm]
  simp only [State.sendRecordTo, hr, if_neg hh]

theorem lightPreempt_ships {rs : List Region} {w : Bool} (hm : s.msg = .lightPreempt k rs w) (hat : s.isAt k = true)
    (hp : (s.slot k.pos).preempt.isSome = true) : exec .lightPreemptRecord s = .next (s.shipRecord k (posCore k.pos) 3 rs w) := by
  rw [exec_lightPreemptRecord, execLightPreemptRecord, hm]
  simp only [hat, hp, Bool.and_self, if_true]

end

end Sys2Proof.Machine
end

section
/-! PROOF. The hub's events (O53): the banker's words, exits, copies and collectives. -/
namespace Sys2Proof.Machine

-- OUTBOUND_EVENT_DELIVERY

section
variable {s : State} {c : Nat} {w : Word}

/-- The hub takes a core's oldest outbound word (R366). -/
theorem outboundEventDelivery_takes {r : List Word} (hm : s.msg = .outboundEventDelivery c) (hq : (s.core c).outq = w :: r) :
    ∃ t, exec .outboundEventDelivery s = .next t ∧ (t.core c).outq = r ∧
      Due t (s.cycle - 1 + hubTravel c) .outboundEventDelivery (.stewardEvent c w) := by
  let u := s.modCore c fun k => { k with outq := r }
  have hcore : ((u.wake (mkPos c 0) (.push 7)).core c).outq = r := congrArg Core.outq ((core_wake ..).trans (State.core_modCore_self ..))
  refine ⟨(u.wake (mkPos c 0) (.push 7)).postHub (s.cycle - 1 + hubTravel c) .outboundEventDelivery (.stewardEvent c w), ?_, hcore, due_postHub ..⟩
  rw [exec_outboundEventDelivery, execOutboundEventDelivery, hm]
  dsimp only
  rw [hq]
  rfl

theorem stewardEvent_enters (hm : s.msg = .stewardEvent c w) (hh : s.partHalted (s.diePart (coreDie c)) = false) :
    exec .outboundEventDelivery s = .next
      (s.modHub fun h => { h with events := h.events.upd [] (s.diePart (coreDie c)) (· ++ [(c, w)]) }) := by
  rw [exec_outboundEventDelivery, execOutboundEventDelivery, hm]
  simp only [hh, Bool.false_eq_true, if_false]

end

-- EXIT_EVENT_PUSH

/-- An exit that may take the last place of q7 lets a push of a lower slot come before it (R317). -/
theorem exitPush_tight {s : State} {k : Tk} (hm : s.msg = .exitPush k none) (hw : s.waitsFor k .exiting = true) (hl : s.isLight k.pos = false)
    (ht : s.eventTight (mkPos (posCore k.pos) 0) = true) :
    exec .exitEventPush s = .next (s.post (s.cycle + 1) 0 .exitEventPush (.exitPush k (some s.cycle))) := by
  rw [exec_exitEventPush, execExitEventPush, hm]
  simp only [State.asOf, Option.getD_none, hw, hl, ht, Option.isNone_none, Bool.not_true, Bool.and_self, Bool.false_eq_true, if_true, if_false]
  rfl

theorem slot_withCycle (s : State) (n : Nat) (p : Pos) : ({ s with cycle := n } : State).slot p = s.slot p := rfl

/-- A slot whose task has ended and is in no joint group. -/
def State.slotExited (s : State) (p : Pos) : State :=
  ((s.cancelArrival p).modSlot p fun y => { y with st := .exited, preempt := none, endRes := false, task := { y.task with wait := none } }).wake
    (mkPos (posCore p) 0) (.push 7)

theorem slotExited_cycle (s : State) (p : Pos) : (s.slotExited p).cycle = s.cycle := by
  have hc : (s.cancelArrival p).cycle = s.cycle := by
    unfold State.cancelArrival
    split
    · rfl
    · exact cycle_wakeCore ..
  rw [State.slotExited, State.wake_cycle, State.modSlot_cycle, hc]

section
variable {p : Pos} (hp : posSlot p ≠ 0)
include hp

theorem st_slotExited (s : State) : ((s.slotExited p).slot p).st = .exited := by
  rw [State.slotExited, slot_wake_of_ne _ _ (ne_bankerPos hp), State.slot_modSlot_self]

theorem slotExited_banker {γ : Type} {g : Slot → γ} (hg : KeptByWaking g) (hq : ∀ (x : Slot) n, g { x with q6n := n } = g x) (s : State) :
    g ((s.slotExited p).slot (mkPos (posCore p) 0)) = g (s.slot (mkPos (posCore p) 0)) := by
  rw [State.slotExited, hg.wake, State.slot_modSlot, if_neg (ne_bankerPos hp).symm, cancelArrival_keeps hg hq]

end

/-- What cancelling an arrival leaves of a task. -/
theorem jointIn_cancelArrival (s : State) (p : Pos) : ((s.cancelArrival p).task p).jointIn = (s.task p).jointIn := by
  have hwake (s : State) (q : Pos) (w : Wait) : ((s.wake q w).task p).jointIn = (s.task p).jointIn := by
    unfold State.wake
    split
    · exact task_unpark_keeps (·.jointIn) (fun _ _ _ => rfl) (fun _ _ _ _ _ _ _ _ => rfl) s q p
    · rfl
  have hcore (s : State) (c : Nat) (w : Wait) : ((s.wakeCore c w).task p).jointIn = (s.task p).jointIn :=
    foldl_keeps (fun s : State => (s.task p).jointIn) _ (fun _ _ => hwake ..) _ _
  unfold State.cancelArrival
  split
  · rfl
  · rw [hcore, State.task, State.slot_modCore, State.slot_modSlot_self, State.task]

/-- An exit of which the banker is told. -/
def State.exitTold (s : State) (k : Tk) : State := (s.slotExited k.pos).putEvent (mkPos (posCore k.pos) 0) (posSlot k.pos)
  (eventWord 2 (posSlot k.pos) (s.task k.pos).deal (s.task k.pos).index)

theorem exitTold_spec {s : State} {k : Tk} (hp : posSlot k.pos ≠ 0)
    (hev : (s.slot (mkPos (posCore k.pos) 0)).evqAt = s.cycle → ∀ x ∈ (s.slot (mkPos (posCore k.pos) 0)).evqFrom, x ≤ posSlot k.pos) :
    ((s.exitTold k).slot k.pos).st = .exited ∧ ((s.exitTold k).slot (mkPos (posCore k.pos) 0)).evq =
      (s.slot (mkPos (posCore k.pos) 0)).evq ++ [eventWord 2 (posSlot k.pos) (s.task k.pos).deal (s.task k.pos).index] := by
  have hq7 := slotExited_banker (g := (·.evq)) hp ⟨fun _ _ _ _ => rfl⟩ (fun _ _ => rfl) s
  have hat := slotExited_banker (g := (·.evqAt)) hp ⟨fun _ _ _ _ => rfl⟩ (fun _ _ => rfl) s
  have hfrom := slotExited_banker (g := (·.evqFrom)) hp ⟨fun _ _ _ _ => rfl⟩ (fun _ _ => rfl) s
  refine ⟨?_, ?_⟩
  · rw [State.exitTold, slot_putEvent_of_ne _ _ _ (ne_bankerPos hp)]
    exact st_slotExited hp s
  · rw [State.exitTold, evq_putEvent, slotExited_cycle, evq_enterEvent_last _ (by rw [hat, hfrom]; exact hev), hq7]

/-- An exit whose banker has room: the slot is exited, and the event stands behind what the banker's q7 holds (R376). -/
theorem exitPush_spec {s : State} {k : Tk} {a : Option Nat} (hm : s.msg = .exitPush k a) (ha : a = none → s.eventTight (mkPos (posCore k.pos) 0) = false)
    (hw : s.waitsFor k .exiting = true) (hl : s.isLight k.pos = false) (hp : posSlot k.pos ≠ 0) (hj : (s.task k.pos).jointIn = false)
    (hroom : (s.slot (mkPos (posCore k.pos) 0)).evq.length < 16)
    (hev : (s.slot (mkPos (posCore k.pos) 0)).evqAt = a.getD s.cycle → ∀ x ∈ (s.slot (mkPos (posCore k.pos) 0)).evqFrom, x ≤ posSlot k.pos) :
    ∃ t, exec .exitEventPush s = .next t ∧ (t.slot k.pos).st = .exited ∧
      (t.slot (mkPos (posCore k.pos) 0)).evq = (s.slot (mkPos (posCore k.pos) 0)).evq ++ [eventWord 2 (posSlot k.pos) (s.task k.pos).deal (s.task k.pos).index] := by
  let s₀ : State := { s with cycle := a.getD s.cycle }
  obtain ⟨hst, hevq⟩ := exitTold_spec (s := s₀) hp hev
  refine ⟨{ s₀.exitTold k with cycle := s.cycle }, ?_, (congrArg Slot.st (slot_withCycle ..)).trans hst,
    (congrArg Slot.evq (slot_withCycle ..)).trans hevq⟩
  have hleaves : s₀.leaves k.pos = s₀.cancelArrival k.pos := by
    have hj' : ((s₀.cancelArrival k.pos).task k.pos).jointIn = false := (jointIn_cancelArrival s₀ k.pos).trans hj
    unfold State.leaves
    simp only [hj', Bool.false_eq_true, if_false]
  have htight : (a.isNone && s₀.eventTight (mkPos (posCore k.pos) 0)) = false := by
    cases a with
    | none => exact ha rfl
    | some n => rfl
  have hw' : s₀.waitsFor k .exiting = true := hw
  have hl' : s₀.isLight k.pos = false := hl
  have hfull : ¬ 16 ≤ (s₀.slot (mkPos (posCore k.pos) 0)).evq.length := Nat.not_le.2 hroom
  rw [exec_exitEventPush, execExitEventPush, hm]
  refine congrArg (fun u : State => Host.Outcome.next { u with cycle := s.cycle }) (a₁ := _) (a₂ := s₀.exitTold k) ?_
  rw [show ({ s with cycle := a.getD s.cycle } : State) = s₀ from rfl]
  simp only [hw', hl', htight, hleaves, if_neg hfull, Bool.not_true, Bool.false_eq_true, if_false]
  rfl

end Sys2Proof.Machine
end

section
/-! PROOF. The dealer (O53): a request is taken, read and checked, gets its tag and is accepted. -/
namespace Sys2Proof.Machine

-- the requester

theorem onTask_rest (s : State) (t : Tk) (f : Task → Task) : ∃ w y, s.onTask t f = { s with slots := w, saved := y } := by
  unfold State.onTask
  split
  · exact ⟨_, s.saved, rfl⟩
  · exact ⟨s.slots, _, rfl⟩

theorem onOwner_rest (s : State) (key tag : Nat) (f : Task → Task) : ∃ w y, s.onOwner key tag f = { s with slots := w, saved := y } := by
  unfold State.onOwner
  split
  · split
    · exact onTask_rest ..
    · exact ⟨_, s.saved, rfl⟩
  · exact ⟨s.slots, s.saved, rfl⟩

/-- A change of the requester's task changes nothing else of any slot. -/
theorem slot_onOwner_keeps {γ : Type} (g : Slot → γ) (hg : ∀ (x : Slot) t, g { x with task := t } = g x) (s : State) (key tag : Nat) (f : Task → Task)
    (p : Pos) : g ((s.onOwner key tag f).slot p) = g (s.slot p) := by
  have hmod (q : Pos) : g ((s.modTask q f).slot p) = g (s.slot p) := by
    rw [State.slot_modTask]
    split
    case isTrue h => rw [h, hg]
    case isFalse => rfl
  unfold State.onOwner
  split
  · split
    · unfold State.onTask
      split
      · exact hmod _
      · rfl
    · exact hmod _
  · rfl

-- answers

/-- The request has left its mailbox. -/
def State.requestGone (s : State) (c : Nat) (a : Accepting) (v : Nat) : State :=
  (s.onOwner a.key (a.tag.getD 64) fun t =>
    { t with asking := if t.asking = some a.key then none else t.asking, tags := if v < 64 then t.tags.filter (·.2 != a.key) else t.tags }).modSlot
    (mkPos c a.slot) fun x => { x with mailbox := x.mailbox.drop (if a.kind = 2 then 2 else 1) }

/-- Its result has gone to whoever made it. -/
def State.requestAnswered (s : State) (c : Nat) (a : Accepting) (v : Nat) : State :=
  let u := s.requestGone c a v
  match a.by_ with
  | some (id, d) => u.postAt (u.cycle + 4) (mkPos c a.slot) .classBCompletion (.classBCompletion a.t id (Finish.value_ d v))
  | none => (u.modSlot (mkPos c a.slot) fun x => { x with returns := x.returns ++ [word v] }).wake (mkPos c a.slot) (.pop 5)

section
variable (s : State) (c : Nat) (a : Accepting) (v : Nat)

theorem dealerAnswer_eq : s.dealerAnswer c a v =
    (((s.requestAnswered c a v).wake (mkPos c a.slot) (.push 5)).modDealer c fun d => { d with busy := none }).kickDealer c := rfl

theorem requestGone_rest : ∃ w y, s.requestGone c a v = { s with slots := w, saved := y } := by
  obtain ⟨w, y, h⟩ := onOwner_rest s a.key (a.tag.getD 64) fun t =>
    { t with asking := if t.asking = some a.key then none else t.asking, tags := if v < 64 then t.tags.filter (·.2 != a.key) else t.tags }
  unfold State.requestGone
  rw [h]
  exact ⟨_, _, rfl⟩

theorem mailbox_requestGone : ((s.requestGone c a v).slot (mkPos c a.slot)).mailbox =
    (s.slot (mkPos c a.slot)).mailbox.drop (if a.kind = 2 then 2 else 1) := by
  rw [State.requestGone, State.slot_modSlot_self]
  exact congrArg (List.drop _) (slot_onOwner_keeps (·.mailbox) (fun _ _ => rfl) ..)

theorem returns_requestGone : ((s.requestGone c a v).slot (mkPos c a.slot)).returns = (s.slot (mkPos c a.slot)).returns := by
  rw [State.requestGone, State.slot_modSlot_self]
  exact slot_onOwner_keeps (·.returns) (fun _ _ => rfl) ..

theorem requestAnswered_rest : (s.requestAnswered c a v).hub = s.hub ∧ (s.requestAnswered c a v).mem = s.mem ∧ (s.requestAnswered c a v).cores = s.cores ∧
    (s.requestAnswered c a v).cycle = s.cycle := by
  obtain ⟨w, y, h⟩ := requestGone_rest s c a v
  unfold State.requestAnswered
  rw [h]
  dsimp only
  split
  · exact ⟨rfl, rfl, rfl, rfl⟩
  · exact ⟨State.wake_hub .., State.wake_mem .., State.wake_cores .., State.wake_cycle ..⟩

theorem mailbox_requestAnswered : ((s.requestAnswered c a v).slot (mkPos c a.slot)).mailbox =
    (s.slot (mkPos c a.slot)).mailbox.drop (if a.kind = 2 then 2 else 1) := by
  have hg : KeptByWaking (·.mailbox) := ⟨fun _ _ _ _ => rfl⟩
  unfold State.requestAnswered
  dsimp only
  split
  · exact mailbox_requestGone ..
  · rw [hg.wake, State.slot_modSlot_self]
    exact mailbox_requestGone ..

/-- What an answer leaves: the dealer is free, the request has left its mailbox, and its result is on its way or in q5 (R415, R417). -/
theorem dealerAnswer_spec : let t := s.dealerAnswer c a v
    t.hub = s.hub ∧ t.mem = s.mem ∧ t.core c = { s.core c with dealer := { (s.core c).dealer with busy := none } } ∧ t.cycle = s.cycle ∧
      (t.slot (mkPos c a.slot)).mailbox = (s.slot (mkPos c a.slot)).mailbox.drop (if a.kind = 2 then 2 else 1) ∧
      (∀ id d, a.by_ = some (id, d) → Due t (s.cycle + 4) .classBCompletion (.classBCompletion a.t id (ends d v))) ∧
      (a.by_ = none → (t.slot (mkPos c a.slot)).returns = (s.slot (mkPos c a.slot)).returns ++ [word v]) := by
  intro t
  have hmail : KeptByWaking (·.mailbox) := ⟨fun _ _ _ _ => rfl⟩
  have hret : KeptByWaking (·.returns) := ⟨fun _ _ _ _ => rfl⟩
  obtain ⟨hhub, hmem, hcores, hcycle⟩ := requestAnswered_rest s c a v
  let u := (s.requestAnswered c a v).wake (mkPos c a.slot) (.push 5)
  have ht : t = (u.modDealer c fun d => { d with busy := none }).kickDealer c := dealerAnswer_eq s c a v
  have hslot : t.slot (mkPos c a.slot) = u.slot (mkPos c a.slot) := by rw [ht]; rfl
  refine ⟨?_, ?_, ?_, ?_, ?_, fun id d hb => ?_, fun hb => ?_⟩
  · rw [ht]
    exact (State.wake_hub ..).trans hhub
  · rw [ht]
    exact (State.wake_mem ..).trans hmem
  · have hcore : u.core c = s.core c := (core_wake ..).trans (congrArg (fun l : Tbl Core => l.get {} c) hcores)
    rw [ht]
    refine (State.core_modCore_self u c fun k => { k with dealer := { k.dealer with busy := none } }).trans ?_
    rw [hcore]
  · rw [ht]
    exact (State.wake_cycle ..).trans hcycle
  · rw [hslot, hmail.wake]
    exact mailbox_requestAnswered s c a v
  · have hdue : Due (s.requestAnswered c a v) (s.cycle + 4) .classBCompletion (.classBCompletion a.t id (ends d v)) := by
      obtain ⟨w, y, h⟩ := requestGone_rest s c a v
      unfold State.requestAnswered
      rw [h, hb]
      exact due_postAt ..
    rw [ht]
    refine Due.post ?_ _ _ _ _
    exact hdue.of_agenda fun x hx => by rwa [← State.wake_agenda (s.requestAnswered c a v) (mkPos c a.slot) (.push 5)] at hx
  · rw [hslot, hret.wake]
    unfold State.requestAnswered
    rw [hb]
    dsimp only
    rw [hret.wake, State.slot_modSlot_self]
    exact congrArg (· ++ [word v]) (returns_requestGone s c a v)

end

section
variable {s : State} {c : Nat} {a : Accepting}

/-- A request whose checks failed is answered with its code (R416). -/
theorem dealerAccept_fails (hm : s.msg = .dealerAccept c) (hb : (s.core c).dealer.busy = some a) (hc : a.code ≠ 0) :
    exec .dealerAccept s = .next (s.dealerAnswer c a a.code) := by
  rw [exec_dealerAccept, execDealerAccept, hm]
  simp only [State.dealerAccept, hb, if_pos hc]

-- the next request

section
variable (hm : s.msg = .dealerScan c) (hb : (s.core c).dealer.busy = none) (hf : (s.core c).fenced = false) (hh : (s.core c).halted = false)
  (hs : (s.core c).dealer.spill.length < 4096)
include hm hb hf hh hs

theorem dealerScan_idle (hn : s.dealerNext c = none) : exec .dealerAccept s = .next s := by
  rw [exec_dealerAccept, execDealerAccept, hm]
  simp only [State.dealerScan, hb, hf, hh, hn, Option.isSome_none, Bool.not_false, Bool.and_self, Bool.not_true, Bool.or_self, Nat.not_le.2 hs, decide_false,
    Bool.false_eq_true, if_false]

/-- The request that the dealer takes from the mailbox of the slot at `p`. -/
def State.requestAt (s : State) (p : Pos) (w : MailWord) (r : List MailWord) : Accepting :=
  let t := s.task p
  let kind := bits w.word.toNat 0 2
  { slot := posSlot p, t := s.tk p, pc := t.pc, kind := kind, va := w.word.toNat / 64 * 64, cmd := (r.head?.map (·.word)).getD 0, by_ := w.by_,
    before := w.before, space := t.space, world := t.world, budget := t.budget, bad := kind = 3 || bits w.word.toNat 2 4 ≠ 0, key := s.nextId }

theorem dealerScan_takes {p : Pos} {w : MailWord} {r : List MailWord} (hn : s.dealerNext c = some p) (hr : (s.slot p).mailbox = w :: r) :
    ∃ t a, exec .dealerAccept s = .next t ∧ (t.core c).dealer.busy = some a ∧
      (t.core c).dealer.last = posSlot p ∧ a.slot = posSlot p ∧ a.t = s.tk p ∧ a.kind = w.word.toNat % 4 ∧ a.va = w.word.toNat / 64 * 64 ∧
      a.by_ = w.by_ ∧ a.tag = none ∧ a.held = false ∧ (t.task p).asking = some a.key ∧ Due t s.cycle .dealerAccept (.dealerRead c) ∧ t.mem = s.mem := by
  let u := ({ s with nextId := s.nextId + 1 } : State).modTask p fun t => { t with asking := some s.nextId }
  let v := u.modDealer c fun d => { d with busy := some (s.requestAt p w r), last := posSlot p }
  have hcore : v.core c = { s.core c with dealer := { (s.core c).dealer with busy := some (s.requestAt p w r), last := posSlot p } } :=
    State.core_modCore_self ..
  have htask : (v.task p).asking = some s.nextId := by rw [show v.task p = u.task p from rfl, State.task_modTask_self]
  refine ⟨v.postAt s.cycle p .dealerAccept (.dealerRead c), s.requestAt p w r, ?_, congrArg (·.dealer.busy) hcore, congrArg (·.dealer.last) hcore,
    rfl, rfl, bits_zero _ 2, rfl, rfl, rfl, rfl, htask, due_postAt .., rfl⟩
  rw [exec_dealerAccept, execDealerAccept, hm]
  simp only [State.dealerScan, hb, hf, hh, hn, hr, Option.isSome_none, Bool.not_false, Bool.and_self, Bool.not_true, Bool.or_self, Nat.not_le.2 hs,
    decide_false, Bool.false_eq_true, if_false]
  rfl

end

-- its descriptor

section
variable (hm : s.msg = .dealerRead c) (hb : (s.core c).dealer.busy = some a) (hh : a.held = false)
include hm hb hh

theorem dealerRead_again (hr : s.descRead c a (((s.copyOwner a.key 64).map (·.2)).getD {}) = .ok none) : ∃ t, exec .dealerAccept s = .next t ∧
    Due t (s.cycle + 1) .dealerAccept (.dealerRead c) ∧ t.core c = s.core c := by
  rw [exec_dealerAccept, execDealerAccept, hm]
  simp only [State.dealerRead, hb, hh, hr, Bool.false_eq_true, if_false]
  exact ⟨_, rfl, due_postAt .., rfl⟩

/-- A request that fails a check skips the waits (R416, R498). -/
theorem dealerRead_checks {h : EngineRead} {u : State} (hr : s.descRead c a (((s.copyOwner a.key 64).map (·.2)).getD {}) = .ok (some (h, u))) :
    ∃ t code, exec .dealerAccept s = .next t ∧
      (t.core c).dealer.busy = some { a with desc := h.v, code := code } ∧ t.mem = u.mem ∧ (a.bad = true → code = 1) ∧
      (a.bad = false → code = u.copyCode c a.space a.kind h.v h.poison) ∧
      (code = 0 → Due t (u.cycle + h.late) .dealerAccept (.dealerWait c)) ∧ (code ≠ 0 → Due t (u.cycle + h.late + 4) .dealerAccept (.dealerAccept c)) := by
  let code := if a.bad then 1 else u.copyCode c a.space a.kind h.v h.poison
  let v := u.modDealer c fun x => { x with busy := some { a with desc := h.v, code := code } }
  have hcore : (v.core c).dealer.busy = some { a with desc := h.v, code := code } := congrArg (·.dealer.busy) (State.core_modCore_self ..)
  have he : exec .dealerAccept s = .next (if code ≠ 0 then v.postAt (u.cycle + h.late + 4) a.t.pos .dealerAccept (.dealerAccept c)
      else v.postAt (u.cycle + h.late) a.t.pos .dealerAccept (.dealerWait c)) := by
    rw [exec_dealerAccept, execDealerAccept, hm]
    simp only [State.dealerRead, hb]
    rw [if_neg (by rw [hh]; exact Bool.false_ne_true)]
    simp only [hr]
    rfl
  have hbad : a.bad = true → code = 1 := fun hb => if_pos hb
  have hgood : a.bad = false → code = u.copyCode c a.space a.kind h.v h.poison := fun hb => if_neg (by rw [hb]; exact Bool.false_ne_true)
  by_cases hc : code = 0
  · exact ⟨_, code, he.trans (congrArg _ (if_neg (not_not.2 hc))), hcore, rfl, hbad, hgood, fun _ => due_postAt .., fun h => absurd hc h⟩
  · exact ⟨_, code, he.trans (congrArg _ (if_pos hc)), hcore, rfl, hbad, hgood, fun h => absurd h hc, fun _ => due_postAt ..⟩

end

-- its tag

/-- The first of the numbers below `n` that fails `p` where those before it meet it. -/
theorem find?_range_eq {n g : Nat} {p : Nat → Bool} (hg : g < n) (hp : p g = true) (hb : ∀ j, j < g → p j = false) :
    (List.range n).find? p = some g := by
  rw [List.find?_range_eq_some]
  exact ⟨hp, List.mem_range.2 hg, fun j hj => by simp [hb j hj]⟩

theorem dealerTag_lowest {who : Tk} {x : Task} {g : Nat} (ht : a.tag = none) (ho : s.copyOwner a.key 64 = some (who, x)) (hg : g < 64)
    (hfree : x.tags.look g = none) (hlow : ∀ j, j < g → x.tags.look j ≠ none) : ∃ u, s.dealerTag c a = some ({ a with tag := some g }, u) ∧
      u.mem = s.mem := by
  have hfind : ((List.range 64).find? fun k => (x.tags.look k).isNone) = some g :=
    find?_range_eq hg (by rw [hfree]; rfl) fun j hj => by
      rw [Option.isNone_eq_false_iff, Option.isSome_iff_ne_none]
      exact hlow j hj
  obtain ⟨w, y, h⟩ := onOwner_rest s a.key 64 fun t => { t with asking := none, tags := t.tags.put g a.key }
  refine ⟨_, by simp only [State.dealerTag, ht, ho, Option.map_some, Option.getD_some, hfind]; rfl, ?_⟩
  rw [h]
  rfl

theorem dealerWait_again (hm : s.msg = .dealerWait c) (hb : (s.core c).dealer.busy = some a) (ht : s.dealerTag c a = none) :
    ∃ t, exec .dealerAccept s = .next t ∧ Due t (s.cycle + 1) .dealerAccept (.dealerWait c) ∧ t.core c = s.core c := by
  rw [exec_dealerAccept, execDealerAccept, hm]
  simp only [State.dealerWait, hb, ht]
  exact ⟨_, rfl, due_postAt .., rfl⟩

end

end Sys2Proof.Machine
end

section
/-! PROOF. The dealer (O53): the cycle of acceptance, and the copies that run. -/
namespace Sys2Proof.Machine

section
variable (s : State) (c g : Nat) (a : Accepting)

/-- The copy that an accepted request becomes, before its promise. -/
def State.copyUnpromised : Copy :=
  let x : Copy := { t := a.t, core := c, pc := a.pc, kind := a.kind, space := a.space, world := a.world, budget := a.budget, desc := a.desc,
                    cmd := a.cmd, tag := g, promise := 0, est := 0, lines := [] }
  { x with lines := runLines (x.runs.map (·.2)) }

/-- The cycle at which it is estimated to be over (R423). -/
def State.copyEnd : Nat :=
  max s.cycle (((s.lastCopy c).map (·.est)).getD 0) + s.copyLead (State.copyUnpromised c g a) (copySrc a.desc) (copyDst a.desc)
    + ceilDiv (copyBytes a.kind a.desc) 64

/-- The copy that an accepted request becomes. -/
def State.copyAccepted : Copy :=
  { State.copyUnpromised c g a with est := s.copyEnd c g a, promise := promiseWord (s.copyEnd c g a) g }

theorem est_copyAccepted : (s.copyAccepted c g a).est = max s.cycle (((s.lastCopy c).map (·.est)).getD 0)
    + s.copyLead (s.copyAccepted c g a) (copySrc a.desc) (copyDst a.desc) + (copyBytes a.kind a.desc + 63) / 64 := rfl

end

/-- What follows once an accepted request has its place in queue or ring. -/
def State.accepts (s : State) (c : Nat) (a : Accepting) (x : Copy) : State :=
  let s := s.modHub fun h => { h with copies := h.copies.put a.key x }
  (s.dealerAnswer c a x.promise).postAt s.cycle a.t.pos .copyRun (.copyStart c)

theorem accepts_spec (s : State) (c : Nat) (a : Accepting) (x : Copy) : let t := s.accepts c a x
    t.hub.copies.look a.key = some x ∧ t.mem = s.mem ∧ t.core c = { s.core c with dealer := { (s.core c).dealer with busy := none } } ∧
      (t.slot (mkPos c a.slot)).mailbox = (s.slot (mkPos c a.slot)).mailbox.drop (if a.kind = 2 then 2 else 1) ∧
      (∀ id d, a.by_ = some (id, d) → Due t (s.cycle + 4) .classBCompletion (.classBCompletion a.t id (ends d x.promise))) ∧
      (a.by_ = none → (t.slot (mkPos c a.slot)).returns = (s.slot (mkPos c a.slot)).returns ++ [word x.promise]) ∧
      Due t s.cycle .copyRun (.copyStart c) := by
  intro t
  obtain ⟨hhub, hmem, hcore, -, hmail, hdue, hret⟩ := dealerAnswer_spec (s.modHub fun h => { h with copies := h.copies.put a.key x }) c a x.promise
  refine ⟨?_, hmem, hcore, hmail, fun id d hb => (hdue id d hb).post .., hret, due_postAt ..⟩
  exact (congrArg (fun h : Hub => h.copies.look a.key) hhub).trans (Tbl.look_put_self ..)

section
variable {s : State} {c g : Nat} {a : Accepting} (hm : s.msg = .dealerAccept c) (hb : (s.core c).dealer.busy = some a) (hc : a.code = 0)
  (hg : a.tag = some g)
include hm hb hc hg

theorem exec_dealerAccept_good : exec .dealerAccept s = .next
    (if (s.core c).dealer.queue.length < 32 && (s.core c).dealer.spill.isEmpty then
       (s.modDealer c fun d => { d with queue := d.queue ++ [a.key] }).accepts c a (s.copyAccepted c g a)
     else
       let va := (s.core c).dealer.base + 64 * ((s.core c).dealer.spillN % 4096)
       match s.hubPlace (s.core c).dealer.space a.world true va with
       | .error _ => s.dealerFault a 0x43 0 va 1 (s.core c).dealer.space a.world
       | .ok pl => (((s.freeVal.2).hubWrite pl.loc 64 (s.freeVal.1 % 2 ^ 512)).modDealer c fun d =>
           { d with spill := d.spill ++ [a.key], spillN := d.spillN + 1 }).accepts c a (s.copyAccepted c g a)) := by
  rw [exec_dealerAccept, execDealerAccept, hm]
  dsimp only
  rw [State.dealerAccept, hb]
  dsimp only
  rw [if_neg (not_not.2 hc), hg]
  rfl

/-- A request accepted into the queue (R416 steps 5 and 6). -/
theorem dealerAccept_queued (hq : (s.core c).dealer.queue.length < 32) (hs : (s.core c).dealer.spill = []) :
    let t := (s.modDealer c fun d => { d with queue := d.queue ++ [a.key] }).accepts c a (s.copyAccepted c g a)
    exec .dealerAccept s = .next t ∧ t.core c = { s.core c with dealer := { (s.core c).dealer with busy := none, queue := (s.core c).dealer.queue ++ [a.key] } } ∧
      t.mem = s.mem := by
  intro t
  obtain ⟨-, hmem, hcore, -⟩ := accepts_spec (s.modDealer c fun d => { d with queue := d.queue ++ [a.key] }) c a (s.copyAccepted c g a)
  refine ⟨(exec_dealerAccept_good hm hb hc hg).trans (congrArg _ (if_pos (by simp [hq, hs]))), hcore.trans ?_, hmem⟩
  rw [State.modDealer, State.core_modCore_self]

/-- A request accepted into the spill ring, where the queue is full (R418). -/
theorem dealerAccept_spilled {pl : Place} (hq : 32 ≤ (s.core c).dealer.queue.length)
    (hp : s.hubPlace (s.core c).dealer.space a.world true ((s.core c).dealer.base + 64 * ((s.core c).dealer.spillN % 4096)) = .ok pl) :
    ∃ t, exec .dealerAccept s = .next t ∧ (t.core c).dealer.spill = (s.core c).dealer.spill ++ [a.key] ∧
      (t.core c).dealer.queue = (s.core c).dealer.queue ∧ (t.core c).dealer.busy = none := by
  let u := (s.freeVal.2).hubWrite pl.loc 64 (s.freeVal.1 % 2 ^ 512)
  let v := u.modDealer c fun d => { d with spill := d.spill ++ [a.key], spillN := d.spillN + 1 }
  have hu : u.core c = s.core c := core_of_apart (apart_hubWrite ..) c
  have hv : v.core c = { s.core c with dealer := { (s.core c).dealer with spill := (s.core c).dealer.spill ++ [a.key], spillN := (s.core c).dealer.spillN + 1 } } := by
    rw [← hu]
    exact State.core_modCore_self ..
  obtain ⟨-, -, hcore, -⟩ := accepts_spec v c a (s.copyAccepted c g a)
  rw [hv] at hcore
  refine ⟨v.accepts c a (s.copyAccepted c g a), (exec_dealerAccept_good hm hb hc hg).trans ?_, congrArg (·.dealer.spill) hcore,
    congrArg (·.dealer.queue) hcore, congrArg (·.dealer.busy) hcore⟩
  rw [if_neg (by simp [Nat.not_lt.2 hq])]
  dsimp only
  rw [hp]

/-- A ring page that is not there stops the request for the steward. -/
theorem dealerAccept_faults {cause sub : Nat} (hq : 32 ≤ (s.core c).dealer.queue.length)
    (hp : s.hubPlace (s.core c).dealer.space a.world true ((s.core c).dealer.base + 64 * ((s.core c).dealer.spillN % 4096)) = .error (cause, sub)) :
    exec .dealerAccept s = .next (s.dealerFault a 0x43 0 ((s.core c).dealer.base + 64 * ((s.core c).dealer.spillN % 4096)) 1 (s.core c).dealer.space
      a.world) := by
  refine (exec_dealerAccept_good hm hb hc hg).trans ?_
  rw [if_neg (by simp [Nat.not_lt.2 hq])]
  dsimp only
  rw [hp]

end

-- copies that run

section
variable {s : State} {c q : Nat} {l : List Nat} {x : Copy}

/-- The copy at the head of the queue starts, or goes on after a budget stopped it (R422, R371). -/
theorem copyStart_resumes (hm : s.msg = .copyStart c) (hf : (s.core c).fenced = false) (hh : (s.core c).halted = false)
    (hst : (s.core c).stopped = false) (hq : (s.core c).dealer.queue = q :: l) (hx : s.hub.copies.look q = some x) (hheld : x.held = false)
    (hrun : (s.core c).dealer.running = false ∨ (x.throttled ≠ 0 ∧ x.throttled ≤ s.cycle)) :
    let u := s.modCore c fun k => { k with dealer := { k.dealer with running := true } }
    exec .copyRun s = .next (u.copyResume q) ∧ exec .budgetPeriod s = .next (u.copyResume q) := by
  have hgo : ((s.core c).dealer.running && (decide (x.throttled = 0) || decide (s.cycle < x.throttled))) = false := by
    rcases hrun with h | ⟨h₀, h⟩
    · rw [h, Bool.false_and]
    · simp [h₀, Nat.not_lt.2 h]
  have hstart : s.copyStart c = (s.modCore c fun k => { k with dealer := { k.dealer with running := true } }).copyResume q := by
    unfold State.copyStart
    simp only [hf, hh, hst, Bool.or_self, Bool.false_eq_true, if_false, hq, List.head?_cons, hx, hheld, hgo]
    rfl
  refine ⟨?_, ?_⟩
  · rw [exec_copyRun, execCopyRun, hm]
    exact congrArg Host.Outcome.next hstart
  · rw [exec_budgetPeriod, execBudgetPeriod, hm]
    exact congrArg Host.Outcome.next hstart

theorem look_modCopy {k : Nat} (f : Copy → Copy) (h : s.hub.copies.look k = some x) : (s.modCopy k f).hub.copies.look k = some (f x) := by
  rw [State.modCopy, State.modHub, h]
  exact Tbl.look_put_self ..

/-- A copy that is over: its outcome stands, and the next one of its core starts (R424). -/
theorem copyComplete_plain {k : Nat} (hm : s.msg = .copyComplete k) (hx : s.hub.copies.look k = some x) (hdep : copyDepv x.desc = false)
    (hdet : copyDetach x.desc = false) : ∃ t y, exec .copyComplete s = .next t ∧ t.hub.copies.look k = some y ∧
      y.outcome = some (if x.failed then 2 else if x.carried then 1 else 0) ∧
      (t.core x.core).dealer.queue = (s.core x.core).dealer.queue.erase k ∧ (t.core x.core).dealer.running = false ∧
      Due t s.cycle .copyRun (.copyStart x.core) ∧ t.mem = s.mem ∧ t.slots = s.slots := by
  let u := s.modCopy k fun x => { x with outcome := some (if x.failed then 2 else if x.carried then 1 else 0), src := [] }
  let v := u.modDealer x.core fun d => { d with queue := d.queue.erase k, running := false }
  let w := if (v.core x.core).dealer.spill.isEmpty then v else v.postAt v.cycle x.t.pos .spillRingReturn (.spillReturn x.core)
  have he : exec .copyComplete s = .next (w.postAt w.cycle x.t.pos .copyRun (.copyStart x.core)) := by
    rw [exec_copyComplete, execCopyComplete, hm]
    simp only [State.copyEnds, hx, hdep, hdet, Bool.false_eq_true, if_false]
    rfl
  have hw : w.hub = u.hub ∧ w.cores = v.cores ∧ w.mem = s.mem ∧ w.slots = s.slots ∧ w.cycle = s.cycle := by
    unfold w
    split
    · exact ⟨rfl, rfl, rfl, rfl, rfl⟩
    · exact ⟨rfl, rfl, rfl, rfl, rfl⟩
  obtain ⟨hhub, hcores, hmem, hslots, hcycle⟩ := hw
  have hcore : w.core x.core = { s.core x.core with dealer := { (s.core x.core).dealer with queue := (s.core x.core).dealer.queue.erase k, running := false } } :=
    (congrArg (fun l : Tbl Core => l.get {} x.core) hcores).trans (State.core_modCore_self ..)
  refine ⟨_, { x with outcome := some (if x.failed then 2 else if x.carried then 1 else 0), src := [] }, he, ?_, rfl, congrArg (·.dealer.queue) hcore, congrArg (·.dealer.running) hcore, hcycle ▸ due_postAt .., hmem, hslots⟩
  exact (congrArg (fun h : Hub => h.copies.look k) hhub).trans (look_modCopy _ hx)

/-- The oldest spilled copy moves back into the queue (R418). -/
theorem spillReturn_moves {k : Nat} (hm : s.msg = .spillReturn c) (hs : (s.core c).dealer.spill = k :: l) (hq : (s.core c).dealer.queue.length < 32) :
    ∃ t, exec .spillRingReturn s = .next t ∧ (t.core c).dealer.queue = (s.core c).dealer.queue ++ [k] ∧ (t.core c).dealer.spill = l ∧
      Due t s.cycle .copyRun (.copyStart c) ∧ t.mem = s.mem ∧ t.slots = s.slots ∧ t.hub = s.hub := by
  let u := s.modDealer c fun d => { d with queue := d.queue ++ [k], spill := l }
  have hcore : u.core c = { s.core c with dealer := { (s.core c).dealer with queue := (s.core c).dealer.queue ++ [k], spill := l } } :=
    State.core_modCore_self ..
  refine ⟨(u.postAt s.cycle (mkPos c 15) .copyRun (.copyStart c)).kickDealer c, ?_, congrArg (·.dealer.queue) hcore, congrArg (·.dealer.spill) hcore,
    (due_postAt ..).post .., rfl, rfl, rfl⟩
  rw [exec_spillRingReturn, execSpillRingReturn, hm]
  simp only [hs, hq, if_true]
  rfl

/-- A CPYM's command enters the requester's matrix queue once there is room (R425). -/
theorem followOn_spec {k p : Nat} {y : Slot} (hm : s.msg = .followOn k) (hx : s.hub.copies.look k = some x)
    (hp : (s.slots.find? fun y => y.2.resident && y.2.task.tags.look x.tag == some k) = some (p, y)) :
    (y.commandRoom true = true → exec .cpymFollowOn s = .next ((s.enterCommand p x.cmd.toNat true true (some x.pc.toNat)).postAt s.cycle x.t.pos
      .copyComplete (.copyComplete k))) ∧
    (y.commandRoom true = false → exec .cpymFollowOn s = .next (s.postAt (s.cycle + 1) x.t.pos .cpymFollowOn (.followOn k))) := by
  refine ⟨fun hr => ?_, fun hr => ?_⟩ <;> rw [exec_cpymFollowOn, execCpymFollowOn, hm] <;> simp only [hx, hp, hr, Bool.false_eq_true, if_false, if_true]

end

end Sys2Proof.Machine
end

section
/-! PROOF. The hub's collectives (O53), and the statement, put together. -/
namespace Sys2Proof.Machine

theorem coll_modColl {s : State} {k : Nat} {x : Coll} (f : Coll → Coll) (h : s.hub.colls.look k = some x) :
    (s.modColl k f).hub.colls.look k = some (f x) := by
  rw [look_modColl s f h]
  exact Tbl.look_put_self ..

section
variable {s : State} {k : Nat} {x : Coll} (hx : s.hub.colls.look k = some x)
include hx

/-- A collective whose every contribution is there commits; its results are written 60 cycles later or after that (R435, R437). -/
theorem collCommit_full (hm : s.msg = .collCommit k) (hst : x.st = .full) : ∃ t y due, exec .collCommit s = .next t ∧
    t.hub.colls.look k = some y ∧ y.st = .committed ∧ y.result = x.combined (s.collGroupOf x.part x.group) ∧ s.cycle + 60 ≤ due ∧
    Due t due .collResultWrite (.collWrite k) ∧ t.mem = s.mem ∧ t.slots = s.slots ∧ t.cores = s.cores := by
  rw [exec_collCommit, execCollCommit, hm]
  simp only [hx, hst, bne_self_eq_false, Bool.false_eq_true, if_false]
  exact ⟨_, { x with st := .committed, result := x.combined (s.collGroupOf x.part x.group) }, _, rfl, coll_modColl _ hx, rfl, rfl, Nat.le_add_right _ _,
    due_postHub .., rfl, rfl, rfl⟩

variable {p : CollPart} (hm : s.msg = .collWrite k) (hst : x.st = .committed) (hp : x.parts = [p]) (hw : x.waits = []) (hwr : p.written = false)
include hm hst hp hw hwr

/-- The only buffer of a collective is written whole (R435). -/
theorem collWrite_done (hf : s.bufferFault (posCore p.t.pos) p.space p.world true p.dst (x.result.length * fmtBytes x.fmt) = none)
    (hu : (s.bufferWrite p (fmtBytes x.fmt) x.result).hub.colls = s.hub.colls) : ∃ t y, exec .collResultWrite s = .next t ∧
      t.hub.colls.look k = some y ∧ y.st = .done ∧ y.parts = [{ p with written := true }] ∧ t.mem = (s.bufferWrite p (fmtBytes x.fmt) x.result).mem := by
  let u := s.bufferWrite p (fmtBytes x.fmt) x.result
  let f : Coll → Coll := fun x => { x with parts := x.parts.map fun q => if q.rank = p.rank then { q with written := true } else q }
  have hux : u.hub.colls.look k = some x := hu ▸ hx
  have hres : s.resultWrite k x p = u.modColl k f := by
    unfold State.resultWrite
    simp only [hwr, Bool.false_eq_true, if_false, hf]
    rfl
  have hparts : (f x).parts = [{ p with written := true }] := by
    show x.parts.map _ = _
    rw [hp, List.map_singleton, if_pos rfl]
  have hv : (u.modColl k f).hub.colls.look k = some (f x) := coll_modColl f hux
  have hmem (s : State) (g : Coll → Coll) : (s.modColl k g).mem = s.mem := rfl
  refine ⟨(u.modColl k f).modColl k fun x => { x with st := .done, waits := [] }, { f x with st := .done, waits := [] }, ?_, coll_modColl _ hv, rfl, hparts,
    (hmem ..).trans (hmem ..)⟩
  rw [exec_collResultWrite, execCollResultWrite, hm]
  simp only [hx, hst, hp, hw, hres, hv, hparts, bne_self_eq_false, Bool.false_eq_true, if_false, List.foldl_cons, List.foldl_nil, Option.map_some,
    Option.any_some, List.any_cons, List.any_nil, Bool.not_true, Bool.or_self]

omit hw in
/-- While a page of the buffer has no translation, and the steward has its record, nothing is written (R435). -/
theorem collWrite_waits {cause sub va g : Nat}
    (hf : s.bufferFault (posCore p.t.pos) p.space p.world true p.dst (x.result.length * fmtBytes x.fmt) = some (cause, sub, va))
    (hva : classify (posCore p.t.pos) va = .global g) (ht : p.told = true) :
    exec .collResultWrite s = .next (s.postHub (s.cycle + 1) .collResultWrite (.collWrite k)) := by
  have hres : s.resultWrite k x p = s := by
    unfold State.resultWrite
    simp only [hwr, Bool.false_eq_true, if_false, hf, hva, ht, if_true]
  rw [exec_collResultWrite, execCollResultWrite, hm]
  simp only [hx, hst, hp, hres, hwr, bne_self_eq_false, Bool.false_eq_true, if_false, List.foldl_cons, List.foldl_nil, Option.map_some,
    Option.any_some, List.any_cons, Bool.not_false, Bool.true_or, if_true]

end

/-- A CWAIT whose collective still runs returns 2 (R436). -/
theorem cwaitTimeout_spec {s : State} {key id : Nat} {k : Tk} {d : Reg} {x : Coll} (hm : s.msg = .cwaitTimeout k id d)
    (hx : (s.hub.colls.find? fun x => x.2.waits.any fun w => w.1 == k && w.2.1 == id) = some (key, x)) :
    exec .cwaitTimeout s = .next ((s.modColl key fun x => { x with waits := x.waits.filter fun w => !(w.1 == k && w.2.1 == id) }).completeWait k id
      (.coll id) (ends d 2)) := by
  rw [exec_cwaitTimeout, execCwaitTimeout, hm]
  simp only [hx]
  rfl

/-- Settles O53: each event of the hub by the lemma about it. -/
theorem eventsOfTheHub : Obligations.EventsOfTheHub := by
  unfold Obligations.EventsOfTheHub
  refine ⟨fun s q hm => ⟨notifyWord_nothing hm, notifyWord_waits hm⟩, fun s q k => queueSlotBind_only, fun s k j e => dealIntake_begins,
    fun s e d hm hd => dealIntake_reads hd hm, fun s e d hm hd => dealIntake_rejects hd hm, ?mapping, fun s e d hm hd => tableReadRetry_intake hd hm,
    fun s e d err hm hd => taskEnded_spec hd hm, fun s e d ps hm hd hh => completionWrite_spec hd hm hh,
    fun s c w hm hh => ⟨placementEvent_enters hm hh, placementEvent_waits hm hh⟩,
    fun s e stamp d hm hd => ⟨agingTick_gains hd hm, agingTick_stale hd hm⟩, fun s k v => sliceExpiry_spec,
    fun s c w r => ⟨outboundEventDelivery_takes, stewardEvent_enters⟩, fun s k => exitPush_tight, fun s k a => exitPush_spec,
    fun s c r => lightRecordArrival_foreign, fun s c r l => kittyRefill_enters, fun s p r => lightDispatch_stuck,
    fun s p r hm hd hr hc hk => lightDispatch_counted hm hd hr hk hc, fun s p r hm hd hk hr hc => lightDispatch_plain hm hd hr hk hc, ?travel,
    fun s c a => dealerAccept_fails, fun s c q l x => copyStart_resumes, fun s k x => copyComplete_plain, fun s c k l => spillReturn_moves,
    fun s k p x y => followOn_spec, fun s k x hm hx => collCommit_full hx hm, ?write, fun s key id k d x => cwaitTimeout_spec, ?scan, ?read,
    fun s c a who x g => dealerTag_lowest, fun s c a => dealerWait_again, ?accept⟩
  case mapping =>
    intro s e d l _ hd hp hmap he hc u v
    exact ⟨dealMappingFix_ok hd hp hmap he hc, tableReadRetry_ok hd hp hmap he hc⟩
  case travel =>
    intro s k home at_ rs w
    exact ⟨migrationShip_waits, migrationShip_sends, migrationAnswer_accepted, migrationAnswer_refused, fun r => recordResend_sends, lightPreempt_ships⟩
  case write =>
    intro s k x p hm hx hst hp hw hwr n u
    exact ⟨collWrite_done hx hm hst hp hw hwr, fun cause sub va g hf hva ht => collWrite_waits hx hm hst hp hwr hf hva ht⟩
  case scan =>
    intro s c hm hb hf hh hs
    exact ⟨dealerScan_idle hm hb hf hh hs, fun p w r => dealerScan_takes hm hb hf hh hs⟩
  case read =>
    intro s c a hm hb hh owner
    exact ⟨dealerRead_again hm hb hh, fun h u => dealerRead_checks hm hb hh⟩
  case accept =>
    intro s c g a hm hb hc hg p accepted
    refine ⟨fun hq hs => ?_, fun pl => dealerAccept_spilled hm hb hc hg, fun cause sub => dealerAccept_faults hm hb hc hg⟩
    obtain ⟨hexec, hcore, hmem⟩ := dealerAccept_queued hm hb hc hg hq hs
    obtain ⟨hlook, -, -, hmail, hdue, hret, hrun⟩ :=
      accepts_spec (s.modDealer c fun d => { d with queue := d.queue ++ [a.key] }) c a (s.copyAccepted c g a)
    exact ⟨_, hexec, ⟨s.copyAccepted c g a, hlook, rfl, rfl, rfl, rfl, rfl, est_copyAccepted s c g a, rfl, congrArg (·.dealer.busy) hcore, hmail, hdue,
      hret, hrun⟩, congrArg (·.dealer.queue) hcore, (congrArg (·.dealer.spill) hcore).trans hs, hmem⟩

end Sys2Proof.Machine
end
